-- ==== Sys2Proof/Word.lean ====
section
/-!
DEFINITION. The words, bytes and numbered things of the VQ7 (00_scope R4, 05_quagal_reference R147).
-/

namespace Sys2Proof

/-- A register, ring or payload word (R4, R14). -/
abbrev Word := BitVec 32

/-- A byte of memory or of a frame on a port. -/
abbrev Byte := BitVec 8

/-- A ring RING00 to RING15 (R4). -/
abbrev RingId := Fin 16

/-- A tenant T0 to T3 (R4). -/
abbrev Ten := Fin 4

/-- A Chapel: 0 AC0, 1 AC1, 2 SC0, 3 SC1 (R147). -/
abbrev Chap := Fin 4

/-- A loop slot of the Choir, 0 to 15 (R147). -/
abbrev Slot := Fin 16

/-- A Keystone segment, 0 to 95 (R147). -/
abbrev Seg := Fin 96

/-- A light output 0 to 13; 6 and 7 name none (R147). -/
abbrev OutId := Fin 14

/-- A photodiode input, 0 to 7 (R147). -/
abbrev Pd := Fin 8

/-- An instant or a duration, in steps of the 2.5 ns grid of the 400 MHz Choir clock, which contains
every Bell instant (02_bell, The Chime). -/
abbrev Time := Nat

end Sys2Proof
end

