-- ==== Sys2Proof/Machine/Bits.lean ====
section
/-!
DEFINITION. Bit fields, byte order, the rounding operators of R9, the serial order of R10, and tables of
a fixed number of like things.
-/

namespace Sys2Proof.Machine

/-- The field of `len` bits of `x` whose least significant bit is `lo`, read unsigned. -/
def fld {n : Nat} (x : BitVec n) (lo len : Nat) : Nat := x.toNat / 2 ^ lo % 2 ^ len

/-- The same field of a number. -/
def nfld (x lo len : Nat) : Nat := x / 2 ^ lo % 2 ^ len

/-- Bit `i` of a word. -/
def bit {n : Nat} (x : BitVec n) (i : Nat) : Bool := x.toNat / 2 ^ i % 2 == 1

/-- Bit `i` of a number. -/
def nbit (x i : Nat) : Bool := x / 2 ^ i % 2 == 1

/-- A word from its fields, each (value, lowest bit, length); a value is cut to its field. -/
def mkWord (fs : List (Nat × Nat × Nat)) : Word :=
  BitVec.ofNat 32 (fs.foldl (fun a f => a + (f.1 % 2 ^ f.2.2) * 2 ^ f.2.1) 0)

/-- 1 for true. -/
def b2n (b : Bool) : Nat := if b then 1 else 0

/-- An unsigned field of `n` bits read as two's complement (R7). -/
def sgn (n v : Nat) : Int := if v % 2 ^ n < 2 ^ (n - 1) then (v % 2 ^ n : Nat) else (v % 2 ^ n : Nat) - (2 ^ n : Nat)

/-- The `n`-bit two's complement pattern of an integer (R7). -/
def unsgn (n : Nat) (x : Int) : Nat := (x % (2 ^ n : Nat)).toNat

/-- `x >> k` of R9: an arithmetic right shift, toward minus infinity. -/
def asr (x : Int) (k : Nat) : Int := x / (2 ^ k : Nat)

/-- `rhu(x, k)` of R9: rounds half upward. -/
def rhu (x : Int) (k : Nat) : Int := if k = 0 then x else asr (x + (2 ^ (k - 1) : Nat)) k

/-- `clamp(x, lo, hi)` of R9. -/
def clampI (x lo hi : Int) : Int := if x < lo then lo else if hi < x then hi else x

/-- `clamp` on numbers. -/
def clampN (x lo hi : Nat) : Nat := if x < lo then lo else if hi < x then hi else x

/-- `a` precedes `b` in the serial order of R10, with its tie rule. -/
def precedes (a b : Word) : Bool :=
  let d := (b - a).toNat
  (1 ≤ d && d < 2 ^ 31) || (d == 2 ^ 31 && a.toNat < b.toNat)

/-- Ceiling division. -/
def cdiv (a b : Nat) : Nat := (a + b - 1) / b

/-- `n` bytes of a number, least significant first (R4). -/
def leBytes : Nat → Nat → List Byte
  | 0, _ => []
  | n + 1, v => BitVec.ofNat 8 v :: leBytes n (v / 256)

/-- The number that little-endian bytes spell (R4). -/
def ofLe : List Byte → Nat
  | [] => 0
  | b :: bs => b.toNat + 256 * ofLe bs

/-- The number that big-endian bytes spell. -/
def ofBe (bs : List Byte) : Nat := ofLe bs.reverse

/-- `n` bytes of a number, most significant first. -/
def beBytes (n v : Nat) : List Byte := (leBytes n v).reverse

/-- The little-endian number in `n` bytes of a stored format from offset `o`; absent bytes read 0. -/
def getLe (bs : List Byte) (o n : Nat) : Nat := ofLe ((bs.drop o).take n)

/-- The bytes of a word, least significant first (R4). -/
def wordBytes (w : Word) : List Byte := leBytes 4 w.toNat

/-- The bytes of words, in order. -/
def wordsBytes : List Word → List Byte
  | [] => []
  | w :: ws => wordBytes w ++ wordsBytes ws

/-- Change one entry of a table. -/
def upd {α : Type} {n : Nat} (v : Vector α n) (i : Fin n) (f : α → α) : Vector α n :=
  v.set i.val (f (v[i.val]'i.isLt)) i.isLt

/-- One entry of a table. -/
def at' {α : Type} {n : Nat} (v : Vector α n) (i : Fin n) : α := v[i.val]'i.isLt

/-- Change every entry of a table. -/
def mapTab {α β : Type} {n : Nat} (f : α → β) (v : Vector α n) : Vector β n :=
  ⟨⟨v.toList.map f⟩, by simp⟩

/-- Change every entry of a table, knowing its number. -/
def mapTabIdx {α β : Type} {n : Nat} (f : Nat → α → β) (v : Vector α n) : Vector β n :=
  ⟨⟨v.toList.mapIdx f⟩, by simp⟩

/-- The number `i` as an index below `n`, if it is one. -/
def fin? (n i : Nat) : Option (Fin n) := if h : i < n then some ⟨i, h⟩ else none

/-- Fold a change over a list of things, in order. -/
def forEach {α σ : Type} (xs : List α) (f : α → σ → σ) (s : σ) : σ := xs.foldl (fun s x => f x s) s

/-- The numbers below `n`, each as an index. -/
def allFin (n : Nat) : List (Fin n) := List.finRange n

/-- A list padded or cut to `n` entries. -/
def padTo {α : Type} (n : Nat) (d : α) (xs : List α) : List α := (xs ++ List.replicate (n - xs.length) d).take n

/-- Keep a list of numbered things with no repeats: set the entry of a number. -/
def putKey {κ α : Type} [BEq κ] (k : κ) (x : α) (xs : List (κ × α)) : List (κ × α) :=
  (k, x) :: xs.filter (fun e => !(e.1 == k))

/-- Remove the entry of a number. -/
def dropKey {κ α : Type} [BEq κ] (k : κ) (xs : List (κ × α)) : List (κ × α) := xs.filter (fun e => !(e.1 == k))

end Sys2Proof.Machine
end

