-- ==== Sys2Proof/Machine/Memory.lean ====
section
/-!
DEFINITION. Byte memories (01_architecture R26, R27; 06_memory_surfaces): lists of (address, byte) in one
canonical form. What an unlisted address reads as is `Memory.rest` (log entry 4).
-/

namespace Sys2Proof.Machine

/-- A byte memory: its listed bytes, in rising address order. -/
abbrev Mem := List Host.Cell

/-- DESIGN CHOICE (log entry 4): what a byte that nothing has written reads as. -/
def Memory.rest : Byte := 0

/-- The canonical form: addresses strictly rise, and no entry equals the unlisted value. -/
def Memory.wf : Mem → Bool
  | [] => true
  | (a, b) :: m => b != Memory.rest && Memory.wf m &&
      (match m with
       | [] => true
       | (a', _) :: _ => a < a')

/-- The byte at an address. -/
def Memory.read (m : Mem) (a : Nat) : Byte :=
  match m with
  | [] => Memory.rest
  | (a', b) :: m => if a' = a then b else Memory.read m a

/-- The memory with one byte changed, in canonical form. -/
def Memory.write (m : Mem) (a : Nat) (v : Byte) : Mem :=
  match m with
  | [] => if v = Memory.rest then [] else [(a, v)]
  | (a', b) :: m =>
    if a < a' then (if v = Memory.rest then (a', b) :: m else (a, v) :: (a', b) :: m)
    else if a = a' then (if v = Memory.rest then m else (a, v) :: m)
    else (a', b) :: Memory.write m a v

/-- Bytes read upward from an address. -/
def Memory.readN (m : Mem) (a : Nat) : Nat → List Byte
  | 0 => []
  | n + 1 => Memory.read m a :: Memory.readN m (a + 1) n

/-- Bytes written upward from an address. -/
def Memory.writeN (m : Mem) (a : Nat) : List Byte → Mem
  | [] => m
  | b :: bs => Memory.writeN (Memory.write m a b) (a + 1) bs

/-- A little-endian word. -/
def Memory.readW (m : Mem) (a : Nat) : Word := BitVec.ofNat 32 (ofLe (Memory.readN m a 4))

/-- Words read upward. -/
def Memory.readWs (m : Mem) (a : Nat) : Nat → List Word
  | 0 => []
  | n + 1 => Memory.readW m a :: Memory.readWs m (a + 4) n

/-- A word written, little-endian. -/
def Memory.writeW (m : Mem) (a : Nat) (w : Word) : Mem := Memory.writeN m a (wordBytes w)

/-- A range of bytes returned to the unlisted value. -/
def Memory.clear (m : Mem) (a n : Nat) : Mem := m.filter (fun c => c.1 < a || a + n ≤ c.1)

/-- Copy a range of bytes to another place of the same or another memory. -/
def Memory.copy (src : Mem) (a : Nat) (dst : Mem) (b n : Nat) : Mem :=
  Memory.writeN dst b (Memory.readN src a n)

end Sys2Proof.Machine
end

