-- ==== Sys2Proof/Machine/TypesRing.lean ====
section
/-!
DEFINITION. The plain data of tenants, rings, Lecterns, event queues and the Bell generator
(01_architecture, 02_bell, 03_tenants_rings, 04_quagal_model).
-/

namespace Sys2Proof.Machine

/-- A tenant's class, TENANT_MAP.CLASS (R45, R93). -/
inductive Cls
  | safety | app | service
  deriving DecidableEq, Repr, Inhabited

/-- A host port, TENANT_MAP.PORT (R45). -/
inductive Port
  | spi0 | spi1 | pcie | can0 | can1 | svc
  deriving DecidableEq, Repr, Inhabited

/-- A tenant slot's binding, written at provisioning (R91, R92; Blank: R46, R48). -/
structure TenCfg where
  bound : Bool := false
  port : Port := .spi0
  cls : Cls := .safety
  /-- watchdog period in ms, 0 off -/
  wdogMs : Nat := 0
  /-- observation classes (R609) -/
  obs : Byte := 0
  /-- LPDDR4X region, bytes (R188) -/
  regBase : Nat := 0
  regSize : Nat := 0
  /-- the event queue: in the Undercroft or in LPDDR4X, 16 * 2^size records, byte address of record 0 -/
  evqUnder : Bool := false
  evqSize : Nat := 0
  evqBase : Nat := 0
  deriving DecidableEq, Repr, Inhabited

/-- The event-queue registers of a tenant (R106, R116). -/
structure Evq where
  wr : Nat := 0
  rd : Nat := 0
  ovf : Bool := false
  /-- EVQ_STAT.DROP, saturating at 0xFFFF -/
  drop : Nat := 0
  /-- EVSEQ of the first record dropped -/
  firstDrop : Word := 0
  /-- the next normal record carries FLAGS.DROPPED_BEFORE -/
  droppedBefore : Bool := false
  next : Word := 0
  notify : Bool := false
  /-- events posted from the reset Bell onward, until TENANT_RESET_DONE is written (R113): code, source, ALL, CSEQ and
  payload -/
  later : List (Nat × Nat × Bool × Option Word × List Word) := []
  deriving DecidableEq, Repr, Inhabited

/-- A tenant's state (R109 to R117, R60, R61, R84, R85, R87, R178, R182, R691). -/
structure Tenant where
  cfg : TenCfg := {}
  /-- the fault state of R110 applies -/
  faulted : Bool := false
  /-- TEN_FAULT.CAUSE: 1 LINK_LOST, 2 WDOG, 3 FATAL_RING -/
  faultCause : Nat := 0
  faultRing : Nat := 0
  /-- a tenant reset is requested, and takes effect at this Bell (R90) -/
  resetAt : Option Nat := none
  /-- start of the running watchdog period (R691) -/
  wdogFrom : Option Time := none
  part : Bool := false
  cring : Nat := 0
  /-- SEQ of the commit belonging to the Bell not yet announced (R60, R61) -/
  commit : Option Word := none
  /-- SEQ of the last frozen commit and the Bell it was frozen for -/
  frozen : Option Word := none
  frozenBell : Nat := 0
  lateCnt : Nat := 0
  /-- BWIN requests, in 40 ns reference cycles (R63, R85) -/
  floorReq : Nat := 208334
  ceilReq : Nat := 500000
  /-- the BELLNO_HI holding register (R45, R50) -/
  hiHold : Option (BitVec 16) := none
  /-- last Bell of a UALLOW in force (R182) -/
  allowTo : Option Nat := none
  /-- wake latency tolerated in ms, 0xFFFF no limit (R178) -/
  ptol : Nat := 0
  evq : Evq := {}
  deriving DecidableEq, Repr, Inhabited

/-- A ring's state, RING_STAT.STATE (R116). -/
inductive RingState
  | run | fault | rebindPend
  deriving DecidableEq, Repr, Inhabited

/-- The Bell points of WAITB (02_bell, WAITB word layout). -/
inductive BellPoint
  | fire | announce | latch
  deriving DecidableEq, Repr, Inhabited

/-- What a ring waits for: a point of a Bell, with the predicate to set (R80), or a FENCE scope. -/
inductive Wait
  | bell (pt : BellPoint) (target : Nat) (pred : Fin 4)
  | fence (scope target : Nat)
  deriving DecidableEq, Repr, Inhabited

/-- A queued AT action (R75, R82, R136): its words and the registers captured at the AT's retirement. -/
structure AtAct where
  target : Nat
  /-- the latch step in which it runs: the target's, or the next one for a late action -/
  runAt : Nat
  strict : Bool
  seq : Word
  words : List Word
  regs : Vector Word 16
  deriving DecidableEq, Repr

/-- The packet a Lectern is on (R94): its LEN and SEQ, and the instruction words in the burst buffer, each
absent where it was uncorrectable (R140 ECC). -/
structure Packet where
  len : Nat
  seq : Word
  buf : List (Option Word)
  deriving DecidableEq, Repr, Inhabited

/-- A ring and the state its Lectern holds for it (R107, R116; 04_quagal_model, per-ring state). -/
structure RingSt where
  owner : Option Ten := none
  fatal : Bool := false
  /-- the ring body: in the Undercroft or in LPDDR4X, 256 * 2^size words, base in its unit -/
  under : Bool := false
  size : Nat := 0
  base : Nat := 0
  budgetB : Nat := 0
  state : RingState := .run
  cause : Nat := 0
  rd : Nat := 0
  prod : Nat := 0
  cseq : Word := 0
  lastSeq : Option Word := none
  doorbell : Word := 0
  lectern : Nat := 0
  g : Vector Word 16 := Vector.replicate 16 0
  p : Vector Bool 4 := Vector.replicate 4 false
  pc : Nat := 0
  budget : Nat := 0
  pkt : Option Packet := none
  wait : Option Wait := none
  ats : List AtAct := []
  /-- an accepted RESTART (false) or REBIND (true), its index and the Bell at which it takes effect -/
  pend : Option (Bool × Nat × Nat) := none
  /-- the spare Lectern held for an accepted REBIND (R114) -/
  spare : Option Nat := none
  deriving DecidableEq, Repr

/-- The Bell generator and the Chime groups (R57 to R72, R77, R78, R86, R696). -/
structure BellGen where
  bellno : BitVec 48 := 0
  /-- t_B of the last Bell of this start or exit -/
  lastAt : Option Time := none
  /-- Bells fired since the start or the Vigil exit, for BELL_LAST -/
  fired : Nat := 0
  lastUs : Nat := 0
  /-- announcement instant of the announced Bell -/
  ann : Option Time := none
  latchDone : Bool := false
  /-- the instant of the last BWIN, with FLOOR_EFF and CEIL_EFF as they stood before the BWINs of that instant (R62) -/
  winAt : Option (Time × Nat × Nat) := none
  /-- the running aisle has enabled the generator (R77, R78) -/
  enabled : Bool := false
  /-- BELL_NOW.ELAPSED_US reads 20,000 until the first Bell after a Vigil exit -/
  afterVigil : Bool := false
  /-- rate codes in force and the highest code of the CHIMEs since the last announcement -/
  rate : Vector Nat 4 := Vector.replicate 4 3
  pendRate : Vector (Option Nat) 4 := Vector.replicate 4 none
  /-- each group's phase: Chimes fire at anchor + k * T_C; the next k, and the Chimes since the Bell -/
  anchor : Vector (Option Time) 4 := Vector.replicate 4 none
  k : Vector Nat 4 := Vector.replicate 4 0
  idx : Vector Nat 4 := Vector.replicate 4 0
  deriving DecidableEq, Repr, Inhabited

end Sys2Proof.Machine
end

