-- ==== Sys2Proof/Machine/TypesPicture.lean ====
section
/-!
DEFINITION. The plain data of surfaces, layers, the flatten cache, the Nave, scan-out, the Chapels and the
Keystone store (05_quagal_reference R147 to R175; 06_memory_surfaces; 07_nave; 08_scanout; 09_engine_ports).
-/

namespace Sys2Proof.Machine

/-- A pixel in 14-bit channels (R5, R6). -/
structure Px where
  a : Nat := 0
  r : Nat := 0
  g : Nat := 0
  b : Nat := 0
  deriving DecidableEq, Repr, Inhabited

/-- A rectangle of pixels, row-major. -/
structure Img where
  w : Nat
  h : Nat
  px : List Px
  deriving DecidableEq, Repr, Inhabited

/-- A surface descriptor (R153, R156, R200, R203): `gen` as written, as taken by a COMMIT, as frozen. -/
structure Surface where
  fmt : Nat
  /-- LOC 1: the prime-surface region -/
  prime : Bool
  /-- BASE, in 64-byte units -/
  base : Nat
  w : Nat
  h : Nat
  gen : Word := 0
  genTaken : Option Word := none
  genFrozen : Word := 0
  bsid : Nat := 0
  refGen : Word := 0
  refSeq : Option Word := none
  /-- Bell of the commit set for which MEM_UE was last posted (R694) -/
  uePosted : Option Nat := none
  deriving DecidableEq, Repr, Inhabited

/-- A fallback (R157). -/
inductive Fallback
  | transparent | hold | background
  deriving DecidableEq, Repr, Inhabited

/-- A layer's settings (R153, R162; defaults as LNEW leaves them). -/
structure LayerCfg where
  sid : Option Nat := none
  sx : Nat := 0
  sy : Nat := 0
  sw : Nat := 0
  sh : Nat := 0
  dx : Int := 0
  dy : Int := 0
  dw : Nat := 0
  dh : Nat := 0
  vis : Bool := false
  fall : Fallback := .transparent
  static : Bool := false
  vc : Option (Fin 4) := none
  /-- blend mode: 0 SRC_OVER, 1 PREMUL_OVER, 2 OPAQUE, 3 ADD, 4 MULTIPLY -/
  mode : Nat := 0
  galpha : Nat := 16383
  /-- edge ZERO; else CLAMP -/
  edgeZero : Bool := false
  pri : Nat := 0
  deriving DecidableEq, Repr, Inhabited

/-- A claim made by an LNEW of a ring (R148): its instant, its ring, and that ring before it. -/
structure LayerClaim where
  at' : Time
  ring : RingId
  before : RingSt
  deriving DecidableEq, Repr

/-- A layer of a Chapel (R147, R149, R697): its holder, its settings as last written (none when a release is
pending), as taken by a COMMIT since the last freeze, and as frozen. -/
structure Layer where
  holder : Option Ten := none
  claim : Option LayerClaim := none
  work : Option LayerCfg := none
  taken : Option (Option LayerCfg) := none
  frozen : Option LayerCfg := none
  /-- the state that the last freeze check refused -/
  refused : Option LayerCfg := none
  shed : Bool := false
  /-- the source content of the last frame in which it was present (R157 HOLD) -/
  held : Option Img := none
  /-- last REF_MISSING posted: the commit set's Bell, the reason and the found generation (R211) -/
  refPosted : Option (Nat × Nat × Word) := none
  deriving DecidableEq, Repr, Inhabited

/-- A Chapel-wide setting: background colour and dither mode 0 ROTATE, 1 FIXED, 2 TRUNCATE (R159, R224). -/
structure ChapWide where
  r : Nat := 0
  g : Nat := 0
  b : Nat := 0
  dith : Nat := 0
  deriving DecidableEq, Repr, Inhabited

/-- A Chapel-wide change of one tenant, not yet frozen. -/
structure ChapWideChg where
  bg : Option (Nat × Nat × Nat) := none
  dith : Option Nat := none
  deriving DecidableEq, Repr, Inhabited

/-- Who holds a check rectangle (R147, R159, R697). -/
inductive RectOwner
  | free
  | ten (t : Ten)
  | key (s : Seg)
  /-- released by a KMAP of that segment, free at the next latch point -/
  | keyFreed (s : Seg)
  deriving DecidableEq, Repr, Inhabited

/-- A tenant check rectangle's setting (R159, R160). -/
structure ChkCfg where
  x : Nat
  y : Nat
  w : Nat
  h : Nat
  crc : Option Word := none
  /-- SEQ of the commit that froze the CHKV in force -/
  seq : Option Word := none
  deriving DecidableEq, Repr, Inhabited

/-- A check rectangle of a Chapel. -/
structure RectSt where
  owner : RectOwner := .free
  work : Option ChkCfg := none
  taken : Option (Option ChkCfg) := none
  frozen : Option ChkCfg := none
  /-- the last comparison: SEQ of its CHKV, and none where it matched or the mismatching value (R275) -/
  last : Option (Option Word × Option Word) := none
  mfail : Bool := false
  kfail : Bool := false
  deriving DecidableEq, Repr, Inhabited

/-- The gated witness of a rectangle: input and pass bounds (R171, R407). -/
structure WitArm where
  pd : Pd
  minv : Nat
  maxv : Nat
  deriving DecidableEq, Repr

/-- A Keystone mapping of a segment on a Chapel (R171, R172). -/
structure KMap where
  seg : Seg
  chap : Chap
  rect : Fin 16
  x : Nat
  y : Nat
  w : Nat
  h : Nat
  wit : Option WitArm := none
  deriving DecidableEq, Repr

/-- A glyph: 16-bit pixels of R199, 128 per row. -/
abbrev Glyph := List (BitVec 16)

/-- A KLOAD in progress (R173, R183): when it began, and whether its copy has completed. -/
structure KLoad where
  seg : Seg
  chap : Chap
  rect : Fin 16
  seq : Word
  glyph : Glyph
  w : Nat
  h : Nat
  start : Time
  done : Bool := false
  deriving DecidableEq, Repr

/-- The Keystone store (R26, R171): segment states, mappings, the active glyph buffers by (Chapel, rectangle). -/
structure KStore where
  on : Vector Bool 96 := Vector.replicate 96 false
  maps : List KMap := []
  glyphs : List ((Chap × Fin 16) × Glyph) := []
  /-- rectangles whose active glyph buffer is the second one -/
  alt : List (Chap × Fin 16) := []
  deriving DecidableEq, Repr, Inhabited

/-- A flatten-cache entry's key (R212). -/
structure FlatKey where
  ten : Ten
  sid : Nat
  gen : Word
  fmt : Nat
  sx : Nat
  sy : Nat
  sw : Nat
  sh : Nat
  dw : Nat
  dh : Nat
  edgeZero : Bool
  bsid : Nat
  bgen : Word
  deriving DecidableEq, Repr, Inhabited

/-- An in-place speculative write into an entry (R215, R216): the layer, the commit shown, what the layer's
state was. -/
structure FlatSpec where
  ten : Ten
  chap : Chap
  z : Fin 32
  seq : Word
  key : FlatKey
  /-- the Bell of the frame in which a band read it, the LID of the layer that showed it, and the SEQ frozen for that
  frame, if one did -/
  shown : Option (Nat × Nat × Option Word) := none
  /-- settled by a freeze: reason 1 CANCELLED, 2 EARLY; what follows is done at the next Bell -/
  settled : Option Nat := none
  deriving DecidableEq, Repr

/-- A flatten-cache entry (R213 to R216): granules of 64 KiB from the start of the cache. -/
structure FlatEnt where
  key : FlatKey
  first : Nat
  count : Nat
  valid : Bool
  named : Nat
  spec : Option FlatSpec := none
  deriving DecidableEq, Repr

/-- A complete video frame in its slot of the video buffers, at an LPDDR4X address (R234, R235). -/
structure VidFrame where
  yuv : Bool
  w : Nat
  h : Nat
  addr : Nat
  at' : Time
  deriving DecidableEq, Repr, Inhabited

/-- A bound virtual channel (R234, R237): its layer, its group once frozen, its latest frame, its last state
posted (0 none, 1 STALE, 2 FORMAT, 3 RESUMED). -/
structure VidBind where
  vc : Fin 4
  ten : Ten
  chap : Chap
  z : Fin 32
  group : Option Nat := none
  latest : Option VidFrame := none
  /-- the frame selected for the coming Bell (R236), none where the layer shows its fallback -/
  sel : Option VidFrame := none
  /-- the frame selected for the Bell before it -/
  was : Option VidFrame := none
  /-- slot in its group that the next frame is written into -/
  slot : Nat := 0
  posted : Nat := 0
  /-- the binding ends at the next Bell -/
  ending : Bool := false
  deriving DecidableEq, Repr

/-- A Chapel settings record (R303). -/
structure ChapRec where
  scan : Bool := false
  depth : Nat := 0
  abort : Bool := false
  autostart : Bool := false
  w : Nat := 0
  h : Nat := 0
  lanes : Nat := 0
  rate : Nat := 0
  u : Nat := 0
  tRst : Nat := 0
  sinkR : Nat := 0
  sinkG : Nat := 0
  sinkB : Nat := 0
  rdyMs : Nat := 0
  parkMs : Nat := 0
  fMin : Nat := 0
  fMax : Nat := 0
  tRet : Nat := 0
  pixclk : Nat := 0
  aMin : Nat := 0
  sWin : Nat := 0
  lMax : Nat := 0
  sPark : Nat := 0
  sTop : Nat := 0
  sBot : Nat := 0
  slew : Nat := 0
  ptab : List Nat := []
  rtab : List Nat := []
  deriving DecidableEq, Repr, Inhabited

/-- A Chapel's state (R279). -/
inductive ChState
  | off | starting | run | stopping | stopped
  deriving DecidableEq, Repr, Inhabited

/-- The phases of a start sequence (R291, R292): the record's check; on an Array Chapel the training pattern, the wait for
ACn_RDY and the three planes of 0; on a Scan Chapel the sweep, the raising of the amplitude and the locked phase. -/
inductive StartPhase
  | check | train | wait | zeros | sweep | raise | locked
  deriving DecidableEq, Repr, Inhabited

/-- A management request of a Chapel. -/
inductive ChReqKind
  | start | stop | reconf
  deriving DecidableEq, Repr, Inhabited

/-- A Chapel request waiting for the next announcement (R300). -/
structure ChReq where
  kind : ChReqKind
  profile : Nat
  ten : Ten
  deriving DecidableEq, Repr

/-- A Chapel start that an announcement has made due, or that a reconfiguration continues with; AUTOSTART and a
Vigil exit have no requesting tenant. -/
structure ChStart where
  profile : Nat
  ten : Option Ten
  /-- the Vigil exit's start, which keeps the loop settings in force (R373) -/
  resume : Bool := false
  /-- a warm start: ACn_RDY has stayed high through Vigil (R421) -/
  warm : Bool := false
  deriving DecidableEq, Repr

/-- The frame a Chapel shows (08_scanout). -/
structure FrameSt where
  bell : Nat := 0
  tB : Time := 0
  /-- slots (Array) or lines (Scan) started -/
  next : Nat := 0
  /-- bands substituted, lowest first, and whether every band was replaced by 0 (R258) -/
  subst : List Nat := []
  zeroed : List Nat := []
  /-- planes or lines generated after a late fetch (R270), and the line or slot from which an ABORT frame is 0 -/
  gener : List Nat := []
  abortFrom : Option Nat := none
  /-- pixels under the underrun rules, the first cause 1 BAND_LATE, 2 FETCH_LATE -/
  pix : Nat := 0
  cause : Nat := 0
  short : Bool := false
  bandRep : Bool := false
  /-- instant at which the running pulse or line ends -/
  until' : Time := 0
  /-- time from t_B + 26 µs to the first turning point, as the phase loop foresees it, and the start of line 0 (R285) -/
  lead : Nat := 0
  tl0 : Time := 0
  /-- HT of this frame (R285), and FLOOR_EFF of this frame in reference cycles (R262) -/
  ht : Nat := 0
  floor : Nat := 0
  /-- start of the slot or line started last -/
  slotAt : Time := 0
  /-- main slots of a frame cut short (08, Edges): those from `cutFirst` up to `cutEnd` run from this instant -/
  cutAt : Option Time := none
  cutFirst : Nat := 0
  cutEnd : Nat := 21
  /-- start of the closing round, once announced (R262) -/
  closeAt : Option Time := none
  leftFirst : Bool := true
  /-- BLANK_START is posted -/
  blanked : Bool := false
  /-- the Chapel's first frame since its start -/
  first : Bool := false
  /-- tenant rectangles compared at its frame done, each with its owner and its frozen CHKV (R275) -/
  chks : List (Fin 16 × Ten × ChkCfg) := []
  /-- SEQ of each tenant's frozen commit shown, and the tenants with a visible layer -/
  seqs : Vector (Option Word) 4 := Vector.replicate 4 none
  vis : List Ten := []
  /-- the other frame store holds an earlier frame (R258); the frame's own store was written -/
  hasPrev : Bool := false
  stored : Bool := false
  /-- the frame after it, whose LOST verdicts follow its own (R390) -/
  thenLost : Option Nat := none
  deriving DecidableEq, Repr, Inhabited

/-- A Chapel (R279 to R302, R277). -/
structure ChapSt where
  state : ChState := .off
  rec' : Option ChapRec := none
  profile : Nat := 0
  reqs : List ChReq := []
  /-- a stop is due at the next announcement, and an orderly stop in force leaves RUN at t_B of a Bell, with its
  reason 1 REQUEST, 2 RECONF, 3 THERMAL, 4 POWER, 5 UPDATE -/
  stopDue : Option Nat := none
  stopBell : Option Nat := none
  stopWhy : Nat := 0
  /-- CH_RECONF's new profile, started when STOPPED is reached -/
  thenStart : Option ChStart := none
  /-- a start sequence that the last announcement, a start or a Vigil exit has made due -/
  startDue : Option ChStart := none
  startedAt : Time := 0
  stopAt : Time := 0
  /-- the phase of the start sequence, its start, the instants at which the record's check and the training pattern end, and
  the resonance found in Hz -/
  seqPhase : StartPhase := .check
  /-- the start is a warm one, without the wait for ACn_RDY -/
  warm : Bool := false
  phaseAt : Time := 0
  checkEnd : Time := 0
  trainEnd : Time := 0
  resonance : Nat := 0
  /-- half periods of the fast axis measured last, at most 16, in 1/16 pixel-clock periods (R353) -/
  halves : List Nat := []
  /-- ref(t) at the stop, from which a Scan Chapel's slow axis goes to SPARK (R294) -/
  parkFrom : Nat := 0
  /-- instant of the entry to RUN -/
  runAt : Time := 0
  emits : Bool := false
  ht : Nat := 0
  armed : Bool := false
  tripped : Bool := false
  trips : Nat := 0
  /-- a Scan Chapel's floor in reference cycles while it runs (R65) -/
  floorCyc : Nat := 0
  lastRefusal : Nat := 0
  /-- outputs SCn_LAS_EN, ACn_EN, and PARK sent -/
  lasEn : Bool := false
  acEn : Bool := false
  frame : Option FrameSt := none
  /-- the frame of the announced Bell -/
  coming : Option FrameSt := none
  /-- the previous frame, until its frame done -/
  prev : Option FrameSt := none
  underPix : Nat := 0
  /-- P0 of the last KVERDICT -/
  kvP0 : Word := 0
  doneBell : Nat := 0
  /-- CH_EVEN of each tenant (R277) -/
  even : Vector Word 4 := Vector.replicate 4 0
  wide : ChapWide := {}
  /-- each tenant's Chapel-wide changes, as written and as taken by a COMMIT -/
  wideWork : Vector ChapWideChg 4 := Vector.replicate 4 {}
  wideTaken : Vector ChapWideChg 4 := Vector.replicate 4 {}
  layers : Vector Layer 32 := Vector.replicate 32 {}
  rects : Vector RectSt 16 := Vector.replicate 16 {}
  /-- the frame store has a frame of the previous Bell (R258) -/
  prevFrame : Bool := false
  /-- frame store 0, frame store 1 has held a frame since the Chapel's start (R258) -/
  stores : Bool × Bool := (false, false)
  /-- mappings and rectangles released at the entry to RUN (R302) -/
  released : Nat := 0
  deriving DecidableEq, Repr, Inhabited

/-- A bay due to leave service (R247): its reason 1 SENTINEL, 2 ECC, 3 SELFTEST, the frame whose band was repeated or
0, and the Bell at which it leaves. -/
structure BayLeave where
  bay : Fin 4
  reason : Nat
  frame : Nat
  due : Nat
  deriving DecidableEq, Repr

/-- The Nave (07_nave): bays in service, bays due to leave, the sentinel's next pair, the load of the last freeze. -/
structure NaveSt where
  alive : List (Fin 4) := [0, 1, 2, 3]
  leaving : List BayLeave := []
  sentinel : Nat × Nat := (0, 0)
  load : Nat := 0
  cap : Nat := 0
  /-- pairs (Chapel, band) whose result is replaced by the previous frame's (R247) -/
  repeats : List (Chap × Nat) := []
  /-- ECC errors of bays in speculative blocks: bay, Chapel, band, block of the band (R247) -/
  specEcc : List (Fin 4 × Chap × Nat × Nat) := []
  /-- Bell of the frame for which MEM_UE of the frame stores was last posted (R694) -/
  storeUe : Option Nat := none
  flat : List FlatEnt := []
  video : List VidBind := []
  deriving DecidableEq, Repr, Inhabited

end Sys2Proof.Machine
end

