-- ==== Sys2Proof/Machine/TypesControl.lean ====
section
/-!
DEFINITION. The plain data of the Choir, the calibration banks, the witness, the power states and the thermal
block (11_choir, 12_telltale_assurance, 13_power_wake, 14_thermal).
-/

namespace Sys2Proof.Machine

/-- Loop kinds (R340); an unused slot has none. -/
inductive LoopKind
  | fastAmp | fastPhase | slowPos | lasPwr | railV | illum | white
  deriving DecidableEq, Repr, Inhabited

/-- Slot states (R343). -/
inductive LoopState
  | off | run | hold
  deriving DecidableEq, Repr, Inhabited

/-- A coefficient set, IDX 0 to 8 (11_choir, coefficient set): b0 to b3, a1 to a3, KFF, U0. -/
abbrev Coefs := Vector Int 9

/-- A slot's settings record entry (R374). -/
structure SlotCfg where
  en : Bool := false
  kind : LoopKind := .fastAmp
  target : Nat := 0
  owner : Ten := 0
  state : LoopState := .off
  group : Fin 4 := 0
  order : Bool := false
  rep : Bool := false
  inv : Bool := false
  free : Bool := false
  master : Option Slot := none
  lead : Nat := 0
  coef : Coefs := Vector.replicate 9 0
  omin : Nat := 0
  omax : Nat := 0
  sp : Vector Nat 3 := Vector.replicate 3 0
  len : Nat := 1
  lgain : Nat := 0
  forget : Nat := 0
  table : Bool := false
  fbscale : Nat := 0
  deriving DecidableEq, Repr

/-- The histories, output and flags of one channel (R346 to R348). -/
structure LoopChan where
  x0 : Int := 0
  x1 : Int := 0
  x2 : Int := 0
  x3 : Int := 0
  v1 : Int := 0
  v2 : Int := 0
  v3 : Int := 0
  u : Nat := 0
  y : Nat := 0
  /-- 0 not in windup, 1 at OMAX, 2 at OMIN, 3 at CEIL_D (R348, R379) -/
  windup : Nat := 0
  deriving DecidableEq, Repr, Inhabited

/-- A test signal (R169, R358). -/
inductive InjKind
  | sine | chirp | prbs
  deriving DecidableEq, Repr, Inhabited

/-- A running injection (R358): `f0` and `f1` are its frequencies in mHz (SINE uses the first), `q` the PRBS
state, `now` its value at the last Chime. -/
structure Inj where
  kind : InjKind
  amp : Nat
  f0 : Nat := 0
  f1 : Nat := 0
  phi : Nat := 0
  q : Nat := 0
  order : Nat := 0
  dur : Nat := 0
  n : Nat := 0
  now : Int := 0
  deriving DecidableEq, Repr

/-- A capture (R169, R198, R360, R361). -/
structure Capture where
  ten : Ten
  seq : Word
  mask : Nat
  decim : Nat
  samples : Nat
  /-- 1 KiB units of the capture pool -/
  first : Nat
  units : Nat
  taken : Nat := 0
  chimes : Nat := 0
  done : Bool := false
  deriving DecidableEq, Repr

/-- A pending CLSAVE (R168, R371); `taken` once the table has been taken at a Chime of the group. -/
structure SaveReq where
  ten : Ten
  seq : Word
  taken : Bool := false
  deriving DecidableEq, Repr

/-- A loop slot (R340 to R366). -/
structure LoopSt where
  cfg : SlotCfg := {}
  state : LoopState := .off
  group : Fin 4 := 0
  order : Bool := false
  rep : Bool := false
  shadow : Coefs := Vector.replicate 9 0
  active : Coefs := Vector.replicate 9 0
  omin : Nat := 0
  omax : Nat := 0
  sp : Vector Nat 3 := Vector.replicate 3 0
  /-- channel last named by a CLSET with CH 0 to 2 (R360) -/
  ch : Fin 3 := 0
  lgain : Nat := 0
  forget : Nat := 0
  len : Nat := 1
  table : List Int := []
  /-- loaded GEN, 0 when the table is zero -/
  tableGen : Word := 0
  repIdx : Nat := 0
  chan : Vector LoopChan 3 := Vector.replicate 3 {}
  overruns : Nat := 0
  consec : Nat := 0
  /-- the active set is uncorrectable until an APPLY (11_choir, Edges) -/
  eccCoef : Bool := false
  /-- no overrun since the last completed step (R379) -/
  overDue : Bool := true
  overPosted : Bool := false
  satPosted : Bool := false
  /-- the windup state of each channel that LOOP_SAT reported last, and the cause of the last overrun -/
  satSeen : Vector Nat 3 := Vector.replicate 3 0
  lastCause : Nat := 0
  /-- witness samples that arrived since the last step (R351, R392) -/
  newY : Vector (Option Nat) 3 := Vector.replicate 3 none
  /-- samples of pulses that run, each with its instant, its channel and its value (R351) -/
  samples : List (Time × Fin 3 × Nat) := []
  inj : Option Inj := none
  cap : Option Capture := none
  save : Option SaveReq := none
  /-- the ratio hold of a WHITE slot's last step (R350) -/
  ratio : Nat := 16383
  deriving DecidableEq, Repr

/-- A calibration bank entry (R367): its directory fields and its data. -/
structure BankEnt where
  type : Nat
  kind : Nat := 0
  target : Nat := 0
  chan : Nat := 0
  profile : Nat := 0xFF
  rate : Nat := 0xFF
  data : List Byte := []
  deriving DecidableEq, Repr, Inhabited

/-- Who asked for a bank entry (R370): a CLSAVE, LPDDR4X training, a witness calibration. -/
inductive BankWho
  | table (slot : Slot) (ten : Ten) (seq : Word)
  | training
  | gains (pd : Pd) (ten : Ten) (results : Nat) (frames : Nat)
  deriving DecidableEq, Repr

/-- A storage request. -/
structure BankReq where
  who : BankWho
  ent : BankEnt
  deriving DecidableEq, Repr

/-- A change of a loop setting, as the loop instructions make it (R165, R376). -/
inductive LoopEdit
  | set (ch : Option (Fin 3)) (v : Nat)
  | coef (idx : Fin 9) (v : Int)
  | mode (st : LoopState) (g : Fin 4) (apply rep order : Bool)
  | lim (omin omax : Nat)
  | rep (lgain forget len : Nat)
  deriving DecidableEq, Repr

/-- A step in the Choir's queue (R362): the slot as its settings stood at the Chime, the feedback of each channel
that has a sample, its setpoints, the Chime index, the cycles left; `begun` once its service has started, `take`
when a capture sample falls on its Chime. -/
structure StepJob where
  slot : Slot
  left : Nat
  snap : LoopSt
  fb : Vector (Option Nat) 3
  r : Vector Nat 3
  idx : Nat
  take : Bool
  begun : Bool := false
  /-- a CLSAVE had retired before its Chime (R371) -/
  save : Bool := false
  deriving DecidableEq, Repr

/-- The Choir and the calibration banks (R367 to R371). -/
structure ChoirSt where
  slots : Vector LoopSt 16 := Vector.replicate 16 {}
  /-- the steps waiting, in the order of service, and the instant up to which they have been served -/
  queue : List StepJob := []
  servedAt : Time := 0
  /-- changes that await the next Chime of their slot's group, oldest first; those of AT actions, with their Bell, the Chime
  at its t_B (R73, R138, R149) -/
  late : List (Slot × LoopEdit × Word × Option Nat) := []
  /-- a Choir record is in force (R375) -/
  valid : Bool := false
  /-- storage requests waiting, those of the write in progress, its start, and the data written -/
  pending : List BankReq := []
  writing : List BankReq := []
  writeFrom : Option Time := none
  deriving DecidableEq, Repr, Inhabited

/-- Roles of a witness input (R380). -/
inductive PdRole
  | unused | keyField | illum | beam
  deriving DecidableEq, Repr, Inhabited

/-- A foreground measurement of a frame (R387): for a KEY_FIELD group (`rect` none) or a BEAM rectangle. E is
kept before its final rounding shift. -/
structure WitMeas where
  rect : Option (Fin 16) := none
  n : Nat := 0
  m : Int := 0
  e : Nat := 0
  sat : Bool := false
  deriving DecidableEq, Repr, Inhabited

/-- A running gain calibration (R411). -/
structure KwCal where
  pd : Pd
  ten : Ten
  /-- frames not yet ended, the one before the first included -/
  left : Nat
  frames : Nat
  m : Vector Int 3 := Vector.replicate 3 0
  e : Vector Nat 3 := Vector.replicate 3 0
  deriving DecidableEq, Repr

/-- A background window (R391, R392): its colour, its end, its length W, and Σ (v << (14 − D_c)) × w of a BEAM
window. -/
structure BgWin where
  col : Fin 3
  starts : Time
  ends : Time
  w : Nat
  e : Nat := 0
  /-- the dark level of its frame -/
  dark : Nat := 0
  /-- the instant by which its value is converted: 2 µs after its end, or the start of the input's next window (R391) -/
  upTo : Time := 0
  deriving DecidableEq, Repr, Inhabited

/-- A witness input (R380 to R396). -/
structure PdSt where
  role : PdRole := .unused
  chap : Chap := 0
  dmax : Nat := 0
  gain0 : Vector Nat 3 := Vector.replicate 3 0
  gain : Vector Nat 3 := Vector.replicate 3 0
  gainGen : Word := 0
  /-- dark samples taken for the coming frame, and the dark level D_k (R384) -/
  darkAcc : List Nat := []
  dark : Nat := 0
  /-- the dark level of the coming frame, once sampled -/
  darkNext : Option Nat := none
  meas : List WitMeas := []
  /-- the measurements of the last frame, for KW_QUERY -/
  last : List WitMeas := []
  /-- the background windows not yet converted or discarded, oldest first -/
  bgs : List BgWin := []
  deferral : Nat := 0
  reserved : Bool := false
  /-- this Bell period: a window ended, one was converted; the sums of M_b, E_b and W per colour -/
  winEnded : Bool := false
  converted : Bool := false
  mSum : Vector Int 3 := Vector.replicate 3 0
  eSum : Vector Nat 3 := Vector.replicate 3 0
  wAll : Vector Nat 3 := Vector.replicate 3 0
  /-- ΣM_b and ΣE_b of the last Bell period, every colour (R597) -/
  lastM : Int := 0
  lastE : Nat := 0
  /-- the window held for the reserved slot (R394) -/
  held : Option BgWin := none
  deriving DecidableEq, Repr, Inhabited

/-- A mapping's verdict record (R389, R397). -/
structure Verdict where
  chap : Chap
  rect : Fin 16
  seg : Seg
  code : Nat := 0
  fails : Nat := 0
  passes : Nat := 0
  /-- this mapping caused an ASSURANCE joining that has not ended -/
  joined : Bool := false
  deriving DecidableEq, Repr

/-- The witness (12_telltale_assurance). -/
structure WitnessSt where
  valid : Bool := false
  nmin : Nat := 16
  nfail : Nat := 1
  npass : Nat := 1
  pds : Vector PdSt 8 := Vector.replicate 8 {}
  /-- the foreground window granted last: input, rectangle (R386) -/
  lastGrant : Nat := 0
  /-- the ADC slot converted last -/
  slotAt : Option Time := none
  verdicts : List Verdict := []
  cal : Option KwCal := none
  deriving DecidableEq, Repr, Inhabited

/-- Power states (R413), and the always-on domain without power. -/
inductive PowerState
  | run | idle | vigil | crypt
  deriving DecidableEq, Repr, Inhabited

/-- Causes of a start (R423). -/
inductive StartCause
  | cold | cryptExit | powerReturn
  deriving DecidableEq, Repr, Inhabited

/-- Wake sources, coded as in POWER_STATE (R420, R444); a tolerance lowered during a Vigil entry acts as a wake
(13, Edges) and has no code. -/
inductive WakeSrc
  | wakeIn | service | hostPort | chain | uds | tolerance
  deriving DecidableEq, Repr, Inhabited

/-- What a start has reached (R425). -/
inductive BootPhase
  /-- no start: in Crypt, or before the end of the always-on power-on reset -/
  | none
  /-- PWR_EN high, waiting for PWR_GOOD -/
  | supplies
  /-- PWR_GOOD high, straps sampled, before the start path -/
  | ready
  /-- the start path has run -/
  | up
  /-- both firmware slots failed (R56), or TEST_EN was sampled 1 (R665) -/
  | dead
  | test
  deriving DecidableEq, Repr, Inhabited

/-- What a Vigil exit restores and the rest of the state does not hold (R418, R421): the Chapels that were in RUN with
their profiles, and the Undercroft content that the save area takes. -/
structure VigilSave where
  ran : List (Chap × Nat)
  under : Mem := []
  /-- Array Chapels whose ACn_RDY has fallen since the entry began -/
  lost : List Chap := []
  deriving DecidableEq, Repr

/-- The power block, the supervisor and the Buttress (13_power_wake; 21_balls_supplies). -/
structure PowerSt where
  state : PowerState := .run
  boot : BootPhase := .none
  /-- an entry begun at an announcement and not yet complete -/
  entering : Option (PowerState × Time) := none
  /-- target and tolerance of the last announcement, and the tenant that sets it -/
  target : PowerState := .run
  ttol : Nat := 0xFFFF
  ttolBy : Nat := 0xF
  cause : StartCause := .cold
  /-- wake source of the last Vigil exit, and the instant of the last wake -/
  wakeSrc : Option WakeSrc := none
  wakeAt : Time := 0
  /-- wake source of the last start, and the instant of its wake or return -/
  startSrc : Option WakeSrc := none
  startAt : Time := 0
  /-- a lifecycle transition begins a start at once (R476) -/
  restart : Bool := false
  /-- a wake detected and not yet acted on; a wake held by a comparator trip -/
  waking : Option WakeSrc := none
  /-- end of the last start or Vigil exit (R415) -/
  upAt : Time := 0
  bell1At : Option Time := none
  tellAt : Option Time := none
  /-- POWER_STATE of a Vigil exit, or START, is due at the next Bell -/
  postExit : Bool := false
  postStart : Bool := false
  save : Option VigilSave := none
  pwrEn : Bool := true
  pwrEnAt : Time := 0
  pwrGood : Bool := false
  onVbak : Bool := false
  /-- the always-on power-on reset has ended (R663), and no start has followed it yet -/
  aonUp : Bool := false
  coldNext : Bool := true
  /-- VBAK as measured last, and the instant of the last VBAK_MV sample -/
  vbakMv : Nat := 0
  vbakAt : Time := 0
  /-- RING_FAULT due at Bell 1 for rings without a Lectern (R115), and Array Chapels not yet shown since a Vigil
  exit -/
  lecPost : List RingId := []
  exitRan : List Chap := []
  /-- the flush stopped under VBAK_FL (R440) -/
  flushStopped : Bool := false
  failAt : Option Time := none
  clkSel : Bool := false
  testEn : Bool := false
  devFailN : Bool := true
  /-- thermal comparator trip (R460, R461): its instant while a hold lasts -/
  tripAt : Option Time := none
  /-- running aisle: false North, true South (R45); standby ready; a takeover prepared (R53, R54) -/
  south : Bool := false
  standbyReady : Bool := false
  takeover : Option Time := none
  tookOver : Bool := false
  deriving DecidableEq, Repr, Inhabited

/-- The last checks of prime content (R433 to R436), and prime work in progress. -/
structure PrimeSt where
  manifestOk : Bool := false
  patternOk : Bool := false
  gen : Word := 0
  /-- PRIME_STATE records due at Bell 1 -/
  postBad : List (Nat × Word) := []
  /-- KPRIME in progress: its SEQ, ring and the store as last written (R175, R435) -/
  kprime : Option (Word × RingId × KStore) := none
  /-- PRIME_SET in progress: its GEN, the CRC still to write, layers taken and skipped -/
  setBusy : Option (Word × Word × Nat × Nat) := none
  /-- PRIME_WRITEs in progress, oldest first: address, the bytes that stood there, and the instant at which it is complete -/
  puts : List (Nat × List Byte × Time) := []
  deriving DecidableEq, Repr, Inhabited

/-- Modes of a thermal channel (R445). -/
inductive ThMode
  | off | diode | ntc | die
  deriving DecidableEq, Repr, Inhabited

/-- States of a thermal channel (R452). -/
inductive ThState
  | ok | suspect | broken | invalid
  deriving DecidableEq, Repr, Inhabited

/-- A thermal channel's settings (R465). -/
structure ThCfg where
  mode : ThMode := .off
  scope : Nat := 0
  nb0 : Option (Fin 10) := none
  nb1 : Option (Fin 10) := none
  dmax : Nat := 1
  margin : Nat := 0
  hyst : Nat := 2
  derateT : Int := 0
  stopT : Int := 0
  hardT : Int := 0
  slopeT : Nat := 0
  floorT : Nat := 0
  offs : Int := 0
  gain : Nat := 0
  tab : List Int := []
  deriving DecidableEq, Repr, Inhabited

/-- A thermal channel (R449 to R455). -/
structure ThChan where
  cfg : ThCfg := {}
  t16 : Int := 0
  validAt : Option Time := none
  dueAt : Time := 0
  fast : Bool := false
  slowRun : Nat := 0
  badRun : Nat := 0
  goodRun : Nat := 0
  dis : Vector Nat 2 := Vector.replicate 2 0
  /-- the neighbours that a SUSPECT or BROKEN state is about -/
  against : Vector Bool 2 := Vector.replicate 2 false
  state : ThState := .ok
  act : Int := 0
  level : Nat := 0
  f : Nat := 16383
  deriving DecidableEq, Repr, Inhabited

/-- The thermal block. -/
structure ThermalSt where
  chans : Vector ThChan 10 := Vector.replicate 10 {}
  /-- levels of the scopes 0 to 8, by scope number -/
  level : Vector Nat 9 := Vector.replicate 9 0
  f : Vector Nat 9 := Vector.replicate 9 16383
  /-- the levels last posted -/
  told : Vector Nat 9 := Vector.replicate 9 0
  /-- the channel whose sample set a level, none where MR4 did -/
  setBy : Vector (Option (Fin 10)) 9 := Vector.replicate 9 none
  /-- THERM_SENSOR records of Vigil, oldest first, to post at the first Bell -/
  late : List (Fin 10 × List Word) := []
  hold : Bool := false
  holdRead : Time := 0
  mr4Hot : Nat := 0
  cmp : Vector Bool 2 := Vector.replicate 2 false
  deriving DecidableEq, Repr, Inhabited

end Sys2Proof.Machine
end

