-- ==== Sys2Proof/Machine/TypesSystem.lean ====
section
/-!
DEFINITION. The plain data of memory control, the Cloister, the update service, the Reliquary, the Halser
chain, the Gallery and the host ports (06_memory_surfaces, 15_cloister to 21_balls_supplies).
-/

namespace Sys2Proof.Machine

/-- LPDDR4X training (R190). -/
inductive TrainState
  | none | verify | full | trained | failed
  /-- the verify pass of a Vigil exit -/
  | reverify
  deriving DecidableEq, Repr, Inhabited

/-- The LPDDR4X settings record of the Default column (R220), its CRC left at 0. -/
def lpDefault : List Byte :=
  [0x4C, 0x50, 0x44, 0x31, 48, 0, 0, 0, 1, 6, 0, 0, 0, 1, 0, 0, 0x4D, 0x4D, 100, 0, 0, 1, 0, 1] ++ List.replicate 24 0

/-- LPDDR4X control (R184 to R194), the scrub (R217), the memories' uncorrectable words and the LPDDR4X
settings record in force. -/
structure MemCtl where
  train : TrainState := .none
  trainAt : Time := 0
  valid : Bool := false
  rate : Nat := 0
  /-- CAP, RANKS, and the settings record in force, as stored or by default -/
  density : Nat := 0
  ranks : Nat := 1
  rec' : List Byte := lpDefault
  /-- the training set in force (R221), none before training -/
  set : List Byte := []
  mr4 : Nat := 0
  mr4At : Time := 0
  dqsAt : Time := 0
  /-- drift of the oscillator of channel c and rank r, number 2c + r, from its count at training; the write timing
  follows it (R191) -/
  dqsAdj : Vector Int 4 := Vector.replicate 4 0
  selfRef : Bool := false
  selfRefAt : Time := 0
  /-- the latency tolerance as stated last (R193): the instant at which each Chapel's formatter needs a byte that is not
  buffered, the instant of the Nave's next read, and a request waiting -/
  needAt : Vector (Option Time) 4 := Vector.replicate 4 none
  naveAt : Option Time := none
  lpReq : Bool := false
  /-- the 64-bit word of the Moangex store that the scrub reads next; the words read in the
  powered time since `scrubFrom` and the time `scrubUp` before it, and the last read taken ahead of writes (R218) -/
  scrub : Nat := 0
  scrubDone : Nat := 0
  scrubFrom : Time := 0
  scrubUp : Nat := 0
  scrubAt : Time := 0
  /-- 64-bit words that hold an uncorrectable error (R690): of LPDDR4X, the Undercroft, the Moangex store, the retention
  SRAM; and words of the Moangex store with one bit in error (R217) -/
  ueLp : List Nat := []
  ueUnder : List Nat := []
  ueMoa : List Nat := []
  ueRet : List Nat := []
  oneMoa : List Nat := []
  deriving DecidableEq, Repr, Inhabited

/-- An open service session (R503 to R505): its flags and times. -/
structure Session where
  flags : Word
  opened : Time
  last : Time
  deriving DecidableEq, Repr, Inhabited

/-- The Cloister's state for one requester: a tenant, or the UDS server. -/
structure CloReq where
  session : Option Session := none
  /-- the nonce issued last, and when -/
  nonce : Option (List Byte × Time) := none
  fails : Nat := 0
  busyUntil : Option Time := none
  deriving DecidableEq, Repr, Inhabited

/-- The working state of the CTR_DRBG: its key and its counter block V (R473). -/
structure Drbg where
  key : BitVec 256 := 0
  v : Nat := 0
  deriving DecidableEq, Repr, Inhabited

/-- The Cloister (15_cloister). `otp` is its 2 KiB of one-time memory. -/
structure CloisterSt where
  otp : Mem := []
  reqs : Vector CloReq 5 := Vector.replicate 5 {}
  /-- TRNG failures of the last second, and ERROR (R500) -/
  trngFails : List Time := []
  trngError : Bool := false
  drbg : Drbg := {}
  drbgReqs : Nat := 0
  drbgAt : Time := 0
  glitches : List Time := []
  /-- the content key of the transfer (R486) -/
  cek : Option (List Byte) := none
  /-- the lifecycle state in force: 0 Blank, 1 Provisioned, 2 Locked, 3 Returned; applied from OTP at a start -/
  life : Nat := 0
  /-- DUK_KILL as read at the last start (R482) -/
  dukOff : Bool := false
  /-- DBG_OFF as read at the last start (R480) -/
  dbgOff : Bool := false
  /-- LIFECYCLE_SET to post at Bell 1: old state -/
  lifePost : Option Nat := none
  deriving DecidableEq, Repr, Inhabited

/-- Journal states (R522). -/
inductive JState
  | idle | receiving | staged | armed | trial
  deriving DecidableEq, Repr, Inhabited

/-- A journal record (R522); `trialArea` is 0 A, 1 B, 3 none. -/
structure JRec where
  jseq : Word := 0
  state : JState := .idle
  content : Nat := 0
  boot : Nat := 0
  trials : Nat := 0
  unit : Nat := 0
  phase : Nat := 0
  area : Nat := 0
  trialArea : Nat := 3
  verBoot : Word := 0
  verOther : Word := 0
  hdrHash : List Byte := List.replicate 32 0
  deriving DecidableEq, Repr, Inhabited

/-- Routes of a header (R550). -/
inductive Route
  | uds | mailbox | svc
  deriving DecidableEq, Repr, Inhabited

/-- A CHECK in progress (R526). -/
structure ChkJob where
  route : Route
  ten : Option Ten
  start : Time
  deriving DecidableEq, Repr, Inhabited

/-- An activation in progress (R538, R540). -/
inductive ActPhase
  /-- verification of the Staging image -/
  | verify
  /-- verified and, for HANDOVER, imported: waiting for the Bell -/
  | ready
  /-- ACTIVATE only: the pause is announced, its first dark frame follows -/
  | pause
  /-- ACTIVATE only: programs loaded, waiting for the resume Bell -/
  | loaded
  deriving DecidableEq, Repr, Inhabited

/-- An accepted ACTIVATE or HANDOVER. -/
structure ActJob where
  handover : Bool
  start : Time
  phase : ActPhase := .verify
  /-- the Bell b + 1 from which emission is dark -/
  dark : Nat := 0
  darkAt : Time := 0
  /-- the resume or handover Bell, once announced -/
  due : Option Nat := none
  /-- resume on the Active image: the new image failed (R542) -/
  failed : Bool := false
  /-- asked for over UDS -/
  uds : Bool := false
  deriving DecidableEq, Repr, Inhabited

/-- A whole-image load over the service port (R533, R633). -/
structure LoadJob where
  ten : Ten
  /-- stream bytes accepted, and those not yet part of a complete header or chunk -/
  got : Nat := 0
  part : List Byte := []
  last : Time
  deriving DecidableEq, Repr, Inhabited

/-- Diagnostic sessions (R529). -/
inductive UdsMode
  | default | programming | extended
  deriving DecidableEq, Repr, Inhabited

/-- The UDS server (R529 to R532). -/
structure UdsSt where
  mode : UdsMode := .default
  lastReq : Time := 0
  /-- RequestDownload in force: the next chunk -/
  next : Option Nat := none
  /-- the next block sequence counter, and the chunk of the previous one -/
  ctr : Nat := 1
  prev : Option (Nat × Nat) := none
  /-- results of the last run of a routine: its identifier, and its outcome bytes -/
  results : List (Nat × List Byte) := []
  /-- the last answer sent, and the answer of the channel hardware in Vigil -/
  answer : List Byte := []
  held : Option (List Byte) := none
  pending78 : Bool := false
  deriving DecidableEq, Repr, Inhabited

/-- The update service (16_update). -/
structure UpdateSt where
  jrec : JRec := {}
  /-- the image that runs is not the one that BOOT names: a fallback start, or an ACTIVATE between its dark Bell and its
  resume Bell (R490, R491, R540) -/
  runOther : Bool := false
  /-- no settings area is in use (R534) -/
  noArea : Bool := true
  /-- the journal holds a valid record (R523), and the log slot of the next one -/
  jpos : Nat := 0
  check : Option ChkJob := none
  act : Option ActJob := none
  load : Option LoadJob := none
  /-- a swap is due or in progress -/
  swapOn : Bool := false
  /-- UPD_ACTIVE or UPD_REVERTED due at Bell 1: (code, payload) -/
  postAt1 : Option (Nat × Word × Word × Word × Word) := none
  uds : UdsSt := {}
  deriving DecidableEq, Repr, Inhabited

/-- An accumulator (R552): its metric, bins with residues, and its figures. -/
structure Accum where
  code : Nat
  bins : List Nat := List.replicate 32 0
  res : List Nat := List.replicate 32 0
  shift : Nat := 0
  samples : Nat := 0
  sum : Nat := 0
  minV : Nat := 0
  minT : Nat := 0
  maxV : Nat := 0
  maxT : Nat := 0
  first : Nat := 0
  last : Nat := 0
  deriving DecidableEq, Repr, Inhabited

/-- A record before it has a slot (R554, R555): `body` has 40 bytes. -/
structure RelRec where
  kind : Nat
  src : Nat
  code : Nat
  time : Nat
  unset : Bool
  fault : Bool
  rep : Nat := 0
  body : List Byte
  deriving DecidableEq, Repr, Inhabited

/-- A freeze of the view (R571). -/
structure Freeze where
  ten : Ten
  ms : Nat
  start : Time
  startT : Nat
  lost : Nat := 0
  deriving DecidableEq, Repr, Inhabited

/-- The Reliquary (17_reliquary). `log` holds the buffered records with their slots. -/
structure ReliqSt where
  /-- ERA and NEXT; `scanned` once the scan of R563 has completed -/
  era : Nat := 0
  next : Nat := 1
  /-- the newest record of the log, as it stands (R557) -/
  newest : Option RelRec := none
  newestDirty : Bool := false
  /-- records in the buffer, oldest first, with their slots -/
  buf : List (Nat × RelRec) := []
  full : Bool := false
  fullRec : Option RelRec := none
  fullDirty : Bool := false
  drops : Nat := 0
  hold : List RelRec := []
  freeze : Option Freeze := none
  thawAt : Option Time := none
  accs : List Accum := []
  tags : Vector (BitVec 16) 4 := Vector.replicate 4 0
  /-- occurrences waiting while no aisle runs (R565), and the losses not yet reported -/
  occ : List RelRec := []
  occLost : Nat := 0
  bufLost : Nat := 0
  /-- a flush is due or running; FLUSH_LEFT and the failure time kept in the always-on domain (R567) -/
  flush : Bool := false
  flushLeft : Nat := 0
  failTime : Nat := 0
  onVbak : Bool := false
  vbakFrom : Nat := 0
  /-- ms of the last time on VBAK, until a start records it (R568) -/
  vbakMs : Option Nat := none
  /-- BELLNO[19:0] became 0: the accumulators close (R553) -/
  closeDue : Bool := false
  deriving DecidableEq, Repr, Inhabited

/-- The chain settings in force (R602). -/
structure ChainCfg where
  en : Bool := true
  follow : Bool := true
  stepBells : Nat := 1
  probes : List Nat := [0x7000, 0, 0, 0]
  deriving DecidableEq, Repr, Inhabited

/-- A chain port. -/
structure ChainPort where
  up : Bool := false
  delay : Nat := 0
  deriving DecidableEq, Repr, Inhabited

/-- How a frame ends (R582, R583): K29.7 with a good CRC, K29.7 with a CRC that this node finds wrong, or K30.7. -/
inductive FrameEnd
  | good
  | badCrc
  | k30
  deriving DecidableEq, Repr, Inhabited

/-- A chain frame (R582). -/
structure ChFrame where
  type : Nat
  up : Bool := false
  bc : Bool := false
  dest : Nat := 0
  src : Nat := 0
  tnt : Fin 4 := 0
  words : List Word := []
  ending : FrameEnd := .good
  deriving DecidableEq, Repr, Inhabited

/-- A queued unicast message (R592). -/
structure ChMsg where
  seq : Word
  mseq : Word
  dest : Nat
  words : List Word
  /-- instant of the last sending, absent before the first, and sendings made -/
  sent : Option Time := none
  tries : Nat := 0
  deriving DecidableEq, Repr, Inhabited

/-- A received message. -/
structure ChRx where
  src : Nat
  words : List Word
  deriving DecidableEq, Repr, Inhabited

/-- The sweep a node takes part in or whose results it holds (R596, R597, R600). -/
structure SweepRes where
  id : Nat
  steps : Nat
  stepBells : Nat
  /-- head BELLNO of step 0 -/
  start : Word
  done : List (List Word) := []
  complete : Bool := false
  /-- stopped: the chain Bell was lost -/
  held : Bool := false
  /-- losing the chain Bell, the node counts local Bells to the end of this step -/
  lostStep : Bool := false
  units : Nat := 0
  /-- first unit of the capture pool -/
  first : Nat := 0
  deriving DecidableEq, Repr, Inhabited

/-- The sweep that node 0 runs (R598). -/
structure SweepRun where
  ten : Ten
  id : Nat
  first : Nat
  last : Nat
  steps : Nat
  start : Word
  stepBells : Nat
  reports : List (Nat × Nat) := []
  break' : Option Nat := none
  /-- instant of the last step's Bell, once fired -/
  endAt : Option Time := none
  posted : Bool := false
  deriving DecidableEq, Repr, Inhabited

/-- The Halser chain (18_halser_chain). -/
structure ChainSt where
  cfg : ChainCfg := {}
  u : ChainPort := {}
  d : ChainPort := {}
  /-- address, absent while unaddressed -/
  addr : Option Nat := some 0
  length : Nat := 1
  following : Bool := false
  lastMark : Option Time := none
  /-- a BELL mark is expected at this instant -/
  expect : Option Time := none
  cbOff : Word := 0
  /-- marks are lost: the node runs on its local Bell after a loss -/
  lost : Bool := false
  lossAt : Time := 0
  skew : Int := 0
  /-- instants at which a following node announces and fires (R585) -/
  annAt : Option Time := none
  fireAt : Option Time := none
  floors : List (Nat × Nat) := []
  floorSent : Nat := 0
  mseq : Vector Word 4 := Vector.replicate 4 0
  tx : Vector (List ChMsg) 4 := Vector.replicate 4 []
  rx : Vector (List ChRx) 4 := Vector.replicate 4 []
  /-- MSEQ last delivered, by (sender, tenant) -/
  seen : List ((Nat × Nat) × Word) := []
  sweep : Option SweepRes := none
  run : Option SweepRun := none
  /-- a SWEEP_FETCH from node 0 in progress: steps gathered -/
  fetched : List (Nat × List Word) := []
  fetchFor : Option (Ten × Nat × Nat × Nat × Nat) := none
  stSent : Nat := 0
  stDeliv : Nat := 0
  stFail : Nat := 0
  stDup : Nat := 0
  /-- frames sent on U and on D, oldest first, and marks sent on D (1 ANNOUNCE, 2 BELL) with their instants -/
  outU : List ChFrame := []
  outD : List ChFrame := []
  marks : List (Nat × Time) := []
  /-- MSG frames kept in Vigil (R601), with the port they came by -/
  held : List (Bool × ChFrame) := []
  deriving DecidableEq, Repr, Inhabited

/-- A tenant's view of the Gallery. -/
structure GalTen where
  codes : Vector Nat 48 := Vector.replicate 48 0
  /-- accepted assignments and trace mask, in force from the next Bell (R620) -/
  pend : List (Fin 48 × Nat) := []
  tren : Nat := 0
  trenPend : Option Nat := none
  holding : Option (Nat × Word) := none
  hstale : Bool := false
  deriving DecidableEq, Repr, Inhabited

/-- The Gallery (19_gallery): 64 fixed and 4 x 48 assignable counters, the trace FIFO with the bytes not yet
sent, and the packets dropped since the last DROP packet. -/
structure GallerySt where
  fixed : Vector (BitVec 64) 64 := Vector.replicate 64 0
  assign : Vector (Vector (BitVec 64) 48) 4 := Vector.replicate 4 (Vector.replicate 48 0)
  tens : Vector GalTen 4 := Vector.replicate 4 {}
  fifo : List Byte := []
  /-- instant up to which the FIFO has been drained -/
  fifoAt : Time := 0
  /-- Vigil: nothing counts until the first Bell after the exit (R616) -/
  off : Bool := false
  dropped : Nat := 0
  deriving DecidableEq, Repr, Inhabited

/-- Ports with framed operations or PCIe functions, as sources of accesses. -/
inductive HostPort
  | spi0 | spi1 | can0 | can1 | svc
  | pf (n : Ten)
  deriving DecidableEq, Repr, Inhabited

/-- A framed request (R622). -/
structure FReq where
  op : Byte
  tag : Byte
  nwm1 : BitVec 16
  addr : Word
  data : List Word := []
  /-- the frame check was good -/
  crcOk : Bool := true
  /-- the host raised SPIn_CS_N before the response (R626) -/
  skip : Bool := false
  /-- CAN: a classical frame (R630) -/
  classical : Bool := false
  /-- service port: the host drives SVC_CTS_N high once it has sent the request (R631) -/
  ctsHigh : Bool := false
  deriving DecidableEq, Repr, Inhabited

/-- A framed response (R624). -/
structure FResp where
  op : Byte
  tag : Byte
  status : Nat
  flags : Nat
  data : List Word
  deriving DecidableEq, Repr, Inhabited

/-- A write held in Vigil (R640): framed, or a PCIe write of BAR0 or BAR2. -/
inductive HeldWrite
  | framed (r : FReq)
  | bar (bar2 : Bool) (addr : Nat) (bytes : List (Option Byte))
  deriving DecidableEq, Repr, Inhabited

/-- The state of a framed port. -/
structure PortSt where
  accepted : Nat := 0
  refused : Nat := 0
  errSince : Bool := false
  lastOk : Time := 0
  lost : Bool := false
  resp : Option FResp := none
  /-- instant of the last notification sent or due to be sent (CAN, service port; R639) -/
  noteAt : Option Time := none
  held : List HeldWrite := []
  deriving DecidableEq, Repr, Inhabited

/-- A CAN channel. -/
structure CanSt where
  busOff : Bool := false
  tec : Nat := 0
  rec' : Nat := 0
  deriving DecidableEq, Repr, Inhabited

/-- A PCIe function. -/
structure PfSt where
  mse : Bool := false
  lost : Bool := false
  /-- MSI-X: vectors 0 and 1 as (address, data, masked), and the pending bits -/
  msix : Vector (Nat × Word × Bool) 2 := Vector.replicate 2 (0, 0, true)
  pba : Vector Bool 2 := Vector.replicate 2 false
  /-- MSI-X messages sent, oldest first -/
  sent : List (Nat × Word) := []
  /-- data of the last completion -/
  rdata : List Word := []
  held : List HeldWrite := []
  discarded : Nat := 0
  aer : Word := 0
  deriving DecidableEq, Repr, Inhabited

/-- CAN settings of the host-port record (R651). -/
structure CanCfg where
  nom : Nat := 2
  dat : Nat := 1
  uds : Bool := false
  ext : Bool := false
  treq : Nat := 0
  trsp : Nat := 0
  udsReq : Nat := 0
  udsRsp : Nat := 0
  spN : Nat := 80
  spD : Nat := 75
  deriving DecidableEq, Repr, Inhabited

/-- The host-port settings in force (R651). -/
structure HostCfg where
  /-- SPI0, SPI1, CAN0, CAN1, service port -/
  linkMs : Vector Nat 5 := Vector.replicate 5 0
  speed : Nat := 3
  lanes : Nat := 2
  ssvid : Nat := 0x1F5A
  ssid : Nat := 0x0715
  csiLanes : Nat := 4
  csiMap : Nat := 0xE4
  csiPol : Nat := 0
  can : Vector CanCfg 2 := #v[{ treq := 0x6C0, trsp := 0x6C1 }, { treq := 0x6C4, trsp := 0x6C5 }]
  deriving DecidableEq, Repr, Inhabited

/-- A tenant's mailbox (R645). -/
structure Mailbox where
  len : Nat := 0
  busy : Bool := false
  ready : Bool := false
  alen : Nat := 0
  token : Nat := 0
  answer : Nat := 0
  idx : Nat := 0
  buf : List Word := []
  /-- the pending request: its code, its token, its arguments and its submission -/
  pend : Option (Nat × Nat × List Word × Time) := none
  deriving DecidableEq, Repr, Inhabited

/-- The host ports (20_host_ports). -/
structure PortsSt where
  cfg : HostCfg := {}
  spi : Vector PortSt 2 := Vector.replicate 2 {}
  can : Vector PortSt 2 := Vector.replicate 2 {}
  svc : PortSt := {}
  /-- SVC_CTS_N as the host drove it last, the response bytes that wait for it to be low, and the bytes sent on SVC_TXD,
  oldest first (R631) -/
  svcCtsN : Bool := false
  svcTx : List Byte := []
  svcOut : List Byte := []
  canSt : Vector CanSt 2 := Vector.replicate 2 {}
  pf : Vector PfSt 4 := Vector.replicate 4 {}
  dllUp : Bool := false
  dllDownAt : Option Time := none
  perst : Bool := false
  speed : Nat := 0
  width : Nat := 0
  csiErr : Word := 0
  box : Vector Mailbox 4 := Vector.replicate 4 {}
  /-- the value last returned to each tenant by a register read command -/
  rdata : Vector Word 4 := Vector.replicate 4 0
  deriving DecidableEq, Repr, Inhabited

end Sys2Proof.Machine
end

