-- ==== Sys2Proof/Machine/TypesInput.lean ====
section
/-!
DEFINITION. What comes from outside with a command: samples, conditions found by comparators, link events.
Every value that a sensor, an engine, a cable or a memory cell supplies is an operand of the command that takes
it, so nothing the block does not compute is fixed by the model.
-/

namespace Sys2Proof.Machine

/-- The outcome of the sentinel's recompute of a frame's pair (R245, R246, R693): the results agreed; the owner, or
the checker, differs from the other two; no two agree; the run was abandoned. -/
inductive SentRes
  | agree | owner | checker | none' | late
  deriving DecidableEq, Repr, Inhabited

/-- Inputs of BELL_FIRE: the 64-bit words of the memories whose cells have turned uncorrectable since the last Bell
(LPDDR4X, Undercroft, retention SRAM, Moangex store), those of the Moangex store with one bit turned, and the reads of each
memory that were corrected (log entry 96). -/
structure CellIn where
  lp : List Nat := []
  under : List Nat := []
  ret : List Nat := []
  moa : List Nat := []
  one : List Nat := []
  corrected : Vector Nat 4 := Vector.replicate 4 0
  deriving DecidableEq, Repr, Inhabited

/-- Inputs of SELF_REFRESH_EXIT, what the clients state (R193): T_c of each running Chapel and T_n, in steps of 2.5 ns, and
a request waiting. A Chapel that is not listed states 0. -/
structure TolIn where
  chaps : List (Chap × Nat) := []
  nave : Nat := 0
  req : Bool := false
  deriving DecidableEq, Repr, Inhabited

/-- Inputs of BELL_ANNOUNCE: the half periods that each Scan Chapel's phase loop has measured since the last one, in 1/16
pixel-clock periods (R353), and the sentinel's outcome. -/
structure AnnIn where
  halves : List (Chap × List Nat) := []
  sentinel : SentRes := .agree
  deriving DecidableEq, Repr, Inhabited

/-- Inputs of BAY_ECC_ERROR: the band, and the number of the block among the bay's blocks of it (R247). -/
structure BlkIn where
  band : Fin 25
  blk : Nat
  deriving DecidableEq, Repr, Inhabited

/-- Inputs of BAND_READ_POINT: whether the band is complete, and for band 0 of a Scan Chapel the time from t_B + 26 µs to the
first turning point, as the phase loop foresees it (R256, R285). -/
structure BandIn where
  done : Bool
  lead : Nat := 0
  deriving DecidableEq, Repr, Inhabited

/-- Inputs of ARRAY_SLOT_START: the Chapel, and the sample of its pulse's sink (R351). -/
structure SlotIn where
  chap : Chap
  y : BitVec 14
  deriving DecidableEq, Repr, Inhabited

/-- Inputs of FRAME_DONE: bits that the engine stream carried turned in a rectangle's serialised data, by (rectangle, bit),
and bits that a later fetch of a plane read otherwise, by (rectangle, slot, bit) (R274, R276). -/
structure DoneIn where
  stream : List (Fin 16 × Nat) := []
  refetch : List (Fin 16 × Nat × Nat) := []
  deriving DecidableEq, Repr, Inhabited

/-- What an armed interlock senses (R296): a turning-point peak, the time since the last turning point, a slow-axis code with
the time for which it has stayed outside the window, or SCn_LOCK_N low. The fifth condition is the Chapel's own leaving
of RUN. -/
inductive TripIn
  | peak (v : BitVec 14)
  | turning (gap : Nat)
  | slow (v : BitVec 14) (held : Nat)
  | lock
  | state
  deriving DecidableEq, Repr, Inhabited

/-- What ends a phase of a start sequence (R291, R292): SCn_LOCK_N as sampled, the resonance found in Hz, and the periods for
which the phase has been locked. -/
structure StartSeqIn where
  lock : Bool := false
  freq : Nat := 0
  periods : Nat := 0
  deriving DecidableEq, Repr, Inhabited

/-- Inputs of CHIME_TICK: feedback samples by (slot, channel), and the overrun cause of a slot
(1 LOAD, 2 FEEDBACK, 3 ECC; R362 to R364). -/
structure ChimeIn where
  fb : List ((Slot × Fin 3) × Nat) := []
  ovr : List (Slot × Nat) := []
  deriving DecidableEq, Repr, Inhabited

/-- A video frame at its Frame End (R235). -/
structure CsiFrame where
  vc : Fin 4
  dtype : Nat
  w : Nat
  h : Nat
  whole : Bool
  bytes : List Byte
  deriving DecidableEq, Repr, Inhabited

/-- What a UDS transport frame in Vigil is (R532). -/
inductive UdsFrame
  | single (req : List Byte)
  | multi
  deriving DecidableEq, Repr, Inhabited

/-- What a start finds: the straps as sampled (R664), and the Lecterns and bays that fail their self-tests (R115,
R248). -/
structure StartIn where
  clkSel : Bool := false
  testEn : Bool := false
  badLecterns : List Nat := []
  badBays : List (Fin 4) := []
  deriving DecidableEq, Repr, Inhabited

end Sys2Proof.Machine
end

