-- ==== Sys2Proof/Syntax.lean ====
section
/-!
DEFINITION. The commands of the VQ7, one constructor per row of spec/opcode_table.json. A command of a ring
names the ring whose Lectern stands at that instruction (R94, R128); a management request names the tenant whose
mailbox holds it (R646); an event carries what the outside supplies with it; an event that the block raises itself
when its time has come carries nothing, and stands last.
-/

namespace Sys2Proof

open Machine

/-- The commands. -/
inductive Instr
  /-- A host write to a register that has no behaviour of its own: whole aligned words are applied with RSV bits ignored, and partial or unassigned-offset writes are discarded (R21). -/
  | registerWrite (p : HostPort) (addr : Nat) (be : BitVec 4) (v : Word)
  /-- A read of BELLNO_LO returns BELLNO[31:0] and latches BELLNO[47:32] into the reading tenant's holding register (R45). -/
  | bellnoLoRead (p : HostPort)
  /-- A read of BELLNO_HI returns and consumes the holding register, or returns the live value with STALE set (R50). -/
  | bellnoHiRead (p : HostPort)
  /-- The Bell generator announces the next Bell once the floor, commit and ceiling conditions hold (R62). -/
  | bellAnnounce (x : AnnIn)
  /-- The Bell fires: BELLNO increments, BELL_LAST updates, budgets refill and reloads occur (R66). -/
  | bellFire (x : CellIn)
  /-- A Chime fires on a group, and the due loop steps are queued (R71). -/
  | chimeTick (g : Fin 4) (x : ChimeIn)
  /-- The ring waits for a Bell point, relative or absolute (R80). -/
  | waitb (r : RingId)
  /-- An action is queued for the latch step of a target Bell (R75). -/
  | atq (r : RingId)
  /-- The ring waits for retirement, freeze, showing or AT completion (R79). -/
  | fence (r : RingId)
  /-- The tenant's pending changes are closed into a commit for the next Bell (R61). -/
  | commit (r : RingId)
  /-- The tenant starts or stops taking part in pacing the Bell, naming its commit ring (R84). -/
  | bpart (r : RingId)
  /-- A SAFETY tenant requests a Bell floor and ceiling (R85). -/
  | bwin (r : RingId)
  /-- Sets a Chime group's rate from the next announcement (R86). -/
  | chime (r : RingId)
  /-- The running aisle gives no heartbeat for 2 ms, and a takeover is prepared (R53). -/
  | aisleWatchdogExpiry (ecc : Bool)
  /-- A PRODUCE doorbell makes ring words up to IDX available to the Lectern (R118). -/
  | doorbellProduce (t : Ten) (r : RingId) (idx : Nat)
  /-- A RESTART doorbell requests restart of a faulted ring at the next Bell (R118). -/
  | doorbellRestart (t : Ten) (r : RingId) (idx : Nat)
  /-- A REBIND doorbell holds a spare Lectern and requests the move at the next Bell (R114). -/
  | doorbellRebind (t : Ten) (r : RingId) (idx : Nat)
  /-- A TENANT_RESET write requests a tenant reset (R117). -/
  | tenantResetReq (t : Ten) (v : Word)
  /-- A kick restarts the tenant's watchdog period (R691). -/
  | tenKick (t : Ten) (v : Word)
  /-- The host advances EVQ_RD; an out-of-range value is discarded (R120). -/
  | evqRdWrite (t : Ten) (v : Word)
  /-- When space opens after drops, EVQ_OVERFLOW is written before normal posting resumes (R106). -/
  | evqOverflow (t : Ten)
  /-- The Lectern fetches a packet header and SEQ and checks them (R94). -/
  | packetStart (r : RingId)
  /-- An uncorrectable error or decode mismatch in a Lectern faults its ring with cause LECTERN and retires it (R114). -/
  | lecternFault (r : RingId)
  /-- Does nothing (R151). -/
  | nop (r : RingId)
  /-- Branches within the packet on a predicate condition (R151). -/
  | br (r : RingId)
  /-- Decrements a register and branches while it is non-zero (R151). -/
  | djnz (r : RingId)
  /-- Posts SIGNAL with a code and a register value (R151). -/
  | sig (r : RingId)
  /-- Adds two registers (R152). -/
  | add (r : RingId)
  /-- Subtracts two registers (R152). -/
  | sub (r : RingId)
  /-- Writes the low 32 bits of a product (R152). -/
  | mul (r : RingId)
  /-- Bitwise AND of two registers (R152). -/
  | andd (r : RingId)
  /-- Bitwise OR of two registers (R152). -/
  | orr (r : RingId)
  /-- Bitwise XOR of two registers (R152). -/
  | xorr (r : RingId)
  /-- Shift left by a register count (R152). -/
  | shl (r : RingId)
  /-- Logical shift right by a register count (R152). -/
  | shr (r : RingId)
  /-- Arithmetic shift right by a register count (R152). -/
  | sar (r : RingId)
  /-- Unsigned minimum (R152). -/
  | minu (r : RingId)
  /-- Unsigned maximum (R152). -/
  | maxu (r : RingId)
  /-- Signed minimum (R152). -/
  | mins (r : RingId)
  /-- Signed maximum (R152). -/
  | maxs (r : RingId)
  /-- Adds a sign-extended immediate (R152). -/
  | addi (r : RingId)
  /-- Multiplies by a sign-extended immediate (R152). -/
  | muli (r : RingId)
  /-- AND with a zero-extended immediate (R152). -/
  | andi (r : RingId)
  /-- OR with a zero-extended immediate (R152). -/
  | ori (r : RingId)
  /-- XOR with a zero-extended immediate (R152). -/
  | xori (r : RingId)
  /-- Shift left by an immediate count (R152). -/
  | shli (r : RingId)
  /-- Logical shift right by an immediate count (R152). -/
  | shri (r : RingId)
  /-- Arithmetic shift right by an immediate count (R152). -/
  | sari (r : RingId)
  /-- Loads a sign-extended 16-bit immediate (R152). -/
  | movi (r : RingId)
  /-- Replaces the upper half of a register with an immediate (R152). -/
  | movhi (r : RingId)
  /-- Loads a 32-bit immediate (R152). -/
  | movw (r : RingId)
  /-- Compares two registers into a predicate (R152). -/
  | cmp (r : RingId)
  /-- Compares a register with an immediate into a predicate (R152). -/
  | cmpi (r : RingId)
  /-- Reads a system value such as BELL or BUDGET_LEFT into registers (R129). -/
  | rds (r : RingId)
  /-- Defines or redefines a surface descriptor (R153). -/
  | sdef (r : RingId)
  /-- Names the base and generation of a delta surface (R156). -/
  | sref (r : RingId)
  /-- Sets a surface generation, frozen with the next commit (R203). -/
  | sgen (r : RingId)
  /-- Releases a surface descriptor (R155). -/
  | sfree (r : RingId)
  /-- Writes registers into surface memory (R153). -/
  | sput (r : RingId)
  /-- Claims a layer with default settings (R148). -/
  | lnew (r : RingId)
  /-- Releases a layer at the freeze of its commit (R697). -/
  | ldel (r : RingId)
  /-- Sets a layer's source surface and rectangle (R153). -/
  | lsrc (r : RingId)
  /-- Sets a layer's destination rectangle (R153). -/
  | ldst (r : RingId)
  /-- Sets a layer's destination rectangle from registers (R153). -/
  | ldstr (r : RingId)
  /-- Shows or hides a layer (R153). -/
  | lvis (r : RingId)
  /-- Sets a layer's fallback mode (R157). -/
  | lfall (r : RingId)
  /-- Makes a layer eligible for the flatten cache (R212). -/
  | lflat (r : RingId)
  /-- Binds or unbinds a layer to a CSI-2 virtual channel (R234). -/
  | lvid (r : RingId)
  /-- Sets a Chapel's background colour (R159). -/
  | bgcol (r : RingId)
  /-- Claims, moves or releases a tenant check rectangle (R159). -/
  | chkr (r : RingId)
  /-- Sets the expected CRC of a check rectangle (R160). -/
  | chkv (r : RingId)
  /-- Sets a layer's blend mode and global alpha (R229). -/
  | lblend (r : RingId)
  /-- Sets a layer's edge treatment (R227). -/
  | lscale (r : RingId)
  /-- Sets a Chapel's dither mode (R230). -/
  | dith (r : RingId)
  /-- Sets a layer's shedding priority (R249). -/
  | lpri (r : RingId)
  /-- Writes a sink CODE or laser SPAN into the shadow copy (R337). -/
  | drvtgt (r : RingId)
  /-- Writes a sink's dimming duty (R337). -/
  | drvduty (r : RingId)
  /-- Writes a sink's dimming period and scrambling (R337). -/
  | drvdim (r : RingId)
  /-- Sets a sink's derating knee, slope and floor (R323). -/
  | drvderate (r : RingId)
  /-- Sets a rail's headroom target (R337). -/
  | drvrail (r : RingId)
  /-- Sets a loop slot's setpoint (R344). -/
  | clset (r : RingId)
  /-- Writes a coefficient into a slot's shadow set (R166). -/
  | clcoef (r : RingId)
  /-- Sets a slot's state, group and form, and applies the shadow set (R376). -/
  | clmode (r : RingId)
  /-- Sets a slot's output limits (R347). -/
  | cllim (r : RingId)
  /-- Sets a slot's repetitive-controller settings (R357). -/
  | clrep (r : RingId)
  /-- Requests storage of a slot's learned table in the inactive calibration bank (R371). -/
  | clsave (r : RingId)
  /-- Starts or stops a test signal on a slot (R358). -/
  | tinj (r : RingId)
  /-- Arms a response capture into the capture pool (R360). -/
  | tcap (r : RingId)
  /-- Releases a slot's capture buffer (R361). -/
  | trel (r : RingId)
  /-- Sets a Keystone segment on or off (R171). -/
  | kset (r : RingId)
  /-- Sets masked segments of a bank from a register (R171). -/
  | ksetm (r : RingId)
  /-- Places or removes a segment's mapping on a Chapel rectangle (R172). -/
  | kmap (r : RingId)
  /-- Starts copying a glyph from a surface into the inactive glyph buffer (R173). -/
  | kload (r : RingId)
  /-- A glyph copy completes, ready for the next latch (R173). -/
  | kloadCopyComplete (c : Chap) (q : Fin 16)
  /-- Arms or disarms the gated witness of a mapped rectangle with its bounds (R407). -/
  | kwit (r : RingId)
  /-- Requests storage of the Keystone store as the default pattern (R436). -/
  | kprime (r : RingId)
  /-- The default pattern write completes, and PRIME_STORED is posted (R175). -/
  | primeStored (ok : Bool)
  /-- Closes the tenant's accumulators and writes a tag record with a new tag (R559). -/
  | rtag (r : RingId)
  /-- Adds one sample to a tenant metric (R551). -/
  | rval (r : RingId)
  /-- Sets calendar time, writes a CLOCK record and posts RCLK_SET (R177). -/
  | rclk (r : RingId)
  /-- States the wake latency that the tenant tolerates (R178). -/
  | ptol (r : RingId)
  /-- Queues a chain message to a node or broadcasts it (R591). -/
  | hsend (r : RingId)
  /-- Takes the tenant's oldest received chain message into registers (R179). -/
  | hrecv (r : RingId)
  /-- Starts a measurement sweep over a node range from node 0 (R595). -/
  | hsweep (r : RingId)
  /-- Requests ACTIVATE or HANDOVER of the staged image (R536). -/
  | uact (r : RingId)
  /-- Confirms the trial image and raises the rollback floor (R545). -/
  | uconf (r : RingId)
  /-- Discards the staged or received image (R546). -/
  | udisc (r : RingId)
  /-- Gives the tenant's consent to another tenant's activation for a number of Bells (R182). -/
  | uallow (r : RingId)
  /-- Every 16 ms the LPDDR4X MR4 register is read (R186). -/
  | mr4Read (v : Nat)
  /-- Every 100 ms the DQS oscillator is read and write timing adjusted (R191). -/
  | dqsDriftRead (n : Vector (BitVec 16) 4)
  /-- Self-refresh exit starts when TOL falls to 8 µs or a request arrives (R194). -/
  | selfRefreshExit (x : TolIn)
  /-- An uncorrectable error in a bay's working buffer marks the bay for retirement (R247). -/
  | bayEccError (b : Fin 4) (c : Chap) (x : BlkIn)
  /-- A CSI-2 Frame End completes or discards a video frame (R235). -/
  | csiFrameEnd (f : CsiFrame)
  /-- At a band's read point an incomplete band is substituted under the underrun mode (R257). -/
  | bandReadPoint (c : Chap) (band : Fin 25) (x : BandIn)
  /-- A plane or line misses its fetch deadline and is generated (R270). -/
  | fetchLate (c : Chap) (n : Nat)
  /-- An Array slot starts with mirror reset and illumination pulse (R262). -/
  | arraySlotStart (x : SlotIn)
  /-- A Scan Chapel line starts at its turning point (R266). -/
  | scanLineStart (c : Chap) (left : Bool)
  /-- At frame done the rectangle CRCs are compared and frame events are posted (R275). -/
  | frameDone (c : Chap) (x : DoneIn)
  /-- A management request to start a Chapel with a profile (R305). -/
  | chStart (t : Ten)
  /-- A management request to stop a Chapel (R305). -/
  | chStop (t : Ten)
  /-- A management request to restart a Chapel with a checked new profile (R301). -/
  | chReconf (t : Ten)
  /-- Returns a Chapel's state, profile, HT and interlock status (R305). -/
  | chQuery (t : Ten)
  /-- At the announcement after a start request, the Chapel enters STARTING and runs its start sequence (R291). -/
  | chapelStartSequence (c : Chap) (x : StartSeqIn)
  /-- The start sequence completes, and the Chapel enters RUN (R291). -/
  | chapelStartComplete (c : Chap)
  /-- An orderly stop takes effect at an announcement, and the Chapel leaves RUN at t_B (R294). -/
  | orderlyStop (c : Chap)
  /-- The mirrors are parked, and the Chapel enters STOPPED (R295). -/
  | chapelParked (c : Chap)
  /-- An armed laser interlock condition turns the lasers off, latches the trip and causes a safe stop (R296). -/
  | interlockTrip (c : Chap) (x : TripIn)
  /-- ACn_RDY falls, and the Array Chapel makes a safe stop (R294). -/
  | engineReadyLoss (c : Chap)
  /-- The resonance lies outside its window for 64 periods, and the Chapel makes a safe stop (R287). -/
  | fastAxisFreqFault (c : Chap)
  /-- At the start of a dimming period a DIM sink reloads its active copy (R313). -/
  | dimPeriodReload (o : OutId)
  /-- Every 1 ms a rail adjusts V_SET from the least headroom (R319). -/
  | railStep (r : Fin 2) (h : List (OutId × List Nat))
  /-- A rail overcurrent or overvoltage stops the rail and its sinks (R321). -/
  | railFault (r : Fin 2) (volt : Bool)
  /-- Every 250 ms the lamp-board sensors are read over I²C and CEIL_D is recomputed (R322). -/
  | lampSensorRead (x : List (Nat × Option (Byte × Byte)))
  /-- A Keystone matrix row slot lights the row's segments in the takeover set (R327). -/
  | matrixRowSlot (x : List (Fin 12 × Nat))
  /-- Returns a light output's or rail's state (R338). -/
  | drvQuery (t : Ten)
  /-- Returns the matrix takeover, lit and OPEN sets (R338). -/
  | kmQuery (t : Ten)
  /-- Restarts a stopped rail at V_MIN (R338). -/
  | railRestart (t : Ten)
  /-- The bank header is written, and the new bank becomes active (R369). -/
  | calBankWriteDone (ok : Bool)
  /-- Returns a loop slot's state and figures (R378). -/
  | clQuery (t : Ten)
  /-- Returns bytes of a completed capture (R378). -/
  | capRead (t : Ten)
  /-- Returns the active bank and its directory (R378). -/
  | calQuery (t : Ten)
  /-- An input's deferral count reaches 64, and it enters RESERVED (R394). -/
  | kwReserved (k : Pd)
  /-- Returns a witness input's role, gains and measurements (R410). -/
  | kwQuery (t : Ten)
  /-- Starts gain calibration of a witness input over F frames (R411). -/
  | kwCal (t : Ten)
  /-- A wake source holds for its filter time in Vigil or Crypt (R420). -/
  | wakeDetect (w : WakeSrc)
  /-- A COLD, CRYPT_EXIT or POWER_RETURN start runs the start path to Bell 1 (R425). -/
  | startUp (x : StartIn)
  /-- Returns the power state, tolerances and start figures (R443). -/
  | pwrQuery (t : Ten)
  /-- Writes bytes into the prime surface area (R436). -/
  | primeWrite (t : Ten)
  /-- Writes the prime manifest from the SAFETY tenant's last frozen commit (R436). -/
  | primeSet (t : Ten)
  /-- Returns bytes of the prime-surface region (R443). -/
  | primeRead (t : Ten)
  /-- Due thermal channels convert, are cross-checked and set scope levels (R449). -/
  | thermalSample (x : List (Fin 10 × Nat))
  /-- An on-die comparator trips: outputs stop, the Reliquary flushes and the device enters Crypt (R460). -/
  | comparatorTrip (m : Fin 4)
  /-- 10 s after a trip, with both comparators cool, a held wake starts the device (R461). -/
  | tripHoldEnd (cool : Bool)
  /-- Every 1,000 ms in memory hold, one MR4 read decides whether the hold ends (R457). -/
  | memoryHoldCheck (v : Nat)
  /-- Returns thermal channel or scope status (R467). -/
  | thQuery (t : Ten)
  /-- Returns the lifecycle, keys and session state (R510). -/
  | cloQuery (t : Ten)
  /-- Checks and programs the provisioning record, owner key, DUK and first lifecycle step (R479). -/
  | provision (t : Ten)
  /-- An owner-signed request moves the device from Provisioned to Locked (R483). -/
  | lock (t : Ten)
  /-- Returns a fresh 32-byte nonce (R510). -/
  | cloChallenge (t : Ten)
  /-- An owner signature opens a service session (R504). -/
  | cloResponse (t : Ten)
  /-- Returns a DUK-signed identity statement (R489). -/
  | cloAttest (t : Ten)
  /-- A root-signed request kills the DUK and moves the device to Returned (R482). -/
  | return (t : Ten)
  /-- Programs a new owner key slot and revokes the current one (R481). -/
  | ownerRotate (t : Ten)
  /-- Returns random bytes from the DRBG (R510). -/
  | rngRead (t : Ten)
  /-- A TRNG health test fails; a third failure within one second enters ERROR (R500). -/
  | trngHealthFail (prop : Bool)
  /-- A clock or supply glitch aborts the Cloister operation (R509). -/
  | glitchDetect (supply : Bool)
  /-- Returns the journal record and transfer progress (R549). -/
  | updQuery (t : Ten)
  /-- Checks a transfer header and begins or resumes a transfer (R524). -/
  | updBegin (t : Ten)
  /-- Decrypts, writes and maps one body chunk (R525). -/
  | updChunk (t : Ten)
  /-- Starts the digest check of a fully received body (R526). -/
  | updCheck (t : Ten)
  /-- Arms the staged pair to boot at the next start (R536). -/
  | updArm (t : Ten)
  /-- Opens a whole-image load over the service port (R533). -/
  | updLoad (t : Ten)
  /-- UDS DiagnosticSessionControl changes the diagnostic session (R529). -/
  | udsSessionControl (m : List Byte)
  /-- UDS ReadDataByIdentifier returns the journal, chunk map or versions (R529). -/
  | udsReadData (m : List Byte)
  /-- UDS SecurityAccess requestSeed returns a Cloister nonce (R530). -/
  | udsRequestSeed (m : List Byte)
  /-- UDS SecurityAccess sendKey opens an update session on a valid signature (R530). -/
  | udsSendKey (m : List Byte)
  /-- UDS routine 0xFD10 begins a transfer with its header (R524). -/
  | udsRoutineBegin (m : List Byte)
  /-- UDS routine 0xFD11 runs the digest check (R526). -/
  | udsRoutineCheck (m : List Byte)
  /-- UDS routine 0xFD12 arms the staged pair (R536). -/
  | udsRoutineArm (m : List Byte)
  /-- UDS routine 0xFD13 requests ACTIVATE or HANDOVER (R536). -/
  | udsRoutineActivate (m : List Byte)
  /-- UDS routine 0xFD14 confirms the trial image (R545). -/
  | udsRoutineConfirm (m : List Byte)
  /-- UDS routine 0xFD15 discards the transfer or staged image (R546). -/
  | udsRoutineDiscard (m : List Byte)
  /-- UDS requestRoutineResults returns a routine's outcome (R529). -/
  | udsRoutineResults (m : List Byte)
  /-- UDS RequestDownload sets the starting chunk and size (R531). -/
  | udsRequestDownload (m : List Byte)
  /-- UDS TransferData carries the next chunk (R531). -/
  | udsTransferData (m : List Byte)
  /-- UDS RequestTransferExit ends the download (R529). -/
  | udsTransferExit (m : List Byte)
  /-- UDS TesterPresent keeps the session alive (R529). -/
  | udsTesterPresent (m : List Byte)
  /-- An unsupported UDS service is answered with NRC 0x11 (R529). -/
  | udsUnsupportedService (m : List Byte)
  /-- A UDS frame in Vigil wakes the device and is held or discarded (R532). -/
  | udsVigilFrame (f : UdsFrame)
  /-- Returns the log's era, NEXT and freeze state (R573). -/
  | relStatus (t : Ten)
  /-- Returns log slots from the view (R569). -/
  | relRead (t : Ten)
  /-- Fixes the view for a duration (R571). -/
  | relFreeze (t : Ten)
  /-- Ends the tenant's freeze (R572). -/
  | relThaw (t : Ten)
  /-- Starts a new era and discards the history (R574). -/
  | relErase (t : Ten)
  /-- Returns an open accumulator (R573). -/
  | relMetric (t : Ten)
  /-- A chain port completes its comma and ECHO exchanges and comes up (R578). -/
  | linkUp (d : Bool) (delay : Nat)
  /-- A chain port sees no valid symbol for 10 µs and goes down (R578). -/
  | linkDown (d : Bool)
  /-- An ENUM frame gives the node its address and is passed on plus one (R579). -/
  | enum (v : Nat)
  /-- An ENUM_TAIL frame returns the chain length (R579). -/
  | enumTail (d : Bool) (f : ChFrame)
  /-- An ANNOUNCE frame updates CB_OFF (R586). -/
  | announceFrame (d : Bool) (f : ChFrame)
  /-- A FLOOR frame gives node 0 a follower's Scan floor (R587). -/
  | floorFrame (d : Bool) (f : ChFrame)
  /-- A BREAK frame reports a D-port loss to node 0 (R599). -/
  | breakFrame (d : Bool) (f : ChFrame)
  /-- A chain MSG frame is forwarded or delivered in MSEQ order and acknowledged (R591). -/
  | msg (d : Bool) (f : ChFrame)
  /-- An ACK frame frees the sender's queued message (R592). -/
  | ack (d : Bool) (f : ChFrame)
  /-- An UNREACH frame fails the sender's message (R592). -/
  | unreach (d : Bool) (f : ChFrame)
  /-- A SWEEP_START frame allocates results and makes the node take part (R596). -/
  | sweepStart (d : Bool) (f : ChFrame)
  /-- A SWEEP_DONE frame reports a node's status to node 0 (R598). -/
  | sweepDone (d : Bool) (f : ChFrame)
  /-- A FETCH frame asks a node for held sweep steps (R603). -/
  | fetch (d : Bool) (f : ChFrame)
  /-- A DATA frame carries sweep results toward node 0 (R603). -/
  | data (d : Bool) (f : ChFrame)
  /-- An ECHO frame measures the cable delay of one hop (R578). -/
  | echo (d : Bool) (rt : Nat)
  /-- Returns the node's chain state (R603). -/
  | halQuery (t : Ten)
  /-- Reads held sweep results from a node (R603). -/
  | sweepFetch (t : Ten)
  /-- Releases held sweep results on nodes (R603). -/
  | sweepRelease (t : Ten)
  /-- A low-half counter read returns bits [31:0] and loads the holding register (R610). -/
  | counterLowRead (p : HostPort) (v : Fin 112)
  /-- A high-half read returns the holding register or the live value with HSTALE set (R611). -/
  | counterHighRead (p : HostPort) (v : Fin 112)
  /-- Returns the tenant's observation settings (R619). -/
  | galQuery (t : Ten)
  /-- Assigns a select code to one of the tenant's counters (R620). -/
  | galAssign (t : Ten)
  /-- Sets the tenant's trace classes (R620). -/
  | galTrace (t : Ten)
  /-- A framed request writes register words (R623). -/
  | wr (p : HostPort) (q : FReq)
  /-- A framed request reads register words (R623). -/
  | rd (p : HostPort) (q : FReq)
  /-- A framed request writes ring words, optionally followed by a PRODUCE doorbell (R623). -/
  | ring (p : HostPort) (q : FReq)
  /-- A framed request writes the tenant's LPDDR4X region (R623). -/
  | mwr (p : HostPort) (q : FReq)
  /-- A framed request reads the tenant's LPDDR4X region (R623). -/
  | mrd (p : HostPort) (q : FReq)
  /-- A framed request reads event records (R623). -/
  | evq (p : HostPort) (q : FReq)
  /-- A framed NOP returns only a response (R623). -/
  | framedNop (p : HostPort) (q : FReq)
  /-- A framed request carries the next part of a service-port image (R633). -/
  | load (p : HostPort) (q : FReq)
  /-- Submits a management request from the buffer (R646). -/
  | mbCmd (t : Ten) (v : Word)
  /-- Accesses a mailbox buffer word and advances MB_IDX (R645). -/
  | mbData (t : Ten) (w : Option Word)
  /-- Clears READY after an answer is read (R645). -/
  | mbDone (t : Ten) (v : Word)
  /-- Returns the requester's host-port status (R650). -/
  | hpQuery (t : Ten)
  /-- A Function Level Reset loses the function's tenant link (R638). -/
  | pcieFlr (n : Ten)
  /-- PCIE_PERST_N low loses every PCIe tenant's link (R638). -/
  | pciePerst (low : Bool)
  /-- A CAN channel goes bus-off (R629). -/
  | canBusOff (n : Fin 2)
  /-- After 128 × 11 recessive bits, the channel recovers from bus-off (R629). -/
  | canBusoffRecovery (n : Fin 2)
  /-- The always-on power-on reset ends, PWR_EN is driven and the straps are sampled (R663). -/
  | aonPorEnd (clk test : Bool)
  /-- The LPDDR4X verify pass or full training begun at a start completes, so the Nave begins composing, or on failure LPDDR4X stays unused and RETRAINED is recorded (R190). -/
  | lpddr4xTrainingDone (ok : Bool)
  /-- The prime manifest write requested by PRIME_SET completes, and PRIME_STATE SET_DONE or SET_FAILED is posted (R436). -/
  | primeSetDone (ok : Bool)
  /-- A 50 ns witness ADC slot converts one input: a dark sample, a foreground Keystone window granted round-robin, a background conversion or a reserved conversion (R382). -/
  | witnessAdcSlot (v : BitVec 14)
  /-- Every 60 s in Run and Idle, VBAK is measured and added as one sample to the VBAK_MV metric (R551). -/
  | vbakMvSample (mv : Nat)
  /-- The PCIe Data Link Layer goes down, or a hot reset occurs, and the 10 ms link-loss count for every PCIe tenant begins (R638). -/
  | pcieLinkDown (hot : Bool)
  /-- The PCIe Data Link Layer comes up with the function's Memory Space Enable set, and the tenant's host link has returned (R638). -/
  | pcieLinkUp (speed width : Nat)
  /-- A PCIe posted memory write to BAR2 writes the tenant's LPDDR4X region, such as surfaces, ring bodies or event queues, under R189, R636 and R690 (R635). -/
  | pcieBar2Write (n : Ten) (off : Nat) (bs : List (Option Byte))
  /-- A PCIe memory read of BAR2 returns region data, or 0 with MEM_UE posted for an uncorrectable word or when outside the region (R189). -/
  | pcieBar2Read (n : Ten) (off len : Nat)
  /-- At t_B − 250 µs the due AT actions run, and the Keystone store is then copied to the overlay stage (R138). -/
  | keystoneLatch
  /-- The standby aisle becomes the running aisle and pending mailbox requests are answered BUSY (R54). -/
  | aisleTakeover
  /-- At the next Bell the ring resumes from IDX, and RING_RESTARTED is posted (R118). -/
  | ringRestarted
  /-- At the next Bell the ring moves to the spare Lectern, and REBIND_DONE is posted (R114). -/
  | rebindDone
  /-- At the reset Bell, the tenant's layers, rings, queue, loops and targets return to their start state (R112). -/
  | tenantResetEffect
  /-- The watchdog period passes without a kick, and the tenant enters the fault state (R109). -/
  | tenantWatchdogExpiry
  /-- A port's link-loss criterion is met, and its tenant faults (R638). -/
  | hostLinkLost
  /-- The last sample of a capture is taken, and CAPTURE_DONE is posted (R361). -/
  | captureDone
  /-- In Idle, LPDDR4X enters self-refresh when TOL reaches 20 µs (R194). -/
  | selfRefreshEntry
  /-- The Moangex scrub reads and corrects the next word (R217). -/
  | scrubRead
  /-- A flatten entry unnamed for two Bells is freed (R214). -/
  | flattenEntryFree
  /-- At the next Bell a failing bay leaves service and bands are re-dealt (R247). -/
  | bayRetire
  /-- A start sequence not in RUN within its limit ends in a safe stop (R293). -/
  | startTimeout
  /-- A third consecutive mirror-loop overrun causes a safe stop of the Chapel (R365). -/
  | mirrorOverrunStop
  /-- A 64th consecutive overrun puts a non-mirror slot in HOLD (R366). -/
  | loopHeld
  /-- A calibration bank write starts with every pending storage request (R370). -/
  | calBankWrite
  /-- After F frames the new gains are computed and stored (R411). -/
  | kwCalDone
  /-- At an announcement, the Vigil entry stops the Chapels, saves state and powers domains off (R418). -/
  | vigilEntry
  /-- At an announcement, the Crypt entry stops the Chapels, flushes the Reliquary and drops PWR_EN (R422). -/
  | cryptEntry
  /-- Saved state is restored and the device returns to Run (R421). -/
  | vigilExit
  /-- PWR_GOOD falls or VDD_CORE drops: outputs stop and the always-on domain moves to VBAK (R438). -/
  | powerFail
  /-- The flush engine writes buffered records to the Moangex store (R566). -/
  | reliquaryFlush
  /-- Main power is qualified for 2 ms, and a POWER_RETURN start begins (R440). -/
  | powerReturn
  /-- VBAK falls below VBAK_AON, and the always-on domain stops (R441). -/
  | vbakLost
  /-- The DRBG is reseeded after 10 s or 2^20 requests (R501). -/
  | drbgReseed
  /-- A service session ends on idle time or lifetime expiry (R505). -/
  | sessionEnd
  /-- The 60 s BUSY lockout of a tenant's challenges ends (R506). -/
  | challengeLockoutEnd
  /-- The body digest completes, and STAGED or IDLE is recorded (R526). -/
  | updCheckDone
  /-- A service-port load breaks for over 1,000 ms and is abandoned (R533). -/
  | loadBreak
  /-- At the first Bell after state import, the standby aisle runs the new image (R538). -/
  | handoverBell
  /-- A failed verification or import abandons the handover (R539). -/
  | handoverAbandon
  /-- After verification, the update pause darkens the Chapels from the next Bell (R540). -/
  | updatePauseBegin
  /-- After the program load, emission resumes at the next Bell (R540). -/
  | updatePauseEnd
  /-- One 64 KiB unit of the slot exchange completes (R544). -/
  | swapUnit
  /-- The UDS session returns to default after 5,000 ms without a request (R529). -/
  | udsSessionTimeout
  /-- Metric accumulators close into HIST and EXTREME records (R553). -/
  | accumulatorClose
  /-- When space returns after losses, a BUFFER_LOST notice is appended (R565). -/
  | bufferLost
  /-- A freeze reaches its duration, and held records are appended (R572). -/
  | freezeExpiry
  /-- An ANNOUNCE mark makes a follower announce its Bell, and is forwarded (R585). -/
  | announceMark
  /-- A BELL mark makes a follower fire its Bell, and is forwarded (R585). -/
  | bellMark
  /-- A follower misses its BELL mark or loses U, and runs its local Bell (R588). -/
  | chainBellLoss
  /-- A unicast message is sent again after 250 ms, or fails at its third timeout (R592). -/
  | msgTimeout
  /-- At a step's closing Bell the node latches its four probe words (R597). -/
  | sweepStepLatch
  /-- 100 ms after the last step, node 0 posts SWEEP_END or SWEEP_PARTIAL (R598). -/
  | sweepEndTimeout
  /-- VAON falls below VAON_LOW, and the always-on domain moves to VBAK (R662). -/
  | vaonLow
  /-- PWR_GOOD is not high 40 ms after PWR_EN, and the device returns to Crypt (R671). -/
  | pwrGoodTimeout
  /-- A reference-clock fault stops the outputs, flushes the Reliquary and enters Crypt (R667). -/
  | refclkFault
  /-- The standby aisle finishes booting and holds the state of the last Bell, and UNIT_HEALTH.STANDBY_READY becomes 1 (R53). -/
  | standbyAisleReady
  /-- With PWR_EN low, VAON has been at or above VAON_OK for 2 ms, and the always-on domain switches back from VBAK to VAON (R662). -/
  | vaonReturn
  /-- The Vigil entry finishes saving state to LPDDR4X and retention SRAM, puts LPDDR4X into self-refresh and switches the domains off (R418). -/
  | vigilEntryComplete
  deriving DecidableEq, Repr

end Sys2Proof
end

