-- ==== Sys2Proof/Decode.lean ====
section
/-!
DEFINITION. The command that a word spells by the bits of spec/opcode_table.json. The table gives no row any
bits, so no word spells one. The decoding of Quagal words stands in Sys2Proof/Machine/Quagal.lean.
-/

namespace Sys2Proof

/-- The command spelled by an instruction of `nbits` bits whose bits are `w`: none, as no row has bits. -/
def decodeTableWord (_nbits _w : Nat) : Option Instr := none

end Sys2Proof
end

