-- ==== Sys2Proof/Machine/Crc.lean ====
section
/-!
DEFINITION. CRC-32 (08_scanout R272), CRC-16 (20_host_ports R628) and SHA-256 (15_cloister; FIPS 180-4).
-/

namespace Sys2Proof.Machine

/-- One bit of the reflected CRC-32. -/
def crc32Bit (c : BitVec 32) : BitVec 32 := if c.getLsbD 0 then (c >>> 1) ^^^ 0xEDB88320#32 else c >>> 1

/-- One byte of the CRC-32, least significant bit first. -/
def crc32Byte (c : BitVec 32) (b : Byte) : BitVec 32 :=
  crc32Bit (crc32Bit (crc32Bit (crc32Bit (crc32Bit (crc32Bit (crc32Bit (crc32Bit
    (c ^^^ b.setWidth 32))))))))

/-- CRC-32 (R272). -/
def crc32 (bs : List Byte) : Word := bs.foldl crc32Byte 0xFFFFFFFF#32 ^^^ 0xFFFFFFFF#32

/-- One bit of the CRC-16. -/
def crc16Bit (c : BitVec 16) : BitVec 16 := if c.getLsbD 15 then (c <<< 1) ^^^ 0x1021#16 else c <<< 1

/-- One byte of the CRC-16, most significant bit first. -/
def crc16Byte (c : BitVec 16) (b : Byte) : BitVec 16 :=
  crc16Bit (crc16Bit (crc16Bit (crc16Bit (crc16Bit (crc16Bit (crc16Bit (crc16Bit
    (c ^^^ (b.setWidth 16 <<< 8)))))))))

/-- CRC-16 (R628). -/
def crc16 (bs : List Byte) : BitVec 16 := bs.foldl crc16Byte 0xFFFF#16

/-! SHA-256 takes its constants from roots of primes: the first 32 bits behind the point of the square roots of the first
eight primes, and of the cube roots of the first sixty-four (FIPS 180-4, 4.2.2 and 5.3.3). -/

/-- `n` has no divisor from 2 up to its half. -/
def isPrime (n : Nat) : Bool := 2 ≤ n && (List.range (n / 2 + 1)).all (fun d => d < 2 || n % d != 0)

/-- The first sixty-four primes; the last is 311. -/
def shaPrimes : List Nat := (List.range 312).filter isPrime

/-- The greatest number below `2 ^ n` above `r` whose `k`-th power is at most `x`, bit by bit. -/
def rootBits (k x : Nat) : Nat → Nat → Nat
  | 0, r => r
  | n + 1, r => rootBits k x n (if (r + 2 ^ n) ^ k ≤ x then r + 2 ^ n else r)

/-- The 32 bits behind the point of the `k`-th root of `p`. -/
def rootFrac (k p : Nat) : Word := BitVec.ofNat 32 (rootBits k (p * 2 ^ (32 * k)) 40 0)

/-- The round constants. -/
def shaK : List Word := shaPrimes.map (rootFrac 3)

/-- The chaining value before the first block: eight words, as are the working words of a round. -/
def shaStart : List Word := (shaPrimes.take 8).map (rootFrac 2)

/-- The exclusive-OR of a word turned right by each of some numbers. -/
def turns (x : Word) (ns : List Nat) : Word := (ns.map x.rotateRight).foldl (· ^^^ ·) 0

/-- The message schedule in reverse: `n` words put before those there, each from the 2nd, 7th, 15th and 16th before it. -/
def shaSched : Nat → List Word → List Word
  | 0, ws => ws
  | n + 1, ws =>
    let near := ws.getD 1 0
    let far := ws.getD 14 0
    shaSched n (((turns near [17, 19] ^^^ (near >>> 10)) + ws.getD 6 0 + (turns far [7, 18] ^^^ (far >>> 3)) +
      ws.getD 15 0) :: ws)

/-- One round, with the sum of its constant and its schedule word: every working word moves one place on, the first and
the fifth taking what the round adds. -/
def shaRound (v : List Word) (kw : Word) : List Word :=
  let at' := fun (i : Nat) => v.getD i 0
  let pick := at' 6 ^^^ (at' 4 &&& (at' 5 ^^^ at' 6))
  let most := (at' 0 &&& at' 1) ||| (at' 2 &&& (at' 0 ||| at' 1))
  let add := at' 7 + turns (at' 4) [6, 11, 25] + pick + kw
  (add + turns (at' 0) [2, 13, 22] + most) :: ((v.set 3 (at' 3 + add)).take 7)

/-- The chaining value after a block of 64 bytes. -/
def shaBlock (v : List Word) (bs : List Byte) : List Word :=
  let first := (List.range 16).map (fun i => BitVec.ofNat 32 (ofBe ((bs.drop (4 * i)).take 4)))
  let sched := (shaSched 48 first.reverse).reverse
  List.zipWith (· + ·) v ((List.zipWith (· + ·) shaK sched).foldl shaRound v)

/-- The chaining value after `n` blocks of a padded message. -/
def shaBlocks : Nat → List Byte → List Word → List Word
  | 0, _, v => v
  | n + 1, bs, v => shaBlocks n (bs.drop 64) (shaBlock v (bs.take 64))

/-- SHA-256. -/
def sha256 (bs : List Byte) : List Byte :=
  let m := bs ++ [0x80#8] ++ List.replicate ((119 - bs.length % 64) % 64) 0#8 ++ beBytes 8 (8 * bs.length)
  (shaBlocks (m.length / 64) m shaStart).flatMap (fun w => beBytes 4 w.toNat)

end Sys2Proof.Machine
end

