-- ==== Sys2Proof/Machine/Crypto.lean ====
section
/-!
DEFINITION. The algorithms that 15_cloister R473 names by their standards: HMAC and HKDF over SHA-256, ECDSA and ECDH
on P-256, AES-256 in GCM, CTR_DRBG. Their tables and constants are those of the standards (PRESUMED, log entry 44).
-/

namespace Sys2Proof.Machine

/-! ### HMAC and HKDF (RFC 2104, RFC 5869) -/

/-- HMAC-SHA-256. -/
def hmac (key msg : List Byte) : List Byte :=
  let k := padTo 64 0 (if 64 < key.length then sha256 key else key)
  sha256 (k.map (· ^^^ 0x5C#8) ++ sha256 (k.map (· ^^^ 0x36#8) ++ msg))

/-- HKDF-SHA-256 with an output of 32 bytes. -/
def hkdf (ikm salt info : List Byte) : List Byte := hmac (hmac salt ikm) (info ++ [1])

/-! ### P-256 (FIPS 186-4) -/

/-- The prime, the order, and the curve's b. -/
def ecP : Nat := 0xFFFFFFFF00000001000000000000000000000000FFFFFFFFFFFFFFFFFFFFFFFF
def ecN : Nat := 0xFFFFFFFF00000000FFFFFFFFFFFFFFFFBCE6FAADA7179E84F3B9CAC2FC632551
def ecB : Nat := 0x5AC635D8AA3A93E7B3EBBD55769886BC651D06B0CC53B0F63BCE3C3E27D2604B

/-- A power modulo `m`, over the bits of the exponent. -/
def powMod (m : Nat) : Nat → Nat → Nat → Nat
  | 0, _, _ => 1 % m
  | fuel + 1, b, e =>
    let h := powMod m fuel (b * b % m) (e / 2)
    if e % 2 = 1 then h * b % m else h

/-- The inverse modulo a prime. -/
def invMod (m a : Nat) : Nat := powMod m 256 (a % m) (m - 2)

/-- A point, none at infinity. -/
abbrev EcPt := Option (Nat × Nat)

/-- The base point. -/
def ecG : EcPt :=
  some (0x6B17D1F2E12C4247F8BCE6E563A440F277037D812DEB33A0F4A13945D898C296,
        0x4FE342E2FE1A7F9B8EE7EB4A7C0F9E162BCE33576B315ECECBB6406837BF51F5)

/-- The sum of two points. -/
def ecAdd (a b : EcPt) : EcPt :=
  match a, b with
  | none, q => q
  | p, none => p
  | some (x1, y1), some (x2, y2) =>
    if x1 = x2 && (y1 + y2) % ecP = 0 then none
    else
      let l := if x1 = x2 then (3 * x1 * x1 + (ecP - 3)) * invMod ecP (2 * y1) % ecP
        else (y2 + ecP - y1) * invMod ecP (x2 + ecP - x1) % ecP
      let x3 := (l * l + 2 * ecP - x1 - x2) % ecP
      some (x3, (l * (x1 + ecP - x3) + ecP - y1) % ecP)

/-- A multiple of a point, over `fuel` bits. -/
def ecMul : Nat → Nat → EcPt → EcPt
  | 0, _, _ => none
  | fuel + 1, k, p =>
    let h := ecMul fuel (k / 2) (ecAdd p p)
    if k % 2 = 1 then ecAdd h p else h

/-- The point of a 64-byte public key X‖Y, where it lies on the curve. -/
def ecPoint (key : List Byte) : EcPt :=
  let x := ofBe (key.take 32)
  let y := ofBe ((key.drop 32).take 32)
  if key.length = 64 && x < ecP && y < ecP && (y * y) % ecP = (x * x * x + (ecP - 3) * x + ecB) % ecP then some (x, y)
  else none

/-- The 64 bytes of a point. -/
def ecBytes (p : EcPt) : List Byte :=
  match p with
  | some (x, y) => beBytes 32 x ++ beBytes 32 y
  | none => List.replicate 64 0

/-- The public key of a private scalar. -/
def ecPub (d : Nat) : List Byte := ecBytes (ecMul 256 d ecG)

/-- ECDSA over SHA-256 of a message: a signature r‖s verifies with a public key. -/
def ecdsaOk (key msg sig : List Byte) : Bool :=
  let r := ofBe (sig.take 32)
  let t := ofBe ((sig.drop 32).take 32)
  if sig.length != 64 || r = 0 || ecN ≤ r || t = 0 || ecN ≤ t then false
  else match ecPoint key with
  | none => false
  | some q =>
    let z := ofBe (sha256 msg)
    let w := invMod ecN t
    match ecAdd (ecMul 256 (z * w % ecN) ecG) (ecMul 256 (r * w % ecN) (some q)) with
    | none => false
    | some (x, _) => x % ecN = r

/-- An ECDSA signature with the private scalar `d` and the secret number `k`. -/
def ecdsaSign (d k : Nat) (msg : List Byte) : List Byte :=
  let r := (ecMul 256 k ecG).elim 0 (fun p => p.1 % ecN)
  beBytes 32 r ++ beBytes 32 (invMod ecN k * (ofBe (sha256 msg) + r * d) % ecN)

/-- ECDH: the X coordinate. -/
def ecdh (d : Nat) (key : List Byte) : List Byte := beBytes 32 ((ecMul 256 d (ecPoint key)).elim 0 (·.1))

/-! ### AES-256 (FIPS 197) and GCM (SP 800-38D) -/

/-- Doubling in GF(2^8). -/
def aesX2 (a : Byte) : Byte := (a <<< 1) ^^^ (if a.getLsbD 7 then 0x1B#8 else 0)

/-- A product in GF(2^8), over the bits of `b`. -/
def aesMul : Nat → Byte → Byte → Byte
  | 0, _, _ => 0
  | fuel + 1, a, b => (if b.getLsbD 0 then a else 0) ^^^ aesMul fuel (aesX2 a) (b >>> 1)

/-- a^254, the inverse in GF(2^8). -/
def aesInv (a : Byte) : Byte :=
  let m := aesMul 8
  let a2 := m a a
  let a4 := m a2 a2
  let a8 := m a4 a4
  let a16 := m a8 a8
  let a32 := m a16 a16
  let a64 := m a32 a32
  m (m (m (m a2 a4) (m a8 a16)) (m a32 a64)) (m a64 a64)

/-- The S-box. -/
def aesS (a : Byte) : Byte :=
  let b := aesInv a
  b ^^^ b.rotateLeft 1 ^^^ b.rotateLeft 2 ^^^ b.rotateLeft 3 ^^^ b.rotateLeft 4 ^^^ 0x63#8

/-- The words of a key schedule, newest first, from the first eight. -/
def aesExpand : Nat → Byte → List (List Byte) → List (List Byte)
  | 0, _, ws => ws
  | n + 1, rc, ws =>
    let i := ws.length
    let t := ws.getD 0 []
    let u := if i % 8 = 0 then
        (match (t.drop 1 ++ t.take 1).map aesS with
         | x :: xs => (x ^^^ rc) :: xs
         | [] => [])
      else if i % 8 = 4 then t.map aesS else t
    aesExpand n (if i % 8 = 0 then aesX2 rc else rc) (List.zipWith (· ^^^ ·) (ws.getD 7 []) u :: ws)

/-- The 15 round keys of a 32-byte key. -/
def aesKeys (key : List Byte) : List (List Byte) :=
  let w0 := (List.range 8).map (fun i => (key.drop (4 * i)).take 4)
  let ws := (aesExpand 52 1 w0.reverse).reverse
  (List.range 15).map (fun r => ((ws.drop (4 * r)).take 4).flatten)

/-- ShiftRows. -/
def aesShift (b : List Byte) : List Byte := (List.range 16).map (fun i => b.getD ((i + 4 * (i % 4)) % 16) 0)

/-- MixColumns. -/
def aesMix (b : List Byte) : List Byte :=
  (List.range 16).map (fun i =>
    let a := fun (j : Nat) => b.getD (i / 4 * 4 + (i + j) % 4) 0
    aesX2 (a 0) ^^^ (aesX2 (a 1) ^^^ a 1) ^^^ a 2 ^^^ a 3)

/-- One block encrypted. -/
def aesBlock (keys : List (List Byte)) (b : List Byte) : List Byte :=
  let xor := List.zipWith (fun (x y : Byte) => x ^^^ y)
  let mid := ((keys.drop 1).take 13).foldl (fun s k => xor (aesMix (aesShift (s.map aesS))) k) (xor b (keys.getD 0 []))
  xor (aesShift (mid.map aesS)) (keys.getD 14 [])

/-- A product in GF(2^128) of GCM, over the bits of `x` from the highest. -/
def gcmMul : Nat → Nat → Nat → Nat → Nat
  | 0, _, _, z => z
  | fuel + 1, x, v, z =>
    gcmMul fuel x (if v % 2 = 1 then (v / 2) ^^^ (0xE1 * 2 ^ 120) else v / 2) (if nbit x fuel then z ^^^ v else z)

/-- Blocks of 16 bytes, the last padded with zeros. -/
def blocks16 (bs : List Byte) : List (List Byte) :=
  (List.range (cdiv bs.length 16)).map (fun i => padTo 16 0 ((bs.drop (16 * i)).take 16))

/-- GHASH. -/
def ghash (h : Nat) (bs : List (List Byte)) : Nat := bs.foldl (fun y b => gcmMul 128 (y ^^^ ofBe b) h 0) 0

/-- AES-256-GCM with a 12-byte nonce: the plaintext of a ciphertext whose 16-byte tag matches. -/
def gcmOpen (key nonce aad ct tag : List Byte) : Option (List Byte) :=
  let ks := aesKeys key
  let e := fun (n : Nat) => aesBlock ks (nonce ++ beBytes 4 n)
  let h := ofBe (aesBlock ks (List.replicate 16 0))
  let g := ghash h (blocks16 aad ++ blocks16 ct ++ [beBytes 8 (8 * aad.length) ++ beBytes 8 (8 * ct.length)])
  if tag.length = 16 && ofBe tag = g ^^^ ofBe (e 1) then
    some (List.zipWith (fun (x y : Byte) => x ^^^ y) ct ((List.range (cdiv ct.length 16)).flatMap (fun i => e (i + 2))))
  else none

/-! ### CTR_DRBG (SP 800-90A: AES-256, derivation function) -/

/-- The `n` output blocks that follow the counter block `v`. -/
def ctrBlocks (key : BitVec 256) (v n : Nat) : List Byte :=
  let ks := aesKeys (beBytes 32 key.toNat)
  (List.range n).flatMap (fun i => aesBlock ks (beBytes 16 ((v + 1 + i) % 2 ^ 128)))

/-- The update of the working state with 48 bytes. -/
def Drbg.update (d : Drbg) (x : List Byte) : Drbg :=
  let t := List.zipWith (fun (a b : Byte) => a ^^^ b) (ctrBlocks d.key d.v 3) x
  { key := BitVec.ofNat 256 (ofBe (t.take 32)), v := ofBe (t.drop 32) }

/-- The derivation function: 48 bytes of any input. -/
def drbgDerive (x : List Byte) : List Byte :=
  let xor := List.zipWith (fun (a b : Byte) => a ^^^ b)
  let body := beBytes 4 x.length ++ beBytes 4 48 ++ x ++ [0x80]
  let ks := aesKeys ((List.range 32).map (BitVec.ofNat 8))
  let mac := fun (i : Nat) =>
    (blocks16 (beBytes 4 i ++ List.replicate 12 0 ++ body)).foldl (fun c b => aesBlock ks (xor c b)) (List.replicate 16 0)
  let k := aesKeys (mac 0 ++ mac 1)
  let y := aesBlock k (mac 2)
  y ++ aesBlock k y ++ aesBlock k (aesBlock k y)

/-- Seed material enters the working state: an instantiation from the state of zeros, a reseed from the present one. -/
def Drbg.seed (d : Drbg) (entropy : List Byte) : Drbg := d.update (drbgDerive entropy)

/-- `n` bytes generated, and the working state after them. -/
def Drbg.generate (d : Drbg) (n : Nat) : List Byte × Drbg :=
  let m := cdiv n 16
  ((ctrBlocks d.key d.v m).take n, ({ d with v := (d.v + m) % 2 ^ 128 } : Drbg).update (List.replicate 48 0))

end Sys2Proof.Machine
end

