-- ==== Sys2Proof/Config.lean ====
section
/-!
DEFINITION. The values the manual leaves open. Each is an uninterpreted constant: it has no body, so a claim
about it holds for every value.
-/

namespace Sys2Proof.Config

/-- A value the manual leaves open, one for each reading of the free-value counter of the state (log entry 3). -/
opaque freeValue : (w : Nat) → Nat → BitVec w

/-- The status codes of SWEEP_DONE for NO_SPACE and NOT_FOLLOWING, which 18_halser_chain names and gives no number
(log entry 20). -/
opaque noSpace : BitVec 32
opaque notFollowing : BitVec 32

/-- What HAL_QUERY answers in place of an address on an unaddressed node, which the manual gives no number (log
entry 20). -/
opaque unaddressed : BitVec 32

/-- The MODE word of DRV_QUERY for an output that is disabled (0), in PULSE mode (1), in DIM mode (2) or a laser channel
(3), which 10_light_drive names and gives no numbers (log entry 31). -/
opaque outMode : Nat → BitVec 32

/-- By how much the load of a slot's plane begins after the earliest instant that R262 and R283 leave it, for a frame and a slot
(log entry 101); and the header fields below SYNC of a start sequence's three planes of 0, which R282 leaves open. -/
opaque loadDelay : Nat → Nat → Nat
opaque zeroHeader : Nat → BitVec 24

end Sys2Proof.Config
end

