-- ==== Sys2Proof/Machine/TypesLight.lean ====
section
/-!
DEFINITION. The plain data of the light drive and the Keystone matrix (10_light_drive).
-/

namespace Sys2Proof.Machine

/-- The host values of an output (10_light_drive, Shadow and active copies): `code` is SPAN on a laser. -/
structure OutCopy where
  code : Nat := 0
  duty : Nat := 0
  period : Nat := 0
  scramble : Bool := false
  deriving DecidableEq, Repr, Inhabited

/-- A light-target write: the fields it sets. -/
structure OutWrite where
  code : Option Nat := none
  duty : Option Nat := none
  dim : Option (Nat × Bool) := none
  seq : Word := 0
  deriving DecidableEq, Repr, Inhabited

/-- A light output's settings (R335). -/
structure OutCfg where
  en : Bool := false
  owner : Ten := 0
  rail : Nat := 0
  cmax : Nat := 0
  rsns : Nat := 0
  /-- the start settings that a tenant reset restores (R336): START_CODE or START_SPAN, and the rest -/
  start : OutCopy := {}
  sensor : Nat := 0
  knee : Int := 0
  slope : Nat := 0
  floor : Nat := 0
  /-- TH of a laser channel (R317) -/
  th : Nat := 0
  deriving DecidableEq, Repr, Inhabited

/-- A light output (R307 to R316, R322 to R325). -/
structure OutSt where
  cfg : OutCfg := {}
  shadow : OutCopy := {}
  active : OutCopy := {}
  /-- the write kept aside in the reload window (R314) -/
  aside : List OutWrite := []
  /-- writes in the shadow copy not yet applied, oldest first -/
  pend : List OutWrite := []
  appliedSeq : Word := 0
  /-- the active copy took a written value, or a write was deferred, in this Bell period (R339) -/
  took : Bool := false
  deferred : Bool := false
  lfsr : BitVec 16 := 0
  /-- start of the running dimming period (R310) -/
  periodFrom : Time := 0
  /-- instants of this millisecond at which its headroom is sampled (R319) -/
  samp : List Time := []
  knee : Int := 0
  slope : Nat := 0
  floor : Nat := 0
  pendDerate : Option (Int × Nat × Nat) := none
  f : Nat := 16383
  t16 : Int := 0
  missed : Nat := 0
  /-- its Array Chapel has stopped: it returns to DIM at the next Bell's reload -/
  pulseEnd : Bool := false
  /-- stopped by its rail's fault (R321) -/
  stopped : Bool := false
  deriving DecidableEq, Repr, Inhabited

/-- A lamp rail (R319 to R321, R335). -/
structure RailSt where
  en : Bool := false
  owner : Ten := 0
  vMin : Nat := 0
  vMax : Nat := 0
  /-- START_HEAD and HEAD in mV -/
  startHead : Nat := 0
  ilim : Nat := 0
  vSet : Nat := 0
  head : Nat := 0
  hMin : Nat := 0
  pendHead : Option Nat := none
  /-- steps at V_MAX with H_min < HEAD; RAIL_LIMIT posted for this run of steps -/
  limitRun : Nat := 0
  limitPosted : Bool := false
  stopped : Bool := false
  /-- the last RAIL_RESTART -/
  restartAt : Time := 0
  lastStep : Time := 0
  deriving DecidableEq, Repr, Inhabited

/-- The Keystone matrix (R326 to R334): conditions holding for each segment, by reason number. -/
structure MatrixSt where
  on : Bool := false
  kmI : Nat := 40
  follow : Option (Fin 6) := none
  minOn : Nat := 46800
  always : Vector Bool 96 := Vector.replicate 96 false
  /-- segments in the set under CHAPEL, LIGHT_SOURCE, ASSURANCE, UPDATE_PAUSE -/
  chapel : Vector Bool 96 := Vector.replicate 96 false
  source : Vector Bool 96 := Vector.replicate 96 false
  assur : Vector Bool 96 := Vector.replicate 96 false
  pause : Vector Bool 96 := Vector.replicate 96 false
  open' : Vector Bool 96 := Vector.replicate 96 false
  lit : Vector Bool 96 := Vector.replicate 96 false
  row : Fin 8 := 0
  slotFrom : Time := 0
  deriving DecidableEq, Repr, Inhabited

/-- The light drive. -/
structure LightSt where
  outs : Vector OutSt 14 := Vector.replicate 14 {}
  rails : Vector RailSt 2 := Vector.replicate 2 {}
  matrix : MatrixSt := {}
  /-- instant of the last lamp-board sensor read (R322) -/
  sensorAt : Time := 0
  deriving DecidableEq, Repr, Inhabited

end Sys2Proof.Machine
end

