-- ==== Sys2Proof/Machine/State.lean ====
section
/-!
DEFINITION. The state of the VQ7, plain data, and its value right after reset.
-/

namespace Sys2Proof.Machine

/-- Why a command stops the machine. The manual gives every command of the table an effect, so there is none. -/
inductive Fault
  deriving DecidableEq, Repr

/-- Why a command has no meaning here. -/
inductive Refusal
  /-- Raised by the arm of a command whose meaning is not written yet. Safe: the run stops. -/
  | notModelled (mnemonic : String)
  deriving DecidableEq, Repr

/-- The machine. -/
structure State where
  /-- the commands waiting, first in, first out -/
  pending : List Instr := []
  /-- the instant, in steps of the 2.5 ns grid of the 400 MHz clock (log entry 1) -/
  now : Time := 0
  /-- the model's own counter of free values read (log entry 3) -/
  free : Nat := 0
  /-- calendar time in ms (R12, R23), as set at an instant, and the clock-set bit (R560) -/
  calMs : Nat := 0
  calAt : Time := 0
  calSet : Bool := false
  bell : BellGen := {}
  tens : Vector Tenant 4 := Vector.replicate 4 {}
  rings : Vector RingSt 16 := Vector.replicate 16 {}
  /-- spare Lecterns not yet used, by number -/
  spares : List Nat := [16, 17]
  /-- surface descriptors of each tenant by SID -/
  surfs : Vector (List (Nat × Surface)) 4 := Vector.replicate 4 []
  chaps : Vector ChapSt 4 := Vector.replicate 4 {}
  nave : NaveSt := {}
  /-- the Keystone store, the overlay stage it was latched into, and the overlay content of the frame shown and of
  the frame before it -/
  key : KStore := {}
  ovl : KStore := {}
  shown : KStore := {}
  past : KStore := {}
  kloads : List KLoad := []
  light : LightSt := {}
  choir : ChoirSt := {}
  witness : WitnessSt := {}
  power : PowerSt := {}
  prime : PrimeSt := {}
  thermal : ThermalSt := {}
  cloister : CloisterSt := {}
  update : UpdateSt := {}
  reliq : ReliqSt := {}
  chain : ChainSt := {}
  gal : GallerySt := {}
  ports : PortsSt := {}
  memc : MemCtl := {}
  /-- LPDDR4X, the Undercroft, the Moangex store (R26, R27) -/
  lp : Mem := []
  under : Mem := []
  moa : Mem := []
  /-- Chapel profile records of the settings area in force, as stored, by 4 * Chapel + profile (R303, R518) -/
  profiles : List (Nat × List Byte) := []
  /-- VERSION of the running image (R45) -/
  fwVer : Word := 0
  dead : Bool := false
  deriving DecidableEq, Repr

/-- The tenants as a device in Blank has them: T3, SERVICE, on the service port (R46, R48). -/
def State.blankTens : Vector Tenant 4 :=
  (Vector.replicate 4 {}).set 3
    { cfg := { bound := true, port := .svc, cls := .service, obs := 0xFF, evqUnder := true, evqSize := 2,
               evqBase := 0x4E1000 }, cring := 15 }

/-- The rings as a device in Blank has them: RING15 of T3 (R48). -/
def State.blankRings : Vector RingSt 16 :=
  (Vector.ofFn (fun i => { lectern := i.val })).set 15
    { owner := some 3, under := true, size := 2, base := 4992, budgetB := 4096, budget := 4096, lectern := 15 }

/-- The machine as power is first applied, before the always-on power-on reset ends: in Blank, memories with nothing
listed (log entries 5, 6). -/
def State.powerOn : State := { tens := State.blankTens, rings := State.blankRings }

/-- A die sensor's channel without a thermal record (R450). -/
def State.dieChan : ThChan :=
  { cfg := { mode := .die, scope := 8, dmax := 10, margin := 5, hyst := 5, derateT := 1760, stopT := 2000, slopeT := 16,
             floorT := 8192 } }

/-- The header record that a start writes into an empty recorder log (R563): its bytes that are not 0. -/
def State.logHeader : Mem :=
  [(0x1300004, 0x0A), (0x1300005, 0xA0), (0x130000E, 0x01), (0x130003C, 0xD0), (0x130003D, 0x08), (0x130003E, 0xDB),
   (0x130003F, 0x37)]

/-- The machine right after reset: a cold start in Blank has ended, the running aisle has enabled the Bell generator, the
training of LPDDR4X has begun, and no Bell has been announced. Beside the header that a start gives an empty recorder log,
no memory lists anything (log entries 5, 6). -/
def State.reset : State :=
  { State.powerOn with
    fwVer := 1
    moa := State.logHeader
    bell := { enabled := true }
    light := { matrix := { on := true } }
    prime := { postBad := [(1, 0), (2, 0)] }
    thermal := { chans := Vector.ofFn (fun k => if k.val < 8 then {} else State.dieChan) }
    memc := { train := .full }
    power := { aonUp := true, pwrEn := true, pwrGood := true, boot := .up, coldNext := false, postStart := true } }

end Sys2Proof.Machine
end

