-- ==== Sys2Proof/Machine/Ops.lean ====
section
/-!
DEFINITION. The shared operations: changing one thing of the state, time, free values, memory with its
uncorrectable words (R690), Gallery counters and trace packets (19_gallery), Reliquary records (17_reliquary),
and posting an event (03_tenants_rings R101 to R106).
-/

namespace Sys2Proof.Machine

/-! ### One thing of the state -/

/-- Change a tenant. -/
def State.modTen (s : State) (t : Ten) (f : Tenant → Tenant) : State := { s with tens := upd s.tens t f }

/-- Change a ring. -/
def State.modRing (s : State) (r : RingId) (f : RingSt → RingSt) : State := { s with rings := upd s.rings r f }

/-- Change a Chapel. -/
def State.modChap (s : State) (c : Chap) (f : ChapSt → ChapSt) : State := { s with chaps := upd s.chaps c f }

/-- Change an output. -/
def State.modOut (s : State) (o : OutId) (f : OutSt → OutSt) : State :=
  { s with light := { s.light with outs := upd s.light.outs o f } }

/-- Change a rail. -/
def State.modRail (s : State) (r : Fin 2) (f : RailSt → RailSt) : State :=
  { s with light := { s.light with rails := upd s.light.rails r f } }

/-- Change the Keystone matrix. -/
def State.modMatrix (s : State) (f : MatrixSt → MatrixSt) : State :=
  { s with light := { s.light with matrix := f s.light.matrix } }

/-- Change a loop slot. -/
def State.modSlot (s : State) (i : Slot) (f : LoopSt → LoopSt) : State :=
  { s with choir := { s.choir with slots := upd s.choir.slots i f } }

/-- Change a witness input. -/
def State.modPd (s : State) (i : Pd) (f : PdSt → PdSt) : State :=
  { s with witness := { s.witness with pds := upd s.witness.pds i f } }

/-- E of a measurement (R387): its sum with the final rounding shift of its kind. -/
def WitMeas.eVal (x : WitMeas) : Nat := (rhu (x.e : Int) (if x.rect.isNone then 24 else 38)).toNat

/-- Change a thermal channel. -/
def State.modTh (s : State) (i : Fin 10) (f : ThChan → ThChan) : State :=
  { s with thermal := { s.thermal with chans := upd s.thermal.chans i f } }

/-- Change the Cloister's state for one requester. -/
def State.modClo (s : State) (q : Fin 5) (f : CloReq → CloReq) : State :=
  { s with cloister := { s.cloister with reqs := upd s.cloister.reqs q f } }

/-- Change a mailbox. -/
def State.modBox (s : State) (t : Ten) (f : Mailbox → Mailbox) : State :=
  { s with ports := { s.ports with box := upd s.ports.box t f } }

/-- Change a tenant's surfaces. -/
def State.modSurfs (s : State) (t : Ten) (f : List (Nat × Surface) → List (Nat × Surface)) : State :=
  { s with surfs := upd s.surfs t f }

/-- Change the power block. -/
def State.modPower (s : State) (f : PowerSt → PowerSt) : State := { s with power := f s.power }

/-- Change the Bell generator. -/
def State.modBell (s : State) (f : BellGen → BellGen) : State := { s with bell := f s.bell }

/-- Change the recorder. -/
def State.modRel (s : State) (f : ReliqSt → ReliqSt) : State := { s with reliq := f s.reliq }

/-- Change the chain. -/
def State.modChain (s : State) (f : ChainSt → ChainSt) : State := { s with chain := f s.chain }

/-- Change the update service. -/
def State.modUpd (s : State) (f : UpdateSt → UpdateSt) : State := { s with update := f s.update }

/-- Change the UDS server. -/
def State.modUds (s : State) (f : UdsSt → UdsSt) : State := s.modUpd (fun u => { u with uds := f u.uds })

/-- A tenant, a ring, a Chapel, by number. -/
def State.ten (s : State) (t : Ten) : Tenant := at' s.tens t
def State.ring (s : State) (r : RingId) : RingSt := at' s.rings r
def State.chap (s : State) (c : Chap) : ChapSt := at' s.chaps c
def State.out (s : State) (o : OutId) : OutSt := at' s.light.outs o
def State.slot (s : State) (i : Slot) : LoopSt := at' s.choir.slots i
def State.pdIn (s : State) (i : Pd) : PdSt := at' s.witness.pds i
def State.th (s : State) (i : Fin 10) : ThChan := at' s.thermal.chans i
def State.box (s : State) (t : Ten) : Mailbox := at' s.ports.box t

/-! ### Time and numbers -/

/-- Microseconds, milliseconds and reference cycles of 40 ns in time steps. -/
def us (n : Nat) : Time := 400 * n
def ms (n : Nat) : Time := 400000 * n
def cyc (n : Nat) : Time := 16 * n

/-- Time passes up to an instant, where it has not come: a command that stands for an event of the block's own takes
place when its time has come (log entry 2). -/
def State.passTo (s : State) (d : Time) : State := if s.now < d then { s with now := d } else s

/-- Time passes up to the first of some instants. -/
def State.passFirst (s : State) (ds : List Time) : State := ds.min?.elim s s.passTo

/-- BELLNO, and its low word. -/
def State.bn (s : State) : Nat := s.bell.bellno.toNat
def State.bn32 (s : State) : Word := BitVec.ofNat 32 s.bn

/-- t_B of the last Bell of this start or exit, 0 before the first one. -/
def State.tB (s : State) : Time := s.bell.lastAt.getD 0

/-- Calendar time (R12, R13, R23), 48 bits. DESIGN CHOICE (log entry 92): no rule says what follows 0xFFFF_FFFF_FFFF; the
model goes on at 0. -/
def State.cal (s : State) : Nat := (s.calMs + (s.now - s.calAt) / ms 1) % 2 ^ 48

/-- A word of a number. -/
def w32 (n : Nat) : Word := BitVec.ofNat 32 n

/-- A word of an integer. -/
def i32 (x : Int) : Word := BitVec.ofInt 32 x

/-- A free value of `w` bits (log entry 3), and the state after reading it. -/
def State.fresh (s : State) (w : Nat) : BitVec w × State := (Config.freeValue w s.free, { s with free := s.free + 1 })

/-- The class of a tenant. -/
def State.isCls (s : State) (t : Ten) (c : Cls) : Bool := (s.ten t).cfg.bound && (s.ten t).cfg.cls == c

/-- The bound tenants, and those of a class. -/
def State.bound (s : State) : List Ten := (allFin 4).filter (fun t => (s.ten t).cfg.bound)
def State.ofCls (s : State) (c : Cls) : List Ten := (allFin 4).filter (fun t => s.isCls t c)

/-- A reset of a tenant takes effect at the coming Bell, so that nothing of the tenant shows from it on (R112). -/
def State.clearing (s : State) (t : Ten) : Bool := (s.ten t).resetAt.any (fun b => b ≤ s.bn + 1)

/-- The SAFETY tenant, or the SERVICE tenant when none is bound. -/
def State.safetyOrService (s : State) : List Ten :=
  if (s.ofCls .safety).isEmpty then s.ofCls .service else s.ofCls .safety

/-! ### Memory -/

/-- The uncorrectable 64-bit words that a write of `n` bytes at `a` leaves (R690). -/
def ueLeft (ue : List Nat) (a n : Nat) : List Nat := ue.filter (fun w => !(a ≤ 8 * w && 8 * w + 8 ≤ a + n))

/-- A byte lies in an uncorrectable word. -/
def ueAt (ue : List Nat) (a : Nat) : Bool := ue.contains (a / 8)

/-- The lowest byte of a range that lies in an uncorrectable word. -/
def ueFirst (ue : List Nat) (a n : Nat) : Option Nat :=
  ((ue.filter (fun w => 8 * w + 8 > a && 8 * w < a + n)).map (fun w => max a (8 * w))).min?

/-- Write bytes into LPDDR4X, the Undercroft, the Moangex store. -/
def State.lpWrite (s : State) (a : Nat) (bs : List Byte) : State :=
  { s with lp := Memory.writeN s.lp a bs, memc := { s.memc with ueLp := ueLeft s.memc.ueLp a bs.length } }
def State.underWrite (s : State) (a : Nat) (bs : List Byte) : State :=
  { s with under := Memory.writeN s.under a bs, memc := { s.memc with ueUnder := ueLeft s.memc.ueUnder a bs.length } }
def State.moaWrite (s : State) (a : Nat) (bs : List Byte) : State :=
  { s with moa := Memory.writeN s.moa a bs, memc := { s.memc with ueMoa := ueLeft s.memc.ueMoa a bs.length } }

/-- Write into the LPDDR4X or the Undercroft. -/
def State.memWrite (s : State) (under : Bool) (a : Nat) (bs : List Byte) : State :=
  if under then s.underWrite a bs else s.lpWrite a bs

/-- The usable LPDDR4X size U (R185), from the CAP of the settings record in force, and the device region. -/
def State.lpU (s : State) : Nat := 7 * 2 ^ (26 + s.memc.density)
def State.lpDev (s : State) : Nat := s.lpU - 0x10000000

/-- LPDDR4X can be read and written: trained, and not under memory hold (R190, R457). -/
def State.lpUsable (s : State) : Bool := s.memc.train == .trained && !s.thermal.hold

/-- t_B of the announced Bell: 1,500 µs after the announcement, or on a follower as the chain gives it (R39, R66,
R585). -/
def State.fireDue (s : State) : Option Time :=
  s.bell.ann.bind (fun a => if s.chain.following then s.chain.fireAt else some (a + us 1500))

/-! ### Gallery counters (R607, R608) and the trace port (R613, R614) -/

/-- Count on a fixed counter. -/
def State.gfix (s : State) (i : Nat) (n : Nat) : State :=
  if s.gal.off then s else
  match fin? 64 i with
  | some i => { s with gal := { s.gal with fixed := upd s.gal.fixed i (fun c => c + BitVec.ofNat 64 n) } }
  | none => s

/-- The select code of a happening (R608). -/
def selCode (block unit event : Nat) : Nat := block * 4096 + unit * 256 + event

/-- Count on every assignable counter whose select code names the happening. -/
def State.tally (s : State) (block unit event n : Nat) : State :=
  if s.gal.off then s else
  { s with gal := { s.gal with
      assign := mapTabIdx (fun t (cs : Vector (BitVec 64) 48) =>
        mapTabIdx (fun k (c : BitVec 64) =>
          match fin? 4 t, fin? 48 k with
          | some t, some k =>
            if at' (at' s.gal.tens t).codes k == selCode block unit event then c + BitVec.ofNat 64 n else c
          | _, _ => c) cs) s.gal.assign } }

/-- Some tenant has a trace class enabled, so that the port runs (R612). -/
def GallerySt.tron (g : GallerySt) : Bool := (allFin 4).any (fun t => (at' g.tens t).tren != 0)

/-- Tenant `t` has the trace class of a TREN bit enabled. -/
def GallerySt.traces (g : GallerySt) (t : Ten) (b : Nat) : Bool := nbit (at' g.tens t).tren b

/-- The bytes of a trace packet (R613). -/
def tracePacket (type time : Nat) (p : List Byte) : List Byte :=
  let body := BitVec.ofNat 8 type :: BitVec.ofNat 8 p.length :: (leBytes 4 time ++ p)
  body ++ [0#8 - body.foldl (· + ·) 0#8]

/-- The FIFO at an instant: the port sends one byte per 2.5 ns. -/
def GallerySt.drain (g : GallerySt) (now : Time) : GallerySt :=
  { g with fifo := g.fifo.drop (now - g.fifoAt), fifoAt := now }

/-- Put a packet into the FIFO, preceded by a DROP packet where one is owed (R614). -/
def State.trace (s : State) (type : Nat) (p : List Byte) : State :=
  if s.gal.off || !s.gal.tron then s else
  let g := s.gal.drain s.now
  let time := (s.now - s.tB) / 2
  let pkt := tracePacket type time p
  let dp := if g.dropped = 0 then [] else tracePacket 0x3F time (leBytes 4 (min g.dropped 0xFFFFFFFF))
  let room := if type = 0x01 then 4096 else 4096 - 64
  if g.fifo.length + dp.length + pkt.length ≤ room then
    ({ s with gal := { g with fifo := g.fifo ++ dp ++ pkt, dropped := 0 } }).gfix 14 (if dp.isEmpty then 1 else 2)
  else ({ s with gal := { g with dropped := g.dropped + 1 } }).gfix 13 1

/-- The device is in Run or Idle and its start has completed, so that rings run and Bells fire. -/
def State.live (s : State) : Bool :=
  s.power.boot == .up && (s.power.state == .run || s.power.state == .idle)

/-- LPDDR4X goes into self-refresh, and leaves it; the Gallery counts the entries and the µs (R608). -/
def State.refBegin (s : State) : State :=
  if s.memc.selfRef then s
  else ({ s with memc := { s.memc with selfRef := true, selfRefAt := s.now } }).tally 7 0 2 1
def State.refEnd (s : State) : State :=
  ({ s with memc := { s.memc with selfRef := false } }).tally 7 0 3 ((s.now - s.memc.selfRefAt) / us 1)

/-- LPDDR4X leaves the self-refresh of Idle for a read or a write of the block's own (R194). In Vigil and under a memory hold
(R457) it stays there. -/
def State.lpWake (s : State) : State := if s.memc.selfRef && s.live && !s.thermal.hold then s.refEnd else s

/-- A request for LPDDR4X arrives: the exit starts no earlier than 1 µs after the entry (R194). -/
def State.lpRequest (s : State) : State :=
  if s.memc.selfRef && s.live && !s.thermal.hold then (s.passTo (s.memc.selfRefAt + us 1)).lpWake else s

/-- A MARK packet: 1 ANNOUNCE, 2 LATCH_DONE, 3 FRAME_DONE, 4 BLANK_START, for a Bell (R613). -/
def State.traceMark (s : State) (point unit bell : Nat) : State :=
  if (allFin 4).any (fun t => s.gal.traces t 0) then
    s.trace 0x02 ([BitVec.ofNat 8 point, BitVec.ofNat 8 unit] ++ leBytes 2 bell) else s

/-! ### Host ports -/

/-- The port of a tenant. -/
def State.portOf (s : State) (t : Ten) : HostPort :=
  match (s.ten t).cfg.port with
  | .spi0 => .spi0
  | .spi1 => .spi1
  | .can0 => .can0
  | .can1 => .can1
  | .svc => .svc
  | .pcie => .pf t

/-- The code of a class, as TENANT_MAP.CLASS. -/
def Cls.code : Cls → Nat
  | .safety => 0
  | .app => 1
  | .service => 2

/-- The code of a port, as TENANT_MAP.PORT (R45). -/
def Port.code : Port → Nat
  | .spi0 => 0
  | .spi1 => 1
  | .pcie => 2
  | .can0 => 3
  | .can1 => 4
  | .svc => 5

/-- Change a framed port; a PCIe function is none. -/
def State.modPort (s : State) (p : HostPort) (f : PortSt → PortSt) : State :=
  match p with
  | .spi0 => { s with ports := { s.ports with spi := upd s.ports.spi 0 f } }
  | .spi1 => { s with ports := { s.ports with spi := upd s.ports.spi 1 f } }
  | .can0 => { s with ports := { s.ports with can := upd s.ports.can 0 f } }
  | .can1 => { s with ports := { s.ports with can := upd s.ports.can 1 f } }
  | .svc => { s with ports := { s.ports with svc := f s.ports.svc } }
  | .pf _ => s

/-- Change a PCIe function. -/
def State.modPf (s : State) (n : Ten) (f : PfSt → PfSt) : State :=
  { s with ports := { s.ports with pf := upd s.ports.pf n f } }

/-- A notification of a CAN channel or the service port: at most one per 1 ms (R639). -/
def PortSt.note (p : PortSt) (now : Time) : PortSt :=
  match p.noteAt with
  | none => { p with noteAt := some now }
  | some a => if now < a then p else { p with noteAt := some (max now (a + ms 1)) }

/-- MSI-X vector `v` of a function: sent, or pending while masked (R639). -/
def PfSt.msi (f : PfSt) (v : Fin 2) : PfSt :=
  match at' f.msix v with
  | (_, _, true) => { f with pba := upd f.pba v (fun _ => true) }
  | (a, d, false) => { f with sent := f.sent ++ [(a, d)] }

/-- Notify a tenant through its port: vector 0 for events, 1 for MB_READY. On SPI the pin follows the state. -/
def State.notify (s : State) (t : Ten) (v : Fin 2) : State :=
  let s := s.tally 11 (s.ten t).cfg.port.code 2 1
  match s.portOf t with
  | .spi0 | .spi1 => s
  | .pf n => s.modPf n (fun f => f.msi v)
  | p => s.modPort p (fun q => q.note s.now)

/-! ### Events -/

/-- The 32 bytes of an event record (R104). -/
def evBytes (evseq : Word) (code src flags : Nat) (bell : Word) (cseq : Word) (p : List Word) : List Byte :=
  wordBytes evseq ++ leBytes 2 code ++ [BitVec.ofNat 8 src, BitVec.ofNat 8 flags] ++ wordBytes bell ++
    wordBytes cseq ++ wordsBytes (padTo 4 0 p)

/-- Records that a queue holds, and whether it is full. -/
def TenCfg.evqCap (c : TenCfg) : Nat := 16 * 2 ^ c.evqSize
def Tenant.evqFull (t : Tenant) : Bool := (t.evq.wr + 1) % t.cfg.evqCap == t.evq.rd

/-- The sequence number that an event record carries in CSEQ, with CSEQ_V. -/
def evFlags (cseq : Option Word) (all dropped : Bool) : Nat :=
  b2n cseq.isSome + 2 * b2n all + 4 * b2n dropped

/-- Write a record at EVQ_WR of a tenant's queue, advance it, and notify where PEND rises (R103, R639). -/
def State.evqPut (s : State) (t : Ten) (rec' : List Byte) : State :=
  let q := s.ten t
  let s := if q.cfg.evqUnder then s else s.lpWake
  let s1 := s.memWrite q.cfg.evqUnder (q.cfg.evqBase + 32 * q.evq.wr) rec'
  let s2 := s1.modTen t (fun q => { q with evq := { q.evq with wr := (q.evq.wr + 1) % q.cfg.evqCap } })
  if q.evq.wr == q.evq.rd && q.evq.notify then s2.notify t 0 else s2

/-- Assign the next EVSEQ of a tenant. -/
def State.evqSeq (s : State) (t : Ten) : State :=
  s.modTen t (fun q => { q with evq := { q.evq with next := q.evq.next + 1 } })

/-- Send a record to the trace port where the tenant enabled TR_EVENT (R613). -/
def State.traceEvent (s : State) (t : Ten) (rec' : List Byte) : State :=
  if s.gal.traces t 1 then s.trace 0x10 ([BitVec.ofNat 8 t.val, 0, 0, 0] ++ rec') else s

/-- A tenant's queue takes no record: it is full, or it lies in an LPDDR4X that cannot be used (R106, R457). -/
def State.evqShut (s : State) (t : Ten) : Bool :=
  (s.ten t).evqFull || (!(s.ten t).cfg.evqUnder && !s.lpUsable)

/-- Write EVQ_OVERFLOW when records were dropped and space is open (R106). DESIGN CHOICE (log entry 92): the number that it
reports is EVQ_STAT.DROP, which stops at 0xFFFF. -/
def State.evqOverflow (s : State) (t : Ten) : State :=
  let q := s.ten t
  if q.cfg.bound && q.evq.drop != 0 && !s.evqShut t then
    let rec' := evBytes q.evq.next 0x0016 0xF0 0 s.bn32 0 [w32 q.evq.drop, q.evq.firstDrop]
    ((((s.evqSeq t).modTen t (fun q => { q with evq := { q.evq with drop := 0, droppedBefore := true } })).evqPut t
      rec').traceEvent t rec')
  else s

/-- A tenant's pending reset is due: its Bell has fired and TENANT_RESET_EFFECT comes first. -/
def State.resetDue (s : State) (t : Ten) : Bool :=
  match (s.ten t).resetAt with
  | some b => b ≤ s.bn
  | none => false

/-- Write one record to one bound tenant, or drop it when its queue is full (R101, R106). -/
def State.postNow (s0 : State) (t : Ten) (code src : Nat) (all : Bool) (cseq : Option Word) (p : List Word) : State :=
  let s := s0.evqOverflow t
  let q := s.ten t
  if !q.cfg.bound then s else
  let rec' := evBytes q.evq.next code src (evFlags cseq all (q.evq.droppedBefore && !s.evqShut t)) s.bn32
    (cseq.getD 0) p
  let s1 := (s.evqSeq t).traceEvent t rec'
  if s.evqShut t then
    s1.modTen t (fun q => { q with evq := { q.evq with
      ovf := true
      drop := min 0xFFFF (q.evq.drop + 1)
      firstDrop := if q.evq.drop = 0 then q.evq.next - 1 else q.evq.firstDrop } })
  else (s1.modTen t (fun q => { q with evq := { q.evq with droppedBefore := false } })).evqPut t rec'

/-- Post one record. While a tenant's reset is due the record waits for TENANT_RESET_DONE (R113); the events of a
RESTART or REBIND that takes effect at the same Bell come before it (03, Edges). -/
def State.postRaw (s : State) (t : Ten) (code src : Nat) (all : Bool) (cseq : Option Word) (p : List Word) : State :=
  if s.resetDue t && code != 0x13 && code != 0x14 then
    s.modTen t (fun q => { q with evq := { q.evq with later := q.evq.later ++ [(code, src, all, cseq, p)] } })
  else s.postNow t code src all cseq p

/-! ### Reliquary records -/

/-- The 64 bytes of a record in a slot of an era (R554). -/
def RelRec.bytes (r : RelRec) (era slot : Nat) : List Byte :=
  let b := leBytes 4 (era * 65536 + slot) ++ [BitVec.ofNat 8 r.kind, BitVec.ofNat 8 r.src] ++ leBytes 2 r.code ++
    leBytes 6 r.time ++ [BitVec.ofNat 8 (b2n r.unset + 2 * b2n r.fault), 0] ++ leBytes 4 r.rep ++ padTo 40 0 r.body
  b ++ wordBytes (crc32 b)

/-- The fold identity of a record, none for a kind without one (R555, R557). -/
def RelRec.fold (r : RelRec) : Option (List Nat × List Byte) :=
  if r.kind = 3 then
    some ([3, r.src, r.code, b2n r.unset + 2 * b2n r.fault], r.body.take 16 ++ (r.body.drop 38).take 2)
  else if r.kind = 4 then some ([4, r.src], r.body.take 3 ++ (r.body.drop 8).take 2)
  else none

/-- A record with the repetition of another folded into it: REPEAT rises, TIME_LAST takes the new time. -/
def RelRec.folded (r n : RelRec) : RelRec :=
  { r with rep := min (r.rep + 1) 0xFFFFFFFF, body := r.body.take 16 ++ leBytes 6 n.time ++ r.body.drop 22 }

/-- The FULL record (R555): drops in all, time of the last, HIST, EXTREME, NOTICE and other drops. -/
def fullBody (n t h e no o : Nat) : List Byte :=
  leBytes 4 n ++ leBytes 6 t ++ [0, 0] ++ leBytes 4 h ++ leBytes 4 e ++ leBytes 4 no ++ leBytes 4 o ++
    List.replicate 12 0

/-- Count one dropped record in the FULL record. -/
def RelRec.countDrop (f : RelRec) (kind now : Nat) : RelRec :=
  let g := fun o => getLe f.body o 4
  { f with
    body := fullBody (g 0 + 1) now (g 12 + b2n (kind == 1)) (g 16 + b2n (kind == 2))
      (g 20 + b2n (kind == 3)) (g 24 + b2n (kind != 1 && kind != 2 && kind != 3)) }

/-- Post an event to several tenants, without its notice. -/
def State.postList (s : State) (ts : List Ten) (code src : Nat) (all : Bool) (cseq : Option Word) (p : List Word) :
    State := forEach ts (fun t s => s.postRaw t code src all cseq p) s

/-- Append a record to the view (R557, R564, R565). -/
def State.relAppendView (s : State) (r : RelRec) : State :=
  let q := s.reliq
  if q.full then
    (s.modRel (fun q => { q with
      drops := q.drops + 1
      fullDirty := true
      fullRec := q.fullRec.map (fun f => f.countDrop r.kind s.cal) })).tally 10 0 2 1
  else if q.newest.isSome && r.fold.isSome && (q.newest.bind RelRec.fold) == r.fold then
    let n := (q.newest.map (fun n => n.folded r)).getD r
    (s.modRel (fun q => { q with
      newest := some n
      newestDirty := q.newestDirty || !(q.buf.any (fun e => e.1 == q.next - 1))
      buf := q.buf.map (fun e => if e.1 == q.next - 1 then (e.1, n) else e) })).tally 10 0 1 1
  else if q.buf.length ≥ (if q.onVbak then 1105 else 1024) then
    (s.modRel (fun q => { q with bufLost := q.bufLost + 1 })).tally 10 0 3 1
  else if q.next = 65535 then
    let f : RelRec := { kind := 11, src := 0xA0, code := 0, time := s.cal, unset := !s.calSet, fault := false,
                        body := fullBody 0 0 0 0 0 0 }
    ((s.modRel (fun q => { q with
        full := true
        drops := q.drops + 1
        fullDirty := true
        fullRec := some (f.countDrop r.kind s.cal) })).tally 10 0 2 1).postList
      (s.ofCls .safety ++ s.ofCls .service) 0x0100 0xA0 false none
      [w32 q.era, w32 s.cal, w32 (s.cal / 2 ^ 32)]
  else
    (s.modRel (fun q => { q with
        buf := q.buf ++ [(q.next, r)]
        newest := some r
        next := q.next + 1
        newestDirty := false
        flush := q.flush || (r.kind == 3 && r.fault) || q.buf.length + 1 ≥ 768 })).tally 10 0 0 1

/-- An aisle runs: no takeover is awaited (R565). -/
def State.aisleRuns (s : State) : Bool := s.power.takeover.isNone && !s.dead

/-- Append a record: into the hold during a freeze (R571), into the occurrence queue while no aisle runs. -/
def State.relAppend (s : State) (r : RelRec) : State :=
  if s.dead || s.cloister.life = 3 then s
  else if !s.aisleRuns then
    if s.reliq.occ.length < 64 then s.modRel (fun q => { q with occ := q.occ ++ [r] })
    else (s.modRel (fun q => { q with occLost := q.occLost + 1 })).tally 10 0 3 1
  else match s.reliq.freeze with
  | none => s.relAppendView r
  | some f =>
    if s.reliq.hold.length < 128 then s.modRel (fun q => { q with hold := q.hold ++ [r] })
    else s.modRel (fun q => { q with freeze := some { f with lost := f.lost + 1 } })

/-- A record of this instant. -/
def State.relRec (s : State) (kind src code : Nat) (fault : Bool) (body : List Byte) : RelRec :=
  { kind := kind, src := src, code := code, time := s.cal, unset := !s.calSet, fault := fault,
    body := padTo 40 0 body }

/-- The body of a NOTICE (R555). -/
def noticeBody (p : List Word) (time : Nat) (bell : Word) (tag : BitVec 16) : List Byte :=
  wordsBytes (padTo 4 0 p) ++ leBytes 6 time ++ wordBytes bell ++ List.replicate 12 0 ++ leBytes 2 tag.toNat

/-- A notice (R556): `ten` is the one tenant whose record it is. -/
def State.notice (s : State) (code src : Nat) (fault : Bool) (ten : Option Ten) (p : List Word) : State :=
  let tag := match ten with
    | some t => at' s.reliq.tags t
    | none => 0
  s.relAppend (s.relRec 3 src code fault (noticeBody p s.cal s.bn32 tag))

/-- The event codes that make a notice, with FLAGS.FAULT (R556). -/
def noticeOf (code : Nat) (p : List Word) : Option Bool :=
  let p0 := (p.getD 0 0).toNat
  let p1 := (p.getD 1 0).toNat
  if code = 0x10 then (if p1 = 1 || p1 = 2 then some true else none)
  else if code = 0x11 || code = 0x70 || code = 0x90 || code = 0xA3 || code = 0xA6 then some true
  else if code = 0x63 then (if 2 ≤ p0 && p0 ≤ 4 then some false else none)
  else if code = 0x64 || code = 0xB2 || code = 0xB4 || code = 0xE1 then some false
  else if code = 0xA4 then (if (p.getD 1 0).toNat % 256 = 2 || (p.getD 1 0).toNat % 256 = 3 then some true else none)
  else if code = 0xD2 then (if p0 = 1 || p0 = 2 || p0 = 4 then some false else none)
  else if code = 0xE0 then some (2 ≤ p0 / 65536 % 256)
  else if 0xF0 ≤ code && code ≤ 0xF4 then some (0xF3 ≤ code)
  else if 0x110 ≤ code && code ≤ 0x117 then some (code = 0x115 || code = 0x117)
  else none

/-- The notice of an event, where it makes one. -/
def State.noticeEv (s : State) (code src : Nat) (ten : Option Ten) (p : List Word) : State :=
  match noticeOf code p with
  | some f => s.notice code src f ten p
  | none => s

/-- Post an event to one tenant. -/
def State.post (s : State) (t : Ten) (code src : Nat) (cseq : Option Word) (p : List Word) : State :=
  (s.postRaw t code src false cseq p).noticeEv code src (some t) p

/-- Post an event to some tenants, each as its own record. -/
def State.postTo (s : State) (ts : List Ten) (code src : Nat) (cseq : Option Word) (p : List Word) : State :=
  (s.postList ts code src false cseq p).noticeEv code src none p

/-- Post an event to every bound tenant, with FLAGS.ALL (R103). -/
def State.postAll (s : State) (code src : Nat) (cseq : Option Word) (p : List Word) : State :=
  (s.postList s.bound code src true cseq p).noticeEv code src none p

/-- A write blocked under R26: counted and recorded (R556). No rule gives the writer classes and regions of the notice
codes, so P0 and P1 are free values (log entry 91). -/
def State.blocked (s : State) : State :=
  let (writer, s1) := s.fresh 32
  let (region, s2) := s1.fresh 32
  (s2.gfix 12 1).notice 0x0180 0xD0 true none [writer, region]

/-- An access outside a tenant's region is counted (R607, R608). -/
def State.outside (s : State) (t : Ten) (n : Nat) : State :=
  if n = 0 then s else (s.gfix (8 + t.val) n).tally 7 0 6 n

/-- A write outside a tenant's region is discarded (R189): each word is counted, and the write is one that R26 blocks. -/
def State.outsideWrite (s : State) (t : Ten) (n : Nat) : State := if n = 0 then s else (s.outside t n).blocked

/-! ### Metrics (R551 to R553) -/

/-- Count a bin of an accumulator (R552); a count that would take SHIFT above 15 changes no bin. -/
def Accum.count (a : Accum) (k : Nat) : Accum :=
  let r := a.res.getD k 0 + 1
  if r < 2 ^ a.shift then { a with res := a.res.set k r }
  else
    let b := a.bins.getD k 0
    if b < 65535 then { a with res := a.res.set k 0, bins := a.bins.set k (b + 1) }
    else if a.shift < 15 then
      let bs := a.bins.map (· / 2)
      { a with res := List.replicate 32 0, bins := bs.set k (bs.getD k 0 + 1), shift := a.shift + 1 }
    else a

/-- Add a sample to an accumulator at a calendar time. -/
def Accum.add (a : Accum) (v k t : Nat) : Accum :=
  let c := a.count k
  let e := a.samples = 0
  { c with
    samples := min (a.samples + 1) 0xFFFFFFFF
    sum := min (a.sum + v) (2 ^ 64 - 1)
    minV := if e || v < a.minV then v else a.minV
    minT := if e || v < a.minV then t else a.minT
    maxV := if e || v > a.maxV then v else a.maxV
    maxT := if e || v > a.maxV then t else a.maxT
    first := if e then t else a.first
    last := t }

/-- Put an accumulator into the list, in ascending CODE. -/
def accPut : List Accum → Accum → List Accum
  | [], a => [a]
  | b :: bs, a => if a.code < b.code then a :: b :: bs else if a.code = b.code then a :: bs else b :: accPut bs a

/-- One sample of a metric; none is counted while no aisle runs (R553). -/
def State.sample (s : State) (code v bin : Nat) : State :=
  if !s.aisleRuns then s else
  let a := (s.reliq.accs.find? (fun a => a.code == code)).getD { code := code }
  s.modRel (fun q => { q with accs := accPut q.accs (a.add v bin s.cal) })

/-- Significant bits of a number, at most 31: the bin of a tenant metric (R551). -/
def sigBits (v : Nat) : Nat := if v = 0 then 0 else min 31 (Nat.log2 v + 1)

/-- The tenant of a tenant metric. -/
def metricTen (code : Nat) : Option Ten := if 0x100 ≤ code then fin? 4 ((code - 0x100) / 4) else none

/-- SRC of a metric (R551). -/
def metricSrc (code : Nat) : Nat :=
  if code = 0x01 then 0x10 else if code < 0x14 then 0x30 + (code - 0x10) else if code < 0x21 then 0x30 + (code - 0x14)
  else if code = 0x21 then 0x80 else if code = 0x22 then 0x20 else 0xF0 + (code - 0x100) / 4

/-- The three records of a closing accumulator (R553, R555). -/
def Accum.records (a : Accum) (unset : Bool) (tag : BitVec 16) : List RelRec :=
  let hist := fun h : Nat => ((a.bins.drop (16 * h)).take 16).flatMap (leBytes 2) ++ leBytes 4 a.samples ++
    [BitVec.ofNat 8 a.shift, BitVec.ofNat 8 h] ++ leBytes 2 tag.toNat
  let ext := leBytes 4 a.minV ++ leBytes 6 a.minT ++ leBytes 4 a.maxV ++ leBytes 6 a.maxT ++ leBytes 8 a.sum ++
    leBytes 4 a.samples ++ leBytes 6 a.last ++ leBytes 2 tag.toNat
  let r := fun (k : Nat) (b : List Byte) =>
    ({ kind := k, src := metricSrc a.code, code := a.code, time := a.first, unset := unset, fault := false,
       body := b } : RelRec)
  if a.samples = 0 then [] else [r 1 (hist 0), r 1 (hist 1), r 2 ext]

/-- Close the accumulators that `p` picks, in ascending CODE (R553). -/
def State.accClose (s : State) (p : Nat → Bool) : State :=
  let cs := s.reliq.accs.filter (fun a => p a.code)
  let s1 := s.modRel (fun q => { q with accs := q.accs.filter (fun a => !p a.code) })
  forEach cs (fun a s =>
    let tag := match metricTen a.code with
      | some t => at' s.reliq.tags t
      | none => 0
    forEach (a.records (!s.calSet) tag) (fun r s => s.relAppend r) s) s1

/-- The end of a freeze, by cause 1 EXPIRED, 2 THAW, 3 TENANT, 4 POWER, 5 THERMAL: the held records are appended,
then the FREEZE record, and REL_THAW is posted (R572). -/
def State.freezeEnd (s : State) (why : Nat) : State :=
  match s.reliq.freeze with
  | none => s
  | some f =>
    let held := s.reliq.hold
    let el := (s.now - f.start) / ms 1
    let s1 := s.modRel (fun q => { q with freeze := none, hold := [], thawAt := some s.now })
    let s2 := forEach held (fun r s => s.relAppend r) s1
    let body := [BitVec.ofNat 8 f.ten.val, 0, 0, 0] ++ leBytes 4 el ++ leBytes 4 held.length ++ leBytes 4 f.lost ++
      [BitVec.ofNat 8 why]
    let s3 := s2.relAppend { s2.relRec 9 0xA0 0 false body with time := f.startT }
    s3.post f.ten 0x0101 0xA0 none [w32 why, w32 el, w32 held.length, w32 f.lost]

/-- End the freeze when that tenant set it. -/
def State.freezeEndOf (s : State) (t : Ten) (why : Nat) : State :=
  match s.reliq.freeze with
  | some f => if f.ten = t then s.freezeEnd why else s
  | none => s

/-! ### Tenant faults (R108 to R111) -/

/-- A tenant enters the fault state with a cause 1 LINK_LOST, 2 WDOG, 3 FATAL_RING; a second cause changes
nothing. -/
def State.tenFault (s : State) (t : Ten) (cause : Nat) (ring : Nat) : State :=
  let q := s.ten t
  if !q.cfg.bound || q.faulted then s else
  let s1 := s.modTen t (fun q => { q with faulted := true, faultCause := cause, faultRing := ring, wdogFrom := none })
  let s2 := s1.post t 0x0011 0xF0 q.frozen [w32 cause, w32 ring, q.frozen.getD 0]
  s2.freezeEndOf t 3

/-! ### The Undercroft partition (R196) -/

/-- The regions of the Undercroft. -/
inductive UnderPart
  | plane (a : Fin 2)
  | line (b : Fin 2)
  | bays
  | rings
  | fifos
  | keystone
  | capture
  | tables
  | work
  deriving DecidableEq, Repr

/-- Base address and size of a region in bytes. -/
def UnderPart.at' : UnderPart → Nat × Nat
  | .plane a => (0x180000 * a.val, 1536 * 1024)
  | .line b => (0x300000 + 0x80000 * b.val, 512 * 1024)
  | .bays => (0x400000, 896 * 1024)
  | .rings => (0x4E0000, 1024 * 1024)
  | .fifos => (0x5E0000, 512 * 1024)
  | .keystone => (0x660000, 4160 * 1024)
  | .capture => (0xA70000, 1024 * 1024)
  | .tables => (0xB70000, 384 * 1024)
  | .work => (0xBD0000, 192 * 1024)

/-- A range of bytes lies in a region. -/
def UnderPart.holds (p : UnderPart) (a n : Nat) : Bool := p.at'.1 ≤ a && a + n ≤ p.at'.1 + p.at'.2

/-- The working buffer of a bay, 224 KiB. -/
def bayBuffer (b : Fin 4) : Nat := UnderPart.bays.at'.1 + 224 * 1024 * b.val

/-- The two glyph buffers of a check rectangle, and its entry behind the segment states. The manual names their sizes; their
order in the region is the model's (DESIGN CHOICE, log entry 98). -/
def glyphBuf (c : Chap) (r : Fin 16) (second : Bool) : Nat :=
  UnderPart.keystone.at'.1 + 32768 * (2 * (16 * c.val + r.val) + b2n second)
def keyStates : Nat := UnderPart.keystone.at'.1 + 4096 * 1024
def keyEntry (c : Chap) (r : Fin 16) : Nat := keyStates + 16 + 16 * (16 * c.val + r.val)

/-- The learned table of a loop channel, 4,096 entries of two bytes (log entry 98). -/
def tableAddr (i : Slot) (ch : Fin 3) (k : Nat) : Nat := UnderPart.tables.at'.1 + 24576 * i.val + 8192 * ch.val + 2 * k

/-- The Undercroft words that a write of the block's own covers have fresh check bytes (R690). -/
def State.underFresh (s : State) (rs : List (Nat × Nat)) : State :=
  { s with memc := { s.memc with ueUnder := rs.foldl (fun ue r => ueLeft ue r.1 r.2) s.memc.ueUnder } }

/-- The rows of a glyph of W x H pixels in a buffer. -/
def glyphRows (a w h : Nat) : List (Nat × Nat) := (List.range h).map (fun y => (a + 256 * y, 2 * w))

/-- The active glyph buffer of a rectangle. -/
def KStore.active (k : KStore) (c : Chap) (r : Fin 16) : Nat := glyphBuf c r (k.alt.contains (c, r))
def KStore.inactive (k : KStore) (c : Chap) (r : Fin 16) : Nat := glyphBuf c r (!k.alt.contains (c, r))

/-- A read of the store for a mapping finds an uncorrectable word: in the segment states, in the entry, in the glyph. -/
def State.keyPoisoned (s : State) (k : KStore) (m : KMap) : Bool :=
  ((keyStates, 12) :: (keyEntry m.chap m.rect, 16) :: glyphRows (k.active m.chap m.rect) m.w m.h).any (fun r =>
    (ueFirst s.memc.ueUnder r.1 r.2).isSome)

/-! ### Cells that turn (R217, R690) -/

/-- 64-bit words of the Moangex store. -/
def moaWords : Nat := 0x2000000 / 8

/-- Words that have turned, put to those known. -/
def turned (known new : List Nat) (size : Nat) : List Nat :=
  known ++ (new.eraseDups.filter (fun w => w < size && !known.contains w))

/-- The errors that the memories' cells have taken since the last Bell (log entry 96). -/
def State.cellsTurn (s : State) (x : CellIn) : State :=
  let s1 : State := { s with memc := { s.memc with
    ueLp := turned s.memc.ueLp x.lp (s.lpU / 8)
    ueUnder := turned s.memc.ueUnder x.under (0xC00000 / 8)
    ueRet := turned s.memc.ueRet x.ret (0x40000 / 8)
    ueMoa := turned s.memc.ueMoa x.moa moaWords
    oneMoa := turned s.memc.oneMoa x.one moaWords } }
  forEach (allFin 4) (fun m s => (s.gfix 58 (at' x.corrected m)).tally 7 m.val 0 (at' x.corrected m)) s1

/-! ### The capture pool (R198) -/

/-- Units of 1 KiB in use: captures and sweep results, each as (first, count). -/
def State.poolUsed (s : State) : List (Nat × Nat) :=
  (s.choir.slots.toList.filterMap (fun q => q.cap.map (fun c => (c.first, c.units)))) ++
    (match s.chain.sweep with
     | some w => [(w.first, w.units)]
     | none => [])

/-- The unit at which `n` units fit first, where they fit (first-fit, R198). -/
def poolFit (used : List (Nat × Nat)) (n : Nat) : Option Nat :=
  (List.range (1025 - min n 1025)).find? (fun a => used.all (fun u => a + n ≤ u.1 || u.1 + u.2 ≤ a))

/-- Byte address of a unit of the capture pool. -/
def poolAddr (u : Nat) : Nat := UnderPart.capture.at'.1 + 1024 * u

/-! ### Management answers (R646 to R649) -/

/-- Words of bytes, packed little-endian with zero padding (R646). -/
def bytesWords (bs : List Byte) : List Word :=
  (List.range (cdiv bs.length 4)).map (fun i => w32 (getLe bs (4 * i) 4))

/-- Answer a tenant's pending request: the answer data from word 0, READY, and the notification. -/
def State.answer (s : State) (t : Ten) (code : Nat) (data : List Word) : State :=
  match (s.box t).pend with
  | none => s
  | some (_, tok, _, _) =>
    (s.modBox t (fun b => { b with
      busy := false
      ready := true
      alen := data.length
      token := tok
      answer := code
      pend := none
      buf := data ++ b.buf.drop data.length })).notify t 1

/-- A request is served: an aisle runs, or the ROM of a dead unit serves REL_STATUS and REL_READ on the service
port; so does the ROM in Returned, where mailbox 3 stands for the service port, since no tenant is bound (R575). -/
def State.serves (s : State) (t : Ten) (code : Nat) : Bool :=
  let rom := code = 0x0B01 || code = 0x0B02
  if s.cloister.life = 3 then rom && t == 3
  else s.aisleRuns || (s.dead && rom && (s.ten t).cfg.port == .svc)

/-- The arguments of a tenant's pending request, when it has that code and is served. -/
def State.request (s : State) (t : Ten) (code : Nat) : Option (List Word) :=
  match (s.box t).pend with
  | some (c, _, args, _) => if c = code && s.serves t code then some args else none
  | none => none

/-- The answer codes (R649). -/
def ansOk : Nat := 0
def ansClass : Nat := 1
def ansState : Nat := 2
def ansAbsent : Nat := 3
def ansSettings : Nat := 4
def ansRange : Nat := 5
def ansAuth : Nat := 6
def ansSignature : Nat := 7
def ansRng : Nat := 8
def ansGlitch : Nat := 9
def ansBusy : Nat := 10
def ansResource : Nat := 11
def ansRefused : Nat := 12
def ansUnknown : Nat := 13

/-! ### Sessions and the lifecycle (R471, R472, R503) -/

/-- A requester of the Cloister has an open session. -/
def State.inSession (s : State) (q : Fin 5) : Bool := (at' s.cloister.reqs q).session.isSome

/-- The Cloister's requester number of a tenant; the UDS server is 4. -/
def tenReq (t : Ten) : Fin 5 := t.castSucc

/-- A SERVICE tenant in Locked needs a session (R503). -/
def State.needsSession (s : State) (t : Ten) : Bool :=
  s.isCls t .service && s.cloister.life = 2 && !s.inSession (tenReq t)

/-- One more than the index of the highest bit that is 1 in `n` bytes of the OTP, or 0 (R472). -/
def State.otpTop (s : State) (off n : Nat) : Nat :=
  let v := ofLe (Memory.readN s.cloister.otp off n)
  if v = 0 then 0 else Nat.log2 v + 1

/-- The rollback floor: the larger of the two copies (R472). -/
def State.rbFloor (s : State) : Nat := max (s.otpTop 0x30 16) (s.otpTop 0x40 16)

end Sys2Proof.Machine
end

