-- ==== Sys2Proof/Machine/BellRead.lean ====
section
/-!
DEFINITION. What pacing and time the Bell generator shows: FLOOR_EFF and CEIL_EFF (02_bell R63), the floor of a
Scan Chapel (R65), and BELL_NOW (R87).
-/

namespace Sys2Proof.Machine

/-- The floor of a Scan Chapel's profile in reference cycles (R65): (L + 1) * T_half + T_ret on the 40 ns grid.
`fast` is f_fast in mHz; the numbers are exact. -/
def scanFloor (lines fast tRetUs : Nat) : Nat :=
  if fast = 0 then 0
  else
    -- (L + 1) / (2 * fast mHz) seconds = (L + 1) * 12500000000 / fast cycles of 40 ns
    cdiv ((lines + 1) * 12500000000 + tRetUs * 25 * fast) fast

/-- The largest floor of this device's Scan Chapels, in reference cycles: one that has stopped counts until the next Bell
(R265). -/
def State.ownFloor (s : State) : Nat := (s.chaps.toList.map (fun q => q.floorCyc)).foldl max 0

/-- At a Bell, the floors of the Chapels that are out of RUN no longer count (R265). -/
def State.floorBell (s : State) : State :=
  { s with chaps := mapTab (fun (q : ChapSt) => if q.state == .run then q else { q with floorCyc := 0 }) s.chaps }

/-- The largest floor of the running Scan Chapels, the chain's followers among them on node 0 (R63, R587). -/
def State.scanFloors (s : State) : Nat :=
  let far := if s.chain.addr = some 0 then s.chain.floors.map (fun f => f.2 * 25) else []
  far.foldl max s.ownFloor

/-- FLOOR_EFF in reference cycles (R63, R64). -/
def State.floorEff (s : State) : Nat :=
  let req := (s.ofCls .safety).map (fun t => (s.ten t).floorReq)
  min 500000 ((req ++ [s.scanFloors]).foldl max 208334)

/-- CEIL_EFF in reference cycles (R63, R64). -/
def State.ceilEff (s : State) : Nat :=
  let req := (s.ofCls .safety).map (fun t => (s.ten t).ceilReq)
  max s.floorEff (req.foldl min 500000)

/-- µs of a duration, rounded down. -/
def usOf (t : Time) : Nat := t / us 1

/-- BELL_NOW at an instant (R87). -/
def State.bellNow (s : State) : Word :=
  let toBell := match s.bell.ann with
    | some a => usOf (a + us 1500 - s.now)
    | none => 0
  let el := if s.bell.afterVigil then 20000 else
    match s.bell.lastAt with
    | some b => min 20000 (usOf (s.now - b))
    | none => 0
  mkWord [(b2n s.bell.ann.isSome, 31, 1), (toBell, 16, 11), (el, 0, 16)]

end Sys2Proof.Machine
end

