-- ==== Sys2Proof/Machine/Quagal.lean ====
section
/-!
DEFINITION. A Lectern: fetching packets, decoding a Quagal word, and the shape every instruction shares
(04_quagal_model R122 to R142; 03_tenants_rings R94 to R99, R107).
-/

namespace Sys2Proof.Machine

/-! ### Fault causes (R140) -/

def fECC : Nat := 1
def fLECTERN : Nat := 2
def fHDR : Nat := 3
def fSEQ : Nat := 4
def fTRUNC : Nat := 5
def fILLEGAL : Nat := 6
def fPRIV : Nat := 7
def fRANGE : Nat := 8
def fBRANCH : Nat := 9
def fWRONG : Nat := 10
def fOWNER : Nat := 11
def fSTATE : Nat := 12
def fRESOURCE : Nat := 13
def fATQ : Nat := 14
def fBUDGET : Nat := 15

/-- The cause `c`, when the condition holds. -/
def when' (b : Bool) (c : Nat) : List Nat := if b then [c] else []

/-! ### Ring bodies -/

/-- Words of a ring body, and the byte address of word 0. -/
def RingSt.words (q : RingSt) : Nat := 256 * 2 ^ q.size
def RingSt.addr (q : RingSt) : Nat := if q.under then q.base * 1024 else q.base * 32768

/-- Words from the read index up to the producer index. -/
def RingSt.avail (q : RingSt) : Nat := (q.prod + q.words - q.rd) % q.words

/-- The word `i` of a ring body, absent where it is uncorrectable. -/
def State.ringWord (s : State) (q : RingSt) (i : Nat) : Option Word :=
  let a := q.addr + 4 * (i % q.words)
  if q.under then (if ueAt s.memc.ueUnder a then none else some (Memory.readW s.under a))
  else (if ueAt s.memc.ueLp a then none else some (Memory.readW s.lp a))

/-- Words of the packet on the Lectern fetched into the burst buffer, as far as they are available (R97). -/
def State.fetched (s : State) (q : RingSt) (p : Packet) : List (Option Word) :=
  let n := min p.len (q.avail - 2)
  p.buf ++ (List.range (n - p.buf.length)).map (fun k => s.ringWord q (q.rd + 2 + p.buf.length + k))

/-- A ring fault (R107, R142). -/
def State.ringFault (s : State) (r : RingId) (cause pos : Nat) (seq : Option Word) : State :=
  let q := s.ring r
  match q.owner with
  | none => s
  | some t =>
    let n := q.ats.length
    let s1 := s.modRing r (fun q => { q with state := .fault, cause := cause, ats := [], wait := none, pkt := none, pc := pos })
    let s2 := (s1.gfix (32 + r.val) 1).post t 0x0010 r.val seq [w32 r.val, w32 cause, w32 pos, w32 n]
    if q.fatal then s2.tenFault t 3 r.val else s2

/-- The ring runs: it is owned, in RUN, its tenant is not in the fault state, and the device is in Run or Idle. -/
def State.ringReady (s : State) (r : RingId) : Bool :=
  match (s.ring r).owner with
  | none => false
  | some t => (s.ring r).state == .run && !(s.ten t).faulted && !s.resetDue t && s.live &&
      ((s.ring r).under || s.lpUsable)

/-- A packet header's LEN, where it is well formed (R94). -/
def headerLen (w : Word) : Option Nat :=
  if fld w 28 4 = 0xA && fld w 8 20 = 0 && 1 ≤ fld w 0 8 && fld w 0 8 ≤ 252 then some (fld w 0 8) else none

/-- PACKET_START (R94, R96): header and SEQ are fetched and checked, and available words follow. DESIGN CHOICE (log
entry 94): an uncorrectable header or SEQ word faults the ring at position 0 without a CSEQ, as a bad header does. -/
def State.packetStart (s : State) (r : RingId) : State :=
  let q := s.ring r
  if !s.ringReady r || q.pkt.isSome || q.avail = 0 then s else
  let s := if q.under then s else s.lpRequest
  match s.ringWord q q.rd with
  | none => s.ringFault r fECC 0 none
  | some h =>
    match headerLen h with
    | none => s.ringFault r fHDR 0 none
    | some len =>
      if q.avail < 2 then s else
      match s.ringWord q (q.rd + 1) with
      | none => s.ringFault r fECC 0 none
      | some sq =>
        let ok := match q.lastSeq with
          | none => true
          | some l => precedes l sq
        if !ok then s.ringFault r fSEQ 0 (some sq)
        else
          let p : Packet := { len := len, seq := sq, buf := [] }
          s.modRing r (fun q => { q with pkt := some { p with buf := s.fetched q p }, pc := 0, lastSeq := some sq })

/-! ### Opcodes -/

/-- The classes that may issue an opcode (R79, R127); CHIME is in the range of R79 and has its own. -/
def opClasses (op : Nat) (noSafety : Bool) : List Cls :=
  if op < 0x30 then [.safety, .app, .service]
  else if op < 0x40 then
    (if op = 0x35 then [.safety] else if op = 0x36 then (if noSafety then [.safety, .service] else [.safety])
     else [.safety, .app, .service])
  else if op < 0x70 then [.safety, .app, .service]
  else if op < 0x90 then [.safety, .service]
  else if op < 0xA0 then [.service]
  else if op < 0xB0 then [.safety]
  else if op < 0xC0 then [.safety, .app, .service]
  else [.safety, .service]

/-- The assigned opcodes (R145). -/
def opAssigned (op : Nat) : Bool :=
  op ≤ 0x03 || (0x10 ≤ op && op ≤ 0x1C) || (0x20 ≤ op && op ≤ 0x2A) || (0x2C ≤ op && op ≤ 0x2E) ||
  (0x30 ≤ op && op ≤ 0x36) || (0x40 ≤ op && op ≤ 0x44) || (0x48 ≤ op && op ≤ 0x53) ||
  (0x60 ≤ op && op ≤ 0x63) || (0x70 ≤ op && op ≤ 0x74) || (0x80 ≤ op && op ≤ 0x85) ||
  (0x90 ≤ op && op ≤ 0x92) || (0xA0 ≤ op && op ≤ 0xA5) || (0xB0 ≤ op && op ≤ 0xB2) || op = 0xB8 ||
  (0xC0 ≤ op && op ≤ 0xC2) || (0xC8 ≤ op && op ≤ 0xCB)

/-- The opcode of a word. -/
def opOf (w : Word) : Nat := fld w 24 8

/-- Words of the instruction whose first word is `w`, the action words of an AT included (R125). -/
def opWords (w : Word) : Nat :=
  let op := opOf w
  if op = 0x30 then (if bit w 21 then 3 else 1)
  else if op = 0x31 then (if bit w 22 then 3 else 1) + fld w 16 6
  else if op = 0x40 || op = 0x4A || op = 0x4B || op = 0x51 || op = 0x52 || op = 0x90 || op = 0xA2 || op = 0xC2 then 3
  else if op = 0x2A || op = 0x41 || op = 0x44 || op = 0x73 || op = 0x81 || op = 0x83 || op = 0x84 || op = 0x91 ||
    op = 0xA3 || op = 0xA4 || op = 0xC8 || op = 0xC9 then 2
  else 1

/-! ### The shape of an instruction -/

/-- What an instruction sees: its ring, tenant and packet SEQ, its words, the registers its operands name (those
at the AT's retirement in an action, R136), and its position in the packet; `acts` are the words after the first. -/
structure OpCtx where
  ring : RingId
  ten : Ten
  seq : Word
  pos : Nat
  w : Word
  e1 : Word
  e2 : Word
  g : Vector Word 16
  /-- run as an action word -/
  action : Bool
  acts : List Word := []

/-- A register of the context. -/
def OpCtx.reg (c : OpCtx) (i : Nat) : Word := (fin? 16 i).elim 0 (fun i => at' c.g i)

/-- An instruction: the bits that are not RSV in each word, its cost, illegal field values, RANGE cases that
need no object, the other causes, the words it still waits for, and its effect. -/
structure OpSem where
  m0 : Word := 0
  m1 : Word := 0
  m2 : Word := 0
  cost : OpCtx → Nat
  illegal : OpCtx → Bool := fun _ => false
  range : OpCtx → Bool := fun _ => false
  causes : OpCtx → State → List Nat := fun _ _ => []
  stall : OpCtx → State → Bool := fun _ _ => false
  run : OpCtx → State → State

/-- RSV bits outside the masks, or an illegal field (R126). -/
def OpSem.bad (o : OpSem) (c : OpCtx) : Bool :=
  (c.w &&& ~~~ (o.m0 ||| 0xFF000000#32)) != 0 || (opWords c.w ≥ 2 && (c.e1 &&& ~~~ o.m1) != 0) ||
    (opWords c.w ≥ 3 && (c.e2 &&& ~~~ o.m2) != 0) || o.illegal c

/-- The causes found at decode: ILLEGAL, PRIV (R126, R130). -/
def OpSem.decodeCauses (o : OpSem) (c : OpCtx) (s : State) : List Nat :=
  when' (o.bad c) fILLEGAL ++
  when' (!(opClasses (opOf c.w) (s.ofCls .safety).isEmpty).contains (s.ten c.ten).cfg.cls) fPRIV

/-- The lowest cause (R141). -/
def lowest (cs : List Nat) : Option Nat := cs.min?

/-- Every cause but BUDGET. -/
def OpSem.allCauses (o : OpSem) (c : OpCtx) (s : State) : List Nat :=
  o.decodeCauses c s ++ when' (o.range c) fRANGE ++ o.causes c s

/-- The charge of an instruction at its retirement, its count, and its RING trace packet (R131, R613). -/
def State.charge (s : State) (c : OpCtx) (cost : Nat) : State :=
  let s1 := ((s.modRing c.ring (fun q => { q with budget := q.budget - cost })).gfix (16 + c.ring.val) cost).tally 1
    c.ring.val 0 1
  if s1.gal.traces c.ten 2 then
    s1.trace 0x20 ([BitVec.ofNat 8 c.ring.val, BitVec.ofNat 8 c.pos, BitVec.ofNat 8 cost, 0] ++ wordBytes c.seq ++
      wordBytes c.w)
  else s1

/-- A packet whose PC reaches LEN completes (R123). -/
def State.packetEnd (s : State) (r : RingId) : State :=
  let q := s.ring r
  match q.pkt with
  | some p =>
    if q.pc = p.len then
      (s.modRing r (fun q => { q with rd := (q.rd + 2 + p.len) % q.words, cseq := p.seq, pkt := none, pc := 0 })).tally 1
        r.val 1 1
    else s
  | none => s

/-- Retire: charge, move PC past the words, take effect, complete the packet. -/
def State.retire (s : State) (o : OpSem) (c : OpCtx) : State :=
  let s1 := s.charge c (o.cost c)
  let s2 := s1.modRing c.ring (fun q => { q with pc := c.pos + opWords c.w })
  (o.run c s2).packetEnd c.ring

/-- What stands at a Lectern's PC. -/
inductive AtPc
  /-- the ring does not run, waits, or the words are not all available -/
  | stall
  | fault (cause : Nat)
  | op (c : OpCtx) (words : List Word)

/-- The words of an instruction, none where one of them is uncorrectable. -/
def allWords : List (Option Word) → Option (List Word)
  | [] => some []
  | none :: _ => none
  | some w :: ws => (allWords ws).map (w :: ·)

/-- The instruction at the PC of a ring, with its words (R125, R97). -/
def State.atPc (s : State) (r : RingId) : AtPc :=
  let q := s.ring r
  match q.owner, q.pkt with
  | some t, some p =>
    if !s.ringReady r || q.wait.isSome then .stall else
    let buf := s.fetched q p
    match buf[q.pc]? with
    | none => .stall
    | some none => .fault fECC
    | some (some w) =>
      if !opAssigned (opOf w) then .fault fILLEGAL
      else if q.pc + opWords w > p.len then .fault (if (buf.drop q.pc).any Option.isNone then fECC else fTRUNC)
      else if buf.length < q.pc + opWords w then .stall
      else match allWords ((buf.drop q.pc).take (opWords w)) with
        | none => .fault fECC
        | some ws =>
          .op { ring := r, ten := t, seq := p.seq, pos := q.pc, w := w, e1 := ws.getD 1 0, e2 := ws.getD 2 0,
                g := q.g, action := false, acts := ws.drop 1 } ws
  | _, _ => .stall

/-- The words fetched so far kept in the burst buffer. -/
def State.keepFetched (s : State) (r : RingId) : State :=
  s.modRing r (fun q => { q with pkt := q.pkt.map (fun p => { p with buf := s.fetched q p }) })

/-- Run the instruction at the PC of a ring when its opcode is `op`: it faults, or retires. -/
def State.runOp (s : State) (r : RingId) (op : Nat) (o : OpSem) : State :=
  match s.atPc r with
  | .stall => s
  | .fault f => s.ringFault r f (s.ring r).pc ((s.ring r).pkt.map (·.seq))
  | .op c _ =>
    if opOf c.w != op || ((o.decodeCauses c s).isEmpty && o.stall c s) then s
    else match lowest (o.allCauses c s) with
      | some f => s.ringFault r f c.pos (some c.seq)
      | none =>
        if o.cost c > (s.ring r).budget then s.ringFault r fBUDGET c.pos (some c.seq)
        else (s.keepFetched r).retire o c

/-- The command PACKET_START. -/
def execPacketStart (r : RingId) (s : State) : Host.Outcome State Fault Refusal := .next (s.packetStart r)

/-- The Lectern of a ring is retired: a RESTART that waits for its Bell is gone, for the ring runs again only after a
REBIND; a REBIND keeps the spare held for it (R114). -/
def RingSt.lecternOut (q : RingSt) : RingSt :=
  match q.pend with
  | some (false, _, _) => { q with pend := none }
  | _ => q

/-- LECTERN_FAULT (R114): the ring faults with cause LECTERN and its Lectern is retired. -/
def State.lecternFault (s : State) (r : RingId) : State :=
  if (s.ring r).owner.isSome && (s.ring r).cause != fLECTERN then
    let rebinds := (s.ring r).state == .rebindPend
    let s1 := (s.modRing r RingSt.lecternOut).ringFault r fLECTERN (s.ring r).pc ((s.ring r).pkt.map (·.seq))
    if rebinds then s1.modRing r (fun q => { q with state := .rebindPend }) else s1
  else s

/-- The command LECTERN_FAULT. -/
def execLecternFault (r : RingId) (s : State) : Host.Outcome State Fault Refusal := .next (s.lecternFault r)

end Sys2Proof.Machine
end

