-- ==== Sys2Proof/Machine/Reliquary.lean ====
section
/-!
DEFINITION. The Reliquary's commands: accumulator closing, losses, the flush, freezes, the management requests,
and RTAG, RVAL, RCLK and PTOL (17_reliquary R551 to R576; 05_quagal_reference R176 to R178).
-/

namespace Sys2Proof.Machine

/-! ### Closing, losses and the flush -/

/-- The accumulators close at the Bell at which BELLNO[19:0] becomes 0 (R553). -/
def State.accumulatorClose (s : State) : State :=
  if s.reliq.closeDue then (s.modRel (fun q => { q with closeDue := false })).accClose (fun _ => true) else s
def execAccumulatorClose (s : State) : Host.Outcome State Fault Refusal := .next s.accumulatorClose

/-- The BUFFER_LOST notice once space has returned (R565). -/
def State.bufferLost (s : State) : State :=
  let q := s.reliq
  if (q.occLost != 0 || q.bufLost != 0) && q.buf.length < 1024 && q.occ.length < 64 && s.aisleRuns then
    (s.modRel (fun q => { q with occLost := 0, bufLost := 0 })).notice 0x0181 0xA0 false none
      [w32 q.occLost, w32 q.bufLost]
  else s
def execBufferLost (s : State) : Host.Outcome State Fault Refusal := .next s.bufferLost

/-- Byte address of a slot (R562). -/
def relSlot (k : Nat) : Nat := 0x1300000 + 64 * k

/-- Write a record to its slot: one 64-byte unit of the store (R566). -/
def State.relWrite (s : State) (k : Nat) (r : RelRec) : State :=
  (s.moaWrite (relSlot k) (r.bytes s.reliq.era k)).tally 7 3 8 1

/-- Units still to write. -/
def ReliqSt.units (q : ReliqSt) : Nat := b2n q.newestDirty + q.buf.length + b2n q.fullDirty

/-- One unit is written and counted. -/
def ReliqSt.wrote (q : ReliqSt) : ReliqSt :=
  { q with flushLeft := q.flushLeft - 1, flush := 1 < q.units }

/-- The flush engine writes one unit: the changed newest record, then the buffer oldest first, then the FULL
record (R566, R567). -/
def State.flushUnit (s : State) : State :=
  let q := s.reliq
  if !q.flush then s
  else if q.newestDirty then
    match q.newest with
    | some n => (s.relWrite (q.next - 1) n).modRel (fun q => { q.wrote with newestDirty := false })
    | none => s.modRel (fun q => { q with newestDirty := false })
  else match q.buf with
  | (k, r) :: rest => (s.relWrite k r).modRel (fun q => { q.wrote with buf := rest })
  | [] =>
    if q.fullDirty then
      match q.fullRec with
      | some f => (s.relWrite 65535 f).modRel (fun q => { q.wrote with fullDirty := false })
      | none => s.modRel (fun q => { q with fullDirty := false })
    else s.modRel (fun q => { q with flush := false, flushLeft := 0 })
def execReliquaryFlush (s : State) : Host.Outcome State Fault Refusal :=
  .next (if s.reliq.flush && s.power.flushStopped then s else s.flushUnit)

/-- Start a flush (R566). -/
def State.flushStart (s : State) : State := (s.modRel (fun q => { q with flush := true })).tally 10 0 4 1

/-! ### Freezes (R571, R572) -/

/-- The freeze reaches its duration. -/
def State.freezeExpiry (s : State) : State :=
  match s.reliq.freeze with
  | some f => (s.passTo (f.start + ms f.ms)).freezeEnd 1
  | none => s
def execFreezeExpiry (s : State) : Host.Outcome State Fault Refusal := .next s.freezeExpiry

/-! ### Management requests (R573, R574) -/

/-- A class other than APP. -/
def State.notApp (s : State) (t : Ten) : Bool := !s.isCls t .app

/-- REL_STATUS. -/
def execRelStatus (t : Ten) (s : State) : Host.Outcome State Fault Refusal :=
  .next (match s.request t 0x0B01 with
  | none => s
  | some _ =>
    let q := s.reliq
    if !s.notApp t then s.answer t ansClass [] else
    let fz := match q.freeze with
      | some f => [1, w32 f.ten.val, w32 (f.ms - (s.now - f.start) / ms 1)]
      | none => [0, 0, 0]
    s.answer t ansOk ([w32 q.era, w32 q.next, w32 ((q.newest.map (·.rep)).getD 0), w32 (b2n q.full), w32 q.drops,
      w32 q.buf.length] ++ fz ++ [w32 (b2n s.calSet), w32 s.cal, w32 (s.cal / 2 ^ 32)]))

/-- A slot of the view (R569). -/
def State.relView (s : State) (k : Nat) : List Byte :=
  let q := s.reliq
  if k = 65535 && q.full then (q.fullRec.map (fun f => f.bytes q.era 65535)).getD []
  else if q.next ≤ k && k != 65535 then List.replicate 64 0
  else match q.buf.find? (fun e => e.1 == k) with
    | some e => e.2.bytes q.era k
    | none =>
      match (if q.newestDirty && k + 1 = q.next then q.newest else none) with
      | some n => n.bytes q.era k
      | none => Memory.readN s.moa (relSlot k) 64

/-- REL_READ. -/
def execRelRead (t : Ten) (s : State) : Host.Outcome State Fault Refusal :=
  .next (match s.request t 0x0B02 with
  | none => s
  | some a =>
    let k := (a.getD 0 0).toNat
    let n := (a.getD 1 0).toNat
    if !s.notApp t then s.answer t ansClass []
    else if n < 1 || 16 < n || 65536 < k + n then s.answer t ansRange []
    else s.answer t ansOk (bytesWords ((List.range n).flatMap (fun i => s.relView (k + i)))))

/-- REL_FREEZE. -/
def execRelFreeze (t : Ten) (s : State) : Host.Outcome State Fault Refusal :=
  .next (match s.request t 0x0B03 with
  | none => s
  | some a =>
    let n := (a.getD 0 0).toNat
    let soon := match s.reliq.thawAt with
      | some x => s.now < x + ms 1000
      | none => false
    if !s.notApp t then s.answer t ansClass []
    else if n < 1 || 10000 < n then s.answer t ansRange []
    else if s.reliq.freeze.isSome || soon then s.answer t ansBusy []
    else (s.modRel (fun q => { q with freeze := some { ten := t, ms := n, start := s.now, startT := s.cal } })).answer t
      ansOk [w32 n])

/-- REL_THAW. -/
def execRelThaw (t : Ten) (s : State) : Host.Outcome State Fault Refusal :=
  .next (match s.request t 0x0B04 with
  | none => s
  | some _ =>
    if !s.notApp t then s.answer t ansClass []
    else match s.reliq.freeze with
    | some f => if f.ten = t then (s.freezeEnd 2).answer t ansOk [] else s.answer t ansState []
    | none => s.answer t ansState [])

/-- The erase of R574 by a tenant. -/
def State.relErase (s : State) (t : Ten) : State :=
  let q := s.reliq
  let n := q.buf.length + q.hold.length + 3 * (q.accs.filter (fun a => a.samples != 0)).length
  let era := (q.era + 1) % 65536
  let body := leBytes 2 q.era ++ [0, 0] ++ leBytes 4 q.next ++ leBytes 4 n ++ [BitVec.ofNat 8 t.val]
  let r := s.relRec 10 0xA0 0 false body
  let s1 := s.modRel (fun q => { q with
    era := era
    next := 1
    buf := []
    hold := []
    accs := []
    newest := some r
    newestDirty := false
    full := false
    fullRec := none
    fullDirty := false
    drops := 0 })
  s1.relWrite 0 r

/-- REL_ERASE. -/
def execRelErase (t : Ten) (s : State) : Host.Outcome State Fault Refusal :=
  .next (match s.request t 0x0B05 with
  | none => s
  | some _ =>
    if !s.isCls t .service then s.answer t ansClass []
    else if s.cloister.life = 3 then s.answer t ansState []
    else if s.cloister.life = 2 && !s.inSession (tenReq t) then s.answer t ansAuth []
    else if s.reliq.freeze.isSome then s.answer t ansBusy []
    else
      let s1 := s.relErase t
      s1.answer t ansOk [w32 s1.reliq.era])

/-- The metric codes of R551. -/
def metricCode (c : Nat) : Bool :=
  c = 0x01 || (0x10 ≤ c && c ≤ 0x17) || c = 0x21 || c = 0x22 || (0x100 ≤ c && c ≤ 0x10F)

/-- Two words of a 48-bit or 64-bit number. -/
def words2 (n : Nat) : List Word := [w32 n, w32 (n / 2 ^ 32)]

/-- REL_METRIC. -/
def execRelMetric (t : Ten) (s : State) : Host.Outcome State Fault Refusal :=
  .next (match s.request t 0x0B06 with
  | none => s
  | some a =>
    let c := (a.getD 0 0).toNat
    if !metricCode c then s.answer t ansRange []
    else if !s.notApp t && metricTen c != some t then s.answer t ansClass []
    else
      let m := (s.reliq.accs.find? (fun a => a.code == c)).getD { code := c }
      s.answer t ansOk (m.bins.map w32 ++ [w32 m.shift, w32 m.samples] ++ words2 m.sum ++
        [w32 m.minV] ++ words2 m.minT ++ [w32 m.maxV] ++ words2 m.maxT ++ words2 m.first ++ words2 m.last))

/-! ### RTAG, RVAL, RCLK, PTOL (R176 to R178, R559 to R561) -/

/-- The change of a tenant's tag (R559). -/
def State.setTag (s : State) (t : Ten) (tag : Nat) (seq : Word) : State :=
  let old := at' s.reliq.tags t
  let s1 := s.accClose (fun c => metricTen c == some t)
  let body := leBytes 2 tag ++ [BitVec.ofNat 8 t.val, 0] ++ wordBytes seq ++ leBytes 2 old.toNat ++
    List.replicate 6 0 ++ leBytes 6 s1.cal
  let s2 := s1.relAppend (s1.relRec 4 (0xF0 + t.val) 0 false body)
  s2.modRel (fun q => { q with tags := upd q.tags t (fun _ => BitVec.ofNat 16 tag) })

/-- RTAG. -/
def semRtag : OpSem where
  m0 := 0x0000FFFF#32
  cost := fun _ => 2
  run := fun c s => s.setTag c.ten (fld c.w 0 16) c.seq
def execRtag (r : RingId) (s : State) : Host.Outcome State Fault Refusal := .next (s.runOp r 0xB0 semRtag)

/-- RVAL: one sample of a tenant metric (R551). -/
def semRval : OpSem where
  m0 := 0x00CF0000#32
  cost := fun _ => 1
  run := fun c s =>
    let v := (c.reg (fld c.w 16 4)).toNat
    s.sample (0x100 + 4 * c.ten.val + fld c.w 22 2) v (sigBits v)
def execRval (r : RingId) (s : State) : Host.Outcome State Fault Refusal := .next (s.runOp r 0xB1 semRval)

/-- The setting of calendar time (R177, R560, R561). -/
def State.setClock (s : State) (t : Ten) (ring : Nat) (v : Nat) (seq : Word) : State :=
  let old := s.cal
  let s1 := { s with calMs := v, calAt := s.now, calSet := true }
  let body := leBytes 6 old ++ leBytes 6 v ++ [BitVec.ofNat 8 t.val, 0, 0, 0] ++ wordBytes seq
  let s2 := s1.relAppend (s1.relRec 5 (0xF0 + t.val) 0 false body)
  s2.postAll 0x0055 ring (some seq) [seq, w32 v, w32 (v / 2 ^ 32), w32 t.val]

/-- RCLK. -/
def semRclk : OpSem where
  m0 := 0x00F00000#32
  cost := fun _ => 2
  illegal := fun c => fld c.w 20 4 % 2 = 1
  range := fun c => fld (c.reg (fld c.w 20 4 + 1)) 16 16 != 0
  run := fun c s =>
    let i := fld c.w 20 4
    s.setClock c.ten c.ring.val ((c.reg (i + 1)).toNat * 2 ^ 32 + (c.reg i).toNat) c.seq
def execRclk (r : RingId) (s : State) : Host.Outcome State Fault Refusal := .next (s.runOp r 0xB2 semRclk)

/-- PTOL. -/
def semPtol : OpSem where
  m0 := 0x0000FFFF#32
  cost := fun _ => 1
  run := fun c s => s.modTen c.ten (fun q => { q with ptol := fld c.w 0 16 })
def execPtol (r : RingId) (s : State) : Host.Outcome State Fault Refusal := .next (s.runOp r 0xB8 semPtol)

end Sys2Proof.Machine
end

