-- ==== Sys2Proof/Machine/Tenants.lean ====
section
/-!
DEFINITION. Doorbells, RESTART and REBIND, tenant-reset requests, watchdogs and the event queue's read index
(03_tenants_rings R108 to R121, R691).
-/

namespace Sys2Proof.Machine

/-- A tenant reset is requested and has not taken effect. -/
def Tenant.resetting (q : Tenant) : Bool := q.resetAt.isSome

/-- The spares that accepted REBINDs hold (R114). -/
def State.sparesHeld (s : State) : List Nat := s.rings.toList.filterMap (·.spare)

/-- The spares that no accepted REBIND holds. -/
def State.sparesFree (s : State) : List Nat := s.spares.filter (fun l => !s.sparesHeld.contains l)

/-- The reason that refuses a doorbell, the first of R119 that applies; R503 adds STATE
for a SERVICE tenant without a session. -/
def State.doorbellReason (s : State) (t : Ten) (r : RingId) (op idx : Nat) : Option Nat :=
  let q := s.ring r
  if (s.ten t).faulted || (s.ten t).resetting || s.needsSession t then some 6
  else if op = 3 then some 5
  else if q.words ≤ idx then some 4
  else if op != 0 && q.state != .fault then some 1
  else if op = 1 && q.cause = fLECTERN then some 3
  else if op = 2 && s.sparesFree.isEmpty then some 2
  else none

/-- An accepted doorbell: PRODUCE moves the producer index, RESTART and REBIND wait for the next Bell (R118).
DESIGN CHOICE (log entry 92): the word takes what an accepted write wrote, so that after a refused write (R119) it still
reads the last word accepted. -/
def State.doorbellTake (s : State) (r : RingId) (op idx : Nat) : State :=
  let s1 := s.modRing r (fun q => { q with doorbell := mkWord [(op, 30, 2), (idx, 0, 20)] })
  let s2 := s1.tally 1 r.val 2 1
  if op = 0 then s2.modRing r (fun q => { q with prod := idx })
  else if op = 1 then s2.modRing r (fun q => { q with pend := some (false, idx, s.bn + 1) })
  else s2.modRing r (fun q => { q with state := .rebindPend, pend := some (true, idx, s.bn + 1), spare := s.sparesFree.min? })

/-- A doorbell write by tenant `t` (R44, R118, R119). -/
def State.doorbell (s : State) (t : Ten) (r : RingId) (op idx : Nat) : State :=
  if (s.ring r).owner != some t then s else
  match s.doorbellReason t r op idx with
  | some n => s.post t 0x0015 r.val none [w32 r.val, w32 op, w32 n]
  | none => s.doorbellTake r op idx

/-- RESTART takes effect at its Bell: the ring resumes from IDX with its registers kept (R118, R122). -/
def State.ringRestarted (s : State) (r : RingId) : State :=
  let q := s.ring r
  match q.owner, q.pend with
  | some t, some (false, idx, b) =>
    if b ≤ s.bn then
      (s.modRing r (fun q => { q with
        state := .run
        cause := 0
        rd := idx
        prod := idx
        lastSeq := none
        pkt := none
        pc := 0
        pend := none })).post t 0x0013 r.val none [w32 r.val, w32 idx]
    else s
  | _, _ => s
def execRingRestarted (s : State) : Host.Outcome State Fault Refusal :=
  .next (forEach (allFin 16) (fun r s => State.ringRestarted s r) s)

/-- REBIND takes effect at its Bell: the ring moves to the spare held for it with its registers at 0; the Lectern it
leaves joins the pool unless it is retired (R114, R118, R122). -/
def State.rebindDone (s : State) (r : RingId) : State :=
  let q := s.ring r
  match q.owner, q.pend, q.spare with
  | some t, some (true, idx, b), some l =>
    if b ≤ s.bn then
      let left := if q.cause = fLECTERN then [] else [q.lectern]
      let s1 := { s with spares := (s.spares.filter (fun x => x != l)) ++ left }
      (s1.modRing r (fun q => { q with
        state := .run
        cause := 0
        rd := idx
        prod := idx
        lastSeq := none
        pkt := none
        pc := 0
        pend := none
        spare := none
        lectern := l
        g := Vector.replicate 16 0
        p := Vector.replicate 4 false })).post t 0x0014 r.val none [w32 r.val, w32 q.lectern, w32 l]
    else s
  | _, _, _ => s
def execRebindDone (s : State) : Host.Outcome State Fault Refusal :=
  .next (forEach (allFin 16) (fun r s => State.rebindDone s r) s)

/-- A TENANT_RESET write (R90, R117): requests merge into one reset, at the first Bell whose announcement follows. -/
def State.resetReq (s : State) (t : Ten) (v : Word) : State :=
  if bit v 0 && (s.ten t).cfg.bound && (s.ten t).resetAt.isNone then
    s.modTen t (fun q => { q with resetAt := some (s.bn + (if s.bell.ann.isSome then 2 else 1)) })
  else s

/-- A TEN_KICK write restarts a running watchdog period in RUN (R117, R691). -/
def State.kick (s : State) (t : Ten) (v : Word) : State :=
  let q := s.ten t
  if bit v 0 && q.cfg.bound && !q.faulted && !q.resetting && q.wdogFrom.isSome then
    s.modTen t (fun q => { q with wdogFrom := some s.now })
  else s

/-- Watchdog periods run: not in Crypt, nor from the announcement that begins a Vigil entry to the first Bell after the
exit (R691). -/
def State.wdogRuns (s : State) : Bool := s.live && !s.power.entering.any (fun e => e.1 == .vigil)

/-- A watchdog period that has passed without a kick faults the tenant (R109, R691). -/
def State.wdogExpiry (s : State) (t : Ten) : State :=
  let q := s.ten t
  match (if s.wdogRuns then q.wdogFrom else none) with
  | some f => if q.cfg.wdogMs != 0 && f + ms q.cfg.wdogMs ≤ s.now then s.tenFault t 2 0 else s
  | none => s
def execTenantWatchdogExpiry (s : State) : Host.Outcome State Fault Refusal :=
  .next (
    let ends := s.tens.toList.filterMap (fun q => if q.cfg.wdogMs = 0 then none else q.wdogFrom.map (· + ms q.cfg.wdogMs))
    forEach (allFin 4) (fun t s => State.wdogExpiry s t) (s.passFirst ends))

/-- An EVQ_RD write (R120, R639). -/
def State.evqRdWrite (s : State) (t : Ten) (v : Word) : State :=
  let q := s.ten t
  let c := q.cfg.evqCap
  let n := fld v 0 12
  if q.cfg.bound && n < c && (n + c - q.evq.rd) % c ≤ (q.evq.wr + c - q.evq.rd) % c then
    let s1 := s.modTen t (fun q => { q with evq := { q.evq with rd := n } })
    if n != q.evq.wr && q.evq.notify then s1.notify t 0 else s1
  else s

/-- EVQ_OVERFLOW is written once space is open after drops (R106). -/
def execEvqOverflow (t : Ten) (s : State) : Host.Outcome State Fault Refusal := .next (s.evqOverflow t)

end Sys2Proof.Machine
end

