-- ==== Sys2Proof/Machine/Gallery.lean ====
section
/-!
DEFINITION. The Gallery's controls: counter views, select codes and trace classes (19_gallery R607 to R620).
-/

namespace Sys2Proof.Machine

/-- A tenant's port serves it: in a dead unit only the service port does, for the ROM's mailbox requests (R56, log entry
82). -/
def State.reached (s : State) (t : Ten) : Bool := (s.ten t).cfg.bound && (!s.dead || s.portOf t == .svc)

/-- The tenant that a host port serves; a PCIe function reaches its own tenant only (R92, R635). -/
def State.portTen (s : State) (p : HostPort) : Option Ten :=
  (s.bound.filter s.reached).find? (fun t => s.portOf t == p)

/-- Who owns a ring. -/
def State.ownsRing (s : State) (t : Ten) (r : Nat) : Bool :=
  (fin? 16 r).elim false (fun r => (s.ring r).owner == some t)

/-- A fixed counter is visible to a tenant (R607). -/
def State.galVisible (s : State) (t : Ten) (i : Nat) : Bool :=
  if i < 12 then i % 4 = t.val
  else if i < 16 then true
  else if i < 48 then s.ownsRing t (i % 16)
  else i != 63

/-- The 64-bit value of a tenant's view slot (R618). -/
def State.galView (s : State) (t : Ten) (v : Nat) : BitVec 64 :=
  if v < 64 then
    (match fin? 64 v with
     | some i => if s.galVisible t v then at' s.gal.fixed i else 0
     | none => 0)
  else match fin? 48 (v - 64) with
    | some i => at' (at' s.gal.assign t) i
    | none => 0

/-- The counter number behind a view slot. -/
def galNumber (t : Ten) (v : Nat) : Nat := if v < 64 then v else 64 + 48 * t.val + (v - 64)

/-- Change a tenant's view of the Gallery. -/
def State.modGal (s : State) (t : Ten) (f : GalTen → GalTen) : State :=
  { s with gal := { s.gal with tens := upd s.gal.tens t f } }

/-- A low-half read loads the holding register (R610). -/
def State.galLow (s : State) (t : Ten) (v : Nat) : Word × State :=
  let x := (s.galView t v).toNat
  (w32 x, s.modGal t (fun g => { g with holding := some (galNumber t v, w32 (x / 2 ^ 32)) }))

/-- A high-half read (R611). -/
def State.galHigh (s : State) (t : Ten) (v : Nat) : Word × State :=
  match (at' s.gal.tens t).holding with
  | some (n, h) =>
    if n = galNumber t v then (h, s.modGal t (fun g => { g with holding := none, hstale := false }))
    else (w32 ((s.galView t v).toNat / 2 ^ 32), s.modGal t (fun g => { g with hstale := true }))
  | none => (w32 ((s.galView t v).toNat / 2 ^ 32), s.modGal t (fun g => { g with hstale := true }))

/-- Return a value to a tenant's port. -/
def State.give (s : State) (t : Ten) (v : Word) : State :=
  { s with ports := { s.ports with rdata := upd s.ports.rdata t (fun _ => v) } }

/-- A select code that the table of R608 lists. -/
def selValid (c : Nat) : Bool :=
  let u := nfld c 8 4
  let e := nfld c 0 8
  match nfld c 12 4 with
  | 0 => c = 0
  | 1 => e ≤ 5
  | 2 => (u < 4 && e ≤ 4) || (u = 4 && (e ≤ 5 || (8 ≤ e && e ≤ 10)))
  | 3 => u < 4 && (e ≤ 7 || (2 ≤ u && 8 ≤ e && e ≤ 13))
  | 4 =>
    if u < 6 then e ≤ 2 else if u = 6 then 5 ≤ e && e ≤ 7 else if u = 7 then false else if u < 14 then e ≤ 1
    else e = 3 || e = 4
  | 5 => e ≤ 5
  | 6 => u < 8 && (e ≤ 3 || (16 ≤ e && e ≤ 31))
  | 7 => u < 4 && (e ≤ 1 || (u = 0 && e ≤ 6) || (u = 3 && (e = 7 || e = 8)))
  | 8 => u < 10 && e ≤ 3
  | 9 => u < 2 && e ≤ 3
  | 10 => u = 0 && e ≤ 4
  | 11 => u < 6 && e ≤ 2
  | _ => false

/-- The tenant's OBS byte and its unit allow a code (R608, R609). -/
def State.selAllowed (s : State) (t : Ten) (c : Nat) : Bool :=
  let o := (s.ten t).cfg.obs
  let u := nfld c 8 4
  match nfld c 12 4 with
  | 0 => true
  | 1 => bit o 0 && s.ownsRing t u
  | 2 | 3 => bit o 1
  | 4 | 6 => bit o 2
  | 5 => bit o 2 || (bit o 0 && (fin? 16 u).elim false (fun i => (s.slot i).cfg.en && (s.slot i).cfg.owner == t))
  | 7 => bit o 3
  | _ => bit o 4

/-- GAL_QUERY. -/
def execGalQuery (t : Ten) (s : State) : Host.Outcome State Fault Refusal :=
  .next (match s.request t 0x0D01 with
  | none => s
  | some _ =>
    let g := at' s.gal.tens t
    s.answer t ansOk ([w32 (s.ten t).cfg.obs.toNat, w32 g.tren] ++ g.codes.toList.map w32 ++ [w32 (b2n s.gal.tron)] ++
      words2 (at' s.gal.fixed 13).toNat))

/-- GAL_ASSIGN: the counter is 0 at once, and counts the new code from the first t_B (R620). -/
def execGalAssign (t : Ten) (s : State) : Host.Outcome State Fault Refusal :=
  .next (match s.request t 0x0D02 with
  | none => s
  | some a =>
    let c := (a.getD 1 0).toNat
    if s.needsSession t then s.answer t ansAuth []
    else match fin? 48 (a.getD 0 0).toNat with
    | none => s.answer t ansRange []
    | some k =>
      if !selValid c then s.answer t ansRange []
      else if !s.selAllowed t c then s.answer t ansClass []
      else
        let s1 := s.modGal t (fun g => { g with pend := putKey k c g.pend, codes := upd g.codes k (fun _ => 0) })
        ({ s1 with gal := { s1.gal with assign := upd s1.gal.assign t (fun v => upd v k (fun _ => 0)) } }).answer t ansOk [])

/-- GAL_TRACE: the mask replaces TREN at the first t_B (R620). -/
def execGalTrace (t : Ten) (s : State) : Host.Outcome State Fault Refusal :=
  .next (match s.request t 0x0D03 with
  | none => s
  | some a =>
    let m := (a.getD 0 0).toNat
    if s.needsSession t then s.answer t ansAuth []
    else if 8 ≤ m then s.answer t ansRange []
    else if (List.range 3).any (fun i => nbit m i && !bit (s.ten t).cfg.obs (5 + i)) then s.answer t ansClass []
    else (s.modGal t (fun g => { g with trenPend := some m })).answer t ansOk [])

/-- At a t_B the accepted assignments and masks take effect (R620). -/
def State.galBell (s : State) : State :=
  forEach (allFin 4) (fun t s => s.modGal t (fun g => { g with
    codes := forEach g.pend (fun e cs => upd cs e.1 (fun _ => e.2)) g.codes
    pend := []
    tren := g.trenPend.getD g.tren
    trenPend := none })) s

/-- A tenant reset in the Gallery (R617). -/
def State.galReset (s : State) (t : Ten) : State :=
  let s1 := { s with gal := { s.gal with assign := upd s.gal.assign t (fun _ => Vector.replicate 48 0) } }
  s1.modGal t (fun _ => {})

end Sys2Proof.Machine
end

