-- ==== Sys2Proof/Machine/Window.lean ====
section
/-!
DEFINITION. The register space (01_architecture R41 to R51): the identity page, the tenant windows and the
mailbox registers, each as a read and a write of one aligned word.
-/

namespace Sys2Proof.Machine

/-! ### Access by a tenant -/

/-- An accepted access of a tenant's port restarts the idle time of its session (R505). -/
def State.touch (s : State) (t : Ten) : State :=
  s.modClo (tenReq t) (fun q => { q with session := q.session.map (fun x => { x with last := s.now }) })

/-- A discarded register write, counted in C0 to C3 (R21, R618). -/
def State.discardWrite (s : State) (t : Ten) : State := s.gfix t.val 1

/-! ### The identity page -/

/-- TENANT_MAP's byte of a tenant (R45). -/
def Tenant.mapByte (q : Tenant) : Nat :=
  if q.cfg.bound then 128 + 16 * q.cfg.port.code + 4 * q.cfg.cls.code else 0

/-- TENANT_MAP (R45, R46). -/
def State.tenantMap (s : State) : Word := mkWord ((allFin 4).map (fun t => ((s.ten t).mapByte, 8 * t.val, 8)))

/-- RING_OWNER_LO (from ring 0) and RING_OWNER_HI (from ring 8). -/
def State.ringOwner (s : State) (from' : Nat) : Word :=
  mkWord ((allFin 16).filterMap (fun r =>
    if r.val / 8 = from' / 8 then
      (match (s.ring r).owner with
       | some t => some (8 + t.val, 4 * (r.val % 8), 4)
       | none => none)
    else none))

/-- UNIT_HEALTH. -/
def State.unitHealth (s : State) : Word :=
  mkWord ([(b2n s.dead, 15, 1), (b2n s.power.standbyReady, 14, 1), (b2n s.power.south, 13, 1),
    (s.spares.length, 11, 2)] ++ (allFin 4).map (fun c => (b2n (s.chap c).emits, 4 + c.val, 1)) ++
    (allFin 4).map (fun b => (b2n (s.nave.alive.contains b), b.val, 1)))

/-- FW_VER: 0 while boot is in progress and when the unit is dead. -/
def State.fwVerReg (s : State) : Word := if s.power.boot == .up && !s.dead then s.fwVer else 0

/-- LIFECYCLE. -/
def State.lifecycle (s : State) : Word := mkWord [(s.rbFloor, 8, 8), (s.cloister.life, 0, 2)]

/-- A BELLNO_LO read latches the upper part into the reading tenant's holding register (R45, R51). -/
def State.bellnoLo (s : State) (t : Option Ten) : Word × State :=
  (s.bn32, match t with
    | some t => s.modTen t (fun q => { q with hiHold := some (BitVec.ofNat 16 (s.bn / 2 ^ 32)) })
    | none => s)

/-- A BELLNO_HI read consumes the holding register, or returns the live value with STALE (R45, R50, R51). -/
def State.bellnoHi (s : State) (t : Option Ten) : Word × State :=
  let live := mkWord [(1, 31, 1), (s.bn / 2 ^ 32, 0, 16)]
  match t with
  | none => (live, s)
  | some t =>
    match (s.ten t).hiHold with
    | some h => (w32 h.toNat, s.modTen t (fun q => { q with hiHold := none }))
    | none => (live, s)

/-- A word of the identity page (R43, R45; DEV_ID: 00_scope). -/
def State.idRead (s : State) (t : Option Ten) (off : Nat) : Word × State :=
  match off / 4 with
  | 0 => (0x07150003#32, s)
  | 1 => (s.fwVerReg, s)
  | 2 => (s.lifecycle, s)
  | 3 => (s.tenantMap, s)
  | 4 => (s.ringOwner 0, s)
  | 5 => (s.ringOwner 8, s)
  | 6 => (s.unitHealth, s)
  | 7 => s.bellnoLo t
  | 8 => s.bellnoHi t
  | 9 => (w32 s.bell.lastUs, s)
  | _ => (0, s)

/-! ### Ring and queue words of a window -/

/-- TEN_STAT.STATE. -/
def Tenant.stateCode (q : Tenant) : Nat :=
  if !q.cfg.bound then 0 else if q.resetting then 3 else if q.faulted then 2 else 1

/-- TEN_STAT. -/
def State.tenStat (s : State) (t : Ten) : Word :=
  let own := (allFin 16).filter (fun r => (s.ring r).owner == some t)
  mkWord ([((s.ten t).stateCode, 30, 2), ((s.ten t).cfg.cls.code, 28, 2), (own.length, 24, 4)] ++
    own.map (fun r => (b2n ((s.ring r).state != .run), r.val, 1)))

/-- RING_STAT.STATE of an owned ring. -/
def RingState.code : RingState → Nat
  | .run => 1
  | .fault => 2
  | .rebindPend => 3

/-- RING_STAT, RING_GEOM and RING_CSEQ of an owned ring. -/
def RingSt.stat (q : RingSt) : Word :=
  mkWord [(q.state.code, 30, 2), (if q.state == .fault then q.cause else 0, 20, 8), (q.rd, 0, 20)]
def RingSt.geom (q : RingSt) : Word :=
  mkWord [(b2n q.fatal, 31, 1), (b2n q.under, 30, 1), (q.lectern, 25, 5), (q.size, 20, 4), (q.base, 0, 16)]

/-- A ring word, 0 where the tenant does not own the ring (R44). -/
def State.ringReg (s : State) (t : Ten) (k : Nat) (f : RingSt → Word) : Word :=
  match fin? 16 k with
  | some r => if (s.ring r).owner == some t then f (s.ring r) else 0
  | none => 0

/-- The event-queue words (R116). -/
def State.evqReg (s : State) (t : Ten) (k : Nat) : Word :=
  let q := s.ten t
  match k with
  | 0 => mkWord [(b2n q.cfg.evqUnder, 31, 1), (q.cfg.evqSize, 0, 4)]
  | 1 => w32 q.cfg.evqBase
  | 2 => w32 q.evq.wr
  | 3 => w32 q.evq.rd
  | 4 => mkWord [(b2n (q.evq.wr != q.evq.rd), 31, 1), (b2n q.evq.ovf, 30, 1), (q.evq.drop, 0, 16)]
  | 5 => q.evq.next
  | 6 => w32 (b2n q.evq.notify)
  | _ => 0

/-! ### Bell words of a window -/

/-- BELL_STAT. -/
def State.bellStat (s : State) (t : Ten) : Word :=
  let q := s.ten t
  mkWord [(b2n q.part, 31, 1), (b2n q.commit.isSome, 30, 1), (b2n s.bell.ann.isSome, 29, 1),
    (b2n s.chain.following, 28, 1), (q.cring, 24, 4), (q.lateCnt, 0, 16)]

/-- BELL_WIN: µs, rounded up. -/
def State.bellWin (s : State) : Word := mkWord [(cdiv s.ceilEff 25, 16, 16), (cdiv s.floorEff 25, 0, 16)]

/-- CHIME_CFG. -/
def State.chimeCfg (s : State) : Word := mkWord ((allFin 4).map (fun g => (at' s.bell.rate g, 4 * g.val, 4)))

/-! ### Chapel words of a window (R277) -/

/-- CH_STAT.STATE (R279). -/
def ChState.code : ChState → Nat
  | .off | .starting => 0
  | .run => 1
  | .stopping | .stopped => 2

/-- Slots per frame of an Array record, lines of a Scan record (R261, R266). -/
def ChapRec.count (p : ChapRec) : Nat := if p.scan then p.h else 21 + 3 * (p.depth - 3)

/-- CH_STAT. -/
def ChapSt.stat (q : ChapSt) : Word :=
  match q.rec' with
  | some p =>
    if q.state.code = 0 then 0
    else mkWord [(q.state.code, 30, 2), (b2n p.scan, 29, 1), (b2n p.abort, 28, 1), (p.depth, 24, 4), (p.count, 0, 16)]
  | none => mkWord [(q.state.code, 30, 2)]

/-- RECT_OWN: a rectangle whose mapping is released stays held until the latch point (R277, R697). -/
def ChapSt.rectOwn (q : ChapSt) (t : Ten) : Word :=
  mkWord ((allFin 16).flatMap (fun r =>
    match (at' q.rects r).owner with
    | .ten o => [(b2n (o == t), r.val, 1)]
    | .key _ | .keyFreed _ => [(1, 16 + r.val, 1)]
    | _ => []))

/-- RECT_FAIL. -/
def ChapSt.rectFail (q : ChapSt) (t : Ten) (safety : Bool) : Word :=
  mkWord ((allFin 16).flatMap (fun r =>
    let x := at' q.rects r
    [(b2n (safety && x.kfail), 16 + r.val, 1), (b2n (x.mfail && x.owner == .ten t), r.val, 1)]))

/-- The Chapel words at 0x300 + 16 k + 4 c. -/
def State.chapReg (s : State) (t : Ten) (k c : Nat) : Word :=
  match fin? 4 c with
  | none => 0
  | some c =>
    let q := s.chap c
    match k with
    | 0 => q.stat
    | 1 => at' q.even t
    | 2 => w32 q.underPix
    | 3 => w32 q.doneBell
    | 4 => q.rectOwn t
    | 5 => q.rectFail t (s.isCls t .safety)
    | _ => 0

/-! ### The mailbox (R645, R646) -/

/-- MB_STAT. -/
def Mailbox.stat (b : Mailbox) : Word :=
  mkWord [(b2n b.busy, 31, 1), (b2n b.ready, 30, 1), (b.alen, 16, 12), (b.token, 8, 8), (b.answer, 0, 8)]

/-- Every access to MB_DATA raises IDX by 1, wrapping at 1,040. -/
def Mailbox.next (b : Mailbox) : Mailbox := { b with idx := (b.idx + 1) % 1040 }

/-- A read of MB_DATA. An IDX at or above 1,040 names no word of the buffer: the read is a free value (log 23). -/
def State.boxRead (s : State) (t : Ten) : Word × State :=
  let b := s.box t
  let (v, s1) := if b.idx < 1040 then (b.buf.getD b.idx 0, s) else s.fresh 32
  (v, s1.modBox t Mailbox.next)

/-- A write of MB_DATA; at an IDX at or above 1,040 no word is written (log 23). -/
def State.boxWrite (s : State) (t : Ten) (v : Word) : State :=
  s.modBox t (fun b =>
    (if b.idx < 1040 then { b with buf := (padTo (max b.buf.length (b.idx + 1)) 0 b.buf).set b.idx v } else b).next)

/-- The request codes (R649; the owning chapters). -/
def requestCodes : List Nat :=
  [0x0301, 0x0302, 0x0303, 0x0304, 0x0401, 0x0402, 0x0403, 0x0501, 0x0502, 0x0503, 0x0601, 0x0602, 0x0701, 0x0702,
   0x0703, 0x0704, 0x0801, 0x0901, 0x0902, 0x0903, 0x0904, 0x0905, 0x0906, 0x0907, 0x0908, 0x0909, 0x0A01, 0x0A02,
   0x0A03, 0x0A04, 0x0A05, 0x0A06] ++
  [0x0B01, 0x0B02, 0x0B03, 0x0B04, 0x0B05, 0x0B06, 0x0C01, 0x0C02, 0x0C03, 0x0D01, 0x0D02, 0x0D03, 0x0E01]

/-- The requests that a SERVICE tenant may make in Locked without a session: CLO_QUERY, CLO_CHALLENGE,
CLO_RESPONSE, the queries, and the Reliquary reads (R503). -/
def sessionFree : List Nat :=
  [0x0304, 0x0401, 0x0402, 0x0501, 0x0503, 0x0601, 0x0701, 0x0801, 0x0901, 0x0904, 0x0905, 0x0A01, 0x0B01, 0x0B02,
   0x0B06, 0x0C01, 0x0D01, 0x0E01]

/-- An MB_CMD write (R646, R503, R649). -/
def State.mbCmd (s : State) (t : Ten) (v : Word) : State :=
  let b := s.box t
  if b.busy || b.ready then s.tally 11 (s.ten t).cfg.port.code 1 1
  else
    let code := fld v 16 16
    let s1 := s.modBox t (fun b => { b with
      busy := true
      pend := some (code, fld v 8 8, (padTo (min b.len 1040) 0 b.buf), s.now) })
    if !requestCodes.contains code && s.aisleRuns then s1.answer t ansUnknown []
    else if s.needsSession t && !sessionFree.contains code && s.aisleRuns then s1.answer t ansAuth []
    else if 1040 < b.len && s.aisleRuns then s1.answer t ansRange []
    else s1

/-- An MB_DONE write. -/
def State.mbDone (s : State) (t : Ten) (v : Word) : State :=
  if bit v 0 then s.modBox t (fun b => { b with ready := false }) else s

/-- The mailbox words at 0x800 + 4 k. -/
def State.boxReg (s : State) (t : Ten) (k : Nat) : Word × State :=
  match k with
  | 0 => (w32 (s.box t).len, s)
  | 2 => ((s.box t).stat, s)
  | 3 => (w32 (s.box t).idx, s)
  | 4 => s.boxRead t
  | _ => (0, s)

/-! ### A tenant window -/

/-- GAL_STAT. -/
def State.galStat (s : State) (t : Ten) : Word :=
  let g := at' s.gal.tens t
  mkWord [(b2n g.hstale, 31, 1), (b2n (s.gal.tron && !s.gal.off), 30, 1), (b2n (s.nave.alive.length == 1), 29, 1),
    ((s.ten t).cfg.obs.toNat, 8, 8), (g.tren, 0, 3)]

/-- A read of the word at an offset of the tenant's own window (R22, R116, R277, R618, R645). -/
def State.winRead (s : State) (t : Ten) (off : Nat) : Word × State :=
  let k := off / 4 % 1024
  if k = 0 then (s.tenStat t, s)
  else if k = 1 then (mkWord [((s.ten t).faultCause, 24, 8), ((s.ten t).faultRing, 20, 4)], s)
  else if k = 2 then (w32 (b2n (s.ten t).resetting), s)
  else if k = 3 then (mkWord [((s.ten t).cfg.wdogMs, 16, 16)], s)
  else if k = 0x30 then (s.bellStat t, s)
  else if k = 0x31 then (s.bellWin, s)
  else if k = 0x32 then (s.bellNow, s)
  else if k = 0x33 then (s.chimeCfg, s)
  else if k < 0x40 then (0, s)
  else if k < 0x50 then (s.ringReg t (k - 0x40) (fun q => q.doorbell), s)
  else if k < 0x60 then (s.ringReg t (k - 0x50) RingSt.stat, s)
  else if k < 0x70 then (s.ringReg t (k - 0x60) RingSt.geom, s)
  else if k < 0x80 then (s.ringReg t (k - 0x70) (fun q => q.cseq), s)
  else if k < 0xC0 then (s.evqReg t (k - 0x80), s)
  else if k < 0x100 then (s.chapReg t ((k - 0xC0) / 4) (k % 4), s)
  else if k < 0x1E0 then (if k % 2 = 0 then s.galLow t ((k - 0x100) / 2) else s.galHigh t ((k - 0x100) / 2))
  else if k = 0x1E0 then (s.galStat t, s)
  else if 0x200 ≤ k && k < 0x240 then s.boxReg t (k - 0x200)
  else (0, s)

/-- A write of a whole word at an offset of the tenant's own window (R21, R22). -/
def State.winWrite (s : State) (t : Ten) (off : Nat) (v : Word) : State :=
  let k := off / 4 % 1024
  if k = 2 then s.resetReq t v
  else if k = 3 then s.kick t v
  else if 0x40 ≤ k && k < 0x50 then
    (match fin? 16 (k - 0x40) with
     | some r => s.doorbell t r (fld v 30 2) (fld v 0 20)
     | none => s)
  else if k = 0x83 then s.evqRdWrite t v
  else if k = 0x84 then
    (if bit v 30 then s.modTen t (fun q => { q with evq := { q.evq with ovf := false } }) else s)
  else if k = 0x86 then s.modTen t (fun q => { q with evq := { q.evq with notify := bit v 0 } })
  else if 0xC4 ≤ k && k < 0xC8 then
    (match fin? 4 (k - 0xC4) with
     | some c => s.modChap c (fun q => { q with even := upd q.even t (fun _ => v &&& 0xE0000FFF#32) })
     | none => s)
  else if 0x100 ≤ k && k < 0x1E0 then s.discardWrite t
  else if k = 0x200 then s.modBox t (fun b => { b with len := fld v 0 11 })
  else if k = 0x201 then s.mbCmd t v
  else if k = 0x203 then s.modBox t (fun b => { b with idx := fld v 0 11 })
  else if k = 0x204 then s.boxWrite t v
  else if k = 0x205 then s.mbDone t v
  else s

/-! ### The register space -/

/-- A read of the word at a register-space address by a port (R41, R42, R56). -/
def State.regRead (s : State) (ot : Option Ten) (addr : Nat) : Word × State :=
  let page := addr / 4096
  let off := addr % 4096
  if page = 0 then s.idRead ot off
  else match ot with
  | none => (0, s)
  | some t =>
    if page = t.val + 1 then (if s.dead && off / 256 != 8 then (0, s) else s.winRead t off)
    else if page ≤ 4 then (0, s.gfix (4 + t.val) 1)
    else (0, s)

/-- A write of one aligned word by a port; `whole` says that it covers the word (R21, R42, R43). -/
def State.regWrite (s : State) (ot : Option Ten) (addr : Nat) (whole : Bool) (v : Word) : State :=
  let page := addr / 4096
  let off := addr % 4096
  match ot with
  | none => s
  | some t =>
    if page = 0 then (if whole then s else s.discardWrite t)
    else if page = t.val + 1 then
      (if !whole then s.discardWrite t
       else if s.dead && off / 256 != 8 then s else s.winWrite t off v)
    else if page ≤ 4 then s.gfix (4 + t.val) 1
    else s

end Sys2Proof.Machine
end

