-- ==== Sys2Proof/Machine/Cloister.lean ====
section
/-!
DEFINITION. The Cloister (15_cloister R469 to R512): its OTP, keys and signatures, the provisioning record, its
requests, the TRNG, sessions and glitches.
-/

namespace Sys2Proof.Machine

/-! ### The OTP (R470 to R472) -/

/-- Bytes of the OTP. -/
def State.otpB (s : State) (off n : Nat) : List Byte := Memory.readN s.cloister.otp off n

/-- Program bytes: a bit once 1 stays 1. -/
def State.otpSet (s : State) (off : Nat) (bs : List Byte) : State :=
  { s with cloister := { s.cloister with
      otp := Memory.writeN s.cloister.otp off (List.zipWith (fun (x y : Byte) => x ||| y) (s.otpB off bs.length) bs) } }

/-- DEV_UID, CTRL and LIFE. -/
def State.devUid (s : State) : List Byte := s.otpB 0x20 8
def State.otpCtrl (s : State) : Nat := ofLe (s.otpB 0x28 4)
def State.otpLife (s : State) : Nat := ofLe (s.otpB 0x2C 2)

/-- A lifecycle step is taken when at least two of its three bits are 1. -/
def State.lifeStep (s : State) (k : Nat) : Bool :=
  2 ≤ b2n (nbit s.otpLife (3 * k)) + b2n (nbit s.otpLife (3 * k + 1)) + b2n (nbit s.otpLife (3 * k + 2))

/-- The lifecycle state: the steps taken without a gap from step 0. Under Returned, R474 programs step 1 with it. -/
def State.lifeOf (s : State) : Nat :=
  if !s.lifeStep 0 then 0 else if !s.lifeStep 1 then 1 else if !s.lifeStep 2 then 2 else 3

/-- Program the three bits of a lifecycle step. -/
def State.otpStep (s : State) (k : Nat) : State := s.otpSet 0x2C (leBytes 2 (7 * 8 ^ k))

/-- A change of LIFE takes effect at the next start, which begins at once (R476). -/
def State.transition (s : State) : State :=
  { s with cloister := { s.cloister with lifePost := some s.cloister.life },
           power := { s.power with restart := true } }

/-- The hash in an OWNER_PKH slot, and whether the slot is used or revoked. -/
def State.ownerHash (s : State) (k : Nat) : List Byte := s.otpB (0x50 + 32 * k) 32
def State.ownerUsed (s : State) (k : Nat) : Bool := (s.ownerHash k).any (· != 0)
def State.ownerRevoked (s : State) (k : Nat) : Bool := nbit s.otpCtrl k

/-- The current owner slot: the highest one used and not revoked (R481). -/
def State.ownerSlot (s : State) : Option Nat :=
  [3, 2, 1, 0].find? (fun k => s.ownerUsed k && !s.ownerRevoked k)

/-- DUK: its scalar, 0 where it was never generated or is read as killed (R482, R485). -/
def State.duk (s : State) : Nat := if s.cloister.dukOff then 0 else ofBe (s.otpB 0xD0 32)

/-! ### Keys and signatures (R473) -/

/-- A public key is accepted for an OTP hash. -/
def keyFor (hash key : List Byte) : Bool := sha256 key == hash && (ecPoint key).isSome

/-- The points with an X coordinate. -/
def ecLift (x : Nat) : List EcPt :=
  let c := (x * x * x + (ecP - 3) * x + ecB) % ecP
  let y := powMod ecP 256 c ((ecP + 1) / 4)
  if x < ecP && y * y % ecP = c then [some (x, y), some (x, (ecP - y) % ecP)] else []

/-- The public keys under which a signature of a message verifies. -/
def ecdsaKeys (msg sig : List Byte) : List (List Byte) :=
  let r := ofBe (sig.take 32)
  let t := ofBe ((sig.drop 32).take 32)
  let w := invMod ecN r
  let z := ofBe (sha256 msg)
  ((ecLift r ++ ecLift (r + ecN)).map (fun p =>
    ecBytes (ecAdd (ecMul 256 (t * w % ecN) p) (ecMul 256 ((ecN - z % ecN) * w % ecN) ecG)))).filter (fun k =>
      ecdsaOk k msg sig)

/-- A signature verifies under the key of an OTP hash: the key itself need not be at hand (DEDUCED, log entry 46). -/
def signedBy (hash msg sig : List Byte) : Bool := (ecdsaKeys msg sig).any (fun k => keyFor hash k)

/-- A signature by the current owner key. -/
def State.ownerSigned (s : State) (msg sig : List Byte) : Bool :=
  s.ownerSlot.any (fun k => signedBy (s.ownerHash k) msg sig)

/-! ### Random data (R499 to R502) -/

/-- Bytes of a word, most significant first. -/
def bytesOf (n : Nat) (w : BitVec (8 * n)) : List Byte := beBytes n w.toNat

/-- 384 bits of the entropy source, free values, seed a DRBG (R501). -/
def State.drbgSeed (s : State) (d : Drbg) : State :=
  let (v, s1) := s.fresh 384
  { s1 with cloister := { s1.cloister with drbg := d.seed (bytesOf 48 v), drbgReqs := 0, drbgAt := s1.now } }

/-- The DRBG is reseeded. -/
def State.reseed (s : State) : State := s.drbgSeed s.cloister.drbg

/-- `n` bytes of the DRBG, as one request. -/
def State.draw (s : State) (n : Nat) : List Byte × State :=
  let x := s.cloister.drbg.generate n
  (x.1, { s with cloister := { s.cloister with drbg := x.2, drbgReqs := s.cloister.drbgReqs + 1 } })

/-- TRNG_HEALTH_FAIL: the third failure within one second enters ERROR; `prop` tells the proportion test. -/
def State.trngFail (s : State) (prop : Bool) : State :=
  let fs := (s.cloister.trngFails.filter (fun t => s.now < t + ms 1000)) ++ [s.now]
  let s1 : State := { s with cloister := { s.cloister with trngFails := fs } }
  if 3 ≤ fs.length && !s.cloister.trngError then
    ({ s1 with cloister := { s1.cloister with trngError := true } }).postAll 0x00F4 0x90 none
      [w32 (1 + b2n prop), w32 fs.length]
  else s1
def execTrngHealthFail (prop : Bool) (s : State) : Host.Outcome State Fault Refusal := .next (s.trngFail prop)

/-- DRBG_RESEED: after 2^20 requests or 10 s (R501). -/
def execDrbgReseed (s : State) : Host.Outcome State Fault Refusal :=
  .next (if s.cloister.trngError then s
    else if 2 ^ 20 ≤ s.cloister.drbgReqs then s.reseed
    else (s.passTo (s.cloister.drbgAt + ms 10000)).reseed)

/-! ### The provisioning record (R477, R478; R92, R188) -/

/-- TENANT_MAP byte, owner nibble, geometry and queue words of a record. -/
def provTen (r : List Byte) (n : Nat) : Nat := getLe r (8 + n) 1
def provEn (r : List Byte) (n : Nat) : Bool := nbit (provTen r n) 7
def provPort (r : List Byte) (n : Nat) : Nat := nfld (provTen r n) 4 3
def provCls (r : List Byte) (n : Nat) : Nat := nfld (provTen r n) 2 2
def provOwn (r : List Byte) (k : Nat) : Nat := nfld (getLe r 12 8) (4 * k) 4
def provBound (r : List Byte) (k : Nat) : Bool := nbit (provOwn r k) 3
def provOwner (r : List Byte) (k : Nat) : Nat := provOwn r k % 4
def provGeom (r : List Byte) (k : Nat) : Nat := getLe r (32 + 8 * k) 4
def provBudget (r : List Byte) (k : Nat) : Nat := getLe r (36 + 8 * k) 2
def provWdog (r : List Byte) (n : Nat) : Nat := getLe r (20 + 2 * n) 2
def provEvq (r : List Byte) (n : Nat) : Nat := getLe r (160 + 8 * n) 4
def provEvqBase (r : List Byte) (n : Nat) : Nat := getLe r (164 + 8 * n) 4
def provRegBase (r : List Byte) (n : Nat) : Nat := 0x1000000 * getLe r (192 + 4 * n) 2
def provRegSize (r : List Byte) (n : Nat) : Nat := 0x1000000 * getLe r (194 + 4 * n) 2

/-- The offset of the owner word of a ring. -/
def provOwnOff (k : Nat) : Nat := if k < 8 then 12 else 16

/-- A ring body: its memory (Undercroft or not), first byte and length. -/
def provBody (r : List Byte) (k : Nat) : Bool × Nat × Nat :=
  let g := provGeom r k
  (nbit g 30, nfld g 0 16 * (if nbit g 30 then 1024 else 32768), 1024 * 2 ^ nfld g 20 4)

/-- An event queue likewise. -/
def provQueue (r : List Byte) (n : Nat) : Bool × Nat × Nat :=
  (nbit (provEvq r n) 31, provEvqBase r n, 512 * 2 ^ nfld (provEvq r n) 0 4)

/-- A span lies inside the Undercroft ring region (R197). -/
def inRingRegion (x : Bool × Nat × Nat) : Bool := UnderPart.rings.holds x.2.1 x.2.2

/-- Two spans share a byte; a region of size 0 has none (R188). -/
def spansMeet (x y : Bool × Nat × Nat) : Bool :=
  x.1 == y.1 && 0 < x.2.2 && 0 < y.2.2 && x.2.1 < y.2.1 + y.2.2 && y.2.1 < x.2.1 + x.2.2

/-- The bound rings, and those of a tenant; the bound tenants. -/
def provRings (r : List Byte) : List Nat := (List.range 16).filter (provBound r)
def provOf (r : List Byte) (n : Nat) : List Nat := (provRings r).filter (fun k => provOwner r k == n)
def provTens (r : List Byte) : List Nat := (List.range 4).filter (provEn r)

/-- The first of each list of (condition that fails, offset). -/
def failing' (xs : List (Bool × Nat)) : List Nat := xs.filterMap (fun x => if x.1 then some x.2 else none)

/-- The format of a record: MAGIC, VERSION and RSV bytes. A constraint counts at the fields that it constrains, and its
conditions (a binding, a class, a port) take no part (DEDUCED, log entry 45). -/
def provFormat (r : List Byte) : List Nat :=
  let rsv := fun (a n : Nat) => (List.range n).filterMap (fun i => if r.getD (a + i) 0 != 0 then some (a + i) else none)
  failing' [(r.take 4 != [0x50, 0x52, 0x56, 0x31], 0), (getLe r 4 2 != 1, 4)] ++ rsv 6 2 ++ rsv 28 4 ++
    (List.range 16).flatMap (fun k => rsv (38 + 8 * k) 2) ++ rsv 212 268

/-- The tenants of a record: classes, ports, watchdogs, regions. -/
def provTenants (r : List Byte) (u : Nat) : List Nat :=
  let ts := provTens r
  let dup := fun (p : Nat) => p != 2 && 1 < (ts.filter (fun n => provPort r n == p)).length
  let one : Nat → List (Bool × Nat) := fun n =>
      let p := provPort r n
      let c := provCls r n
      let w := provWdog r n
      let en := provEn r n
      let e := provEvq r n
      [(provTen r n % 4 != 0, 8),
       (!en && provTen r n != 0, 8),
       (!en && getLe r (208 + n) 1 != 0, 208),
       (en && (5 < p || c = 3), 8),
       (en && c = 0 && 1 < p, 8),
       (en && c = 2 && p < 2, 8),
       (en && dup p, 8),
       (en && ((provOf r n).length < 1 || 13 < (provOf r n).length), 12),
       (w != 0 && (w < 5 || 2000 < w), 20 + 2 * n),
       (en && c = 0 && (w < 5 || 200 < w), 20 + 2 * n),
       (!en && w != 0, 20 + 2 * n),
       (!en && e != 0, 160 + 8 * n),
       (!en && provEvqBase r n != 0, 164 + 8 * n),
       (!en && provRegBase r n != 0, 192 + 4 * n),
       (!en && provRegSize r n != 0, 194 + 4 * n),
       (en && p = 2 && provRegSize r n = 0, 194 + 4 * n),
       (u - 0x10000000 < provRegBase r n + provRegSize r n, 192 + 4 * n),
       ((List.range 4).any (fun m => n < m && spansMeet (false, provRegBase r n, provRegSize r n)
          (false, provRegBase r m, provRegSize r m)), 192 + 4 * n),
       (nfld e 4 27 != 0 || 8 < nfld e 0 4, 160 + 8 * n),
       (provEvqBase r n % 32 != 0, 164 + 8 * n),
       (en && nbit e 31 && !inRingRegion (provQueue r n), 160 + 8 * n),
       (en && p = 2 && (nbit e 31 || !(provRegBase r n ≤ provEvqBase r n &&
          provEvqBase r n + (provQueue r n).2.2 ≤ provRegBase r n + provRegSize r n)), 160 + 8 * n),
       (en && p != 2 && !nbit e 31, 160 + 8 * n)]
  failing' [(1 < (ts.filter (fun n => provCls r n == 0)).length, 8),
    (1 < (ts.filter (fun n => provCls r n == 2)).length, 8)] ++ failing' ((List.range 4).flatMap one)

/-- The rings of a record: ownership, geometry, budgets, overlaps. -/
def provRingBad (r : List Byte) : List Nat :=
  let one : Nat → List (Bool × Nat) := fun k =>
    let g := provGeom r k
    let b := provBound r k
    let n := provOwner r k
    let body := provBody r k
    let p := provPort r n
    [(nbit (provOwn r k) 2, provOwnOff k),
     (!b && provOwn r k != 0, provOwnOff k),
     (b && !provEn r n, provOwnOff k),
     (!b && g != 0, 32 + 8 * k),
     (!b && provBudget r k != 0, 36 + 8 * k),
     (nfld g 25 5 != 0 || nbit g 24 || nfld g 16 4 != 0, 32 + 8 * k),
     ((if nbit g 30 then 4 else 10) < nfld g 20 4, 32 + 8 * k),
     (b && nbit g 30 && !inRingRegion body, 32 + 8 * k),
     (b && (p == 2) == nbit g 30, 32 + 8 * k),
     (b && p = 2 && !(provRegBase r n ≤ body.2.1 && body.2.1 + body.2.2 ≤ provRegBase r n + provRegSize r n), 32 + 8 * k),
     (512 < provBudget r k || (b && provBudget r k = 0), 36 + 8 * k),
     (b && (provRings r).any (fun j => k < j && spansMeet body (provBody r j)), 32 + 8 * k),
     (b && (provTens r).any (fun m => spansMeet body (provQueue r m)), 32 + 8 * k)]
  failing' ((List.range 16).flatMap one) ++
  failing' ((provTens r).map (fun n =>
    ((provTens r).any (fun m => n < m && spansMeet (provQueue r n) (provQueue r m)), 160 + 8 * n)))

/-- HASH of a record matches. -/
def provHashOk (r : List Byte) : Bool := sha256 (r.take 480) == (r.drop 480).take 32

/-- The lowest failing offset of a record, none where it is accepted (R478). -/
def provCheck (r : List Byte) (u : Nat) : Option Nat :=
  if !provHashOk r then some 480 else (provFormat r ++ provTenants r u ++ provRingBad r).min?

/-- A PROV slot's bytes, whether it is all 0, and the record in force: that of the first valid slot. -/
def State.provSlot (s : State) (k : Nat) : List Byte := s.otpB (0x200 + 512 * k) 512
def State.provFree (s : State) (k : Nat) : Bool := (s.provSlot k).all (· == 0)
def State.provValid (s : State) (k : Nat) : Bool := !s.provFree k && provHashOk (s.provSlot k)
def State.provRec (s : State) : Option (List Byte) := ([0, 1].find? s.provValid).map s.provSlot

/-! ### The TAP (R474, R480) -/

/-- What an instruction of the TAP is. -/
inductive TapKind
  | idcode | bypass | boundaryScan | runControl
  deriving DecidableEq, Repr

/-- The TAP offers it: run control only in Blank, and not from the start after DBG_OFF is programmed. The spec gives no
TAP command, so nothing else of it is modelled (log entry 104). -/
def State.tapOffers (s : State) (k : TapKind) : Bool :=
  k != .runControl || (s.cloister.life = 0 && !s.cloister.dbgOff)

/-! ### Requests (R510) -/

/-- Run a Cloister request: after 8 glitches only CLO_QUERY is served (R509; the answer is DESIGN CHOICE, log entry 47). -/
def State.cloReq (s : State) (t : Ten) (code : Nat) (f : List Word → State) : State :=
  match s.request t code with
  | none => s
  | some a => if 8 ≤ s.cloister.glitches.length && code != 0x0901 then s.answer t ansGlitch [] else f a

/-- OTP programming may begin: both on-die sensors read from -40 to 125 degrees (R686). The two supplies are taken to lie
in their ranges (log entry 90). -/
def State.otpReady (s : State) : Bool :=
  ([8, 9] : List (Fin 10)).all (fun k => -640 ≤ (s.th k).t16 && (s.th k).t16 ≤ 2000)

/-- The DUK public key, 0 before PROVISION and once killed. -/
def State.dukPub (s : State) : List Byte := if s.duk = 0 then List.replicate 64 0 else ecPub s.duk

/-- The word that gives the current owner slot; without an owner key it is open (log entry 89). -/
def State.ownerWord (s : State) : Word × State :=
  match s.ownerSlot with
  | some k => (w32 k, s)
  | none => s.fresh 32

/-- CLO_QUERY (R510). -/
def execCloQuery (t : Ten) (s : State) : Host.Outcome State Fault Refusal :=
  .next (s.cloReq t 0x0901 (fun _ =>
    let (own, s1) := s.ownerWord
    s1.answer t ansOk ([s.lifecycle] ++ bytesWords s.devUid ++ bytesWords s.dukPub ++
      [own, w32 (s.otpCtrl % 16), w32 (b2n s.cloister.trngError),
       w32 s.cloister.glitches.length, w32 (b2n (s.inSession (tenReq t)))])))

/-- The first of the draws that lies from 1 to n - 1; after the last of them, which no run sees, the scalar is free (log
entry 103). -/
def State.scalarFrom : Nat → State → Nat × State
  | 0, s =>
    let (v, s1) := s.fresh 256
    (1 + v.toNat % (ecN - 1), s1)
  | k + 1, s =>
    let (b, s1) := s.draw 32
    if 0 < ofBe b && ofBe b < ecN then (ofBe b, s1) else State.scalarFrom k s1

/-- A P-256 scalar of the DRBG from 1 to n - 1: draws outside are rejected (R484). -/
def State.drawScalar (s : State) : Nat × State := s.scalarFrom 16

/-- The items that an accepted PROVISION programs, in their order (R479). -/
def State.provProgram (s : State) (slot : Nat) (rec' key : List Byte) (d : Nat) : State :=
  ((((((s.otpSet (0x200 + 512 * slot) rec').otpSet 0x50 (sha256 key)).otpSet 0xD0 (beBytes 32 d)).otpSet 0xF0
    (sha256 (ecPub d))).otpSet 0x28 [0, 1])).otpStep 0

/-- PROVISION (R477 to R479). -/
def execProvision (t : Ten) (s : State) : Host.Outcome State Fault Refusal :=
  .next (s.cloReq t 0x0902 (fun a =>
    let bs := wordsBytes (padTo 144 0 a)
    let rec' := bs.take 512
    let key := bs.drop 512
    if t != 3 then s.answer t ansClass []
    else if s.cloister.life != 0 || s.power.restart then s.answer t ansState []
    else match provCheck rec' s.lpU with
    | some o => s.answer t ansRange [w32 o]
    | none =>
      if s.cloister.trngError then s.answer t ansRng []
      else
        let go := fun (k : Nat) (r : List Byte) =>
          if !s.otpReady then s.answer t ansState [] else
          let (d, s1) := s.reseed.drawScalar
          ((s1.provProgram k r key d).transition).answer t ansOk (bytesWords (ecPub d))
        match [0, 1].find? s.provValid, [0, 1].find? s.provFree with
        | some k, _ => go k (s.provSlot k)
        | none, some k => go k rec'
        | none, none => s.answer t ansResource []))

/-- A tenant's nonce: it serves one request (R483, R504). -/
def State.nonce (s : State) (q : Fin 5) : Option (List Byte) := (at' s.cloister.reqs q).nonce.map (·.1)
def State.useNonce (s : State) (q : Fin 5) : State := s.modClo q (fun x => { x with nonce := none })

/-- The message of LOCK and RETURN (R483). -/
def State.lifeMsg (s : State) (tag nonce : List Byte) : List Byte :=
  tag ++ s.devUid ++ nonce ++ wordBytes s.lifecycle

/-- LOCK (R483). -/
def execLock (t : Ten) (s : State) : Host.Outcome State Fault Refusal :=
  .next (s.cloReq t 0x0903 (fun a =>
    let sig := wordsBytes (padTo 16 0 a)
    if !s.isCls t .service then s.answer t ansClass []
    else if s.cloister.life != 1 || s.power.restart then s.answer t ansState []
    else match s.nonce (tenReq t) with
    | none => s.answer t ansSignature []
    | some n =>
      let s1 := s.useNonce (tenReq t)
      if !s.ownerSigned (s.lifeMsg [0x4C, 0x4F, 0x43, 0x4B] n) sig then s1.answer t ansSignature []
      else if !s.otpReady then s1.answer t ansState []
      else ((s1.otpStep 1).transition).answer t ansOk []))

/-- CLO_CHALLENGE (R506, R501): BUSY while a lockout runs. -/
def execCloChallenge (t : Ten) (s : State) : Host.Outcome State Fault Refusal :=
  .next (s.cloReq t 0x0904 (fun _ =>
    let q := tenReq t
    if (at' s.cloister.reqs q).busyUntil.any (fun b => s.now < b) then s.answer t ansBusy []
    else if s.cloister.trngError then s.answer t ansRng []
    else
      let (v, s1) := s.reseed.draw 32
      (s1.modClo q (fun x => { x with nonce := some (v, s.now) })).answer t ansOk (bytesWords v)))

/-- The message that opens a session (R504). -/
def State.sessMsg (s : State) (nonce : List Byte) (flags : Word) : List Byte :=
  [0x53, 0x56, 0x43, 0x53] ++ s.devUid ++ nonce ++ wordBytes flags

/-- A response with a valid signature opens a session; a failed one counts, and from the fifth in a row it starts the
60 s of BUSY (R506). -/
def State.sessTry (s : State) (q : Fin 5) (flags : Word) (sig : List Byte) : Bool × State :=
  match s.nonce q with
  | some n =>
    if s.ownerSigned (s.sessMsg n flags) sig then
      (true, s.modClo q (fun x => { x with
        nonce := none
        fails := 0
        session := some { flags := flags, opened := s.now, last := s.now } }))
    else (false, s)
  | none => (false, s)
def State.sessFail (s : State) (q : Fin 5) : State :=
  s.modClo q (fun x => { x with
    nonce := none
    fails := x.fails + 1
    busyUntil := if 5 ≤ x.fails + 1 then some (s.now + ms 60000) else x.busyUntil })

/-- SVC_AUTH_FAIL: to the SAFETY tenant and the failing tenant. -/
def State.authFailPost (s : State) (ts : List Ten) (q : Fin 5) : State :=
  let n := (at' s.cloister.reqs q).fails
  s.postTo (s.ofCls .safety ++ ts.filter (fun t => !s.isCls t .safety)) 0x00F2 0x90 none
    [w32 q.val, w32 n, w32 (if 5 ≤ n then 60 else 0)]

/-- CLO_RESPONSE (R504 to R506). -/
def execCloResponse (t : Ten) (s : State) : Host.Outcome State Fault Refusal :=
  .next (s.cloReq t 0x0905 (fun a =>
    if !s.isCls t .service then s.answer t ansClass []
    else match s.sessTry (tenReq t) (a.getD 0 0) (wordsBytes (padTo 16 0 (a.drop 1))) with
    | (true, s1) => s1.answer t ansOk [w32 3600]
    | (false, _) => ((s.sessFail (tenReq t)).authFailPost [t] (tenReq t)).answer t ansSignature []))

/-- The first 512 bytes of a firmware slot or settings area of the Moangex store. -/
def State.moaHeader (s : State) (a : Nat) : List Byte := Memory.readN s.moa a 512

/-- Address of a slot of the journal log, of the header copy, of the chunk map and of the swap scratch unit (R521). -/
def jAddr (k : Nat) : Nat := 0x1F00000 + 64 * k
def jHdrAddr : Nat := 0x1F10000
def jMapAddr : Nat := 0x1F10200
def jScratch : Nat := 0x1F20000

/-- The address at which byte `off` of the image to boot, or of the other image, lies, through the unit map of a swap
(R544). The same map serves an exchange that a revert has turned back, with BOOT 0 (log entry 52). -/
def JRec.imgAddr (j : JRec) (other : Bool) (off : Nat) : Nat :=
  let k := off / 65536
  let moved := k < j.unit || (k = j.unit && j.phase = 2)
  if (j.boot != 0) != other then (if moved then 0 else 0x800000) + off
  else if k < j.unit then 0x800000 + off
  else if moved then jScratch + off % 65536
  else off

/-- Bytes of an image, from 64 KiB unit to unit. -/
def State.imgRead (s : State) (other : Bool) (off n : Nat) : List Byte :=
  (List.range (cdiv (off % 65536 + n) 65536)).flatMap (fun i =>
    let a := if i = 0 then off else (off / 65536 + i) * 65536
    let e := min (off + n) ((off / 65536 + i + 1) * 65536)
    Memory.readN s.moa (s.update.jrec.imgAddr other a) (e - a))
def State.imgHdr (s : State) (other : Bool) : List Byte := s.imgRead other 0 512

/-- The header of the image that the running aisle runs, as FW_VER reports it (R45). -/
def State.runHdr (s : State) : List Byte := s.imgHdr s.update.runOther

/-- The image that runs lies in the Staging slot, which is locked against a host's writes (R490, R493; log entry 16). -/
def State.runsStaging (s : State) : Bool := (s.update.jrec.boot != 0) != s.update.runOther

/-- The settings area that the running firmware uses: the trial area in TRIAL, else the one in force (R534). -/
def JRec.setArea (j : JRec) : Nat := if j.state == .trial && j.trialArea < 2 then j.trialArea else j.area
def areaAddr (a : Nat) : Nat := 0x1000000 + 0x100000 * a

/-- The statement that CLO_ATTEST signs (R489); without a settings area the last hash is open, and `none'` stands for it
(log entry 48). -/
def State.statement (s : State) (t : Ten) (nonce none' : List Byte) : List Byte :=
  [0x41, 0x54, 0x53, 0x54] ++ leBytes 4 0x07150003 ++ s.devUid ++ wordBytes s.lifecycle ++ wordBytes s.fwVerReg ++
    [BitVec.ofNat 8 t.val] ++ List.replicate 7 0 ++ nonce ++ sha256 s.runHdr ++
    (if s.update.noArea then none' else sha256 (s.moaHeader (areaAddr s.update.jrec.setArea)))

/-- CLO_ATTEST: the secret number of the signature is a free value, and so is the hash of an area that does not exist. -/
def execCloAttest (t : Ten) (s : State) : Host.Outcome State Fault Refusal :=
  .next (s.cloReq t 0x0906 (fun a =>
    if s.duk = 0 then s.answer t ansState []
    else
      let (v, s1) := s.fresh 256
      let (x, s1) := s1.fresh 256
      let st := s.statement t (wordsBytes (padTo 8 0 a)) (bytesOf 32 x)
      s1.answer t ansOk (bytesWords (st ++ ecdsaSign s.duk (1 + v.toNat % (ecN - 1)) st))))

/-- RETURN: DUK_KILL before the LIFE bits (R482); step 1 too where it was not taken. -/
def execReturn (t : Ten) (s : State) : Host.Outcome State Fault Refusal :=
  .next (s.cloReq t 0x0907 (fun a =>
    let sig := wordsBytes (padTo 16 0 a)
    if !s.isCls t .service then s.answer t ansClass []
    else if (s.cloister.life != 1 && s.cloister.life != 2) || s.power.restart then s.answer t ansState []
    else match s.nonce (tenReq t) with
    | none => s.answer t ansSignature []
    | some n =>
      let s1 := s.useNonce (tenReq t)
      if !signedBy (s.otpB 0 32) (s.lifeMsg [0x52, 0x45, 0x54, 0x4E] n) sig then s1.answer t ansSignature []
      else if !s.otpReady then s1.answer t ansState []
      else
        let s2 := s1.otpSet 0x28 [0, 2]
        let s3 := s2.otpStep 2
        ((if s3.lifeStep 1 then s3 else s3.otpStep 1).transition).answer t ansOk []))

/-- OWNER_ROTATE (R481). -/
def execOwnerRotate (t : Ten) (s : State) : Host.Outcome State Fault Refusal :=
  .next (s.cloReq t 0x0908 (fun a =>
    let bs := wordsBytes (padTo 32 0 a)
    let key := bs.take 64
    if !s.isCls t .service then s.answer t ansClass []
    else if s.cloister.life = 0 then s.answer t ansState []
    else match s.nonce (tenReq t), s.ownerSlot with
    | some n, some cur =>
      let s1 := s.useNonce (tenReq t)
      if !signedBy (s.ownerHash cur) ([0x52, 0x4F, 0x54, 0x4B] ++ s.devUid ++ n ++ key) (bs.drop 64) then
        s1.answer t ansSignature []
      else match [0, 1, 2, 3].find? (fun k => !s.ownerUsed k) with
      | none => s1.answer t ansResource []
      | some k =>
        if !s.otpReady then s1.answer t ansState [] else
        let s2 := (s1.otpSet (0x50 + 32 * k) (sha256 key)).otpSet 0x28 [BitVec.ofNat 8 (2 ^ cur)]
        s2.answer t ansOk [w32 k]
    | _, _ => s.answer t ansSignature []))

/-- RNG_READ. -/
def execRngRead (t : Ten) (s : State) : Host.Outcome State Fault Refusal :=
  .next (s.cloReq t 0x0909 (fun a =>
    let n := (a.getD 0 0).toNat
    if n < 1 || 64 < n then s.answer t ansRange []
    else if s.cloister.trngError then s.answer t ansRng []
    else
      let (v, s1) := s.draw n
      s1.answer t ansOk (bytesWords v)))

/-! ### Sessions, lockouts and glitches -/

/-- A session's lifetime or idle time has passed (R505). -/
def Session.ended (x : Session) (now : Time) : Bool := x.opened + ms 3600000 ≤ now || x.last + ms 60000 ≤ now

/-- The instant at which it ends. -/
def Session.endsAt (x : Session) : Time := min (x.opened + ms 3600000) (x.last + ms 60000)

/-- SESSION_END. -/
def execSessionEnd (s : State) : Host.Outcome State Fault Refusal :=
  .next (
    let s1 := s.passFirst (s.cloister.reqs.toList.filterMap (fun x => x.session.map Session.endsAt))
    forEach (allFin 5) (fun q s => s.modClo q (fun x => { x with session := x.session.filter (fun y => !y.ended s.now) })) s1)

/-- CHALLENGE_LOCKOUT_END (R506). -/
def execChallengeLockoutEnd (s : State) : Host.Outcome State Fault Refusal :=
  .next (
    let s1 := s.passFirst (s.cloister.reqs.toList.filterMap (·.busyUntil))
    forEach (allFin 5) (fun q s => s.modClo q (fun x => { x with busyUntil := x.busyUntil.filter (fun b => s.now < b) })) s1)

/-- The Cloister request that is served: the pending one taken first (R511). -/
def State.cloPending (s : State) : List (Time × Ten × Nat) :=
  s.bound.filterMap (fun t => match (s.box t).pend with
    | some (c, _, _, at') => if 0x0901 ≤ c && c ≤ 0x0909 then some (at', t, c) else none
    | none => none)
def State.cloServed (s : State) : Option (Ten × Nat) :=
  (s.cloPending.foldl (fun (b : Option (Time × Ten × Nat)) x => match b with
    | some y => if x.1 < y.1 then some x else some y
    | none => some x) none).map (·.2)

/-- GLITCH_DETECT (R509): in secure boot the ROM starts again, which changes nothing here; at any other time the
operation served is answered GLITCH, with nothing programmed. -/
def State.glitch (s : State) (supply : Bool) : State :=
  if s.power.boot != .up then s
  else
    let s1 : State := { s with cloister := { s.cloister with glitches := s.cloister.glitches ++ [s.now] } }
    let s2 := match s.cloServed with
      | some (t, _) => s1.answer t ansGlitch []
      | none => s1
    s2.postAll 0x00F3 0x90 none
      [w32 (1 + b2n supply), w32 (s.cloServed.elim 0 (·.2)), w32 s1.cloister.glitches.length]
def execGlitchDetect (supply : Bool) (s : State) : Host.Outcome State Fault Refusal := .next (s.glitch supply)

end Sys2Proof.Machine
end

