-- ==== Sys2Proof/Machine/Light.lean ====
section
/-!
DEFINITION. The light drive (10_light_drive R308 to R339): outputs with shadow and active copies, derating, lamp
rails, and the Keystone matrix with its takeover set.
-/

namespace Sys2Proof.Machine

/-- `mul14` of R225. -/
def mul14 (a b : Nat) : Nat :=
  let t := a * b
  (t + t / 16384 + 8192) / 16384

/-- A light output by its number; 6, 7, 14 and 15 name none (R147). -/
def outOf (n : Nat) : Option OutId := if n = 6 || n = 7 then none else fin? 14 n

/-- The light outputs. -/
def allOuts : List OutId := [0, 1, 2, 3, 4, 5, 8, 9, 10, 11, 12, 13]

/-- Whether an output is a current sink. -/
def isSink (o : OutId) : Bool := o.val < 6

/-! ### Which loop and which Chapel an output belongs to -/

/-- The three sinks of an Array Chapel's profile, red, green, blue. -/
def ChapRec.sinks (p : ChapRec) : List OutId := [Fin.ofNat 14 p.sinkR, Fin.ofNat 14 p.sinkG, Fin.ofNat 14 p.sinkB]

/-- The three laser channels of a Scan Chapel (R147). -/
def laserOuts (c : Chap) : List OutId := if c = 2 then [8, 9, 10] else [11, 12, 13]

/-- The light outputs that a slot writes: SPAN of three lasers, or CODE of three sinks (R340, R341). -/
def State.slotOuts (s : State) (q : LoopSt) : List OutId :=
  match q.cfg.kind with
  | .lasPwr => laserOuts (Fin.ofNat 4 q.cfg.target)
  | .illum => (s.chap (Fin.ofNat 4 q.cfg.target)).rec'.elim [] (fun p => if p.scan then [] else p.sinks)
  | _ => []

/-- The loop in RUN that writes an output (R164, R316). -/
def State.outLoop (s : State) (o : OutId) : Option Slot :=
  (allFin 16).find? (fun i => (s.slot i).cfg.en && (s.slot i).state == .run && (s.slotOuts (s.slot i)).contains o)

/-- The Array Chapel that starts or runs with a profile that names a sink, so that the sink is in PULSE mode (R284,
R309; log entry 79). -/
def State.pulseChap (s : State) (o : OutId) : Option Chap :=
  (allFin 4).find? (fun c => ((s.chap c).state == .run || (s.chap c).state == .starting) && isSink o &&
    ((s.chap c).rec'.elim false (fun p => !p.scan && p.sinks.contains o)))

/-! ### Derating (R323 to R325, R455, R456) -/

/-- A sink's own fraction, or the least of the three of a running Array Chapel (R324). -/
def State.fLamp (s : State) (o : OutId) : Nat :=
  match s.pulseChap o with
  | some c => (s.chap c).rec'.elim (s.out o).f (fun p => (p.sinks.map (fun x => (s.out x).f)).foldl min 16383)
  | none => (s.out o).f

/-- The fraction in force: the thermal fractions of its Array Chapel and its rail bind too (R456). -/
def State.fOut (s : State) (o : OutId) : Nat :=
  let chap := match s.pulseChap o with
    | some c => at' s.thermal.f (Fin.ofNat 9 (c.val + 1))
    | none => 16383
  min (s.fLamp o) (min chap (at' s.thermal.f (Fin.ofNat 9 ((s.out o).cfg.rail + 5))))

/-- CEIL_D (R323). -/
def State.ceilD (s : State) (o : OutId) : Nat := mul14 (s.out o).cfg.cmax (s.fOut o)

/-- The ceiling of a Scan Chapel's lasers: LMAX under the fractions of the Chapel and of DEVICE (R456). -/
def State.lmaxT (s : State) (c : Chap) (lmax : Nat) : Nat :=
  mul14 lmax (min (at' s.thermal.f (Fin.ofNat 9 (c.val + 1))) (at' s.thermal.f 8))

/-- CODE_A of a sink (R308). -/
def State.codeA (s : State) (o : OutId) : Nat :=
  min (s.out o).active.code (min (s.out o).cfg.cmax (s.ceilD o))

/-- The fraction of R323 from a sensor reading. -/
def derate (t16 knee : Int) (slope floor : Nat) : Nat :=
  if slope = 0 then 16383 else (clampI (16383 - (t16 - 16 * knee) * slope) floor 16383).toNat

/-! ### Dimming waveform (R310 to R312) -/

/-- The LFSR of R312: one step, and its seed. -/
def lfsrStep (x : BitVec 16) : BitVec 16 := (x >>> 1) ^^^ (if bit x 0 then 0xB400#16 else 0)
def lfsrSeed (o : OutId) : BitVec 16 := 0xACE1#16 ^^^ BitVec.ofNat 16 (o.val * 256)

/-- Sub-periods `m` of R311. -/
def subPeriods (on : Nat) : Nat := ([64, 32, 16, 8, 4, 2].find? (fun m => 40 * m ≤ on)).getD 1

/-- `rev(j)`: the log2(m) bits of j reversed. -/
def revBits (m j : Nat) : Nat :=
  let k := Nat.log2 m
  ((List.range k).map (fun i => if nbit j i then 2 ^ (k - 1 - i) else 0)).foldl (· + ·) 0

/-- Ticks of sub-pulse j (R311). -/
def subLen (on m j : Nat) : Nat := on / m + b2n (revBits m j < on % m)

/-- `n` steps of the LFSR. -/
def lfsrSteps : Nat → BitVec 16 → BitVec 16
  | 0, x => x
  | n + 1, x => lfsrSteps n (lfsrStep x)

/-- ON, the number and the length in ticks of the sub-periods of an active copy (R310, R311). -/
def OutCopy.onTicks (x : OutCopy) : Nat := x.duty * 2 ^ x.period
def OutCopy.subs (x : OutCopy) : Nat := subPeriods x.onTicks
def OutCopy.subTicks (x : OutCopy) : Nat := 16384 * 2 ^ x.period / x.subs

/-- Tick of its sub-period at which sub-pulse `j` of the running period starts; `lfsr` is the LFSR at the period's
start, and it steps only while SCRAMBLE is 1 (R312; log entry 79). -/
def OutSt.subFrom (q : OutSt) (j : Nat) : Nat :=
  if !q.active.scramble then 0
  else (lfsrSteps (j + 1) q.lfsr).toNat % (q.active.subTicks - subLen q.active.onTicks q.active.subs j + 1)

/-- A DIM sink conducts at a tick of its running period. -/
def OutSt.dimOn (q : OutSt) (tick : Nat) : Bool :=
  if q.active.duty = 0 then false
  else if q.active.duty = 16383 then true
  else
    let j := tick / q.active.subTicks
    let at0 := tick % q.active.subTicks
    q.subFrom j ≤ at0 && at0 < q.subFrom j + subLen q.active.onTicks q.active.subs j

/-- The LFSR after the running period, or after `n` of its sub-pulses where the period ends early. -/
def OutSt.lfsrNext (q : OutSt) (n : Nat) : BitVec 16 :=
  if q.active.scramble && 0 < q.active.duty && q.active.duty < 16383 then lfsrSteps (min n q.active.subs) q.lfsr else q.lfsr

/-- The instants of the running period at which the headroom is sampled (R319): 50 ns before the end of each sub-pulse; every
10 µs of a period of continuous current, counted from its start (DESIGN CHOICE, log entry 79). -/
def OutSt.sampleAt (q : OutSt) : List Time :=
  if q.stopped || q.active.duty = 0 then []
  else if q.active.duty = 16383 then
    (List.range (cdiv (2 * (16384 * 2 ^ q.active.period)) (us 10))).map (fun k => q.periodFrom + us 10 * k)
  else (List.range q.active.subs).map (fun j =>
    q.periodFrom + 2 * (j * q.active.subTicks + q.subFrom j + subLen q.active.onTicks q.active.subs j) - 20)

/-- Instants at which the headroom is sampled join those of the millisecond. -/
def OutSt.sampled (q : OutSt) (ts : List Time) : OutSt := { q with samp := q.samp ++ ts }

/-- The running dimming period ends at an instant: the sub-pulses that have begun have stepped the LFSR (R312). -/
def OutSt.cut (q : OutSt) (now : Time) : OutSt :=
  { q.sampled (q.sampleAt.filter (fun t => t < now)) with
    lfsr := q.lfsrNext (cdiv ((now - q.periodFrom) / 2) q.active.subTicks) }

/-- A sink runs dimming periods: it is in DIM mode with a DUTY (R309, R310). -/
def State.dims (s : State) (o : OutId) : Bool :=
  let q := s.out o
  isSink o && q.cfg.en && (s.pulseChap o).isNone && !q.pulseEnd && q.active.duty != 0

/-- The running dimming period of a sink ends here. -/
def State.dimCut (s : State) (o : OutId) : State := if s.dims o then s.modOut o (fun q => q.cut s.now) else s

/-! ### Reloads (R313 to R316) -/

/-- T_P in ticks of 5 ns, as time steps (R310). -/
def OutCopy.period' (x : OutCopy) : Time := 2 * (16384 * 2 ^ x.period)

/-- The next instant at which an output reloads, where it is fixed (R313): a Bell's once it is announced. -/
def State.nextReload (s : State) (o : OutId) : Option Time :=
  if s.dims o then some ((s.out o).periodFrom + (s.out o).active.period') else s.fireDue

/-- A write of fields into a copy. -/
def OutCopy.put (x : OutCopy) (w : OutWrite) : OutCopy :=
  { x with
    code := w.code.getD x.code
    duty := w.duty.getD x.duty
    period := w.dim.elim x.period (·.1)
    scramble := w.dim.elim x.scramble (·.2) }

/-- A light-target write at its retirement: into the shadow copy, or aside within two ticks before the reload. -/
def State.outWrite (s : State) (o : OutId) (w : OutWrite) : State :=
  let inWindow := match s.nextReload o with
    | some r => r ≤ s.now + 4 && s.now < r
    | none => false
  if inWindow then
    (s.modOut o (fun q => { q with aside := q.aside ++ [w], deferred := true })).tally 4 o.val 1 1
  else s.modOut o (fun q => { q with shadow := q.shadow.put w, pend := q.pend ++ [w] })

/-- A reload: the shadow copy becomes active, but for the field that a loop in RUN owns; then the writes kept
aside enter the shadow copy. -/
def State.reload (s : State) (o : OutId) : State :=
  let loop := (s.outLoop o).isSome
  (s.modOut o (fun q =>
    let took := if loop then q.pend.filter (fun w => w.duty.isSome || w.dim.isSome) else q.pend
    let act := if loop then { q.shadow with code := q.active.code } else q.shadow
    { q with
      active := act
      appliedSeq := took.getLast?.elim q.appliedSeq (·.seq)
      took := q.took || !took.isEmpty
      shadow := q.aside.foldl OutCopy.put act
      pend := q.aside
      aside := []
      pulseEnd := false })).tally 4 o.val 0 1

/-- DIM_PERIOD_RELOAD: at the start of a dimming period the output reloads, and the new T_P counts from there. -/
def State.dimReload (s : State) (o : OutId) : State :=
  let q := s.out o
  if s.live && s.dims o then
    ((s.passTo (q.periodFrom + q.active.period')).modOut o (fun q => { q.sampled q.sampleAt with
      periodFrom := q.periodFrom + q.active.period'
      lfsr := q.lfsrNext q.active.subs })).reload o
  else s
def execDimPeriodReload (o : OutId) (s : State) : Host.Outcome State Fault Refusal := .next (s.dimReload o)

/-- DUTY_APPLIED for each output that took a written value in the period just ended, which counts its closing instant
as R72 does (R339; log entry 79). -/
def State.dutyApplied (s : State) : State :=
  forEach allOuts (fun o s =>
    let q := s.out o
    let s1 := if q.took then
      s.post q.cfg.owner 0x00A0 (0x60 + o.val) (some q.appliedSeq)
        [q.appliedSeq, mkWord [(b2n q.deferred, 31, 1), (q.active.duty, 0, 14)], w32 q.active.code] else s
    s1.modOut o (fun q => { q with took := false, deferred := false })) s

/-- The reloads at a t_B (R313): PULSE sinks, laser channels and sinks with DUTY 0; a sink that returns to DIM, or
that leaves DUTY 0, starts its dimming periods there. -/
def State.bellReload (s : State) : State :=
  forEach allOuts (fun o s =>
    let q := s.out o
    if !q.cfg.en then s
    else if !isSink o || (s.pulseChap o).isSome then s.reload o
    else if q.pulseEnd || q.active.duty = 0 then
      (s.modOut o (fun q => { q with periodFrom := s.now })).reload o
    else s) s

/-- A loop writes an output's active field (R316). -/
def State.loopOut (s : State) (o : OutId) (u : Nat) : State :=
  s.modOut o (fun q => { q with active := { q.active with code := u } })

/-- A loop leaves RUN: the shadow and active copies take its last output; the SEQ is that of the CLMODE (R316). -/
def State.loopLeaves (s : State) (o : OutId) (u : Nat) (seq : Option Word) : State :=
  s.modOut o (fun q => { q with
    active := { q.active with code := u }
    shadow := { q.shadow with code := u }
    appliedSeq := seq.getD q.appliedSeq })

/-! ### Light-target instructions' and settings' defaults (R335, R336) -/

/-- An output at its start settings, enabled at an instant (R310, R312, R336). -/
def OutCfg.init (c : OutCfg) (o : OutId) (now : Time) (knee : Int) (slope floor : Nat) : OutSt :=
  { cfg := c
    shadow := c.start
    active := c.start
    lfsr := lfsrSeed o
    periodFrom := now
    knee := knee
    slope := slope
    floor := floor }

/-! ### The takeover set (R330 to R332) -/

/-- Reasons of R339. -/
inductive Reason
  | chapel | source | assur | pause
  deriving DecidableEq, Repr

/-- The code of a reason. -/
def Reason.code : Reason → Nat
  | .chapel => 1
  | .source => 2
  | .assur => 3
  | .pause => 4

/-- The segments under a reason. -/
def MatrixSt.under (m : MatrixSt) : Reason → Vector Bool 96
  | .chapel => m.chapel
  | .source => m.source
  | .assur => m.assur
  | .pause => m.pause

/-- Set the segments under a reason. -/
def MatrixSt.setUnder (m : MatrixSt) (r : Reason) (v : Vector Bool 96) : MatrixSt :=
  match r with
  | .chapel => { m with chapel := v }
  | .source => { m with source := v }
  | .assur => { m with assur := v }
  | .pause => { m with pause := v }

/-- A segment is in the takeover set. -/
def MatrixSt.taken (m : MatrixSt) (g : Seg) : Bool :=
  at' m.always g || at' m.chapel g || at' m.source g || at' m.assur g || at' m.pause g

/-- 96 segments as three words. -/
def segWords (f : Seg → Bool) : List Word :=
  (List.range 3).map (fun k => mkWord ((List.range 32).map (fun i =>
    ((fin? 96 (32 * k + i)).elim 0 (fun g => b2n (f g)), i, 1))))

/-- Post a takeover event to the SAFETY tenant, or to SERVICE. -/
def State.kmPost (s : State) (code : Nat) (p : List Word) : State := s.postTo s.safetyOrService code 0x66 none p

/-- Segments join under a reason; those not yet in the set are reported (R331, R339). -/
def State.kmJoin (s : State) (r : Reason) (chap : Option Chap) (f : Seg → Bool) : State :=
  let m := s.light.matrix
  let new := fun g => f g && !m.taken g
  let n := ((allFin 96).filter new).length
  let s1 := s.modMatrix (fun m => m.setUnder r (mapTabIdx (fun i (b : Bool) =>
    b || (fin? 96 i).elim false f) (m.under r)))
  if n = 0 then s1
  else (s1.gfix 54 n).kmPost 0x00A4 (segWords new ++ [mkWord [(chap.elim 0xFF (·.val), 8, 8), (r.code, 0, 8)]])

/-- Segments no longer hold under a reason; those that leave the set are reported (R332). -/
def State.kmLeave (s : State) (r : Reason) (f : Seg → Bool) : State :=
  let m := s.light.matrix
  let m1 := m.setUnder r (mapTabIdx (fun i (b : Bool) => b && !((fin? 96 i).elim false f)) (m.under r))
  let left := fun g => m.taken g && !m1.taken g
  let s1 := s.modMatrix (fun _ => m1)
  if (allFin 96).any left then s1.kmPost 0x00A5 (segWords left ++ [w32 r.code]) else s1

/-- The Chapels that carry a segment, as last latched. -/
def KStore.carriers (k : KStore) (g : Seg) : List Chap := (k.maps.filter (fun m => m.seg == g)).map (·.chap)

/-- A Chapel carries a segment, as last latched. -/
def KStore.carries (k : KStore) (c : Chap) (g : Seg) : Bool := (k.carriers g).contains c

/-- A Chapel leaves RUN: its segments join under CHAPEL (R330, R331). -/
def State.kmChapelLost (s : State) (c : Chap) : State := s.kmJoin .chapel (some c) (fun g => s.ovl.carries c g)

/-- An Array Chapel has a sink that a rail fault stopped. -/
def State.darkArray (s : State) (c : Chap) : Bool :=
  (s.chap c).rec'.elim false (fun p => !p.scan && p.sinks.any (fun o => (s.out o).stopped))

/-- The segments of a dark Array Chapel join under LIGHT_SOURCE (R330). -/
def State.kmDark (s : State) (c : Chap) : State :=
  if s.darkArray c then s.kmJoin .source (some c) (fun g => s.ovl.carries c g && !at' s.light.matrix.source g) else s

/-- An update pause is in force. -/
def State.pauseOn (s : State) : Bool := s.update.act.any (fun a => a.phase == .pause || a.phase == .loaded)

/-- Every segment mapped on a Chapel joins under UPDATE_PAUSE (R330). -/
def State.kmPause (s : State) : State :=
  s.kmJoin .pause none (fun g => !(s.ovl.carriers g).isEmpty && !at' s.light.matrix.pause g)

/-- After a latch: a segment newly mapped on a Chapel that is not in RUN, on a dark Array Chapel, or during an update pause
joins, and one whose last mapping is released leaves at once. -/
def State.kmLatched (s : State) : State :=
  let s0 := forEach (allFin 4) (fun c s =>
    if (s.chap c).state == .run then s
    else s.kmJoin .chapel (some c) (fun g => s.ovl.carries c g && !at' s.light.matrix.chapel g)) s
  let s1 := forEach (allFin 4) (fun c s => s.kmDark c) s0
  let s2 := if s1.pauseOn then s1.kmPause else s1
  let gone := fun g => (s2.ovl.carriers g).isEmpty
  ((s2.kmLeave .chapel gone).kmLeave .source gone).kmLeave .pause gone

/-- The rails of an Array Chapel's sinks were not restarted after a frame's Bell. -/
def State.relit (s : State) (c : Chap) (tB : Time) : Bool :=
  (s.chap c).rec'.elim true (fun p => p.scan ||
    p.sinks.all (fun o => (at' s.light.rails (Fin.ofNat 2 (s.out o).cfg.rail)).restartAt ≤ tB))

/-- The frame done of a Chapel in RUN whose frame began at `tB`: a segment that it carries leaves CHAPEL when every Chapel that carries it is
in RUN, LIGHT_SOURCE when none of them is dark, and UPDATE_PAUSE when no pause is in force (R332, R541; DEDUCED, log
entry 30). -/
def State.kmShown (s : State) (c : Chap) (tB : Time) : State :=
  let ok := fun (g : Seg) => s.past.carries c g && s.ovl.carries c g && (s.ovl.carriers g).all (fun d => (s.chap d).state == .run)
  let lit := fun (g : Seg) => s.past.carries c g && s.ovl.carries c g && !s.darkArray c && s.relit c tB && (s.ovl.carriers g).all (fun d => !s.darkArray d)
  let ending := fun (g : Seg) => s.past.carries c g && s.ovl.carries c g && !s.pauseOn
  ((s.kmLeave .chapel ok).kmLeave .source lit).kmLeave .pause ending

/-! ### Lamp rails (R319 to R321) -/

/-- The sinks of a rail. -/
def State.railSinks (s : State) (r : Fin 2) : List OutId :=
  allOuts.filter (fun o => isSink o && (s.out o).cfg.en && (s.out o).cfg.rail = r.val)

/-- A rail. -/
def State.rail (s : State) (r : Fin 2) : RailSt := at' s.light.rails r

/-- The headroom samples in mV of a rail's sinks from one instant up to another (R319): `h` gives each sink's converted values
in the order of its instants. -/
def State.railSamples (s : State) (r : Fin 2) (h : List (OutId × List Nat)) (from' upTo : Time) : List (OutId × Nat) :=
  (s.railSinks r).flatMap (fun o =>
    let q := s.out o
    let ts := (q.samp ++ (if s.dims o then q.sampleAt else [])).filter (fun t => from' ≤ t && t < upTo)
    (ts.zip ((h.lookup o).getD [])).map (fun e => (o, e.2)))

/-- RAIL_STEP: the millisecond just ended gave each sink's headroom samples the values `h` (R319, R320). -/
def State.railStep (s : State) (r : Fin 2) (h : List (OutId × List Nat)) : State :=
  let q := s.rail r
  if !(s.live && q.en && !q.stopped) then s
  else
    let s := s.passTo (q.lastStep + ms 1)
    let own := s.railSamples r h q.lastStep (q.lastStep + ms 1)
    let s0 := forEach (s.railSinks r) (fun o s => s.modOut o (fun x => { x with
      samp := x.samp.filter (fun t => q.lastStep + ms 1 ≤ t) }))
      (forEach own (fun e s => if e.2 < 150 then s.tally 4 e.1.val 2 1 else s) s)
    let head := q.pendHead.getD q.head
    let s1 := (s0.modRail r (fun q => { q with
      head := head
      pendHead := none
      lastStep := q.lastStep + ms 1 })).tally 4 (14 + r.val) 3 1
    match (own.map (·.2)).min? with
    | none => s1
    | some m =>
      let d : Int := (head : Int) - m
      let lim := if m < 100 then min d 500 else clampI d (-50) 200
      let v := (clampI (q.vSet + lim.tdiv 10) q.vMin q.vMax).toNat
      let low := v = q.vMax && m < head
      let run := if low then q.limitRun + 1 else 0
      let due := 10 ≤ run && !q.limitPosted
      let s2 := s1.modRail r (fun q => { q with
        vSet := v
        hMin := m
        limitRun := run
        limitPosted := low && (q.limitPosted || due) })
      let s3 := if v = q.vMax then s2.tally 4 (14 + r.val) 4 1 else s2
      if due then s3.post q.owner 0x00A2 (0x6E + r.val) none [w32 v, w32 m, w32 head] else s3
def execRailStep (r : Fin 2) (h : List (OutId × List Nat)) (s : State) : Host.Outcome State Fault Refusal :=
  .next (s.railStep r h)

/-- A rail stops, by cause 1 CURRENT, 2 VOLTAGE, 3 THERMAL (R321, R456). -/
def State.railStop (s : State) (r : Fin 2) (cause : Nat) : State :=
  if !(s.rail r).en || (s.rail r).stopped then s
  else
    let sinks := s.railSinks r
    let s1 := s.modRail r (fun q => { q with stopped := true })
    let s2 := forEach sinks (fun o s => s.modOut o (fun q => { q with stopped := true })) s1
    let s3 := s2.postAll 0x00A3 (0x6E + r.val) none
      [w32 cause, mkWord (sinks.map (fun o => (1, o.val, 1)))]
    let dark := (allFin 4).filter (fun c => s3.darkArray c && !s.darkArray c)
    s3.kmJoin .source (if dark.length = 1 then dark.head? else none) (fun g => dark.any (fun c => s3.ovl.carries c g))
def execRailFault (r : Fin 2) (volt : Bool) (s : State) : Host.Outcome State Fault Refusal :=
  .next (if s.live then s.railStop r (if volt then 2 else 1) else s)

/-! ### Lamp-board sensors (R322 to R325) -/

/-- DERATE to an output's owner. -/
def State.deratePost (s : State) (o : OutId) (reason : Nat) : State :=
  s.post (s.out o).cfg.owner 0x00A1 (0x60 + o.val) none
    [w32 reason, i32 (s.out o).t16, w32 (s.out o).f, w32 (s.ceilD o)]

/-- The value of a sensor's two bytes, the most significant first: 16-bit two's complement, in 1/256 °C (R322). -/
def sensorVal (x : Byte × Byte) : Int := sgn 16 (256 * x.1.toNat + x.2.toNat)

/-- DERATE where f leaves or reaches 16,383. -/
def State.derateTurn (s : State) (o : OutId) (old new : Nat) : State :=
  if old = 16383 && new != 16383 then s.deratePost o 1
  else if old != 16383 && new = 16383 then s.deratePost o 2 else s

/-- One sink takes the outcome of a read of its sensor: its two bytes, or none. -/
def State.sensorRead (s : State) (o : OutId) (raw : Option (Byte × Byte)) : State :=
  let q := s.out o
  let (k, sl, fl) := q.pendDerate.getD (q.knee, q.slope, q.floor)
  let s1 := s.modOut o (fun q => { q with knee := k, slope := sl, floor := fl, pendDerate := none })
  match raw with
  | some v =>
    let t := asr (sensorVal v) 4
    let f := derate t k sl fl
    let s2 := s1.modOut o (fun q => { q with t16 := t, f := f, missed := 0 })
    (if 3 ≤ q.missed then s2.deratePost o 4 else s2).derateTurn o q.f f
  | none =>
    let m := q.missed + 1
    let f := if 3 ≤ m then fl else q.f
    let s2 := s1.modOut o (fun q => { q with missed := m, f := f })
    (if m = 3 then s2.deratePost o 3 else s2).derateTurn o q.f f

/-- LAMP_SENSOR_READ: every 250 ms the named sensors are read; `x` gives the outcome of each address. A sink that
names no sensor takes its written settings and keeps its fraction. -/
def State.lampSensors (s : State) (x : List (Nat × Option (Byte × Byte))) : State :=
  if !s.live then s
  else
    let s := s.passTo (s.light.sensorAt + ms 250)
    let s1 := { s with light := { s.light with sensorAt := s.light.sensorAt + ms 250 } }
    forEach (allOuts.filter isSink) (fun o s =>
      let q := s.out o
      if !q.cfg.en then s
      else if q.cfg.sensor = 0 then
        (match q.pendDerate with
         | some (k, sl, fl) => s.modOut o (fun q => { q with knee := k, slope := sl, floor := fl, pendDerate := none })
         | none => s)
      else s.sensorRead o ((x.lookup q.cfg.sensor).join)) s1
def execLampSensorRead (x : List (Nat × Option (Byte × Byte))) (s : State) : Host.Outcome State Fault Refusal :=
  .next (s.lampSensors x)

/-! ### Matrix rows (R326 to R329, R333) -/

/-- t_on in ticks (R328). -/
def State.kmOn (s : State) : Nat :=
  let m := s.light.matrix
  let duty := match m.follow with
    | some k => (s.out (Fin.ofNat 14 k.val)).active.duty
    | none => 16383
  max m.minOn (46800 * duty / 16384)

/-- The segment at a row and a column. -/
def segAt (row : Fin 8) (col : Fin 12) : Seg := Fin.ofNat 96 (12 * row.val + col.val)

/-- A row slot lights a segment. -/
def State.kmLit (s : State) (g : Seg) : Bool := s.light.matrix.taken g && at' s.ovl.on g

/-- One column of a row slot: `d` is its longest stay in dropout within the on-time, in ticks (R333). -/
def State.kmColumn (s : State) (row : Fin 8) (col : Fin 12) (d : Nat) : State :=
  let g := segAt row col
  if !s.kmLit g then s
  else if 2000 < d then
    if at' s.light.matrix.open' g then s
    else
      let s1 := s.modMatrix (fun m => { m with open' := upd m.open' g (fun _ => true) })
      ((s1.gfix 53 1).tally 4 6 6 1).kmPost 0x00A6 [w32 g.val, w32 row.val, w32 col.val]
  else if d = 0 then s.modMatrix (fun m => { m with open' := upd m.open' g (fun _ => false) })
  else s

/-- MATRIX_ROW_SLOT: a row's slot starts and its lit columns conduct; `x` gives the dropout measured on a column (R327, R329). -/
def State.rowSlot (s : State) (x : List (Fin 12 × Nat)) : State :=
  let m := s.light.matrix
  if !(s.live && m.on) then s
  else
    let s := s.passTo m.slotFrom
    let row := m.row
    let s1 := forEach (allFin 12) (fun col s => s.kmColumn row col ((x.lookup col).getD 0)) s
    let any := (allFin 12).any (fun col => s.kmLit (segAt row col))
    let s2 := if any then s1.tally 4 6 7 1 else s1
    let s3 := s2.modMatrix (fun m => { m with
      lit := mapTabIdx (fun i (b : Bool) => if i / 12 = row.val then (fin? 96 i).elim false (fun g => s.kmLit g) else b) m.lit
      row := row + 1
      slotFrom := m.slotFrom + us 250 })
    if row.val = 7 then (s3.gfix 52 1).tally 4 6 5 1 else s3
def execMatrixRowSlot (x : List (Fin 12 × Nat)) (s : State) : Host.Outcome State Fault Refusal := .next (s.rowSlot x)

/-! ### Requests (R338, R458) -/

/-- DRV_QUERY: OUT 0 to 13, or rail 0 or 1 as 14 or 15, as R339 and R608 number them (log entry 31). -/
def execDrvQuery (t : Ten) (s : State) : Host.Outcome State Fault Refusal :=
  .next (match s.request t 0x0401 with
  | none => s
  | some a =>
    let n := (a.getD 0 0).toNat
    if n = 14 || n = 15 then
      let q := s.rail (Fin.ofNat 2 n)
      s.answer t ansOk ([0, 0, 0, 0, 0, 0, 0, 0, 0] ++ [w32 q.vSet, w32 q.hMin])
    else match outOf n with
    | none => s.answer t ansRange []
    | some o =>
      let q := s.out o
      let r := s.rail (Fin.ofNat 2 q.cfg.rail)
      s.answer t ansOk [Config.outMode (if !q.cfg.en then 0 else if (s.pulseChap o).isSome then 1 else if isSink o then 2 else 3),
        w32 q.active.code, w32 q.active.duty, w32 q.active.period, w32 (b2n q.active.scramble), w32 (s.fOut o),
        w32 (s.ceilD o), q.appliedSeq, i32 q.t16, w32 r.vSet, w32 r.hMin])

/-- KM_QUERY. -/
def execKmQuery (t : Ten) (s : State) : Host.Outcome State Fault Refusal :=
  .next (match s.request t 0x0402 with
  | none => s
  | some _ =>
    let m := s.light.matrix
    s.answer t ansOk (segWords m.taken ++ segWords (at' m.lit) ++ segWords (at' m.open') ++ [w32 s.kmOn]))

/-- RAIL_RESTART. -/
def execRailRestart (t : Ten) (s : State) : Host.Outcome State Fault Refusal :=
  .next (match s.request t 0x0403 with
  | none => s
  | some a =>
    match fin? 2 (a.getD 0 0).toNat with
    | none => s.answer t ansRange []
    | some r =>
      let q := s.rail r
      if !q.en || q.owner != t then s.answer t ansClass []
      else if !q.stopped || 2 ≤ at' s.thermal.level (Fin.ofNat 9 (5 + r.val)) then s.answer t ansState []
      else
        let s1 := s.modRail r (fun q => { q with
          stopped := false
          restartAt := s.now
          vSet := q.vMin
          limitRun := 0
          limitPosted := false })
        (forEach (s.railSinks r) (fun o s => s.modOut o (fun q => { q with stopped := false })) s1).answer t ansOk [])

end Sys2Proof.Machine
end

