-- ==== Sys2Proof/Machine/ChapRecords.lean ====
section
/-!
DEFINITION. The Chapel settings record (09_engine_ports R303, R304; 08_scanout R264): its fields, its checks in
the table's order, each with the reason and the byte offset of the failing field.
-/

namespace Sys2Proof.Machine

/-- One byte of a stored record. -/
def getB (bs : List Byte) (o : Nat) : Nat := getLe bs o 1

/-- The range of offsets from `a` up to but not including `b` holds zeros. -/
def zeroSpan (bs : List Byte) (a b : Nat) : Bool := ((bs.drop a).take (b - a)).all (· == 0)

/-- A record's CRC over its bytes up to offset `o`, stored at `o`. -/
def recCrcOk (bs : List Byte) (o : Nat) : Bool := getLe bs o 4 = (crc32 (bs.take o)).toNat

/-- 16-bit entries of a table in a record. -/
def recTab (bs : List Byte) (o n : Nat) : List Nat := (List.range n).map (fun i => getLe bs (o + 2 * i) 2)

/-- Entries of the pixel-timing and retrace tables. -/
def ptabLen (w : Nat) : Nat := w + 1
def rtabLen (tRet : Nat) : Nat := cdiv tRet 4

/-- The fields of a Chapel record (R303). -/
def chapParse (bs : List Byte) : ChapRec :=
  let g := getLe bs
  let fl := getB bs 6
  let base : ChapRec :=
    { scan := getB bs 4 = 1, depth := getB bs 5, abort := nbit fl 0, autostart := nbit fl 1, w := g 8 2, h := g 10 2 }
  if base.scan then
    { base with
      fMin := g 16 2
      fMax := g 18 2
      tRet := g 20 2
      pixclk := getB bs 22
      aMin := g 24 2
      sWin := g 26 2
      lMax := g 28 2
      sPark := g 30 2
      sTop := g 32 2
      sBot := g 34 2
      slew := g 44 2
      ptab := recTab bs (g 36 4) (ptabLen (g 8 2))
      rtab := recTab bs (g 40 4) (rtabLen (g 20 2)) }
  else
    { base with
      lanes := getB bs 16
      rate := getB bs 17
      u := g 18 2
      tRst := g 20 2
      sinkR := getB bs 22
      sinkG := getB bs 23
      sinkB := getB bs 24
      rdyMs := getB bs 25
      parkMs := g 26 2 }

/-- A byte of the span from 64 to SIZE - 5 that neither table covers is 0. -/
def tabGapsZero (bs : List Byte) (size : Nat) : Bool :=
  let p := getLe bs 36 4
  let r := getLe bs 40 4
  let pe := p + 2 * ptabLen (getLe bs 8 2)
  let re := r + 2 * rtabLen (getLe bs 20 2)
  (bs.zipIdx).all (fun e =>
    e.2 < 64 || size - 4 ≤ e.2 || (p ≤ e.2 && e.2 < pe) || (r ≤ e.2 && e.2 < re) || e.1 == 0)

/-- The first failing check of a list of (fails, offset). -/
def firstBad (xs : List (Bool × Nat)) : Option Nat := (xs.find? (·.1)).map (·.2)

/-- Check 1 FORMAT: the offset of the failing field. -/
def chapFormat (c : Chap) (bs : List Byte) : Option Nat :=
  let g := getLe bs
  let size := g 12 4
  let scan := getB bs 4 = 1
  let p := g 36 4
  let r := g 40 4
  let pe := p + 2 * ptabLen (g 8 2)
  let re := r + 2 * rtabLen (g 20 2)
  firstBad ([(bs.take 4 != [0x43, 0x48, 0x53, 0x31], 0), (size < 68 || bs.length < size, 12)] ++
    (if scan then
      [(p % 2 != 0 || p < 64 || size < pe + 4, 36),
       (r % 2 != 0 || r < 64 || size < re + 4 || (p < re && r < pe), 40)] else []) ++
    [(!recCrcOk (bs.take size) (size - 4), size - 4), (getB bs 7 != 0, 7), (4 ≤ getB bs 6, 6)] ++
    (if scan then
      [(getB bs 23 != 0, 23), (2 ^ 14 ≤ g 24 2, 24), (2 ^ 14 ≤ g 28 2, 28), (2 ^ 14 ≤ g 30 2, 30),
       (2 ^ 14 ≤ g 32 2, 32), (2 ^ 14 ≤ g 34 2, 34), (!zeroSpan bs 46 64, 46),
       (!tabGapsZero (bs.take size) size, 64)]
     else [(!zeroSpan bs 28 (size - 4), 28)]) ++
    [(getB bs 4 != (if c.val < 2 then 0 else 1), 4)])

/-- Check 2 RANGE. -/
def chapRange (p : ChapRec) : Option Nat :=
  if p.scan then
    firstBad [(p.fMin < 18000 || 32000 < p.fMin, 16), (p.fMax < p.fMin || min 32000 (p.fMin + 2000) < p.fMax, 18),
      (p.tRet < 250 || 1500 < p.tRet, 20), (p.pixclk < 40 || 160 < p.pixclk, 22), (p.sWin < 16 || 2048 < p.sWin, 26),
      (p.slew < 1 || 1024 < p.slew, 44)]
  else
    firstBad [(p.lanes != 8 && p.lanes != 16, 16), (p.rate < 4 || 16 < p.rate, 17), (p.u = 0, 18),
      (p.tRst = 0 || 10000 < p.tRst, 20), (6 ≤ p.sinkR, 22), (6 ≤ p.sinkG, 23), (6 ≤ p.sinkB, 24),
      (p.rdyMs = 0 || 200 < p.rdyMs, 25), (p.parkMs = 0 || 50 < p.parkMs, 26)]

/-- Check 3 RASTER. -/
def chapRaster (p : ChapRec) : Option Nat :=
  if p.scan then firstBad [(p.w < 16 || 2048 < p.w, 8), (p.h < 16 || 720 < p.h, 10)]
  else firstBad [(p.w % p.lanes != 0 || p.w < 16 || 1280 < p.w, 8), (p.h = 0 || 800 < p.h, 10)]

/-- Check 4 DEPTH. -/
def chapDepth (p : ChapRec) : Option Nat :=
  firstBad [(p.depth < 6 || (if p.scan then 14 else 10) < p.depth, 5)]

/-- T_min of an Array Chapel in units of 1 / (LANES * RATE) ns (R262, R281, R283). -/
def ChapRec.tMin (p : ChapRec) : Nat := p.w * p.h * 10 + 10 * p.tRst * (p.lanes * p.rate)

/-- Check 5 TIMING: the conditions of R264. -/
def chapTiming (p : ChapRec) : Bool :=
  let k := p.lanes * p.rate
  let sN := p.depth - 3
  let closing := ((List.range sN).map (fun i => 3 * max p.tMin (2 ^ i * p.u * 5 * k))).foldl (· + ·) 0
  p.scan || (p.tMin ≤ 324160 * k && 2 ^ sN * p.u * 5 ≤ 324160 && closing ≤ 1276000 * k)

/-- The floor of a Scan profile in reference cycles, at F_MIN (R65, R287). -/
def ChapRec.floorCyc (p : ChapRec) : Nat := scanFloor p.h (p.fMin * 1000) p.tRet

/-- Check 7 PIXEL. -/
def chapPixel (p : ChapRec) : Bool :=
  !p.scan || (p.ptab.zip (p.ptab.drop 1)).all (fun e =>
    e.1 < e.2 && 196608 * p.fMax ≤ (e.2 - e.1) * (p.pixclk * 1000000))

/-- Check 8 SINK, against the rest of the settings and the other Array Chapel. -/
def State.chapSink (s : State) (c : Chap) (p : ChapRec) : Option Nat :=
  if p.scan then none
  else
    let other : Chap := if c = 0 then 1 else 0
    let runs := (s.chap other).state == .run || (s.chap other).state == .starting
    let busy := fun o => runs && (s.chap other).rec'.elim false (fun q => q.sinks.contains o)
    let own := (s.choir.slots.toList.filter (fun q => q.cfg.en && q.cfg.kind == .illum && q.cfg.target = c.val)).map
      (fun q => q.cfg.owner)
    let bad := fun o => busy o || !(s.out o).cfg.en || own.any (fun t => (s.out o).cfg.owner != t)
    let xs := p.sinks
    firstBad [(xs.any (fun o => bad o && o.val = p.sinkR), 22), (p.sinkG = p.sinkR || xs.any (fun o => bad o && o.val = p.sinkG), 23),
      (p.sinkB = p.sinkR || p.sinkB = p.sinkG || xs.any (fun o => bad o && o.val = p.sinkB), 24)]

/-- Checks 1 to 8 of a stored record: its fields, or the reason and the offset of the refusal (R304). -/
def State.chapCheck (s : State) (c : Chap) (bs : List Byte) : Except (Nat × Nat) ChapRec :=
  let p := chapParse bs
  match chapFormat c bs with
  | some o => .error (1, o)
  | none =>
  match chapRange p with
  | some o => .error (2, o)
  | none =>
  match chapRaster p with
  | some o => .error (3, o)
  | none =>
  match chapDepth p with
  | some o => .error (4, o)
  | none =>
  if !chapTiming p then .error (5, 0)
  else if p.scan && 500000 < p.floorCyc then .error (6, 0)
  else if !chapPixel p then .error (7, 0)
  else match s.chapSink c p with
  | some o => .error (8, o)
  | none => .ok p

/-- A profile of a Chapel as stored. -/
def State.profile (s : State) (c : Chap) (n : Nat) : Option (List Byte) := s.profiles.lookup (4 * c.val + n)

/-- The raster of a Chapel: of the profile in force, else of profile 0 when it passes its checks (DEDUCED, log
entry 28). -/
def State.raster (s : State) (c : Chap) : Option (Nat × Nat) :=
  match (s.chap c).rec' with
  | some p => some (p.w, p.h)
  | none =>
    match s.profile c 0 with
    | none => none
    | some bs =>
      match s.chapCheck c bs with
      | .ok p => some (p.w, p.h)
      | .error _ => none

end Sys2Proof.Machine
end

