-- ==== Sys2Proof/Machine/QuagalFlow.lean ====
section
/-!
DEFINITION. Flow, arithmetic, compare and system-read instructions (05_quagal_reference R151, R152;
04_quagal_model R123, R124, R128, R129).
-/

namespace Sys2Proof.Machine

/-! ### Operands -/

/-- DST, gSRCA, gSRCB, and IMM16 extended by sign and by zero. -/
def OpCtx.dst (c : OpCtx) : Nat := fld c.w 20 4
def OpCtx.A (c : OpCtx) : Word := c.reg (fld c.w 16 4)
def OpCtx.B (c : OpCtx) : Word := c.reg (fld c.w 12 4)
def OpCtx.immS (c : OpCtx) : Word := i32 (sgn 16 (fld c.w 0 16))
def OpCtx.immZ (c : OpCtx) : Word := w32 (fld c.w 0 16)

/-- Write a general register of a ring. -/
def State.setReg (s : State) (r : RingId) (i : Nat) (v : Word) : State :=
  match fin? 16 i with
  | some i => s.modRing r (fun q => { q with g := upd q.g i (fun _ => v) })
  | none => s

/-- Write a predicate of a ring. -/
def State.setPred (s : State) (r : RingId) (i : Nat) (b : Bool) : State :=
  match fin? 4 i with
  | some i => s.modRing r (fun q => { q with p := upd q.p i (fun _ => b) })
  | none => s

/-! ### Flow -/

/-- NOP. -/
def semNop : OpSem := { cost := fun _ => 1, run := fun _ s => s }
def execNop (r : RingId) (s : State) : Host.Outcome State Fault Refusal := .next (s.runOp r 0x00 semNop)

/-- Whether `target` is LEN or the first word of an instruction, from the words fetched; none while the words
needed to tell are not available (R124). DESIGN CHOICE (log entry 94): a word that is uncorrectable or has no assigned
opcode counts as one word. -/
def branchOk (buf : List (Option Word)) (len target : Nat) : Nat → Nat → Option Bool
  | 0, _ => some false
  | fuel + 1, p =>
    if target > len then some false
    else if target = len || p = target then some true
    else if p > target then some false
    else match buf[p]? with
      | none => none
      | some none => branchOk buf len target fuel (p + 1)
      | some (some w) => branchOk buf len target fuel (p + opWords w)

/-- The check of a branch target at a ring. -/
def State.target (s : State) (r : RingId) (t : Nat) : Option Bool :=
  match (s.ring r).pkt with
  | some p => branchOk (s.fetched (s.ring r) p) p.len t 256 0
  | none => some false

/-- The condition of BR's MODE. -/
def brTaken (c : OpCtx) (s : State) : Bool :=
  let p := (fin? 4 (fld c.w 20 2)).elim false (fun i => at' (s.ring c.ring).p i)
  match fld c.w 22 2 with
  | 0 => true
  | 1 => p
  | _ => !p

/-- BR. The target is checked whether or not the branch is taken (DEDUCED, log entry 7). -/
def semBr : OpSem where
  m0 := 0x00F000FF#32
  cost := fun _ => 1
  illegal := fun c => fld c.w 22 2 = 3
  stall := fun c s => (s.target c.ring (fld c.w 0 8)).isNone
  causes := fun c s => when' (s.target c.ring (fld c.w 0 8) == some false) fBRANCH
  run := fun c s => if brTaken c s then s.modRing c.ring (fun q => { q with pc := fld c.w 0 8 }) else s
def execBr (r : RingId) (s : State) : Host.Outcome State Fault Refusal := .next (s.runOp r 0x01 semBr)

/-- DJNZ. -/
def semDjnz : OpSem where
  m0 := 0x00F000FF#32
  cost := fun _ => 1
  stall := fun c s => (s.target c.ring (fld c.w 0 8)).isNone
  causes := fun c s => when' (s.target c.ring (fld c.w 0 8) == some false) fBRANCH
  run := fun c s =>
    let v := c.reg c.dst - 1
    let s1 := s.setReg c.ring c.dst v
    if v != 0 then s1.modRing c.ring (fun q => { q with pc := fld c.w 0 8 }) else s1
def execDjnz (r : RingId) (s : State) : Host.Outcome State Fault Refusal := .next (s.runOp r 0x02 semDjnz)

/-- SIG: posts SIGNAL. -/
def semSig : OpSem where
  m0 := 0x00F0FFFF#32
  cost := fun _ => 1
  run := fun c s => s.post c.ten 0x0018 c.ring.val none [w32 (fld c.w 0 16), c.reg c.dst]
def execSig (r : RingId) (s : State) : Host.Outcome State Fault Refusal := .next (s.runOp r 0x03 semSig)

/-! ### Arithmetic -/

/-- An instruction that writes one register from its operands: formats R, I and W. -/
def semAlu (m0 m1 : Word) (f : OpCtx → Word) : OpSem where
  m0 := m0
  m1 := m1
  cost := fun _ => 1
  run := fun c s => s.setReg c.ring c.dst (f c)

/-- RSV masks of formats R, I, MOVI and W. -/
def mR : Word := 0x00FFF000#32
def mI : Word := 0x00FFFFFF#32
def mMovi : Word := 0x00F0FFFF#32
def mW : Word := 0x00F00000#32

/-- ADD. -/
def semAdd : OpSem := semAlu mR 0 (fun c => c.A + c.B)
def execAdd (r : RingId) (s : State) : Host.Outcome State Fault Refusal := .next (s.runOp r 0x10 semAdd)

/-- SUB. -/
def semSub : OpSem := semAlu mR 0 (fun c => c.A - c.B)
def execSub (r : RingId) (s : State) : Host.Outcome State Fault Refusal := .next (s.runOp r 0x11 semSub)

/-- MUL. -/
def semMul : OpSem := semAlu mR 0 (fun c => c.A * c.B)
def execMul (r : RingId) (s : State) : Host.Outcome State Fault Refusal := .next (s.runOp r 0x12 semMul)

/-- AND. -/
def semAnd : OpSem := semAlu mR 0 (fun c => c.A &&& c.B)
def execAnd (r : RingId) (s : State) : Host.Outcome State Fault Refusal := .next (s.runOp r 0x13 semAnd)

/-- OR. -/
def semOr : OpSem := semAlu mR 0 (fun c => c.A ||| c.B)
def execOr (r : RingId) (s : State) : Host.Outcome State Fault Refusal := .next (s.runOp r 0x14 semOr)

/-- XOR. -/
def semXor : OpSem := semAlu mR 0 (fun c => c.A ^^^ c.B)
def execXor (r : RingId) (s : State) : Host.Outcome State Fault Refusal := .next (s.runOp r 0x15 semXor)

/-- SHL. -/
def semShl : OpSem := semAlu mR 0 (fun c => c.A <<< (c.B.toNat % 32))
def execShl (r : RingId) (s : State) : Host.Outcome State Fault Refusal := .next (s.runOp r 0x16 semShl)

/-- SHR. -/
def semShr : OpSem := semAlu mR 0 (fun c => c.A >>> (c.B.toNat % 32))
def execShr (r : RingId) (s : State) : Host.Outcome State Fault Refusal := .next (s.runOp r 0x17 semShr)

/-- SAR. -/
def semSar : OpSem := semAlu mR 0 (fun c => c.A.sshiftRight (c.B.toNat % 32))
def execSar (r : RingId) (s : State) : Host.Outcome State Fault Refusal := .next (s.runOp r 0x18 semSar)

/-- MINU. -/
def semMinu : OpSem := semAlu mR 0 (fun c => if c.A.toNat ≤ c.B.toNat then c.A else c.B)
def execMinu (r : RingId) (s : State) : Host.Outcome State Fault Refusal := .next (s.runOp r 0x19 semMinu)

/-- MAXU. -/
def semMaxu : OpSem := semAlu mR 0 (fun c => if c.A.toNat ≤ c.B.toNat then c.B else c.A)
def execMaxu (r : RingId) (s : State) : Host.Outcome State Fault Refusal := .next (s.runOp r 0x1A semMaxu)

/-- MINS. -/
def semMins : OpSem := semAlu mR 0 (fun c => if c.A.toInt ≤ c.B.toInt then c.A else c.B)
def execMins (r : RingId) (s : State) : Host.Outcome State Fault Refusal := .next (s.runOp r 0x1B semMins)

/-- MAXS. -/
def semMaxs : OpSem := semAlu mR 0 (fun c => if c.A.toInt ≤ c.B.toInt then c.B else c.A)
def execMaxs (r : RingId) (s : State) : Host.Outcome State Fault Refusal := .next (s.runOp r 0x1C semMaxs)

/-- ADDI. -/
def semAddi : OpSem := semAlu mI 0 (fun c => c.A + c.immS)
def execAddi (r : RingId) (s : State) : Host.Outcome State Fault Refusal := .next (s.runOp r 0x20 semAddi)

/-- MULI. -/
def semMuli : OpSem := semAlu mI 0 (fun c => c.A * c.immS)
def execMuli (r : RingId) (s : State) : Host.Outcome State Fault Refusal := .next (s.runOp r 0x21 semMuli)

/-- ANDI. -/
def semAndi : OpSem := semAlu mI 0 (fun c => c.A &&& c.immZ)
def execAndi (r : RingId) (s : State) : Host.Outcome State Fault Refusal := .next (s.runOp r 0x22 semAndi)

/-- ORI. -/
def semOri : OpSem := semAlu mI 0 (fun c => c.A ||| c.immZ)
def execOri (r : RingId) (s : State) : Host.Outcome State Fault Refusal := .next (s.runOp r 0x23 semOri)

/-- XORI. -/
def semXori : OpSem := semAlu mI 0 (fun c => c.A ^^^ c.immZ)
def execXori (r : RingId) (s : State) : Host.Outcome State Fault Refusal := .next (s.runOp r 0x24 semXori)

/-- SHLI. -/
def semShli : OpSem := semAlu mI 0 (fun c => c.A <<< (c.immZ.toNat % 32))
def execShli (r : RingId) (s : State) : Host.Outcome State Fault Refusal := .next (s.runOp r 0x25 semShli)

/-- SHRI. -/
def semShri : OpSem := semAlu mI 0 (fun c => c.A >>> (c.immZ.toNat % 32))
def execShri (r : RingId) (s : State) : Host.Outcome State Fault Refusal := .next (s.runOp r 0x26 semShri)

/-- SARI. -/
def semSari : OpSem := semAlu mI 0 (fun c => c.A.sshiftRight (c.immZ.toNat % 32))
def execSari (r : RingId) (s : State) : Host.Outcome State Fault Refusal := .next (s.runOp r 0x27 semSari)

/-- MOVI. -/
def semMovi : OpSem := semAlu mMovi 0 (fun c => c.immS)
def execMovi (r : RingId) (s : State) : Host.Outcome State Fault Refusal := .next (s.runOp r 0x28 semMovi)

/-- MOVHI. -/
def semMovhi : OpSem := semAlu mI 0 (fun c => (c.A &&& 0xFFFF#32) ||| (c.immZ <<< 16))
def execMovhi (r : RingId) (s : State) : Host.Outcome State Fault Refusal := .next (s.runOp r 0x29 semMovhi)

/-- MOVW. -/
def semMovw : OpSem := semAlu mW 0xFFFFFFFF#32 (fun c => c.e1)
def execMovw (r : RingId) (s : State) : Host.Outcome State Fault Refusal := .next (s.runOp r 0x2A semMovw)

/-! ### Compare -/

/-- The conditions (04_quagal_model, Conditions). -/
def condHolds (cond : Nat) (a b : Word) : Bool :=
  match cond with
  | 0 => a == b
  | 1 => a != b
  | 2 => a.toNat < b.toNat
  | 3 => a.toNat ≤ b.toNat
  | 4 => a.toNat > b.toNat
  | 5 => a.toNat ≥ b.toNat
  | 6 => a.toInt < b.toInt
  | 7 => a.toInt ≤ b.toInt
  | 8 => a.toInt > b.toInt
  | 9 => a.toInt ≥ b.toInt
  | 10 => (a &&& b) != 0
  | _ => (a &&& b) == 0

/-- COND, PDST and IMM14 of format C. -/
def OpCtx.cond (c : OpCtx) : Nat := fld c.w 20 4
def OpCtx.pdst (c : OpCtx) : Nat := fld c.w 14 2
def OpCtx.imm14 (c : OpCtx) : Word :=
  if 6 ≤ c.cond && c.cond ≤ 9 then i32 (sgn 14 (fld c.w 0 14)) else w32 (fld c.w 0 14)

/-- CMP. -/
def semCmp : OpSem where
  m0 := 0x00FFFC00#32
  cost := fun _ => 1
  illegal := fun c => c.cond ≥ 12
  run := fun c s => s.setPred c.ring c.pdst (condHolds c.cond c.A (c.reg (fld c.w 10 4)))
def execCmp (r : RingId) (s : State) : Host.Outcome State Fault Refusal := .next (s.runOp r 0x2C semCmp)

/-- CMPI. -/
def semCmpi : OpSem where
  m0 := 0x00FFFFFF#32
  cost := fun _ => 1
  illegal := fun c => c.cond ≥ 12
  run := fun c s => s.setPred c.ring c.pdst (condHolds c.cond c.A c.imm14)
def execCmpi (r : RingId) (s : State) : Host.Outcome State Fault Refusal := .next (s.runOp r 0x2D semCmpi)

/-! ### System read -/

/-- PENDING: words beyond the end of the current packet (R129). -/
def RingSt.pending (q : RingSt) : Nat :=
  match q.pkt with
  | some p => q.avail - (2 + p.len)
  | none => 0

/-- The system values (R129) other than BELL. -/
def State.sysValue (s : State) (c : OpCtx) (sel : Nat) : Word :=
  let q := s.ring c.ring
  match sel with
  | 1 => w32 q.budget
  | 2 => w32 q.budgetB
  | 3 => w32 q.pending
  | 4 => mkWord [(c.ring.val, 0, 4), (c.ten.val, 4, 2), ((s.ten c.ten).cfg.cls.code, 6, 2), (q.lectern, 8, 5)]
  | 5 => c.seq
  | 6 => s.bellNow
  | _ => (s.ten c.ten).frozen.getD 0

/-- RDS. -/
def semRds : OpSem where
  m0 := 0x00FF0000#32
  cost := fun _ => 1
  illegal := fun c => fld c.w 16 4 ≥ 8 || (fld c.w 16 4 = 0 && c.dst % 2 = 1)
  run := fun c s =>
    if fld c.w 16 4 = 0 then (s.setReg c.ring c.dst s.bn32).setReg c.ring (c.dst + 1) (w32 (s.bn / 2 ^ 32))
    else s.setReg c.ring c.dst (s.sysValue c (fld c.w 16 4))
def execRds (r : RingId) (s : State) : Host.Outcome State Fault Refusal := .next (s.runOp r 0x2E semRds)

end Sys2Proof.Machine
end

