-- ==== Sys2Proof/Machine/QuagalSurface.lean ====
section
/-!
DEFINITION. Surface, layer, check-rectangle, blend and scale instructions (05_quagal_reference R147 to R162;
06_memory_surfaces R200 to R203).
-/

namespace Sys2Proof.Machine

/-! ### Surfaces -/

/-- Bits per pixel of FMT 0 to 5 (R202). -/
def fmtBpp (f : Nat) : Nat :=
  match f with
  | 0 => 64
  | 1 | 2 => 32
  | 3 => 16
  | _ => 8

/-- Row pitch in bytes (R200). -/
def fmtPitch (f w : Nat) : Nat := cdiv (w * fmtBpp f) 512 * 64

/-- Start of the prime-surface region in the Moangex store, its size, and the start of the prime surface area in
it (R27, R431). -/
def primeBase : Nat := 0x1700000
def primeSize : Nat := 0x800000
def primeArea : Nat := 0x211000

/-- A surface's byte address in its memory. -/
def Surface.addr (x : Surface) : Nat := x.base * 64 + (if x.prime then primeBase else 0)

/-- The memory that a surface lies in. -/
def State.surfMem (s : State) (x : Surface) : Mem := if x.prime then s.moa else s.lp
def State.surfUe (s : State) (x : Surface) : List Nat := if x.prime then s.memc.ueMoa else s.memc.ueLp

/-- The extent in bytes: of FMT 6 and 7 the header's SIZE (R200). -/
def State.extent (s : State) (x : Surface) : Nat :=
  if x.fmt < 6 then fmtPitch x.fmt x.w * x.h else (Memory.readW (s.surfMem x) (x.addr + 12)).toNat

/-- A range of bytes from a surface's address lies where the tenant's surfaces may (R201, R431). -/
def State.insideRegion (s : State) (t : Ten) (prime : Bool) (base n : Nat) : Bool :=
  let c := (s.ten t).cfg
  if prime then primeArea ≤ base * 64 && base * 64 + n ≤ primeSize
  else c.regBase ≤ base * 64 && base * 64 + n ≤ c.regBase + c.regSize

/-- A tenant's surface. -/
def State.surf (s : State) (t : Ten) (sid : Nat) : Option Surface := (at' s.surfs t).lookup sid

/-- Surface descriptors in use, of 512. -/
def State.surfCount (s : State) : Nat := ((allFin 4).map (fun t => (at' s.surfs t).length)).foldl (· + ·) 0

/-- The settings that name something in a layer: as written, as taken, as frozen. -/
def Layer.views (l : Layer) : List LayerCfg :=
  l.work.toList ++ (l.taken.bind id).toList ++ l.frozen.toList

/-- Some layer of a tenant names a surface (R155). -/
def State.surfUsed (s : State) (t : Ten) (sid : Nat) : Bool :=
  (allFin 4).any (fun c => (s.chap c).layers.toList.any (fun l =>
    l.holder == some t && l.views.any (fun v => v.sid == some sid)))

/-! ### Fields -/

/-- LID, and the Chapel and Z it names. -/
def OpCtx.lid (c : OpCtx) : Nat := fld c.w 17 7
def lidChap (lid : Nat) : Chap := Fin.ofNat 4 (lid / 32)
def lidZ (lid : Nat) : Fin 32 := Fin.ofNat 32 lid
def lidOf (c : Chap) (z : Fin 32) : Nat := 32 * c.val + z.val
def OpCtx.sid16 (c : OpCtx) : Nat := fld c.w 16 8
def OpCtx.chap22 (c : OpCtx) : Chap := Fin.ofNat 4 (fld c.w 22 2)
def OpCtx.rect18 (c : OpCtx) : Fin 16 := Fin.ofNat 16 (fld c.w 18 4)
def hiHalf (w : Word) : Nat := fld w 16 16
def loHalf (w : Word) : Nat := fld w 0 16

/-- A layer by its LID. -/
def State.layer (s : State) (lid : Nat) : Layer := at' (s.chap (lidChap lid)).layers (lidZ lid)
def State.modLayer (s : State) (lid : Nat) (f : Layer → Layer) : State :=
  s.modChap (lidChap lid) (fun q => { q with layers := upd q.layers (lidZ lid) f })
def State.modRect (s : State) (c : Chap) (r : Fin 16) (f : RectSt → RectSt) : State :=
  s.modChap c (fun q => { q with rects := upd q.rects r f })

/-- The causes of naming a layer (R147); one whose release is pending is unclaimed to later instructions (log
entry 29). -/
def layerCauses (c : OpCtx) (s : State) : List Nat :=
  match (s.layer c.lid).holder with
  | none => [fSTATE]
  | some t => if t != c.ten then [fOWNER] else when' (s.layer c.lid).work.isNone fSTATE

/-- The causes of naming one of the tenant's surfaces. -/
def surfCauses (c : OpCtx) (s : State) (sid : Nat) : List Nat := when' (s.surf c.ten sid).isNone fSTATE

/-- Change a layer's pending settings. -/
def State.editLayer (s : State) (lid : Nat) (f : LayerCfg → LayerCfg) : State :=
  s.modLayer lid (fun l => { l with work := l.work.map f })

/-- Change a surface. -/
def State.editSurf (s : State) (t : Ten) (sid : Nat) (f : Surface → Surface) : State :=
  s.modSurfs t (fun xs => xs.map (fun e => if e.1 = sid then (e.1, f e.2) else e))

/-- Is a size outside 1 to 4,096? -/
def badDim (n : Nat) : Bool := n = 0 || 4096 < n

/-! ### Surface instructions (R153 to R156, R201, R203) -/

/-- The surface that an SDEF describes. -/
def sdefSurf (c : OpCtx) : Surface :=
  { fmt := fld c.w 12 4, prime := fld c.w 10 2 = 1, base := c.e1.toNat, w := fld c.e2 16 14, h := fld c.e2 0 14 }

/-- SDEF. -/
def semSdef : OpSem where
  m0 := 0x00FFFC00#32
  m1 := 0xFFFFFFFF#32
  m2 := 0x3FFF3FFF#32
  cost := fun _ => 4
  illegal := fun c => fld c.w 12 4 ≥ 8 || fld c.w 10 2 ≥ 2
  range := fun c =>
    let x := sdefSurf c
    badDim x.w || badDim x.h || (if x.prime then 2 ^ 17 ≤ x.base else 2 ^ 25 ≤ x.base)
  causes := fun c s =>
    let x := sdefSurf c
    let n := if x.fmt < 6 then fmtPitch x.fmt x.w * x.h else 64
    when' (x.prime && !s.isCls c.ten .safety) fOWNER ++ when' (!s.insideRegion c.ten x.prime x.base n) fOWNER ++
    when' (s.surfUsed c.ten c.sid16) fSTATE ++
    when' ((s.surf c.ten c.sid16).isNone && 512 ≤ s.surfCount) fRESOURCE
  run := fun c s => s.modSurfs c.ten (putKey c.sid16 (sdefSurf c))
def execSdef (r : RingId) (s : State) : Host.Outcome State Fault Refusal := .next (s.runOp r 0x40 semSdef)

/-- SREF. -/
def semSref : OpSem where
  m0 := 0x00FFFF00#32
  m1 := 0xFFFFFFFF#32
  cost := fun _ => 2
  causes := fun c s =>
    surfCauses c s c.sid16 ++ when' (s.surfUsed c.ten c.sid16) fSTATE ++
    when' ((s.surf c.ten c.sid16).elim false (fun x => x.fmt != 7)) fSTATE
  run := fun c s => s.editSurf c.ten c.sid16 (fun x => { x with
    bsid := fld c.w 8 8
    refGen := c.e1
    refSeq := some c.seq })
def execSref (r : RingId) (s : State) : Host.Outcome State Fault Refusal := .next (s.runOp r 0x41 semSref)

/-- SGEN: pending until the tenant's next COMMIT. -/
def semSgen : OpSem where
  m0 := 0x00FFF000#32
  cost := fun _ => 2
  causes := fun c s => surfCauses c s c.sid16
  run := fun c s => s.editSurf c.ten c.sid16 (fun x => { x with gen := c.B })
def execSgen (r : RingId) (s : State) : Host.Outcome State Fault Refusal := .next (s.runOp r 0x42 semSgen)

/-- SFREE. -/
def semSfree : OpSem where
  m0 := 0x00FF0000#32
  cost := fun _ => 1
  causes := fun c s => surfCauses c s c.sid16 ++ when' (s.surfUsed c.ten c.sid16) fSTATE
  run := fun c s => s.modSurfs c.ten (dropKey c.sid16)
def execSfree (r : RingId) (s : State) : Host.Outcome State Fault Refusal := .next (s.runOp r 0x43 semSfree)

/-- The words of an SPUT: those that a Tessera SIZE places outside the tenant's region are blocked (R26, R189). -/
def State.sputWords (s : State) (t : Ten) (a : Nat) (ws : List Word) : State :=
  let c := (s.ten t).cfg
  let keep := if a < c.regBase then 0 else min ws.length ((c.regBase + c.regSize - a) / 4)
  (if keep = 0 then s else s.lpRequest.lpWrite a (wordsBytes (ws.take keep))).outsideWrite t (ws.length - keep)

/-- SPUT. -/
def semSput : OpSem where
  m0 := 0x00FFFF00#32
  m1 := 0xFFFFFFFF#32
  cost := fun c => fld c.w 8 4
  illegal := fun c => fld c.w 8 4 = 0 || 9 ≤ fld c.w 8 4
  range := fun c => c.e1.toNat % 4 != 0 || 16 < fld c.w 12 4 + fld c.w 8 4
  causes := fun c s =>
    surfCauses c s c.sid16 ++
    (match s.surf c.ten c.sid16 with
     | none => []
     | some x =>
       let n := c.e1.toNat + 4 * fld c.w 8 4
       when' (s.extent x < n) fRANGE ++ when' x.prime fSTATE)
  run := fun c s =>
    match s.surf c.ten c.sid16 with
    | none => s
    | some x => s.sputWords c.ten (x.addr + c.e1.toNat) ((List.range (fld c.w 8 4)).map (fun i => c.reg (fld c.w 12 4 + i)))
def execSput (r : RingId) (s : State) : Host.Outcome State Fault Refusal := .next (s.runOp r 0x44 semSput)

/-! ### Layers (R148, R153, R157, R697) -/

/-- A claim of this Lectern edge, whose ring stands right behind its LNEW. -/
def State.claimNow (s : State) (k : LayerClaim) : Bool :=
  let q := s.ring k.ring
  k.at' / 16 == s.now / 16 && q.state == .run && k.before.pkt.any (fun p =>
    if p.len = k.before.pc + 1 then q.pkt.isNone && q.cseq == p.seq
    else q.pc = k.before.pc + 1 && q.pkt.any (fun x => x.seq == p.seq))

/-- The claim of another tenant that an LNEW meets on its own edge (R148). -/
def State.claimTie (s : State) (lid : Nat) : Option LayerClaim := (s.layer lid).claim.filter s.claimNow

/-- The causes of an LNEW on a layer: of two LNEWs of one edge the lower-numbered tenant's succeeds and the other one
faults with STATE (R148). -/
def claimCauses (c : OpCtx) (s : State) : List Nat :=
  match (s.layer c.lid).holder with
  | none => []
  | some t =>
    if t == c.ten then [fSTATE]
    else if (s.claimTie c.lid).isSome && !c.action then when' (t < c.ten) fSTATE
    else [fOWNER, fSTATE]

/-- The LNEW that loses the edge after all: its ring faults at it. The Gallery has counted it (log entry 95). -/
def State.claimLost (s : State) (lid : Nat) : State :=
  match (s.layer lid).holder, s.claimTie lid with
  | some _, some k =>
    (s.modRing k.ring (fun _ => k.before)).ringFault k.ring fSTATE k.before.pc (k.before.pkt.map (·.seq))
  | _, _ => s

/-- What an LNEW leaves behind for its edge; an action word has no edge of its own. -/
def State.claimOf (s : State) (c : OpCtx) : Option LayerClaim :=
  if c.action then none
  else
    let q := s.ring c.ring
    some { at' := s.now, ring := c.ring, before := { q with pc := c.pos, budget := q.budget + 2 } }

/-- LNEW: claims the layer with its defaults. -/
def semLnew : OpSem where
  m0 := 0x00FFF000#32
  cost := fun _ => 2
  causes := fun c s => when' (s.raster (lidChap c.lid)).isNone fSTATE ++ claimCauses c s
  run := fun c s => (s.claimLost c.lid).modLayer c.lid (fun _ =>
    { holder := some c.ten, claim := s.claimOf c, work := some { pri := fld c.w 12 5 } })
def execLnew (r : RingId) (s : State) : Host.Outcome State Fault Refusal := .next (s.runOp r 0x48 semLnew)

/-- LDEL: free at once when no frozen commit set names the layer, else at the freeze that carries it (R697). -/
def semLdel : OpSem where
  m0 := 0x00FE0000#32
  cost := fun _ => 1
  causes := layerCauses
  run := fun c s => s.modLayer c.lid (fun l => if l.frozen.isNone then {} else { l with work := none })
def execLdel (r : RingId) (s : State) : Host.Outcome State Fault Refusal := .next (s.runOp r 0x49 semLdel)

/-- LSRC. -/
def semLsrc : OpSem where
  m0 := 0x00FEFF00#32
  m1 := 0xFFFFFFFF#32
  m2 := 0xFFFFFFFF#32
  cost := fun _ => 3
  range := fun c => hiHalf c.e2 = 0 || loHalf c.e2 = 0
  causes := fun c s =>
    layerCauses c s ++ surfCauses c s (fld c.w 8 8) ++
    when' ((s.surf c.ten (fld c.w 8 8)).elim false (fun x =>
      x.w < hiHalf c.e1 + hiHalf c.e2 || x.h < loHalf c.e1 + loHalf c.e2)) fRANGE
  run := fun c s => s.editLayer c.lid (fun v => { v with
    sid := some (fld c.w 8 8)
    sx := hiHalf c.e1
    sy := loHalf c.e1
    sw := hiHalf c.e2
    sh := loHalf c.e2 })
def execLsrc (r : RingId) (s : State) : Host.Outcome State Fault Refusal := .next (s.runOp r 0x4A semLsrc)

/-- A layer's destination from its two words. -/
def setDst (e1 e2 : Word) (v : LayerCfg) : LayerCfg :=
  { v with
    dx := sgn 16 (hiHalf e1)
    dy := sgn 16 (loHalf e1)
    dw := hiHalf e2
    dh := loHalf e2 }

/-- LDST. -/
def semLdst : OpSem where
  m0 := 0x00FE0000#32
  m1 := 0xFFFFFFFF#32
  m2 := 0xFFFFFFFF#32
  cost := fun _ => 3
  range := fun c => badDim (hiHalf c.e2) || badDim (loHalf c.e2)
  causes := layerCauses
  run := fun c s => s.editLayer c.lid (setDst c.e1 c.e2)
def execLdst (r : RingId) (s : State) : Host.Outcome State Fault Refusal := .next (s.runOp r 0x4B semLdst)

/-- The two words that LDSTR takes from its register pair. -/
def ldstrE1 (c : OpCtx) : Word := c.reg (fld c.w 12 4)
def ldstrE2 (c : OpCtx) : Word := c.reg (fld c.w 12 4 + 1)

/-- LDSTR. -/
def semLdstr : OpSem where
  m0 := 0x00FEF000#32
  cost := fun _ => 3
  illegal := fun c => fld c.w 12 4 % 2 = 1
  range := fun c => badDim (hiHalf (ldstrE2 c)) || badDim (loHalf (ldstrE2 c))
  causes := layerCauses
  run := fun c s => s.editLayer c.lid (setDst (ldstrE1 c) (ldstrE2 c))
def execLdstr (r : RingId) (s : State) : Host.Outcome State Fault Refusal := .next (s.runOp r 0x4C semLdstr)

/-- An instruction that edits one layer's pending settings. -/
def semEdit (m0 : Word) (illegal : OpCtx → Bool) (f : OpCtx → LayerCfg → LayerCfg) : OpSem where
  m0 := m0
  cost := fun _ => 1
  illegal := illegal
  causes := layerCauses
  run := fun c s => s.editLayer c.lid (f c)

/-- LVIS. -/
def semLvis : OpSem := semEdit 0x00FF0000#32 (fun _ => false) (fun c v => { v with vis := bit c.w 16 })
def execLvis (r : RingId) (s : State) : Host.Outcome State Fault Refusal := .next (s.runOp r 0x4D semLvis)

/-- LFALL. -/
def fallOf (n : Nat) : Fallback := if n = 0 then .transparent else if n = 1 then .hold else .background
def semLfall : OpSem := semEdit 0x00FF8000#32 (fun c => fld c.w 15 2 = 3)
  (fun c v => { v with fall := fallOf (fld c.w 15 2) })
def execLfall (r : RingId) (s : State) : Host.Outcome State Fault Refusal := .next (s.runOp r 0x4E semLfall)

/-- LFLAT. -/
def semLflat : OpSem := semEdit 0x00FF0000#32 (fun _ => false) (fun c v => { v with static := bit c.w 16 })
def execLflat (r : RingId) (s : State) : Host.Outcome State Fault Refusal := .next (s.runOp r 0x4F semLflat)

/-- Another layer holds a virtual channel (R161). -/
def State.vcHeld (s : State) (vc : Fin 4) (lid : Nat) : Bool :=
  (List.range 128).any (fun l => l != lid && (s.layer l).holder.isSome &&
    (s.layer l).views.any (fun v => v.vc == some vc))

/-- Layers bound to video, in pending changes or frozen commit sets (R234). -/
def State.vcBound (s : State) : Nat :=
  ((List.range 128).filter (fun l => (s.layer l).holder.isSome && (s.layer l).views.any (fun v => v.vc.isSome))).length

/-- LVID. -/
def semLvid : OpSem where
  m0 := 0x00FFC000#32
  cost := fun _ => 2
  causes := fun c s =>
    layerCauses c s ++ when' (bit c.w 16 && s.vcHeld (Fin.ofNat 4 (fld c.w 14 2)) c.lid) fSTATE ++
    when' (bit c.w 16 && 2 ≤ s.vcBound) fRESOURCE
  run := fun c s => s.editLayer c.lid (fun v => { v with
    vc := if bit c.w 16 then some (Fin.ofNat 4 (fld c.w 14 2)) else none })
def execLvid (r : RingId) (s : State) : Host.Outcome State Fault Refusal := .next (s.runOp r 0x50 semLvid)

/-! ### Chapel-wide settings and check rectangles (R159, R160) -/

/-- Causes of a Chapel-wide change: the Chapel is not configured, or the tenant does not hold its layer Z 0. -/
def wideCauses (c : OpCtx) (s : State) : List Nat :=
  when' (s.raster c.chap22).isNone fSTATE ++
  when' ((s.layer (lidOf c.chap22 0)).holder != some c.ten) fOWNER

/-- A tenant's pending Chapel-wide change. -/
def State.editWide (s : State) (c : Chap) (t : Ten) (f : ChapWideChg → ChapWideChg) : State :=
  s.modChap c (fun q => { q with wideWork := upd q.wideWork t f })

/-- BGCOL. -/
def semBgcol : OpSem where
  m0 := 0x00C00000#32
  m1 := 0x3FFF3FFF#32
  m2 := 0x00003FFF#32
  cost := fun _ => 2
  causes := wideCauses
  run := fun c s => s.editWide c.chap22 c.ten (fun x => { x with
    bg := some (fld c.e1 16 14, fld c.e1 0 14, fld c.e2 0 14) })
def execBgcol (r : RingId) (s : State) : Host.Outcome State Fault Refusal := .next (s.runOp r 0x51 semBgcol)

/-- A check rectangle of a Chapel. -/
def State.rect (s : State) (c : Chap) (r : Fin 16) : RectSt := at' (s.chap c).rects r

/-- The causes of naming a rectangle; one whose release is pending is free to later instructions of its tenant, but for a
claim (log entry 29). -/
def rectCauses (c : OpCtx) (s : State) (claim : Bool) : List Nat :=
  match (s.rect c.chap22 c.rect18).owner with
  | .free => when' (!claim) fSTATE
  | .key _ | .keyFreed _ => [fSTATE]
  | .ten t =>
    if t != c.ten then [fOWNER]
    else when' (!claim && (s.rect c.chap22 c.rect18).work.isNone) fSTATE

/-- CHKR. -/
def semChkr : OpSem where
  m0 := 0x00FE0000#32
  m1 := 0xFFFFFFFF#32
  m2 := 0xFFFFFFFF#32
  cost := fun _ => 4
  causes := fun c s =>
    rectCauses c s (bit c.w 17) ++
    (if !bit c.w 17 then []
     else wideCauses c s ++ when' (badDim (hiHalf c.e2) || badDim (loHalf c.e2) ||
       (s.raster c.chap22).elim false (fun d =>
         d.1 < hiHalf c.e1 + hiHalf c.e2 || d.2 < loHalf c.e1 + loHalf c.e2)) fRANGE)
  run := fun c s => s.modRect c.chap22 c.rect18 (fun x =>
    if bit c.w 17 then { x with
      owner := .ten c.ten
      work := some { x := hiHalf c.e1, y := loHalf c.e1, w := hiHalf c.e2, h := loHalf c.e2 } }
    else if x.frozen.isNone then {} else { x with work := none })
def execChkr (r : RingId) (s : State) : Host.Outcome State Fault Refusal := .next (s.runOp r 0x52 semChkr)

/-- CHKV. -/
def semChkv : OpSem where
  m0 := 0x00FFC000#32
  cost := fun _ => 1
  causes := fun c s => rectCauses c s false
  run := fun c s => s.modRect c.chap22 c.rect18 (fun x => { x with
    work := x.work.map (fun k => { k with crc := some (c.reg (fld c.w 14 4)), seq := none }) })
def execChkv (r : RingId) (s : State) : Host.Outcome State Fault Refusal := .next (s.runOp r 0x53 semChkv)

/-! ### Blend and scale (R162) -/

/-- LBLEND. -/
def semLblend : OpSem := semEdit 0x00FFFFFF#32 (fun c => 5 ≤ fld c.w 14 3)
  (fun c v => { v with mode := fld c.w 14 3, galpha := fld c.w 0 14 })
def execLblend (r : RingId) (s : State) : Host.Outcome State Fault Refusal := .next (s.runOp r 0x60 semLblend)

/-- LSCALE. -/
def semLscale : OpSem := semEdit 0x00FF8000#32 (fun c => 2 ≤ fld c.w 15 2)
  (fun c v => { v with edgeZero := fld c.w 15 2 = 1 })
def execLscale (r : RingId) (s : State) : Host.Outcome State Fault Refusal := .next (s.runOp r 0x61 semLscale)

/-- DITH. -/
def semDith : OpSem where
  m0 := 0x00F00000#32
  cost := fun _ => 1
  illegal := fun c => fld c.w 20 2 = 3
  causes := wideCauses
  run := fun c s => s.editWide c.chap22 c.ten (fun x => { x with dith := some (fld c.w 20 2) })
def execDith (r : RingId) (s : State) : Host.Outcome State Fault Refusal := .next (s.runOp r 0x62 semDith)

/-- LPRI. -/
def semLpri : OpSem := semEdit 0x00FFF000#32 (fun _ => false) (fun c v => { v with pri := fld c.w 12 5 })
def execLpri (r : RingId) (s : State) : Host.Outcome State Fault Refusal := .next (s.runOp r 0x63 semLpri)

end Sys2Proof.Machine
end

