-- ==== Sys2Proof/Machine/Pixels.lean ====
section
/-!
DEFINITION. Pixels: formats and Tessera (06_memory_surfaces R200 to R210), sampling, blending and dither
(07_nave R225 to R232).
-/

namespace Sys2Proof.Machine

/-! ### Formats (R202) -/

/-- Expansions of 5, 6, 8 and 10 bits to 14. -/
def ex5 (v : Nat) : Nat := (v * 512) ||| (v * 16) ||| (v / 2)
def ex6 (v : Nat) : Nat := (v * 256) ||| (v * 4) ||| (v / 16)
def ex8 (v : Nat) : Nat := (v * 64) ||| (v / 4)
def ex10 (v : Nat) : Nat := (v * 16) ||| (v / 64)

/-- A pixel of FMT 0 to 5 from its number. -/
def pxOf (fmt v : Nat) : Px :=
  match fmt with
  | 0 => { b := nfld v 0 14, g := nfld v 16 14, r := nfld v 32 14, a := nfld v 48 14 }
  | 1 => { r := ex10 (nfld v 0 10), g := ex10 (nfld v 10 10), b := ex10 (nfld v 20 10), a := nfld v 30 2 * 5461 }
  | 2 => { r := ex8 (nfld v 0 8), g := ex8 (nfld v 8 8), b := ex8 (nfld v 16 8), a := ex8 (nfld v 24 8) }
  | 3 => { b := ex5 (nfld v 0 5), g := ex6 (nfld v 5 6), r := ex5 (nfld v 11 5), a := 16383 }
  | 4 => { a := ex8 (nfld v 0 8), r := 16383, g := 16383, b := 16383 }
  | _ => { r := ex8 (nfld v 0 8), g := ex8 (nfld v 0 8), b := ex8 (nfld v 0 8), a := 16383 }

/-- FMT 0 as eight bytes. -/
def pxBytes (p : Px) : List Byte := leBytes 2 p.b ++ leBytes 2 p.g ++ leBytes 2 p.r ++ leBytes 2 p.a

/-- A little-endian number of `n` bytes, none where an uncorrectable word holds one of them. -/
def readU (m : Mem) (ue : List Nat) (a n : Nat) : Option Nat :=
  if (ueFirst ue a n).isSome then none else some (ofLe (Memory.readN m a n))

/-- Pixel (x, y) of a surface of FMT 0 to 5; an uncorrectable word reads 0 in every channel. -/
def State.rawPx (s : State) (f : Surface) (x y : Nat) : Px :=
  let n := fmtBpp f.fmt / 8
  match readU (s.surfMem f) (s.surfUe f) (f.addr + y * fmtPitch f.fmt f.w + x * n) n with
  | some v => pxOf f.fmt v
  | none => {}

/-! ### Tessera (R205 to R208) -/

/-- Tiles of a surface: per row, and in all. -/
def Surface.tileCols (f : Surface) : Nat := cdiv f.w 8
def Surface.tiles (f : Surface) : Nat := f.tileCols * cdiv f.h 8

/-- The header is well formed and the stream lies inside the region (R201, R208). DESIGN CHOICE (log entry 99): the fault
table names no uncorrectable word of the header; the model takes the bytes stored, and only MEM_UE tells. -/
def State.tesHeader (s : State) (t : Ten) (f : Surface) : Bool :=
  let h := Memory.readN (s.surfMem f) f.addr 64
  let size := getLe h 12 4
  h.take 6 == [0x54, 0x45, 0x53, 0x31, 0x01, 0x00] && getLe h 6 1 = (if f.fmt = 7 then 1 else 0) && getLe h 7 1 = 0 &&
    getLe h 8 2 = f.w && getLe h 10 2 = f.h && getLe h 20 4 = f.tiles && (h.drop 24).all (· == 0) &&
    getLe h 16 4 + 4 * f.tiles ≤ size &&
    s.insideRegion t f.prime f.base size

/-- A decoded tile: its 64 pixels, the base's tile, or a fault. -/
inductive Tile
  | px (f : Nat → Px)
  | skip
  | bad

/-- The bits of a residual stream from bit `o`, `k` of them. -/
def bitsAt (m : Mem) (a o k : Nat) : Nat := nfld (ofLe (Memory.readN m (a + o / 8) 3)) (o % 8) k

/-- Channel `c` (A, R, G, B) of pixel `i` of a PACKED tile at an address. -/
def packedChan (m : Mem) (a : Nat) (c i : Nat) : Nat :=
  let ks := ofLe (Memory.readN m (a + 8) 2)
  let k := nfld ks (4 * c) 4
  let before := ((List.range c).map (fun d => 64 * nfld ks (4 * d) 4)).foldl (· + ·) 0
  nfld (ofLe (Memory.readN m (a + 2 * c) 2)) 0 14 + bitsAt m (a + 16) (before + i * k) k

/-- Bytes of a PACKED payload (R206). -/
def packedSize (m : Mem) (a : Nat) : Nat :=
  let ks := ofLe (Memory.readN m (a + 8) 2)
  cdiv (16 + 8 * (nfld ks 0 4 + nfld ks 4 4 + nfld ks 8 4 + nfld ks 12 4)) 16 * 16

/-- A tile of a Tessera surface (R205, R206, R208). -/
def State.tile (s : State) (f : Surface) (n : Nat) : Tile :=
  let m := s.surfMem f
  let ue := s.surfUe f
  let size := ofLe (Memory.readN m (f.addr + 12) 4)
  let ix := f.addr + ofLe (Memory.readN m (f.addr + 16) 4) + 4 * n
  match readU m ue ix 4 with
  | none => .bad
  | some w =>
    let off := 16 * nfld w 0 30
    let a := f.addr + off
    let bad := fun len => size < off + len || (ueFirst ue a len).isSome
    match nfld w 30 2 with
    | 0 => if bad 512 then .bad else .px (fun i => pxOf 0 (ofLe (Memory.readN m (a + 8 * i) 8)))
    | 1 =>
      let ks := ofLe (Memory.readN m (a + 8) 2)
      if bad 16 || bad (packedSize m a) || (List.range 4).any (fun c => nfld ks (4 * c) 4 = 15) ||
          (List.range 4).any (fun c => (List.range 64).any (fun i => 16383 < packedChan m a c i)) then .bad
      else .px (fun i => { a := packedChan m a 0 i, r := packedChan m a 1 i, g := packedChan m a 2 i,
                           b := packedChan m a 3 i })
    | 2 =>
      if bad 16 then .bad
      else
        let g := fun o => nfld (ofLe (Memory.readN m (a + o) 2)) 0 14
        .px (fun _ => { a := g 0, r := g 2, g := g 4, b := g 6 })
    | _ => if f.fmt = 7 then .skip else .bad

/-- Pixel (x, y) of a surface of any format; `base` is a delta's base. A faulty tile reads 0. -/
def State.surfPx (s : State) (f : Surface) (base : Option Surface) (x y : Nat) : Px :=
  if f.fmt < 6 then s.rawPx f x y
  else
    let n := (y / 8) * f.tileCols + x / 8
    let i := (y % 8) * 8 + x % 8
    match s.tile f n with
    | .px g => g i
    | .bad => {}
    | .skip =>
      match base with
      | none => {}
      | some b =>
        if b.fmt < 6 then s.rawPx b x y
        else match s.tile b n with
        | .px g => g i
        | _ => {}

/-- Tiles of a rectangle of a Tessera surface, lowest first. -/
def Surface.tilesIn (f : Surface) (x y w h : Nat) : List Nat :=
  if f.fmt < 6 then []
  else (List.range f.tiles).filter (fun n =>
    let tx := n % f.tileCols
    let ty := n / f.tileCols
    x / 8 ≤ tx && tx ≤ (x + w - 1) / 8 && y / 8 ≤ ty && ty ≤ (y + h - 1) / 8)

/-- A tile is faulty; a tile shows the base's. -/
def State.tileBad (s : State) (f : Surface) (n : Nat) : Bool :=
  match s.tile f n with
  | .bad => true
  | _ => false
def State.tileSkip (s : State) (f : Surface) (n : Nat) : Bool :=
  match s.tile f n with
  | .skip => true
  | _ => false

/-- Faulty tiles of a rectangle, its SKIP tiles, and those of them whose base tile is faulty (R208, R209). -/
def State.badTiles (s : State) (f : Surface) (x y w h : Nat) : List Nat := (f.tilesIn x y w h).filter (s.tileBad f)
def State.skipTiles (s : State) (f : Surface) (x y w h : Nat) : List Nat := (f.tilesIn x y w h).filter (s.tileSkip f)
def State.badBase (s : State) (f b : Surface) (x y w h : Nat) : List Nat :=
  if b.fmt < 6 then [] else (s.skipTiles f x y w h).filter (s.tileBad b)

/-! ### Sampling (R226 to R228) -/

/-- A source rectangle: its size, its pixels, and what stands outside it. -/
structure Src where
  w : Nat
  h : Nat
  zero : Bool
  px : Nat → Nat → Px

/-- The sample p(u, v) with the layer's edge (R227). -/
def Src.at (q : Src) (u v : Int) : Px :=
  if 0 ≤ u && u < q.w && 0 ≤ v && v < q.h then q.px u.toNat v.toNat
  else if q.zero then {}
  else q.px (clampI u 0 (q.w - 1)).toNat (clampI v 0 (q.h - 1)).toNat

/-- Source position of destination index `i`: its whole part and its 8-bit weight (R226). -/
def srcPos (i sw dw : Nat) : Int × Nat :=
  let ux : Int := (((2 * i + 1) * sw * 65536 / (2 * dw) : Nat) : Int) - 32768
  (asr ux 16, ((ux % 65536).toNat) / 256)

/-- One channel of the bilinear sample (R228). -/
def bilin (p00 p10 p01 p11 fx fy : Nat) : Nat :=
  let h0 := p00 * (256 - fx) + p10 * fx
  let h1 := p01 * (256 - fx) + p11 * fx
  (rhu (h0 * (256 - fy) + h1 * fy : Nat) 16).toNat

/-- The layer's sample at destination index (i, j). -/
def Src.sample (q : Src) (dw dh i j : Nat) : Px :=
  let (x0, fx) := srcPos i q.w dw
  let (y0, fy) := srcPos j q.h dh
  let a := q.at x0 y0
  let b := q.at (x0 + 1) y0
  let c := q.at x0 (y0 + 1)
  let d := q.at (x0 + 1) (y0 + 1)
  { a := bilin a.a b.a c.a d.a fx fy
    r := bilin a.r b.r c.r d.r fx fy
    g := bilin a.g b.g c.g d.g fx fy
    b := bilin a.b b.b c.b d.b fx fy }

/-! ### Blending (R229) -/

/-- One colour channel: source, destination, the layer's GALPHA and `a`. -/
def blendChan (mode galpha a cs cd : Nat) : Nat :=
  match mode with
  | 0 => min (mul14 cs a + mul14 cd (16383 - a)) 16383
  | 1 => min (mul14 cs galpha + mul14 cd (16383 - a)) 16383
  | 2 => min (mul14 cs galpha + mul14 cd (16383 - galpha)) 16383
  | 3 => min (cd + mul14 cs a) 16383
  | _ => min (mul14 (mul14 cs cd) a + mul14 cd (16383 - a)) 16383

/-- A layer's sample blended over what is composed so far. -/
def blend (mode galpha : Nat) (sm d : Px) : Px :=
  let a := mul14 sm.a galpha
  { a := 0
    r := blendChan mode galpha a sm.r d.r
    g := blendChan mode galpha a sm.g d.g
    b := blendChan mode galpha a sm.b d.b }

/-! ### Dither (R230 to R232) -/

/-- The dither matrix. -/
def ditherM : List (List Nat) :=
  [[0, 32, 8, 40, 2, 34, 10, 42], [48, 16, 56, 24, 50, 18, 58, 26], [12, 44, 4, 36, 14, 46, 6, 38],
   [60, 28, 52, 20, 62, 30, 54, 22], [3, 35, 11, 43, 1, 33, 9, 41], [51, 19, 59, 27, 49, 17, 57, 25],
   [15, 47, 7, 39, 13, 45, 5, 37], [63, 31, 55, 23, 61, 29, 53, 21]]

/-- (OX, OY) of a phase. -/
def ditherOff (p : Nat) : Nat × Nat :=
  match p with
  | 1 => (4, 4)
  | 2 => (4, 0)
  | 3 => (0, 4)
  | _ => (0, 0)

/-- A composed channel reduced to `depth` bits: `phase` none truncates. -/
def dither (depth : Nat) (phase : Option Nat) (x y c v : Nat) : Nat :=
  let k := 14 - depth
  match phase with
  | none => v / 2 ^ k
  | some p =>
    let (ox, oy) := ditherOff p
    let d := (((ditherM.getD ((y + oy + 5 * c) % 8) []).getD ((x + ox + 3 * c) % 8) 0) * 2 ^ k) / 64
    min ((v + d) / 2 ^ k) (2 ^ depth - 1)

/-! ### Video (R235, R236) -/

/-- A YUV value in full range. -/
def yuvR (y v : Int) : Nat := (clampI (rhu (4096 * y + 5743 * (v - 128)) 12) 0 255).toNat
def yuvG (y u v : Int) : Nat := (clampI (rhu (4096 * y - 1410 * (u - 128) - 2925 * (v - 128)) 12) 0 255).toNat
def yuvB (y u : Int) : Nat := (clampI (rhu (4096 * y + 7258 * (u - 128)) 12) 0 255).toNat

/-- Bytes of a video frame. -/
def VidFrame.size (f : VidFrame) : Nat := f.w * f.h * (if f.yuv then 2 else 3)

/-- Pixel (x, y) of a video frame; an uncorrectable word reads 0 in every channel. -/
def State.vidPx (s : State) (f : VidFrame) (x y : Nat) : Px :=
  let o := if f.yuv then y * (2 * f.w) + x / 2 * 4 else (y * f.w + x) * 3
  match readU s.lp s.memc.ueLp (f.addr + o) (if f.yuv then 4 else 3) with
  | none => {}
  | some n =>
    if f.yuv then
      let u : Int := nfld n 0 8
      let v : Int := nfld n 16 8
      let yy : Int := nfld n (8 + 16 * (x % 2)) 8
      { a := 16383, r := ex8 (yuvR yy v), g := ex8 (yuvG yy u v), b := ex8 (yuvB yy u) }
    else { a := 16383, b := ex8 (nfld n 0 8), g := ex8 (nfld n 8 8), r := ex8 (nfld n 16 8) }

/-- A video frame as a source. -/
def State.vidSrc (s : State) (f : VidFrame) (zero : Bool) : Src := { w := f.w, h := f.h, zero := zero, px := s.vidPx f }

/-- An image as a source. -/
def Img.src (f : Img) (zero : Bool) : Src := { w := f.w, h := f.h, zero := zero, px := fun x y => f.px.getD (y * f.w + x) {} }

/-- The scale ratio of R158 is inside its bounds. -/
def scaleOk (sw sh dw dh : Nat) : Bool := sw ≤ 4 * dw && dw ≤ 16 * sw && sh ≤ 4 * dh && dh ≤ 16 * sh

end Sys2Proof.Machine
end

