-- ==== Sys2Proof/Machine/Compose.lean ====
section
/-!
DEFINITION. Composition (07_nave; 06_memory_surfaces R209 to R216): what each layer shows in a frame, the flatten
cache, the declared load and shedding, and the frame stores. A frame is composed at its freeze, inside the window
of R204 (log entry 35).
-/

namespace Sys2Proof.Machine

/-! ### What a layer shows -/

/-- A layer shows nothing, the background, its held content, or its source: samples by destination index. -/
inductive Shown
  | none
  | bg
  | held (f : Nat → Nat → Px)
  | src (f : Nat → Nat → Px)

/-- A layer resolved for a frame. -/
structure LayerView where
  lid : Nat
  ten : Ten
  cfg : LayerCfg
  /-- a source of FMT 3, FMT 5 or video (R233) -/
  solid : Bool
  shown : Shown
  /-- the flatten entry that it is composed from, by its first granule -/
  entry : Option Nat := none
  /-- what its source is: the video frame, or the descriptors and generations -/
  src : List Nat := []

/-- A layer shows its source, not a fallback. -/
def LayerView.isSrc (v : LayerView) : Bool :=
  match v.shown with
  | .src _ => true
  | _ => false

/-- A layer shows nothing. -/
def LayerView.isNone (v : LayerView) : Bool :=
  match v.shown with
  | .none => true
  | _ => false

/-- What two states of a layer are compared by (R243): settings, what is shown, and of what source. -/
def LayerView.key (v : LayerView) : Nat × Ten × LayerCfg × Nat × List Nat :=
  (v.lid, v.ten, v.cfg, (match v.shown with
    | .none => 0
    | .bg => 1
    | .held _ => 2
    | .src _ => 3), v.src)

/-- A layer is fetched where it lies: it shows its source, or held content (log entry 36). -/
def LayerView.fetches (v : LayerView) : Bool :=
  match v.shown with
  | .src _ | .held _ => true
  | _ => false

/-- The frame of the coming Bell is dark in an update pause (R540). -/
def State.pauseDark (s : State) : Bool :=
  s.update.act.any (fun a => (a.phase == .pause || a.phase == .loaded) && a.dark ≤ s.bn + 1 && a.due != some (s.bn + 1))

/-- A frame is composed for a Chapel: it is in RUN, no orderly stop takes it out of RUN at this Bell, no deep entry
begins at this announcement (R416), and no update pause darkens the frame. -/
def State.composed (s : State) (c : Chap) : Bool :=
  (s.chap c).state == .run && (s.chap c).stopBell.isNone && !s.pauseDark &&
    (s.power.target == .run || s.power.target == .idle)

/-- The Nave composes: LPDDR4X is trained and not under memory hold, and a bay is in service (R31, R428, R457). -/
def State.naveOn (s : State) : Bool := s.lpUsable && !s.nave.alive.isEmpty

/-- The base of a delta surface, by the generations of a view of the surfaces, or the reason 1 ABSENT, 2 GEN_MISMATCH, 3 BASE_FORMAT, 4 SIZE and the found
generation (R210, R219). -/
def State.baseOf (s : State) (t : Ten) (f : Surface) (gen : Surface → Word) : Except (Nat × Word) Surface :=
  match f.refSeq, s.surf t f.bsid with
  | none, _ => .error (1, 0)
  | _, none => .error (1, 0)
  | some _, some b =>
    if gen b != f.refGen then .error (2, gen b)
    else if b.fmt = 7 then .error (3, 0)
    else if b.w != f.w || b.h != f.h then .error (4, 0)
    else .ok b

/-- A layer's fallback (R157). -/
def Layer.fallback (l : Layer) (v : LayerCfg) : Shown :=
  match v.fall with
  | .transparent => .none
  | .background => .bg
  | .hold =>
    match l.held with
    | none => .none
    | some im => .held ((im.src v.edgeZero).sample v.dw v.dh)

/-- The video binding of a layer. -/
def State.vidOf (s : State) (lid : Nat) : Option VidBind :=
  s.nave.video.find? (fun b => lidOf b.chap b.z = lid && !b.ending)

/-! ### The flatten cache (R212 to R216) -/

/-- The key of a layer's entry, with the generations that a view of the surfaces gives. -/
def State.flatKey (s : State) (t : Ten) (v : LayerCfg) (gen : Surface → Word) : Option FlatKey :=
  if !(v.static && v.vis && v.vc.isNone) then none
  else match v.sid with
  | none => none
  | some sid =>
    match s.surf t sid with
    | none => none
    | some f =>
      let d := f.fmt = 7
      some { ten := t, sid := sid, gen := gen f, fmt := f.fmt, sx := v.sx, sy := v.sy, sw := v.sw, sh := v.sh,
             dw := v.dw, dh := v.dh, edgeZero := v.edgeZero, bsid := if d then f.bsid else 0,
             bgen := if d then ((s.surf t f.bsid).map gen).getD 0 else 0 }

/-- The address of an entry, its pitch, and the granules it takes. -/
def State.flatAddr (s : State) (e : FlatEnt) : Nat := s.lpDev + 0x8000000 + e.first * 65536
def flatPitch (dw : Nat) : Nat := cdiv (dw * 8) 64 * 64
def flatGranules (dw dh : Nat) : Nat := cdiv (flatPitch dw * dh) 65536

/-- The first granule at which `n` fit, of the 1,792 of 112 MiB; at most 64 entries exist. -/
def State.flatFit (s : State) (n : Nat) : Option Nat :=
  if 64 ≤ s.nave.flat.length then none
  else (List.range (1793 - min n 1793)).find? (fun a => s.nave.flat.all (fun e => a + n ≤ e.first || e.first + e.count ≤ a))

/-- The sample at (i, j) of an entry; an uncorrectable word reads 0. -/
def State.flatPx (s : State) (e : FlatEnt) (i j : Nat) : Px :=
  match readU s.lp s.memc.ueLp (s.flatAddr e + j * flatPitch e.key.dw + 8 * i) 8 with
  | some v => pxOf 0 v
  | none => {}

/-- The bytes of an entry that holds some samples. -/
def flatBytes (dw dh : Nat) (f : Nat → Nat → Px) : List Byte :=
  (List.range dh).flatMap (fun j => padTo (flatPitch dw) 0 ((List.range dw).flatMap (fun i => pxBytes (f i j))))

/-- Write an entry's samples. -/
def State.flatWrite (s : State) (e : FlatEnt) (dw dh : Nat) (f : Nat → Nat → Px) : State :=
  s.lpWrite (s.flatAddr e) (flatBytes dw dh f)

/-- A new entry for a key where an entry and space are free; else the Gallery counts a miss. -/
def State.flatNew (s : State) (k : FlatKey) (f : Nat → Nat → Px) : State :=
  let n := flatGranules k.dw k.dh
  match s.flatFit n with
  | none => s.tally 7 0 5 1
  | some a =>
    let e : FlatEnt := { key := k, first := a, count := n, valid := true, named := s.bn + 1 }
    ({ s with nave := { s.nave with flat := s.nave.flat ++ [e] } }).flatWrite e k.dw k.dh f

/-! ### Resolving a layer for a frame -/

/-- The source of a layer's surface as samples. -/
def State.surfSamples (s : State) (v : LayerCfg) (f : Surface) (base : Option Surface) : Nat → Nat → Px :=
  ({ w := v.sw, h := v.sh, zero := v.edgeZero, px := fun x y => s.surfPx f base (v.sx + x) (v.sy + y) } : Src).sample
    v.dw v.dh

/-- The source rectangle's pixels, kept for HOLD. -/
def State.surfImg (s : State) (v : LayerCfg) (f : Surface) (base : Option Surface) : Img :=
  { w := v.sw, h := v.sh,
    px := (List.range v.sh).flatMap (fun y => (List.range v.sw).map (fun x => s.surfPx f base (v.sx + x) (v.sy + y))) }

/-- Keep the source content of a layer, for a later HOLD (R157). -/
def State.keepHeld (s : State) (lid : Nat) (im : Unit → Img) : State :=
  s.modLayer lid (fun l => { l with held := some (im ()) })

/-- REF_MISSING (R211): at the first frame of a commit set in which the reference fails, and when the reason or the
found generation changes. -/
def State.refMissing (s : State) (t : Ten) (lid : Nat) (v : LayerCfg) (f : Surface) (why : Nat) (found : Word) : State :=
  let q := s.ten t
  let now := (q.frozenBell, why, found)
  if (s.layer lid).refPosted = some now then s
  else
    (s.modLayer lid (fun l => { l with refPosted := some now })).post t 0x0060 0x2F q.frozen
      [q.frozen.getD 0, f.refSeq.getD 0,
       mkWord [(v.sid.getD 0, 24, 8), (f.bsid, 16, 8), (lid, 8, 7), (why, 0, 8)], found]

/-- TESSERA_FAULT: level 1 HEADER, 2 TILE. -/
def State.tesFault (s : State) (t : Ten) (sid level n : Nat) : State :=
  s.post t 0x0062 0x2F (s.ten t).frozen [(s.ten t).frozen.getD 0, w32 sid, w32 level, w32 n]

/-- A view of the surfaces' generations: as frozen, and as the latest COMMIT leaves them (R242). -/
def genNow (f : Surface) : Word := f.genFrozen
def genAhead (f : Surface) : Word := f.genTaken.getD f.genFrozen

/-- What a layer's settings lead to (R157, R208, R210, R236). -/
inductive Source
  | fallback
  | video (fr : VidFrame)
  | badHeader (sid : Nat)
  | missing (f : Surface) (why : Nat) (found : Word)
  | surf (sid : Nat) (f : Surface) (base : Option Surface)

/-- The source of a layer, by a view of the generations and of the video selection. -/
def State.sourceOf (s : State) (lid : Nat) (t : Ten) (v : LayerCfg) (gen : Surface → Word)
    (vid : VidBind → Option VidFrame) : Source :=
  match v.vc with
  | some _ => ((s.vidOf lid).bind vid).elim .fallback .video
  | none =>
    match v.sid.bind (fun i => (s.surf t i).map (fun f => (i, f))) with
    | none => .fallback
    | some (sid, f) =>
      if 6 ≤ f.fmt && !s.tesHeader t f then .badHeader sid
      else if f.fmt < 7 then .surf sid f none
      else match s.baseOf t f gen with
      | .error (why, found) => .missing f why found
      | .ok b => if b.fmt = 6 && !s.tesHeader t b then .badHeader f.bsid else .surf sid f (some b)

/-- The valid entry of a key. -/
def State.flatOf (s : State) (key : Option FlatKey) : Option FlatEnt :=
  key.bind (fun k => s.nave.flat.find? (fun e => e.key = k && e.valid))

/-- Numbers that tell a surface's content. -/
def Surface.nums (f : Surface) (gen : Surface → Word) : List Nat :=
  [f.fmt, b2n f.prime, f.base, f.w, f.h, (gen f).toNat]

/-- What a layer shows. -/
def State.viewOf (s : State) (lid : Nat) (t : Ten) (v : LayerCfg) (gen : Surface → Word)
    (vid : VidBind → Option VidFrame) : LayerView :=
  let fb : LayerView := { lid := lid, ten := t, cfg := v, solid := false, shown := (s.layer lid).fallback v }
  match s.sourceOf lid t v gen vid with
  | .video fr =>
    { fb with solid := true, shown := .src ((s.vidSrc fr v.edgeZero).sample v.dw v.dh), src := [fr.addr, fr.at'] }
  | .surf _ f base =>
    let w : LayerView := { fb with
      solid := f.fmt = 3 || f.fmt = 5
      src := f.nums gen ++ base.elim [] (fun b => b.nums gen) }
    match s.flatOf (s.flatKey t v gen) with
    | some e => { w with shown := .src (s.flatPx e), entry := some e.first }
    | none => { w with shown := .src (s.surfSamples v f base) }
  | _ => fb

/-- The visible layers of some Chapels with their settings of a view, in ascending LID; a tenant whose reset takes effect
at the coming Bell has none. -/
def State.viewsBy (s : State) (cfg : Layer → Option LayerCfg) (gen : Surface → Word) (vid : VidBind → Option VidFrame)
    (on : Chap → Bool) : List LayerView :=
  (List.range 128).filterMap (fun lid =>
    let l := s.layer lid
    match l.holder, cfg l with
    | some t, some v => if v.vis && on (lidChap lid) && !s.clearing t then some (s.viewOf lid t v gen vid) else none
    | _, _ => none)

/-- The views of the frozen set, those of the frame being shown, and those of the speculative state, with the shedding of
the last freeze (R242). -/
def State.frozenViews (s : State) : List LayerView := s.viewsBy (·.frozen) genNow (·.sel) s.composed
def State.screenViews (s : State) : List LayerView :=
  (s.viewsBy (·.frozen) genNow (·.was) (fun c => (s.chap c).frame.isSome)).filter (fun v => !(s.layer v.lid).shed)
def Layer.ahead (l : Layer) : Option LayerCfg := l.taken.getD l.frozen
def State.aheadViews (s : State) : List LayerView :=
  (s.viewsBy Layer.ahead genAhead (·.sel) s.composed).filter (fun v => !(s.layer v.lid).shed)

/-- The events and the cache work of a layer that takes part in the frame of the coming Bell. -/
def State.resolve (s : State) (w : LayerView) : State :=
  let v := w.cfg
  match s.sourceOf w.lid w.ten v genNow (·.sel) with
  | .fallback => s
  | .video fr => s.keepHeld w.lid (fun _ => Img.mk fr.w fr.h
      ((List.range fr.h).flatMap (fun y => (List.range fr.w).map (fun x => s.vidPx fr x y))))
  | .badHeader sid => s.tesFault w.ten sid 1 0
  | .missing f why found => s.refMissing w.ten w.lid v f why found
  | .surf _ f base =>
    let key := s.flatKey w.ten v genNow
    let s1 := match s.flatOf key, key with
      | some _, _ => s.tally 7 0 4 1
      | none, some k => if s.nave.flat.any (fun e => e.key = k) then s else s.flatNew k (s.surfSamples v f base)
      | none, none => s
    s1.keepHeld w.lid (fun _ => s.surfImg v f base)

/-! ### Load and shedding (R233, R239, R240, R249, R250) -/

/-- A rectangle contains a pixel; a destination touches, or contains, a block of raster pixels. -/
def inRect (x y w h px py : Nat) : Bool := x ≤ px && px < x + w && y ≤ py && py < y + h
def LayerCfg.hits (v : LayerCfg) (x y w h : Nat) : Bool :=
  v.dx < x + w && (x : Int) < v.dx + v.dw && v.dy < y + h && (y : Int) < v.dy + v.dh
def LayerCfg.holds (v : LayerCfg) (x y w h : Nat) : Bool :=
  v.dx ≤ x && (x + w : Int) ≤ v.dx + v.dw && v.dy ≤ y && (y + h : Int) ≤ v.dy + v.dh

/-- A layer covers a block (R233). -/
def LayerView.covers (v : LayerView) (x y w h : Nat) : Bool :=
  v.isSrc && v.cfg.holds x y w h && v.cfg.galpha = 16383 &&
    (v.cfg.mode = 2 || ((v.cfg.mode = 0 || v.cfg.mode = 1) && !v.cfg.edgeZero && v.solid))

/-- The layers fetched for a block: those that fetch, touch it, and have no covering layer above (`vs` in ascending
Z). -/
def fetchSet (vs : List LayerView) (x y w h : Nat) : List LayerView :=
  (vs.reverse.foldl (fun (acc : List LayerView × Bool) v =>
    if acc.2 then acc
    else ((if v.fetches && v.cfg.hits x y w h then v :: acc.1 else acc.1), v.covers x y w h)) ([], false)).1

/-- The blocks of a raster's rows from `y0` up to `y1`, as (x, y, w, h). -/
def blocks (rw y0 y1 : Nat) : List (Nat × Nat × Nat × Nat) :=
  (List.range (cdiv (y1 - y0) 8)).flatMap (fun by' => (List.range (cdiv rw 8)).map (fun bx =>
    (8 * bx, y0 + 8 * by', min 8 (rw - 8 * bx), min 8 (y1 - y0 - 8 * by'))))

/-- The views of one Chapel. -/
def viewsOf (vs : List LayerView) (c : Chap) : List LayerView := vs.filter (fun v => lidChap v.lid = c)

/-- Composition slots of some rows of a Chapel (R239). -/
def slotsOf (vs : List LayerView) (rw y0 y1 : Nat) : Nat :=
  ((blocks rw y0 y1).map (fun b =>
    let (x, y, w, h) := b
    w * h * cdiv (max (fetchSet vs x y w h).length 1) 4)).foldl (· + ·) 0

/-- The running Chapels with their rasters. -/
def State.rasters (s : State) : List (Chap × Nat × Nat) :=
  (allFin 4).filterMap (fun c => if s.composed c then (s.chap c).rec'.map (fun p => (c, p.w, p.h)) else none)

/-- The declared load L. -/
def State.loadOf (s : State) (vs : List LayerView) : Nat :=
  (s.rasters.map (fun r => slotsOf (viewsOf vs r.1) r.2.1 0 r.2.2)).foldl (· + ·) 0

/-- CAP (R240). -/
def State.navCap (s : State) : Nat := s.nave.alive.length * 300 * (cdiv s.floorEff 25 - 250) * 3 / 4

/-- The blocks of its Chapel in which a layer is fetched; and whether there is one. -/
def State.fetchedBlocks (s : State) (vs : List LayerView) (v : LayerView) : List (Nat × Nat × Nat × Nat) :=
  match s.rasters.find? (fun r => r.1 = lidChap v.lid) with
  | none => []
  | some r => (blocks r.2.1 0 r.2.2).filter (fun b =>
      (fetchSet (viewsOf vs r.1) b.1 b.2.1 b.2.2.1 b.2.2.2).any (fun u => u.lid = v.lid))
def State.fetched? (s : State) (vs : List LayerView) (v : LayerView) : Bool := !(s.fetchedBlocks vs v).isEmpty

/-- The order of shedding: PRI ascending, tenant descending, LID ascending (R249). -/
def shedBefore (a b : LayerView) : Bool :=
  a.cfg.pri < b.cfg.pri || (a.cfg.pri = b.cfg.pri && (b.ten.val < a.ten.val || (a.ten = b.ten && a.lid < b.lid)))

/-- The candidate shed next. -/
def State.shedNext (s : State) (vs : List LayerView) : Option LayerView :=
  (vs.filter (s.fetched? vs)).foldl (fun m v =>
    match m with
    | none => some v
    | some u => if shedBefore v u then some v else some u) none

/-- Layers left after shedding, and those shed, in order; the fuel bounds the sheds. -/
def State.shedLoop (s : State) : Nat → List LayerView → List LayerView → List LayerView × List LayerView
  | 0, vs, out => (vs, out)
  | n + 1, vs, out =>
    if s.loadOf vs ≤ s.navCap then (vs, out)
    else match s.shedNext vs with
    | none => (vs, out)
    | some u => s.shedLoop n (vs.filter (fun v => v.lid != u.lid)) (out ++ [u])

/-- LAYER_SHED and LAYER_RESTORED at a freeze (R250, R251). -/
def State.shedMark (s : State) (load cap after : Nat) (out : List LayerView) : State :=
  forEach (List.range 128) (fun lid s =>
    let l := s.layer lid
    let now := out.any (fun v => v.lid = lid)
    if now == l.shed then s
    else
      let s1 := s.modLayer lid (fun l => { l with shed := now })
      match l.holder with
      | none => s1
      | some t =>
        let q := (s.ten t).frozen
        if now then (s1.tally 2 4 5 1).post t 0x0071 0x2F q [q.getD 0, w32 lid, w32 load, w32 cap]
        else s1.post t 0x0072 0x2F q [q.getD 0, w32 lid, w32 after, w32 cap]) s

/-! ### Composing pixels -/

/-- The Chapel's rectangles without those of tenants that have none in the frame composed. -/
def ChapSt.rectsBut (q : ChapSt) (gone : Ten → Bool) : ChapSt :=
  { q with rects := mapTab (fun (x : RectSt) => match x.owner with
      | .ten t => if gone t then { x with frozen := none } else x
      | _ => x) q.rects }

/-- A raster pixel of a Chapel in 14 bits (R223). -/
def composePx (vs : List LayerView) (bg : Px) (x y : Nat) : Px :=
  vs.foldl (fun d v =>
    if !v.cfg.hits x y 1 1 then d
    else
      let i := (x - v.cfg.dx : Int).toNat
      let j := (y - v.cfg.dy : Int).toNat
      match v.shown with
      | .none => d
      | .bg => bg
      | .held f | .src f => blend v.cfg.mode v.cfg.galpha (f i j) d) bg

/-- The dither phase of a pixel: none truncates (R230 to R232). -/
def ChapSt.phase (q : ChapSt) (bell x y : Nat) : Option Nat :=
  match q.wide.dith with
  | 2 => none
  | 1 => some 0
  | _ =>
    if q.rects.toList.any (fun r => r.frozen.elim false (fun k => inRect k.x k.y k.w k.h x y)) then some 0
    else some (bell % 4)

/-- The three D_c-bit values of a raster pixel of a frame. -/
def ChapSt.framePx (q : ChapSt) (vs : List LayerView) (depth bell x y : Nat) : Nat × Nat × Nat :=
  let p := composePx vs { a := 0, r := q.wide.r, g := q.wide.g, b := q.wide.b } x y
  let ph := q.phase bell x y
  (dither depth ph x y 0 p.r, dither depth ph x y 1 p.g, dither depth ph x y 2 p.b)

/-! ### Frame stores (R253 to R255) -/

/-- The address of a Chapel's store for a Bell. -/
def State.storeAddr (s : State) (c : Chap) (bell : Nat) : Nat := s.lpDev + (2 * c.val + bell % 2) * 0x1000000

/-- The offset of a plane in an Array store, of a row in a Scan store. -/
def planeOff (col bit : Nat) : Nat := (16 * col + bit) * 131072
def rowPitch (w : Nat) : Nat := cdiv (8 * w) 64 * 64

/-- Bits packed least significant first. -/
def packBits (bs : List Bool) : List Byte :=
  (List.range (cdiv bs.length 8)).map (fun k =>
    BitVec.ofNat 8 ((List.range 8).map (fun i => b2n (bs.getD (8 * k + i) false) * 2 ^ i)).sum)

/-- A channel of a triple. -/
def chan3 (p : Nat × Nat × Nat) (c : Nat) : Nat := if c = 0 then p.1 else if c = 1 then p.2.1 else p.2.2

/-- Write rows `y0` up to `y1` of a frame into its store. -/
def State.storeRows (s : State) (c : Chap) (p : ChapRec) (bell y0 y1 : Nat) (f : Nat → Nat → Nat × Nat × Nat) : State :=
  let a := s.storeAddr c bell
  if p.scan then
    forEach ((List.range (y1 - y0)).map (· + y0)) (fun y s =>
      s.lpWrite (a + y * rowPitch p.w) ((List.range p.w).flatMap (fun x =>
        let v := f x y
        leBytes 2 v.1 ++ leBytes 2 v.2.1 ++ leBytes 2 v.2.2 ++ [0, 0]))) s
  else
    let px := ((List.range (y1 - y0)).map (· + y0)).flatMap (fun y => (List.range p.w).map (fun x => f x y))
    forEach (List.range 3) (fun col s => forEach (List.range p.depth) (fun i s =>
      s.lpWrite (a + planeOff col i + y0 * p.w / 8) (packBits (px.map (fun v => nbit (chan3 v col) i)))) s) s

/-- A pixel of a frame store; an uncorrectable word's bits read 0, on a Scan Chapel those of two pixels (08, Edges; log entry
74). -/
def State.storePx (s : State) (c : Chap) (p : ChapRec) (bell x y : Nat) : Nat × Nat × Nat :=
  let a := s.storeAddr c bell
  let rd := fun o => if ueAt s.memc.ueLp (a + o) then 0 else (Memory.read s.lp (a + o)).toNat
  if p.scan then
    let pair := a + y * rowPitch p.w + 16 * (x / 2)
    let w := fun k => rd (y * rowPitch p.w + 8 * x + 2 * k) + 256 * rd (y * rowPitch p.w + 8 * x + 2 * k + 1)
    if ueAt s.memc.ueLp pair || ueAt s.memc.ueLp (pair + 8) then (0, 0, 0) else (w 0, w 1, w 2)
  else
    let n := y * p.w + x
    let v := fun col => ((List.range p.depth).map (fun i => b2n (nbit (rd (planeOff col i + n / 8)) (n % 8)) * 2 ^ i)).sum
    (v 0, v 1, v 2)

/-- Bands of a raster, and a band's rows. -/
def bandCount (h : Nat) : Nat := cdiv h 32
def bandRows (h k : Nat) : Nat × Nat := (32 * k, min h (32 * k + 32))

/-- Band `k` of the frame of a Bell takes the same band of the previous frame, or 0 where there is none (R247). -/
def State.repeatBand (s : State) (c : Chap) (bell k : Nat) : State :=
  match (s.chap c).rec' with
  | none => s
  | some p =>
    let r := bandRows p.h k
    s.storeRows c p bell r.1 r.2 (fun x y =>
      if (s.chap c).prevFrame then s.storePx c p (bell + 1) x y else (0, 0, 0))

/-- The bay that owns a band (R238). -/
def NaveSt.owner (n : NaveSt) (c : Chap) (k : Nat) : Option (Fin 4) := n.alive[(k + c.val) % max n.alive.length 1]?

/-! ### Run-ahead and dirty blocks (R242, R243) -/

/-- The speculative state at an announcement: its views, and each Chapel's background and dither mode. -/
structure Ahead where
  views : List LayerView
  wide : Vector ChapWide 4

/-- A tenant's Chapel-wide changes over a setting. -/
def ChapWide.with (w : ChapWide) (x : ChapWideChg) : ChapWide :=
  { r := (x.bg.map (·.1)).getD w.r, g := (x.bg.map (·.2.1)).getD w.g, b := (x.bg.map (·.2.2)).getD w.b
    dith := x.dith.getD w.dith }

/-- What run-ahead has composed when the announcement comes, where the Nave composes. The blocks that it has composed by
then are all (DESIGN CHOICE, log entry 35). -/
def State.aheadNow (s : State) : Option Ahead :=
  if s.naveOn then
    some { views := s.aheadViews
           wide := mapTab (fun (q : ChapSt) => (allFin 4).foldl (fun w t => w.with (at' q.wideTaken t)) q.wide) s.chaps }
  else none

/-- A block differs between the speculative state and the frozen set. -/
def dirty (va vf : List LayerView) (b : Nat × Nat × Nat × Nat) : Bool :=
  let (x, y, w, h) := b
  let app := fun (vs : List LayerView) => (vs.filter (fun v => !v.isNone && v.cfg.hits x y w h)).map (·.key)
  let fet := fun (vs : List LayerView) => (fetchSet vs x y w h).map (·.lid)
  app va != app vf || fet va != fet vf

/-- The dirty blocks among some of a Chapel. -/
def State.dirtyIn (s : State) (a : Option Ahead) (vs : List LayerView) (c : Chap) (bs : List (Nat × Nat × Nat × Nat)) :
    List (Nat × Nat × Nat × Nat) :=
  match a with
  | none => []
  | some a =>
    if at' a.wide c != (s.chap c).wide then bs else bs.filter (dirty (viewsOf a.views c) (viewsOf vs c))

/-- Composition slots of some blocks. -/
def slotsIn (vs : List LayerView) (bs : List (Nat × Nat × Nat × Nat)) : Nat :=
  (bs.map (fun b => b.2.2.1 * b.2.2.2 * cdiv (max (fetchSet vs b.1 b.2.1 b.2.2.1 b.2.2.2).length 1) 4)).foldl (· + ·) 0

/-- Compose the frame of a Bell for one Chapel, band by band, each on its bay: the blocks of run-ahead, and the dirty ones
once more from the frozen set. -/
def State.composeChap (s : State) (a : Option Ahead) (vs : List LayerView) (c : Chap) (bell : Nat) : State :=
  match (s.chap c).rec' with
  | none => s
  | some p =>
    let v := viewsOf vs c
    let gone := s.clearing
    let s0 := forEach (List.range (bandCount p.h)) (fun k (s : State) =>
      let r := bandRows p.h k
      let bs := blocks p.w r.1 r.2
      let d := s.dirtyIn a vs c bs
      let n := a.elim (slotsIn v bs) (fun a => slotsIn (viewsOf a.views c) bs + slotsIn v d)
      let s1 := match s.nave.owner c k with
        | some b => (((s.tally 2 b.val 0 n).tally 2 4 0 n).tally 2 b.val 1 d.length).tally 2 4 1 d.length
        | none => s
      s1.storeRows c p bell r.1 r.2 (((s.chap c).rectsBut gone).framePx v p.depth bell)) s
    s0.modChap c (fun q => { q with stores := (bell % 2 = 0 || q.stores.1, bell % 2 = 1 || q.stores.2) })

/-! ### What a composition reads (R208, R694) -/

/-- Source positions that destination indexes from `i0` to `i1` read: the first and the last (R226, R227). -/
def srcSpan (i0 i1 sw dw : Nat) : Nat × Nat :=
  let a := srcPos i0 sw dw
  let b := srcPos i1 sw dw
  let top : Int := sw - 1
  ((clampI a.1 0 top).toNat, (clampI (b.1 + (if b.2 = 0 then 0 else 1)) 0 top).toNat)

/-- The destination indexes of a layer in a block, first and last each way. -/
def LayerCfg.span (v : LayerCfg) (b : Nat × Nat × Nat × Nat) : (Nat × Nat) × (Nat × Nat) :=
  let (x, y, w, h) := b
  (((x - v.dx : Int).toNat, (min ((x + w : Int) - v.dx) v.dw - 1).toNat),
   ((y - v.dy : Int).toNat, (min ((y + h : Int) - v.dy) v.dh - 1).toNat))

/-- The source rectangle that a block reads of a source of `sw` x `sh` (log entry 36). -/
def LayerCfg.srcRect (v : LayerCfg) (sw sh : Nat) (b : Nat × Nat × Nat × Nat) : Nat × Nat × Nat × Nat :=
  let d := v.span b
  let u := srcSpan d.1.1 d.1.2 sw v.dw
  let r := srcSpan d.2.1 d.2.2 sh v.dh
  (u.1, r.1, u.2 + 1 - u.1, r.2 + 1 - r.1)

/-- Bytes of a surface that a composition of a rectangle reads, as ranges. -/
def State.surfReads (s : State) (f : Surface) (x y w h : Nat) : List (Nat × Nat) :=
  if f.fmt < 6 then
    let n := fmtBpp f.fmt / 8
    (List.range h).map (fun r => (f.addr + (y + r) * fmtPitch f.fmt f.w + x * n, w * n))
  else
    let m := s.surfMem f
    let ix := f.addr + ofLe (Memory.readN m (f.addr + 16) 4)
    (f.tilesIn x y w h).flatMap (fun n =>
      let iw := ofLe (Memory.readN m (ix + 4 * n) 4)
      let a := f.addr + 16 * nfld iw 0 30
      [(ix + 4 * n, 4), (a, match nfld iw 30 2 with
        | 0 => 512
        | 1 => packedSize m a
        | 2 => 16
        | _ => 0)])

/-- The header of a Tessera stream. -/
def Surface.headReads (f : Surface) : List (Nat × Nat) := if f.fmt < 6 then [] else [(f.addr, 64)]

/-- The reads of a delta's base: its tiles under the SKIP tiles of the rectangle (R209). -/
def State.baseReads (s : State) (f b : Surface) (x y w h : Nat) : List (Nat × Nat) :=
  (s.skipTiles f x y w h).flatMap (fun n =>
    let x0 := max x (8 * (n % f.tileCols))
    let y0 := max y (8 * (n / f.tileCols))
    s.surfReads b x0 y0 (min (x + w) (8 * (n % f.tileCols) + 8) - x0) (min (y + h) (8 * (n / f.tileCols) + 8) - y0))

/-- What a frame reads of one surface: the ranges of bytes, and the faulty tiles. -/
structure SurfRead where
  ten : Ten
  sid : Nat
  surf : Surface
  reads : List (Nat × Nat)
  bad : List Nat

/-- What a fetched layer reads of its surface and of a delta's base in the blocks where it is fetched. -/
def State.layerReads (s : State) (vs : List LayerView) (v : LayerView) : List SurfRead :=
  if v.entry.isSome || !v.isSrc then []
  else match s.sourceOf v.lid v.ten v.cfg genNow (·.sel) with
  | .surf sid f base =>
    let rs := (s.fetchedBlocks vs v).map (fun b =>
      let (x, y, w, h) := v.cfg.srcRect v.cfg.sw v.cfg.sh b
      (v.cfg.sx + x, v.cfg.sy + y, w, h))
    let own : SurfRead := {
      ten := v.ten, sid := sid, surf := f
      reads := f.headReads ++ rs.flatMap (fun r => s.surfReads f r.1 r.2.1 r.2.2.1 r.2.2.2)
      bad := (rs.flatMap (fun r => s.badTiles f r.1 r.2.1 r.2.2.1 r.2.2.2)).eraseDups }
    match base with
    | none => [own]
    | some b => [own, {
        ten := v.ten, sid := f.bsid, surf := b
        reads := b.headReads ++ rs.flatMap (fun r => s.baseReads f b r.1 r.2.1 r.2.2.1 r.2.2.2)
        bad := (rs.flatMap (fun r => s.badBase f b r.1 r.2.1 r.2.2.1 r.2.2.2)).eraseDups }]
  | _ => []

/-- Reads of uncorrectable words among some reads, and the lowest such byte. -/
def ueReads (ue : List Nat) (rs : List (Nat × Nat)) : Nat :=
  (rs.map (fun r => (ue.filter (fun w => 8 * w + 8 > r.1 && 8 * w < r.1 + r.2)).length)).foldl (· + ·) 0
def ueLowest (ue : List Nat) (rs : List (Nat × Nat)) : Option Nat := (rs.filterMap (fun r => ueFirst ue r.1 r.2)).min?

/-- Failing reads are counted, by memory 0 LPDDR4X, 1 Undercroft, 3 Moangex store. -/
def State.ueCount (s : State) (m n : Nat) : State := if n = 0 then s else (s.gfix 59 n).tally 7 m 1 n

/-- MEM_UE of a surface, over the ranges that a frame reads of it. -/
def State.surfUeCheck (s : State) (t : Ten) (sid : Nat) (f : Surface) (reads : List (Nat × Nat)) : State :=
  let ue := s.surfUe f
  match ueLowest ue reads with
  | none => s
  | some a =>
    let s1 := s.ueCount (if f.prime then 3 else 0) (ueReads ue reads)
    let fb := (s.ten t).frozenBell
    if f.uePosted = some fb then s1
    else
      (s1.editSurf t sid (fun f => { f with uePosted := some fb })).post t 0x0063 (if f.prime then 0xD3 else 0xD0)
        (s.ten t).frozen [w32 1, w32 a, w32 sid]

/-- The reads of a frame, surface by surface: MEM_UE, and TESSERA_FAULT at the level of tiles. -/
def State.readCheck (s : State) (rs : List SurfRead) : State :=
  forEach (rs.map (fun r => (r.ten, r.sid))).eraseDups (fun k s =>
    let mine := rs.filter (fun r => (r.ten, r.sid) = k)
    match mine.head? with
    | none => s
    | some r =>
      forEach (mine.flatMap (·.bad)).eraseDups (fun n (s : State) => s.tesFault k.1 k.2 2 n)
        (s.surfUeCheck k.1 k.2 r.surf (mine.flatMap (·.reads)))) s

/-- The bytes of a flatten entry that a layer reads. -/
def State.entryReads (s : State) (vs : List LayerView) (v : LayerView) (e : FlatEnt) : List (Nat × Nat) :=
  (s.fetchedBlocks vs v).flatMap (fun b =>
    let ((i0, i1), (j0, j1)) := v.cfg.span b
    (List.range (j1 + 1 - j0)).map (fun j => (s.flatAddr e + (j0 + j) * flatPitch e.key.dw + 8 * i0, 8 * (i1 + 1 - i0))))

/-- A flatten entry with an uncorrectable word read for a frame is freed, with MEM_UE once for the frame (R694). -/
def State.flatUe (s : State) (vs seen : List LayerView) : State :=
  let reads := s.nave.flat.map (fun e =>
    (e, (seen.filter (fun v => v.entry == some e.first)).flatMap (fun v => s.entryReads vs v e)))
  let all := reads.flatMap (·.2)
  match ueLowest s.memc.ueLp all with
  | none => s
  | some a =>
    let bad := (reads.filter (fun x => (ueLowest s.memc.ueLp x.2).isSome)).map (·.1.first)
    (({ s with nave := { s.nave with flat := s.nave.flat.filter (fun e => !bad.contains e.first) } }).ueCount 0
      (ueReads s.memc.ueLp all)).postAll 0x0063 0xD0 none [w32 2, w32 a, 0]

/-- The bytes of a video frame that a layer reads. -/
def State.vidReads (s : State) (vs : List LayerView) (v : LayerView) (f : VidFrame) : List (Nat × Nat) :=
  (s.fetchedBlocks vs v).flatMap (fun b =>
    let (x, y, w, h) := v.cfg.srcRect f.w f.h b
    (List.range h).map (fun j =>
      if f.yuv then (f.addr + (y + j) * (2 * f.w) + x / 2 * 4, ((x + w - 1) / 2 - x / 2 + 1) * 4)
      else (f.addr + ((y + j) * f.w + x) * 3, 3 * w)))

/-- MEM_UE of the video buffers, once for a frame that reads an uncorrectable word of them (R694). -/
def State.vidUe (s : State) (vs seen : List LayerView) : State :=
  let reads := seen.flatMap (fun v =>
    if v.isSrc && v.cfg.vc.isSome then ((s.vidOf v.lid).bind (·.sel)).elim [] (s.vidReads vs v) else [])
  match ueLowest s.memc.ueLp reads with
  | none => s
  | some a => (s.ueCount 0 (ueReads s.memc.ueLp reads)).postAll 0x0063 0xD0 none [w32 4, w32 a, 0]

/-- The frame of a Bell is composed from the frozen set: the load and the shedding first, then what the layers left show. -/
def State.compose (s : State) (a : Option Ahead) (bell : Nat) : State :=
  if !s.naveOn then s else
  let s := s.lpRequest
  let vs := s.frozenViews
  let load := s.loadOf vs
  let cap := s.navCap
  let (left, out) := s.shedLoop 128 vs []
  let s1 := forEach left (fun v (s : State) => s.resolve v) s
  let s2 := s1.shedMark load cap (s.loadOf left) out
  let s3 : State := { s2 with nave := { s2.nave with load := load, cap := cap } }
  let seen := left.filter (s.fetched? left)
  let s4 := forEach s.rasters (fun r s => s.composeChap a left r.1 bell) (s3.readCheck (seen.flatMap (s.layerReads left)))
  (s4.flatUe left seen).vidUe left seen

end Sys2Proof.Machine
end

