-- ==== Sys2Proof/Machine/Nave.lean ====
section
/-!
DEFINITION. The Nave's commands and its work at a Bell: flatten entries (06_memory_surfaces R214 to R216), bays and
the sentinel, and the video layer (07_nave R234 to R237, R245 to R248).
-/

namespace Sys2Proof.Machine

/-! ### Flatten entries -/

/-- FLATTEN_ENTRY_FREE: entries that no frozen commit set has named for two Bells. -/
def execFlattenEntryFree (s : State) : Host.Outcome State Fault Refusal :=
  .next { s with nave := { s.nave with flat := s.nave.flat.filter (fun e => s.bn < e.named + 2) } }

/-- Change an entry by its first granule. -/
def State.modFlat (s : State) (first : Nat) (f : FlatEnt → FlatEnt) : State :=
  { s with nave := { s.nave with flat := s.nave.flat.map (fun e => if e.first = first then f e else e) } }

/-- The source samples of a layer's settings, where its reference and header hold. -/
def State.cleanSrc (s : State) (lid : Nat) (t : Ten) (v : LayerCfg) (gen : Surface → Word) : Option (Nat → Nat → Px) :=
  match s.sourceOf lid t v gen (·.sel) with
  | .surf _ f base => some (s.surfSamples v f base)
  | _ => none

/-- The start of line `n` of a frame: the first pixel-clock edge at or after n x HT / 256 periods from the start of line 0,
which is an edge (R285; log entry 78). -/
def FrameSt.lineStart (f : FrameSt) (p : ChapRec) (n : Nat) : Time := f.tl0 + cdiv (cdiv (n * f.ht) 256 * 400) (max p.pixclk 1)

/-- The read point of band `k` of a shown frame of a Scan Chapel (R256). -/
def FrameSt.readPoint (f : FrameSt) (p : ChapRec) (k : Nat) : Time := max (f.tB - us 224) (f.lineStart p (32 * k) - us 250)

/-- The LID of a layer that a band of the frame shown reads from an entry, where one does. -/
def State.bandReader (_ : State) (vs : List LayerView) (p : ChapRec) (k first : Nat) : Option Nat :=
  let r := bandRows p.h k
  ((blocks p.w r.1 r.2).flatMap (fun b => fetchSet vs b.1 b.2.1 b.2.2.1 b.2.2.2)).find? (fun v => v.entry == some first)
    |>.map (·.lid)

/-- A band of the frame shown takes the content that an entry holds now: it is composed again, and who showed it is kept. -/
def State.bandAgain (s : State) (vs : List LayerView) (c : Chap) (p : ChapRec) (f : FrameSt) (k first lid : Nat) : State :=
  let r := bandRows p.h k
  let s1 := s.storeRows c p f.bell r.1 r.2 ((s.chap c).framePx (viewsOf vs c) p.depth f.bell)
  s1.modFlat first (fun e => { e with spec := e.spec.map (fun x =>
    if x.shown.isSome then x else
      { x with shown := some (f.bell, lid, (s.layer lid).holder.bind (fun t => at' f.seqs t)) }) })

/-- An in-place write of a layer's entry during the frame shown: a band of another Chapel that the formatter has not read
yet may be read from the entry after it (R216). Which ones are is a free value (log entry 100); an Array Chapel's bands were all
read before t_B. -/
def State.shownInPlace (s : State) (c0 : Chap) (first : Nat) : State :=
  forEach [2, 3] (fun c s =>
    match (s.chap c).frame, (s.chap c).rec' with
    | some f, some p =>
      if c = c0 || (s.chap c).state != .run then s
      else
        let vs := s.screenViews
        let (late, s1) := s.fresh 25
        forEach (List.range (bandCount p.h)) (fun k s =>
          match s.bandReader (viewsOf vs c) p k first with
          | some lid =>
            if nbit late.toNat k && s.now < f.readPoint p k then s.bandAgain s.screenViews c p f k first lid else s
          | none => s) s1
    | _, _ => s) s

/-- A layer whose speculative key has no entry gets one; where no new entry or space is free, the entry that the current
frame reads for the layer is written in place (R215). -/
def State.aheadLayer (s : State) (t : Ten) (seq : Word) (lid : Nat) (v : LayerCfg) : State :=
  let l := s.layer lid
  match s.flatKey t v genAhead, s.cleanSrc lid t v genAhead with
  | some k, some f =>
    if s.nave.flat.any (fun e => e.key = k || e.spec.elim false (fun p => p.key = k)) then s
    else match s.flatFit (flatGranules k.dw k.dh) with
    | some _ => s.flatNew k f
    | none =>
      match s.flatOf (l.frozen.bind (fun w => s.flatKey t w genNow)) with
      | none => s
      | some e =>
        if flatGranules k.dw k.dh ≤ e.count && e.spec.all (fun p => p.settled.isNone) then
          ((s.modFlat e.first (fun e => { e with
            spec := some { ten := t, chap := lidChap lid, z := lidZ lid, seq := seq, key := k } })).flatWrite e k.dw
            k.dh f).shownInPlace (lidChap lid) e.first
        else s
  | _, _ => s

/-- The flatten work of run-ahead on a tenant's commit, once the frame before it is shown (R204, R242): a layer that the last
freeze shed takes no part. -/
def State.runAhead (s : State) (t : Ten) (seq : Word) : State :=
  if !s.naveOn || s.bell.ann.isSome || s.clearing t then s else
  forEach (List.range 128) (fun lid s =>
    let l := s.layer lid
    if l.holder != some t || l.shed then s
    else match l.taken.bind id with
    | none => s
    | some v => s.aheadLayer t seq lid v) s

/-- At a Bell, run-ahead takes up the commits that an announcement has made wait. -/
def State.runAheadBell (s : State) : State :=
  forEach s.bound (fun t s =>
    match (s.ten t).commit with
    | some seq => s.runAhead t seq
    | none => s) s

/-- At a freeze, entries that a frozen commit set names are marked, and in-place writes are settled (R216): frozen unchanged,
the entry takes its new key; else its content is no longer read. -/
def State.flatFreeze (s : State) : State :=
  let keyOf := fun (lid : Nat) =>
    let l := s.layer lid
    match l.holder, l.frozen with
    | some t, some v => if s.clearing t then none else s.flatKey t v genNow
    | _, _ => none
  let keys := (List.range 128).filterMap keyOf
  forEach s.nave.flat (fun e s =>
    match e.spec with
    | none => if keys.contains e.key then s.modFlat e.first (fun e => { e with named := s.bn + 1 }) else s
    | some p =>
      let lid := lidOf p.chap p.z
      if (s.layer lid).holder = some p.ten && keyOf lid = some p.key then
        s.modFlat e.first (fun e => { e with key := p.key, spec := some { p with settled := some 2 }, named := s.bn + 1 })
      else s.modFlat e.first (fun e => { e with valid := false, spec := some { p with settled := some 1 }, named := s.bn + 1 })) s

/-- FLATTEN_REVOKED of a settled entry whose content a frame showed. -/
def State.flatPost (s : State) (e : FlatEnt) (p : FlatSpec) (why : Nat) : State :=
  match p.shown with
  | none => s
  | some (bell, lid, q) =>
    s.post p.ten 0x0061 0x2F (some p.seq) [p.seq, q.getD 0,
      mkWord [(lid, 8, 7), ((s.nave.flat.findIdx (fun x => x.first = e.first)), 0, 8)], mkWord [(bell, 16, 16), (why, 0, 2)]]

/-- A cancelled entry is flattened again from the frozen state of its layer; freed where that has no such content. -/
def State.reflatten (s : State) (e : FlatEnt) (p : FlatSpec) : State :=
  let lid := lidOf p.chap p.z
  let l := s.layer lid
  let drop : State := { s with nave := { s.nave with flat := s.nave.flat.filter (fun x => x.first != e.first) } }
  if l.holder != some p.ten || (s.ten p.ten).resetAt.any (fun b => b ≤ s.bn) then drop
  else match l.frozen.bind (fun v => s.flatKey p.ten v genNow), l.frozen.bind (fun v => s.cleanSrc lid p.ten v genNow) with
  | some k, some f =>
    if e.count < flatGranules k.dw k.dh || s.nave.flat.any (fun x => x.first != e.first && x.key = k) then drop
    else (s.modFlat e.first (fun x => { x with key := k, valid := true, spec := none })).flatWrite e k.dw k.dh f
  | _, _ => drop

/-- At the Bell after a freeze, what it settled is told and done. -/
def State.flatBell (s : State) : State :=
  forEach s.nave.flat (fun e s =>
    match e.spec.bind (fun p => p.settled.map (fun w => (p, w))) with
    | none => s
    | some (p, why) =>
      let s1 := s.flatPost e p why
      if why = 2 then s1.modFlat e.first (fun e => { e with spec := none }) else s1.reflatten e p) s

/-! ### Bays (R238, R245 to R248) -/

/-- A bay is due to leave service at the next Bell. -/
def State.bayFail (s : State) (b : Fin 4) (reason frame : Nat) : State :=
  if !s.nave.alive.contains b || s.nave.leaving.any (fun l => l.bay = b) then s
  else { s with nave := { s.nave with
    leaving := s.nave.leaving ++ [{ bay := b, reason := reason, frame := frame, due := s.bn + 1 }] } }

/-- A band of the announced frame is repeated from the previous frame. -/
def State.bandFail (s : State) (c : Chap) (k : Nat) : State :=
  let s1 := s.repeatBand c (s.bn + 1) k
  { s1 with nave := { s1.nave with repeats := s1.nave.repeats ++ [(c, k)] } }

/-- The blocks of a band of a Chapel that a bay composes. -/
def State.bayBlocks (s : State) (b : Fin 4) (c : Chap) (k : Nat) : List (Nat × Nat × Nat × Nat) :=
  match (s.chap c).rec' with
  | some p =>
    if s.naveOn && s.composed c && s.nave.owner c k == some b && k < bandCount p.h then
      blocks p.w (bandRows p.h k).1 (bandRows p.h k).2
    else []
  | none => []

/-- BAY_ECC_ERROR while the bay composes a block of a band, or none where it has no such block. After the announcement
the band is repeated; before it the block is speculative, and the freeze decides (R247). -/
def execBayEccError (b : Fin 4) (c : Chap) (x : BlkIn) (s : State) : Host.Outcome State Fault Refusal :=
  .next (
    if !(s.live && s.nave.alive.contains b) then s
    else
      let s := s.ueCount 1 1
      if (s.bayBlocks b c x.band.val).length ≤ x.blk then s.bayFail b 2 0
      else if s.bell.ann.isSome then (s.bandFail c x.band.val).bayFail b 2 (s.bn + 1)
      else
        let s1 := s.bayFail b 2 0
        { s1 with nave := { s1.nave with specEcc := s1.nave.specEcc ++ [(b, c, x.band.val, x.blk)] } })

/-- At a freeze, a speculative block with an ECC error that is not dirty stays: its band is repeated, and the record of its
bay names the frame. -/
def State.specSettle (s : State) (a : Option Ahead) : State :=
  let vs := s.frozenViews.filter (fun v => !(s.layer v.lid).shed)
  let s1 := forEach s.nave.specEcc (fun x s =>
    let (b, c, k, i) := x
    match (s.bayBlocks b c k)[i]? with
    | none => s
    | some blk =>
      if a.isNone || !(s.dirtyIn a vs c [blk]).isEmpty then s
      else
        let s2 := s.bandFail c k
        { s2 with nave := { s2.nave with leaving := s2.nave.leaving.map (fun l =>
            if l.bay = b && l.due = s.bn + 1 && l.frame = 0 then { l with frame := s.bn + 1 } else l) } }) s
  { s1 with nave := { s1.nave with specEcc := [] } }

/-- The bays whose Bell has come. -/
def State.bayDue (s : State) : List BayLeave := s.nave.leaving.filter (fun l => l.due ≤ s.bn)

/-- BAY_ALIVE as four bits. -/
def aliveBits (xs : List (Fin 4)) : Nat := (xs.map (fun b => 2 ^ b.val)).sum

/-- BAY_RETIRE. -/
def State.bayRetire (s : State) : State :=
  let due := s.bayDue
  let left := s.nave.alive.filter (fun b => !due.any (fun l => l.bay = b))
  let s1 : State := { s with nave := { s.nave with
    alive := left
    leaving := s.nave.leaving.filter (fun l => s.bn < l.due) } }
  forEach due (fun l s =>
    (s.gfix 56 1).postAll 0x0070 (0x20 + l.bay.val) none [w32 l.bay.val, w32 l.reason, w32 l.frame, w32 (aliveBits left)]) s1
def execBayRetire (s : State) : Host.Outcome State Fault Refusal := .next s.bayRetire

/-- The (Chapel, band) pairs of the running Chapels, in order. -/
def State.pairs (s : State) : List (Chap × Nat) :=
  s.rasters.flatMap (fun r => (List.range (bandCount r.2.2)).map (fun k => (r.1, k)))

/-- The pair at or after the sentinel's mark, else the first. -/
def State.nextPair (s : State) : Option (Chap × Nat) :=
  let m := s.nave.sentinel
  match s.pairs.find? (fun p => m.1 < p.1.val || (m.1 = p.1.val && m.2 ≤ p.2)) with
  | some p => some p
  | none => s.pairs.head?

/-- The sentinel's run of a frame, with its outcome. -/
def State.sentinelRun (s : State) (r : SentRes) : State :=
  if !s.naveOn || s.nave.alive.length < 2 then s
  else match s.nextPair with
  | none => s
  | some (c, k) =>
    let n := s.nave.alive.length
    let i := (k + c.val) % n
    let owner := s.nave.alive.getD i 0
    let checker := s.nave.alive.getD ((i + 1) % n) 0
    let s1 := ({ s with nave := { s.nave with sentinel := (c.val, k + 1) } }).gfix 60 1
    let s2 := (s1.tally 2 owner.val 2 1).tally 2 4 2 1
    let fail := fun (bs : List (Fin 4)) =>
      forEach bs (fun b s => s.bayFail b 1 (s.bn + 1)) ((((s2.gfix 61 1).tally 2 owner.val 3 1).tally 2 4 3 1).bandFail c k)
    match r with
    | .agree | .late => s2
    | .owner => fail [owner]
    | .checker => fail [if n = 2 then owner else checker]
    | .none' => fail (if n = 2 then [owner] else [owner, checker])

/-! ### Video (R234 to R237) -/

/-- The frame buffers: group `g`, slot `n`. -/
def State.vidSlot (s : State) (g n : Nat) : Nat := s.lpDev + 0x0F000000 + (4 * g + n) * 0x200000

/-- A received frame is complete. -/
def CsiFrame.ok (f : CsiFrame) : Bool :=
  f.whole && (f.dtype = 0x1E || f.dtype = 0x24) && 1 ≤ f.w && f.w ≤ 2048 && 1 ≤ f.h && f.h ≤ 2048 &&
    f.bytes.length ≤ 2097152 && f.bytes.length = f.w * f.h * (if f.dtype = 0x1E then 2 else 3)

/-- The slot that the next frame goes into: the lowest that holds neither the latest nor the selected frame. -/
def State.vidNext (s : State) (g : Nat) (latest : VidFrame) (sel : Option VidFrame) : Nat :=
  ((List.range 4).find? (fun n => s.vidSlot g n != latest.addr && sel.all (fun x => x.addr != s.vidSlot g n))).getD 0

/-- CSI_FRAME_END: into the group of the binding of its virtual channel. -/
def State.csiEnd (s : State) (f : CsiFrame) : State :=
  if !(s.live && s.lpUsable) then s
  else match s.nave.video.find? (fun b => b.vc = f.vc && !b.ending && b.group.isSome) with
  | none => s
  | some b =>
    if !f.ok then s.tally 2 4 10 1
    else
      let a := s.vidSlot (b.group.getD 0) b.slot
      let skipped := b.latest.isSome && b.sel != b.latest
      let fr : VidFrame := { yuv := f.dtype = 0x1E, w := f.w, h := f.h, addr := a, at' := s.now }
      let s1 := ((s.lpRequest.lpWrite a f.bytes).tally 2 4 8 1).tally 2 4 9 (b2n skipped)
      { s1 with nave := { s1.nave with video := s1.nave.video.map (fun x =>
          if x.vc = f.vc && !x.ending then { x with latest := some fr, slot := s.vidNext (x.group.getD 0) fr x.sel } else x) } }
def execCsiFrameEnd (f : CsiFrame) (s : State) : Host.Outcome State Fault Refusal := .next (s.csiEnd f)

/-- The selection at a Bell for the next frame (R236, R237): the frame, or the reason of the fallback. -/
def State.vidSelect (s : State) (b : VidBind) : Except Nat VidFrame :=
  match b.latest with
  | none => .error 1
  | some f =>
    if ms 100 < s.now - f.at' then .error 1
    else match (s.layer (lidOf b.chap b.z)).frozen with
    | none => .error 1
    | some v => if scaleOk f.w f.h v.dw v.dh then .ok f else .error 2

/-- VIDEO_STATE for a binding. -/
def State.vidPost (s : State) (b : VidBind) (why w h : Nat) : State :=
  let q := (s.ten b.ten).frozen
  s.post b.ten 0x0073 0x2F q [q.getD 0, mkWord [(lidOf b.chap b.z, 8, 7), (b.vc.val, 0, 2)], w32 why,
    mkWord [(w, 16, 16), (h, 0, 16)]]

/-- Change a binding by its channel. -/
def State.modVid (s : State) (b : VidBind) (f : VidBind → VidBind) : State :=
  { s with nave := { s.nave with video := s.nave.video.map (fun x =>
      if x.vc = b.vc && x.chap = b.chap && x.z = b.z then f x else x) } }

/-- Every binding selects at a Bell; bindings that end at it free their group. -/
def State.vidBell (s : State) : State :=
  let s0 : State := { s with nave := { s.nave with video := s.nave.video.filter (fun b => !b.ending) } }
  forEach s0.nave.video (fun b s =>
    match s.vidSelect b with
    | .ok f =>
      let s1 := s.modVid b (fun x => { x with was := x.sel, sel := some f, posted := 0 })
      if b.posted = 1 || b.posted = 2 then s1.vidPost b 3 f.w f.h else s1
    | .error why =>
      let s1 := s.modVid b (fun x => { x with was := x.sel, sel := none, posted := why })
      if b.posted = why then s1
      else s1.vidPost b why (if why = 2 then b.latest.elim 0 (·.w) else 0) (if why = 2 then b.latest.elim 0 (·.h) else 0)) s0

/-- At a freeze, a frozen LVID gets its binding and the lower free group; a binding whose layer is no longer bound to
its channel, or whose tenant's reset takes effect at the Bell, ends at it (R234). -/
def State.vidFreeze (s : State) : State :=
  let s1 : State := { s with nave := { s.nave with video := s.nave.video.map (fun b =>
    let l := s.layer (lidOf b.chap b.z)
    if l.holder = some b.ten && (l.frozen.bind (·.vc)) = some b.vc && !s.clearing b.ten then b
    else { b with ending := true }) } }
  forEach (List.range 128) (fun lid s =>
    let l := s.layer lid
    match l.holder, l.frozen.bind (·.vc) with
    | some t, some vc =>
      if s.clearing t || s.nave.video.any (fun b => b.vc = vc && lidOf b.chap b.z = lid && !b.ending) then s
      else
        let free := fun g => !s.nave.video.any (fun b => b.group = some g)
        let g := if free 0 then some 0 else if free 1 then some 1 else none
        { s with nave := { s.nave with video := s.nave.video ++
            [{ vc := vc, ten := t, chap := lidChap lid, z := lidZ lid, group := g }] } }
    | _, _ => s) s1

end Sys2Proof.Machine
end

