-- ==== Sys2Proof/Machine/QuagalKey.lean ====
section
/-!
DEFINITION. Keystone instructions and the default Keystone pattern (05_quagal_reference R171 to R175; 06 R199;
12_telltale_assurance R381, R407; 13_power_wake R430, R433 to R436, R695).
-/

namespace Sys2Proof.Machine

/-! ### The store -/

/-- A segment's mapping on a Chapel. -/
def KStore.mapOf (k : KStore) (g : Seg) (c : Chap) : Option KMap := k.maps.find? (fun m => m.seg == g && m.chap == c)

/-- The mapping of a rectangle. -/
def KStore.mapAt (k : KStore) (c : Chap) (r : Fin 16) : Option KMap := k.maps.find? (fun m => m.chap == c && m.rect == r)

/-- Set a segment's state. -/
def KStore.setOn (k : KStore) (g : Nat) (b : Bool) : KStore :=
  match fin? 96 g with
  | some g => { k with on := upd k.on g (fun _ => b) }
  | none => k

/-- Put a mapping in place of the segment's mapping on that Chapel. -/
def KStore.putMap (k : KStore) (m : KMap) : KStore :=
  { k with maps := m :: k.maps.filter (fun x => !(x.seg == m.seg && x.chap == m.chap)) }

/-- Remove a segment's mapping on a Chapel. -/
def KStore.dropMap (k : KStore) (g : Seg) (c : Chap) : KStore :=
  { k with maps := k.maps.filter (fun x => !(x.seg == g && x.chap == c)) }

/-- A rectangle's inactive glyph buffer, with a glyph in it, becomes its active one. -/
def KStore.putGlyph (k : KStore) (c : Chap) (r : Fin 16) (g : Glyph) : KStore :=
  { k with
    glyphs := putKey (c, r) g k.glyphs
    alt := if k.alt.contains (c, r) then k.alt.filter (fun x => x != (c, r)) else (c, r) :: k.alt }

/-- Change the store as last written. -/
def State.modKey (s : State) (f : KStore → KStore) : State := { s with key := f s.key }

/-! ### KSET and KSETM -/

/-- SEG [22:16]. -/
def OpCtx.segN (c : OpCtx) : Nat := fld c.w 16 7
def OpCtx.seg (c : OpCtx) : Seg := Fin.ofNat 96 c.segN

/-- KSET. -/
def semKset : OpSem where
  m0 := 0x00FF0000#32
  cost := fun _ => 1
  range := fun c => 96 ≤ c.segN
  run := fun c s => s.modKey (fun k => k.setOn c.segN (bit c.w 23))
def execKset (r : RingId) (s : State) : Host.Outcome State Fault Refusal := .next (s.runOp r 0xA0 semKset)

/-- KSETM. -/
def semKsetm : OpSem where
  m0 := 0x00CFF000#32
  cost := fun _ => 2
  illegal := fun c => fld c.w 22 2 = 3
  run := fun c s => s.modKey (fun k => forEach (List.range 32) (fun i k =>
    if bit c.B i then k.setOn (32 * fld c.w 22 2 + i) (bit c.A i) else k) k)
def execKsetm (r : RingId) (s : State) : Host.Outcome State Fault Refusal := .next (s.runOp r 0xA1 semKsetm)

/-! ### KMAP -/

/-- Chapel [15:14] and RECT [13:10]. -/
def OpCtx.chap14 (c : OpCtx) : Chap := Fin.ofNat 4 (fld c.w 14 2)
def OpCtx.rect10 (c : OpCtx) : Fin 16 := Fin.ofNat 16 (fld c.w 10 4)

/-- Causes of claiming a rectangle for a segment. A tenant check on it gives OWNER in a ring and STATE in an action
word (05, Faults and Edges; DEDUCED, log entry 41). -/
def keyClaim (c : OpCtx) (s : State) : List Nat :=
  match (s.rect c.chap14 c.rect10).owner with
  | .free => []
  | .ten _ => [if c.action then fSTATE else fOWNER]
  | .key g | .keyFreed g => when' (g != c.seg) fSTATE

/-- RANGE of a KMAP with EN = 1; on a Chapel without a configured raster no rectangle is inside (log entry 41). -/
def keyRange (c : OpCtx) (s : State) : Bool :=
  let w := hiHalf c.e2
  let h := loHalf c.e2
  w = 0 || 128 < w || h = 0 || 128 < h ||
    (s.raster c.chap14).elim true (fun d => d.1 < hiHalf c.e1 + w || d.2 < loHalf c.e1 + h)

/-- KMAP with EN = 1: the mapping replaces the segment's earlier one on the Chapel, whose witness stays armed. -/
def State.keyPlace (s : State) (m : KMap) : State :=
  let old := s.key.mapOf m.seg m.chap
  let s1 := match old with
    | some o => s.modRect m.chap o.rect (fun x => { x with owner := .free })
    | none => s
  ((s1.modRect m.chap m.rect (fun x => { x with owner := .key m.seg })).modKey (fun k =>
    k.putMap { m with wit := old.bind (·.wit) })).underFresh [(keyEntry m.chap m.rect, 16)]

/-- KMAP with EN = 0: the rectangle is free at the first latch point (R697). -/
def State.keyRemove (s : State) (g : Seg) (c : Chap) : State :=
  match s.key.mapOf g c with
  | some o => (s.modRect c o.rect (fun x => { x with owner := .keyFreed g })).modKey (fun k => k.dropMap g c)
  | none => s

/-- KMAP. With EN = 0 only SEG and the Chapel are read (DEDUCED, log entry 41). -/
def semKmap : OpSem where
  m0 := 0x007FFE00#32
  m1 := 0xFFFFFFFF#32
  m2 := 0xFFFFFFFF#32
  cost := fun _ => 4
  range := fun c => 96 ≤ c.segN
  causes := fun c s => if bit c.w 9 then keyClaim c s ++ when' (keyRange c s) fRANGE else []
  run := fun c s =>
    let m : KMap := { seg := c.seg, chap := c.chap14, rect := c.rect10, x := hiHalf c.e1,
                      y := loHalf c.e1, w := hiHalf c.e2, h := loHalf c.e2 }
    if bit c.w 9 then s.keyPlace m else s.keyRemove c.seg c.chap14
def execKmap (r : RingId) (s : State) : Host.Outcome State Fault Refusal := .next (s.runOp r 0xA2 semKmap)

/-- At a latch point the rectangles that KMAP released are free (R697). -/
def State.keyFree (s : State) : State :=
  { s with
    chaps := mapTab (fun (q : ChapSt) => { q with
      rects := mapTab (fun (x : RectSt) => match x.owner with
        | .keyFreed _ => { x with owner := .free }
        | _ => x) q.rects }) s.chaps }

/-! ### KLOAD (R173, R174, R199) -/

/-- A 14-bit pixel as a glyph pixel. -/
def glyphPx (p : Px) : BitVec 16 :=
  let f := fun c : Nat => min 31 ((c + 256) / 512)
  if 8192 ≤ p.a then BitVec.ofNat 16 (32768 + 1024 * f p.r + 32 * f p.g + f p.b) else 0

/-- The 128 x 128 glyph buffer that a copy of W x H pixels of a surface fills, 0 outside them (R695). A Tessera
surface with a malformed header gives pixels that the manual leaves open (log entry 41). -/
def State.glyphOf (s : State) (t : Ten) (f : Surface) (sx sy w h : Nat) : Glyph × State :=
  let ok := f.fmt < 6 || s.tesHeader t f
  let raw := (s.fresh (16 * 16384)).1.toNat
  let px := (List.range 16384).map (fun i =>
    let x := i % 128
    let y := i / 128
    if w ≤ x || h ≤ y then 0
    else if ok then glyphPx (s.surfPx f none (sx + x) (sy + y))
    else BitVec.ofNat 16 (nfld raw (16 * i) 16))
  (px, if ok then s else { s with free := s.free + 1 })

/-- A copy for a segment's mapping has not completed. -/
def State.kloading (s : State) (g : Seg) (c : Chap) : Bool :=
  s.kloads.any (fun k => k.seg == g && k.chap == c && !k.done)

/-- KLOAD. -/
def semKload : OpSem where
  m0 := 0x007FC0FF#32
  m1 := 0xFFFFFFFF#32
  cost := fun _ => 4
  range := fun c => 96 ≤ c.segN
  causes := fun c s =>
    match s.key.mapOf c.seg c.chap14, s.surf c.ten (fld c.w 0 8) with
    | some m, some f =>
      when' (f.fmt = 7 || s.kloading c.seg c.chap14) fSTATE ++
        when' (f.w < hiHalf c.e1 + m.w || f.h < loHalf c.e1 + m.h) fRANGE
    | _, _ => [fSTATE]
  run := fun c s =>
    match s.key.mapOf c.seg c.chap14, s.surf c.ten (fld c.w 0 8) with
    | some m, some f =>
      let (g, s1) := s.glyphOf c.ten f (hiHalf c.e1) (loHalf c.e1) m.w m.h
      { s1 with
        kloads := s1.kloads.filter (fun k => !(k.chap == m.chap && k.rect == m.rect)) ++
          [{ seg := m.seg, chap := m.chap, rect := m.rect, seq := c.seq, glyph := g, w := m.w, h := m.h, start := s1.now }] }
    | _, _ => s
def execKload (r : RingId) (s : State) : Host.Outcome State Fault Refusal := .next (s.runOp r 0xA3 semKload)

/-- KLOAD_COPY_COMPLETE: the copy into a rectangle's inactive buffer has completed. -/
def State.kloadDone (s : State) (c : Chap) (q : Fin 16) : State :=
  let rows := (s.kloads.filter (fun k => k.chap == c && k.rect == q && !k.done)).flatMap (fun k =>
    glyphRows (s.key.inactive c q) k.w k.h)
  { s.underFresh rows with
    kloads := s.kloads.map (fun k => if k.chap == c && k.rect == q then { k with done := true } else k) }
def execKloadCopyComplete (c : Chap) (q : Fin 16) (s : State) : Host.Outcome State Fault Refusal := .next (s.kloadDone c q)

/-- At a latch point a completed copy becomes the active glyph, and KLOAD_DONE is posted (R173, R183). -/
def State.keyLoaded (s : State) : State :=
  forEach (s.kloads.filter (·.done)) (fun k s =>
    (s.modKey (fun q => q.putGlyph k.chap k.rect k.glyph)).postTo (s.ofCls .safety) 0x0051 (0x30 + k.chap.val)
      (some k.seq) [k.seq, w32 k.seg.val, w32 k.chap.val, w32 (s.bn + 1)])
    { s with kloads := s.kloads.filter (fun k => !k.done) }

/-! ### KWIT (R171, R381, R407) -/

/-- An input's role suits a witness on a Chapel. -/
def State.witRole (s : State) (pd : Pd) (c : Chap) : Bool :=
  let q := s.pdIn pd
  s.witness.valid && q.chap == c && q.role == (if c.val < 2 then .keyField else .beam)

/-- PD [17:15], MINV and MAXV. -/
def OpCtx.arm (c : OpCtx) : WitArm :=
  { pd := Fin.ofNat 8 (fld c.w 15 3), minv := fld c.e1 16 14, maxv := fld c.e1 0 14 }

/-- KWIT. The checks of PD and of the bounds do not depend on EN (DEDUCED, log entry 41). -/
def semKwit : OpSem where
  m0 := 0x00FFC000#32
  m1 := 0x3FFF3FFF#32
  cost := fun _ => 2
  range := fun c => c.arm.maxv < c.arm.minv
  causes := fun c s => when' ((s.key.mapAt c.chap22 c.rect18).isNone || !s.witRole c.arm.pd c.chap22) fSTATE
  run := fun c s => match s.key.mapAt c.chap22 c.rect18 with
    | some m => s.modKey (fun k => k.putMap { m with wit := if bit c.w 14 then some c.arm else none })
    | none => s
def execKwit (r : RingId) (s : State) : Host.Outcome State Fault Refusal := .next (s.runOp r 0xA4 semKwit)

/-! ### The default Keystone pattern (R695) -/

/-- Addresses of the manifest, the pattern and the glyph areas. -/
def ksPattern : Nat := primeBase + 0x1000
def ksGlyphs : Nat := primeBase + 0x11000

/-- The rectangle 16 c + r. -/
def rectNo (m : Nat) : Chap × Fin 16 := (Fin.ofNat 4 (m / 16), Fin.ofNat 16 m)

/-- The entry of a mapping. -/
def KMap.entry (m : KMap) : List Byte :=
  [BitVec.ofNat 8 (128 + m.seg.val),
   (match m.wit with
    | some a => BitVec.ofNat 8 (128 + a.pd.val)
    | none => 0)] ++ leBytes 2 m.x ++ leBytes 2 m.y ++ leBytes 2 m.w ++ leBytes 2 m.h ++
    leBytes 2 (m.wit.elim 0 (·.minv)) ++ leBytes 2 (m.wit.elim 0 (·.maxv)) ++ List.replicate 2 0

/-- The entry of rectangle `m` of a store. -/
def KStore.entry (k : KStore) (m : Nat) : List Byte :=
  match k.mapAt (rectNo m).1 (rectNo m).2 with
  | some x => x.entry
  | none => List.replicate 16 0

/-- The 64 KiB pattern of a store. -/
def KStore.pattern (k : KStore) : List Byte :=
  let on := (allFin 96).foldl (fun a g => a + (if Machine.at' k.on g then 2 ^ g.val else 0)) 0
  padTo 65536 0 (padTo 16 0 (leBytes 12 on) ++ (List.range 64).flatMap (fun m => k.entry m))

/-- The glyph areas of a store. -/
def KStore.glyphArea (k : KStore) : List Byte :=
  (List.range 64).flatMap (fun m =>
    (padTo 16384 0 ((k.glyphs.lookup (rectNo m)).getD [])).flatMap (fun p => leBytes 2 p.toNat))

/-- A mapping read from its entry, where EN is 1. -/
def entryMap (m : Nat) (e : List Byte) : Option KMap :=
  let b := getLe e 0 1
  if b < 128 then none
  else some { seg := Fin.ofNat 96 (b % 128), chap := (rectNo m).1, rect := (rectNo m).2, x := getLe e 2 2,
              y := getLe e 4 2, w := getLe e 6 2, h := getLe e 8 2,
              wit := if nbit (getLe e 1 1) 7 then
                  some { pd := Fin.ofNat 8 (getLe e 1 1), minv := getLe e 10 2, maxv := getLe e 12 2 }
                else none }

/-- An entry passes its own checks. -/
def entryOk (e : List Byte) : Bool :=
  if getLe e 0 1 < 128 then e.all (· == 0)
  else getLe e 0 1 - 128 < 96 && nfld (getLe e 1 1) 3 4 = 0 && 1 ≤ getLe e 6 2 && getLe e 6 2 ≤ 128 &&
    1 ≤ getLe e 8 2 && getLe e 8 2 ≤ 128 && getLe e 10 2 ≤ getLe e 12 2 && getLe e 12 2 < 16384 && getLe e 14 2 = 0

/-- No two mappings of one segment on one Chapel. -/
def noTwice : List KMap → Bool
  | [] => true
  | m :: ms => !ms.any (fun x => x.seg == m.seg && x.chap == m.chap) && noTwice ms

/-- The entries of the pattern stored. -/
def State.ksEntry (s : State) (m : Nat) : List Byte := Memory.readN s.moa (ksPattern + 16 + 16 * m) 16

/-- The mappings of the pattern stored. -/
def State.ksMaps (s : State) : List KMap := (List.range 64).filterMap (fun m => entryMap m (s.ksEntry m))

/-- The last byte of a range of the Moangex store that is not 0 lies inside it: none stands there. -/
def Memory.zeroIn (m : Mem) (a n : Nat) : Bool := m.all (fun c => c.1 < a || a + n ≤ c.1 || c.2 == 0)

/-- The check of the pattern stored: KS_VALID, KS_CRC, and the check of R695. -/
def State.ksOk (s : State) : Bool :=
  Memory.read s.moa (primeBase + 6) == 1 &&
  Memory.readW s.moa (primeBase + 12) == crc32 (Memory.readN s.moa ksPattern (0x10000 + 0x200000)) &&
  Memory.zeroIn s.moa (ksPattern + 12) 4 && Memory.zeroIn s.moa (ksPattern + 1040) (65536 - 1040) &&
  (List.range 64).all (fun m => entryOk (s.ksEntry m)) && noTwice s.ksMaps

/-- The glyph stored for a rectangle. -/
def State.ksGlyph (s : State) (m : Nat) : Glyph :=
  (List.range 16384).map (fun i => BitVec.ofNat 16 (ofLe (Memory.readN s.moa (ksGlyphs + 32768 * m + 2 * i) 2)))

/-- The store that the pattern stored holds (R433). -/
def State.ksLoad (s : State) : KStore :=
  let on := ofLe (Memory.readN s.moa ksPattern 12)
  { on := Vector.ofFn (fun g => nbit on g.val)
    maps := s.ksMaps
    glyphs := (List.range 64).map (fun m => (rectNo m, s.ksGlyph m)) }

/-- The store without a valid pattern: the ALWAYS segments on, nothing mapped (R434). -/
def State.ksAlways (s : State) : KStore := { on := s.light.matrix.always }

/-- The rectangles that the Keystone holds follow a store that replaces the one as last written. -/
def State.keyInstall (s : State) (k : KStore) : State :=
  { s.underFresh [UnderPart.keystone.at'] with
    key := k
    chaps := mapTabIdx (fun c (q : ChapSt) => { q with
      rects := mapTabIdx (fun r (x : RectSt) =>
        match k.maps.find? (fun m => m.chap.val = c && m.rect.val = r), x.owner with
        | some m, _ => { owner := .key m.seg }
        | none, .key _ | none, .keyFreed _ => {}
        | none, _ => x) q.rects }) s.chaps }

/-! ### KPRIME and PRIME_STORED (R175, R436) -/

/-- The store as last written, a completed copy not yet latched among it. -/
def State.keyWritten (s : State) : KStore :=
  (s.kloads.filter (·.done)).foldl (fun k x => k.putGlyph x.chap x.rect x.glyph) s.key

/-- KPRIME: KS_VALID is written 0 first. -/
def semKprime : OpSem where
  cost := fun _ => 4
  causes := fun _ s => when' s.prime.kprime.isSome fSTATE
  run := fun c s =>
    { (s.moaWrite (primeBase + 6) [0]) with prime := { s.prime with kprime := some (c.seq, c.ring, s.keyWritten) } }
def execKprime (r : RingId) (s : State) : Host.Outcome State Fault Refusal := .next (s.runOp r 0xA5 semKprime)

/-- PRIME_STORED: the areas, then KS_CRC with KS_VALID = 1, and the event. -/
def State.primeStored (s : State) (ok : Bool) : State :=
  match s.prime.kprime with
  | none => s
  | some (seq, ring, k) =>
    let bytes := k.pattern ++ k.glyphArea
    let s1 := if ok then
        ((s.moaWrite ksPattern bytes).moaWrite (primeBase + 12) (wordBytes (crc32 bytes))).moaWrite (primeBase + 6) [1]
      else s
    let s2 := { s1 with prime := { s1.prime with kprime := none, patternOk := ok } }
    s2.postTo (s2.ofCls .safety) 0x0052 ring.val (some seq) [seq, w32 (b2n !ok), w32 (if ok then bytes.length else 0)]
def execPrimeStored (ok : Bool) (s : State) : Host.Outcome State Fault Refusal := .next (s.primeStored ok)

end Sys2Proof.Machine
end

