-- ==== Sys2Proof/Machine/QuagalLight.lean ====
section
/-!
DEFINITION. Light-target instructions (05_quagal_reference R163, R164; 10_light_drive R337).
-/

namespace Sys2Proof.Machine

/-- OUT [23:20] and the output it names. -/
def OpCtx.outN (c : OpCtx) : Nat := fld c.w 20 4
def OpCtx.out (c : OpCtx) : Option OutId := outOf c.outN

/-- The causes of naming an output: OWNER where it is disabled or another tenant's (R147, R336). -/
def outCauses (c : OpCtx) (s : State) : List Nat :=
  match c.out with
  | none => []
  | some o => when' (!(s.out o).cfg.en || (s.out o).cfg.owner != c.ten) fOWNER

/-- Change the output that OUT names. -/
def OpCtx.onOut (c : OpCtx) (s : State) (f : OutId → State) : State :=
  match c.out with
  | some o => f o
  | none => s

/-- DRVTGT: CODE of a sink, SPAN of a laser channel. -/
def semDrvtgt : OpSem where
  m0 := 0x00F03FFF#32
  cost := fun _ => 2
  range := fun c => c.out.isNone
  causes := fun c s => outCauses c s ++ when' (c.out.elim false (fun o => (s.outLoop o).isSome)) fSTATE
  run := fun c s => c.onOut s (fun o => s.outWrite o { code := some (fld c.w 0 14), seq := c.seq })
def execDrvtgt (r : RingId) (s : State) : Host.Outcome State Fault Refusal := .next (s.runOp r 0x70 semDrvtgt)

/-- DRVDUTY. -/
def semDrvduty : OpSem where
  m0 := 0x00F03FFF#32
  cost := fun _ => 2
  range := fun c => 6 ≤ c.outN
  causes := outCauses
  run := fun c s => c.onOut s (fun o => s.outWrite o { duty := some (fld c.w 0 14), seq := c.seq })
def execDrvduty (r : RingId) (s : State) : Host.Outcome State Fault Refusal := .next (s.runOp r 0x71 semDrvduty)

/-- DRVDIM. -/
def semDrvdim : OpSem where
  m0 := 0x00FF8000#32
  cost := fun _ => 2
  range := fun c => 6 ≤ c.outN || 8 ≤ fld c.w 16 4
  causes := outCauses
  run := fun c s => c.onOut s (fun o => s.outWrite o { dim := some (fld c.w 16 4, bit c.w 15), seq := c.seq })
def execDrvdim (r : RingId) (s : State) : Host.Outcome State Fault Refusal := .next (s.runOp r 0x72 semDrvdim)

/-- DRVDERATE: takes effect at the end of the next sensor read. -/
def semDrvderate : OpSem where
  m0 := 0x00F00000#32
  m1 := 0xFFFF3FFF#32
  cost := fun _ => 4
  range := fun c => 6 ≤ c.outN
  causes := outCauses
  run := fun c s => c.onOut s (fun o => s.modOut o (fun q => { q with
    pendDerate := some (sgn 8 (fld c.e1 24 8), fld c.e1 16 8, fld c.e1 0 14) }))
def execDrvderate (r : RingId) (s : State) : Host.Outcome State Fault Refusal := .next (s.runOp r 0x73 semDrvderate)

/-- DRVRAIL: takes effect at the rail's next step. -/
def semDrvrail : OpSem where
  m0 := 0x00C00FFF#32
  cost := fun _ => 2
  range := fun c => 2 ≤ fld c.w 22 2 || fld c.w 0 12 < 150 || 1500 < fld c.w 0 12
  causes := fun c s =>
    (fin? 2 (fld c.w 22 2)).elim [] (fun r => when' (!(s.rail r).en || (s.rail r).owner != c.ten) fOWNER)
  run := fun c s =>
    (fin? 2 (fld c.w 22 2)).elim s (fun r => s.modRail r (fun q => { q with pendHead := some (fld c.w 0 12) }))
def execDrvrail (r : RingId) (s : State) : Host.Outcome State Fault Refusal := .next (s.runOp r 0x74 semDrvrail)

end Sys2Proof.Machine
end

