-- ==== Sys2Proof/Machine/Banks.lean ====
section
/-!
DEFINITION. The calibration banks (11_choir R367 to R371): reading a bank, choosing the active one, storing into
the other.
-/

namespace Sys2Proof.Machine

/-- The Moangex address of a bank, 0 A, 1 B (R27), and a bank's size. -/
def bankAddr (b : Fin 2) : Nat := 0x1200000 + 0x80000 * b.val
def bankSize : Nat := 0x80000

/-- A directory entry with the place of its data (R367). -/
structure DirEnt where
  ent : BankEnt
  len : Nat
  off : Nat
  deriving DecidableEq, Repr

/-- The directory entry at a number. -/
def State.dirEnt (s : State) (b : Fin 2) (i : Nat) : DirEnt :=
  let e := Memory.readN s.moa (bankAddr b + 64 + 16 * i) 16
  { ent := { type := getLe e 0 1, kind := getLe e 1 1, target := getLe e 2 1, chan := getLe e 3 1,
             profile := getLe e 4 1, rate := getLe e 5 1 }
    len := getLe e 6 2
    off := getLe e 8 4 }

/-- NENT, GEN and USED of a bank's header. -/
def State.bankNent (s : State) (b : Fin 2) : Nat := getLe (Memory.readN s.moa (bankAddr b + 6) 2) 0 2
def State.bankGen (s : State) (b : Fin 2) : Word := Memory.readW s.moa (bankAddr b + 8)
def State.bankUsed (s : State) (b : Fin 2) : Nat := (Memory.readW s.moa (bankAddr b + 12)).toNat

/-- The directory of a bank. -/
def State.bankDir (s : State) (b : Fin 2) : List DirEnt := (List.range (s.bankNent b)).map (s.dirEnt b)

/-- A bank is valid (R368). DCRC covers bytes 64 to 1,087 + USED − 1, read as the table writes it (log entry 32). -/
def State.bankValid (s : State) (b : Fin 2) : Bool :=
  let a := bankAddr b
  Memory.readN s.moa a 6 == [0x43, 0x41, 0x4C, 0x31, 0x01, 0x00] && s.bankNent b ≤ 64 &&
    s.bankUsed b ≤ bankSize - 1088 &&
    Memory.readW s.moa (a + 60) == crc32 (Memory.readN s.moa a 60) &&
    Memory.readW s.moa (a + 16) == crc32 (Memory.readN s.moa (a + 64) (1023 + s.bankUsed b)) &&
    (s.bankDir b).all (fun e => 1088 ≤ e.off && e.off + 2 * e.len ≤ bankSize)

/-- The active bank: the valid bank with the greater GEN under R10. -/
def State.activeBank (s : State) : Option (Fin 2) :=
  match s.bankValid 0, s.bankValid 1 with
  | true, true => some (if precedes (s.bankGen 0) (s.bankGen 1) then 1 else 0)
  | true, false => some 0
  | false, true => some 1
  | false, false => none

/-- The entry's data of an active bank. -/
def State.entData (s : State) (b : Fin 2) (e : DirEnt) : List Byte := Memory.readN s.moa (bankAddr b + e.off) (2 * e.len)

/-- The key of an entry: every directory field before LEN; a learned table is keyed by LEN too (R371, R409). -/
def BankEnt.sameKey (a b : BankEnt) : Bool :=
  a.type == b.type && a.kind == b.kind && a.target == b.target && a.chan == b.chan && a.profile == b.profile &&
    a.rate == b.rate && (a.type != 1 || a.data.length == b.data.length)

/-- The active bank's entries, with their data. -/
def State.bankEnts (s : State) : List BankEnt :=
  match s.activeBank with
  | none => []
  | some b => (s.bankDir b).map (fun e => { e.ent with data := s.entData b e })

/-- An entry of the active bank that a test picks by directory fields and LEN, with its data. -/
def State.bankFind (s : State) (p : BankEnt → Nat → Bool) : Option (List Byte) :=
  match s.activeBank with
  | none => none
  | some b => ((s.bankDir b).find? (fun e => p e.ent e.len)).map (s.entData b)

/-- Entries with one added or replaced. -/
def addEnt (xs : List BankEnt) (e : BankEnt) : List BankEnt :=
  if xs.any (fun x => x.sameKey e) then xs.map (fun x => if x.sameKey e then e else x) else xs ++ [e]

/-- Data bytes of an entry rounded up to 64. -/
def BankEnt.room (e : BankEnt) : Nat := cdiv e.data.length 64 * 64

/-- Directory bytes of entries whose data starts at an offset. -/
def dirBytes : List BankEnt → Nat → List Byte
  | [], _ => []
  | e :: es, off =>
    [BitVec.ofNat 8 e.type, BitVec.ofNat 8 e.kind, BitVec.ofNat 8 e.target, BitVec.ofNat 8 e.chan,
      BitVec.ofNat 8 e.profile, BitVec.ofNat 8 e.rate] ++ leBytes 2 (e.data.length / 2) ++ leBytes 4 off ++
      wordBytes (crc32 e.data) ++ dirBytes es (off + e.room)

/-- The bytes of a bank that holds some entries. -/
def bankImage (es : List BankEnt) (gen : Word) : List Byte :=
  let data := es.flatMap (fun e => padTo e.room 0 e.data)
  let body := padTo 1024 0 (dirBytes es 1088) ++ data
  let used := data.length
  let h := [0x43, 0x41, 0x4C, 0x31, 0x01, 0x00] ++ leBytes 2 es.length ++ wordBytes gen ++ leBytes 4 used ++
    wordBytes (crc32 (body.take (1023 + used))) ++ List.replicate 40 0
  h ++ wordBytes (crc32 h) ++ body

/-- The bank that the next write goes to, and its GEN (R369). -/
def State.nextBank (s : State) : Fin 2 × Word :=
  match s.activeBank with
  | none => (0, 1)
  | some b => (1 - b, s.bankGen b + 1)

/-- CAL_BANK_WRITE: with every pending storage request (R370). -/
def execCalBankWrite (s : State) : Host.Outcome State Fault Refusal :=
  .next (if s.live && s.choir.writeFrom.isNone && !s.choir.pending.isEmpty then
    { s with choir := { s.choir with
        pending := []
        writing := s.choir.pending
        writeFrom := some s.now } }
  else s)

/-- A request's completion: the bank and GEN written, or the failure (R168, R370, R379, R412). -/
def State.bankDone (s : State) (b : Fin 2) (gen : Word) (ok : Bool) (r : BankReq) : State :=
  match r.who with
  | .table i t q =>
    let s1 := s.modSlot i (fun l => { l with save := none })
    if ok then s1.post t 0x0053 (0x40 + i.val) (some q) [q, w32 i.val, w32 b.val, gen]
    else s1.post t 0x00B4 (0x40 + i.val) (some q) [q, w32 b.val, gen]
  | .training => s
  | .gains pd t res fr =>
    s.post t 0x00C2 (0x50 + pd.val) none
      (if ok then [w32 res, gen, w32 fr]
       else [mkWord ((List.range 3).map (fun c => (if nfld res (2 * c) 2 = 0 then 3 else nfld res (2 * c) 2, 2 * c, 2))),
             0, w32 fr])

/-- CAL_BANK_WRITE_DONE: the header is written last, and the bank becomes active; entries that do not fit one bank
fail like a read-back (log entry 33). -/
def State.bankWritten (s : State) (ok : Bool) : State :=
  if s.choir.writeFrom.isNone then s else
  let (b, gen) := s.nextBank
  let es := s.choir.writing.foldl (fun xs r => addEnt xs r.ent) s.bankEnts
  let img := bankImage es gen
  let ok := ok && es.length ≤ 64 && img.length ≤ bankSize
  let rs := s.choir.writing
  let s1 : State := { s with choir := { s.choir with writing := [], writeFrom := none } }
  let s2 := if ok then (s1.moaWrite (bankAddr b) img).tally 7 3 8 (cdiv img.length 64) else s1
  forEach rs (fun r s => s.bankDone b gen ok r) s2
def execCalBankWriteDone (ok : Bool) (s : State) : Host.Outcome State Fault Refusal := .next (s.bankWritten ok)

/-- CAL_QUERY: bank, GEN, NENT, directory; with no valid bank the bank's number is open. -/
def execCalQuery (t : Ten) (s : State) : Host.Outcome State Fault Refusal :=
  .next (match s.request t 0x0503 with
  | none => s
  | some _ =>
    match s.activeBank with
    | some b => s.answer t ansOk ([w32 b.val, s.bankGen b, w32 (s.bankNent b)] ++
        Memory.readWs s.moa (bankAddr b + 64) (4 * s.bankNent b))
    | none =>
      let (v, s1) := s.fresh 32
      s1.answer t ansOk [v, 0, 0])

end Sys2Proof.Machine
end

