-- ==== Sys2Proof/Machine/Choir.lean ====
section
/-!
DEFINITION. The Choir (11_choir): the step of a slot, the queue of steps, tables, injection, capture, overruns,
and the Choir's requests.
-/

namespace Sys2Proof.Machine

/-! ### Kinds -/

/-- The code of a kind (R340). -/
def LoopKind.code : LoopKind → Nat
  | .fastAmp => 1
  | .fastPhase => 2
  | .slowPos => 3
  | .lasPwr => 4
  | .railV => 5
  | .illum => 6
  | .white => 7

/-- The kind of a code. -/
def kindOf (n : Nat) : Option LoopKind :=
  match n with
  | 1 => some .fastAmp
  | 2 => some .fastPhase
  | 3 => some .slowPos
  | 4 => some .lasPwr
  | 5 => some .railV
  | 6 => some .illum
  | 7 => some .white
  | _ => none

/-- Mirror kinds, three-channel kinds, and kinds that may have a repetitive term (R340, R354). -/
def LoopKind.mirror (k : LoopKind) : Bool := k.code ≤ 3
def LoopKind.three (k : LoopKind) : Bool := k.code = 4 || 6 ≤ k.code
def LoopKind.repOk (k : LoopKind) : Bool := k.code ≤ 3 || k.code = 5

/-- The place of a kind in the order of service (R362). -/
def LoopKind.order (k : LoopKind) : Nat :=
  match k with
  | .slowPos => 0
  | .fastAmp => 1
  | .fastPhase => 2
  | .railV => 3
  | .illum => 4
  | .lasPwr => 5
  | .white => 6

/-- The Chapel that a slot targets; RAIL_V targets a rail. -/
def LoopSt.chap (q : LoopSt) : Option Chap :=
  if q.cfg.en && q.cfg.kind != .railV then some (Fin.ofNat 4 q.cfg.target) else none

/-- Channels of a slot. -/
def LoopSt.chans (q : LoopSt) : List (Fin 3) := if q.cfg.kind.three then [0, 1, 2] else [0]

/-! ### Chime rates (R70) -/

/-- N_A of a rate code; T_C is 1,500 µs / N_A. -/
def rateN (code : Nat) : Nat := [36, 48, 60, 72, 96, 120, 144, 192, 240, 288].getD code 72

/-- The rate code and the nominal rate in Hz of a group. -/
def State.rate (s : State) (g : Fin 4) : Nat := at' s.bell.rate g
def State.chimeHz (s : State) (g : Fin 4) : Nat := rateN (s.rate g) * 2000 / 3

/-! ### The law of a step (R345 to R348) -/

/-- A coefficient of a set, IDX 0 to 8. -/
def coef (c : Coefs) (i : Fin 9) : Int := at' c i

/-- The result of one channel's step. -/
structure StepOut where
  x0 : Int
  v0 : Int
  uRaw : Int
  u : Nat
  windup : Nat
  deriving DecidableEq, Repr

/-- One channel's step: error, histories, limits. `lim` is the code of the upper limit that binds, 1 OMAX or 3
CEIL_D; `inner` says that a WHITE slot's inner channel is in windup at its upper limit. -/
def LoopSt.law (q : LoopSt) (h : LoopChan) (r y : Nat) (rep inj : Int) (omax lim : Nat) (inner : Bool) : StepOut :=
  let c := coef q.active
  let x0 : Int := if q.cfg.inv then (y : Int) - r else (r : Int) - y
  let n3 : Int := if q.order then 1 else 0
  let acc := 4 * (c 0 * x0 + c 1 * h.x1 + c 2 * h.x2 + n3 * (c 3 * h.x3)) -
    (c 4 * h.v1 + c 5 * h.v2 + n3 * (c 6 * h.v3))
  let v0 := clampI (rhu acc 16) (-131072) 131071
  let uRaw := rhu v0 2 + c 8 + rhu (c 7 * r) 16 + rep + inj
  let wind := if uRaw > omax && x0 > 0 then lim else if uRaw < q.omin && x0 < 0 then 2 else if inner then 1 else 0
  { x0 := x0, v0 := v0, uRaw := uRaw, u := (clampI uRaw q.omin omax).toNat, windup := wind }

/-- A channel after its step: in windup the histories stand, else they shift (R348). -/
def LoopChan.after (h : LoopChan) (o : StepOut) (y : Nat) : LoopChan :=
  let h1 := { h with
    x0 := o.x0
    u := o.u
    y := y
    windup := o.windup }
  if o.windup = 0 then { h1 with
    x1 := o.x0
    x2 := h.x1
    x3 := h.x2
    v1 := o.v0
    v2 := h.v1
    v3 := h.v2 }
  else h1

/-- A channel with its histories at 0. -/
def LoopChan.clear (h : LoopChan) : LoopChan :=
  { h with
    x0 := 0
    x1 := 0
    x2 := 0
    x3 := 0
    v1 := 0
    v2 := 0
    v3 := 0
    windup := 0 }

/-! ### The repetitive term (R354 to R357) -/

/-- Entry `i` of a table. -/
def LoopSt.tab (q : LoopSt) (i : Nat) : Int := q.table.getD i 0

/-- The index of a step: the Chimes since t_B, or the slot's own count. -/
def LoopSt.repI (q : LoopSt) (idx : Nat) : Nat := if q.cfg.free then q.repIdx % max q.len 1 else idx

/-- The repetitive term of a step. -/
def LoopSt.repTerm (q : LoopSt) (idx : Nat) : Int :=
  if !q.rep then 0
  else
    let i := q.repI idx
    if !q.cfg.free && q.len ≤ i + q.cfg.lead then 0 else rhu (q.tab ((i + q.cfg.lead) % max q.len 1)) 2

/-- A step updates its table's entry. -/
def LoopSt.learns (q : LoopSt) (idx windup : Nat) : Bool :=
  q.rep && q.lgain != 0 && windup = 0 && q.inj.isNone && q.repI idx < q.len

/-- The table after a step with error `x0`. -/
def LoopSt.learn (q : LoopSt) (table : List Int) (idx : Nat) (x0 : Int) : List Int :=
  let i := q.repI idx
  let t := table.getD i 0
  let f := if q.forget = 0 then 0 else rhu t (7 + q.forget)
  (padTo q.len 0 table).set i (clampI (t - f + rhu (4 * x0) q.lgain) (-32768) 32767)

/-- The key of a slot's learned table (R371). -/
def State.tabEnt (s : State) (q : LoopSt) : BankEnt :=
  { type := 1
    kind := q.cfg.kind.code
    target := q.cfg.target
    profile := match q.chap with
      | some c => (s.chap c).profile
      | none => 0xFF
    rate := s.rate q.group
    data := (padTo q.len 0 q.table).flatMap (fun v => leBytes 2 (unsgn 16 v)) }

/-- The signed 16-bit words of a stored table. -/
def tabOf (bs : List Byte) : List Int := (List.range (bs.length / 2)).map (fun i => sgn 16 (getLe bs (2 * i) 2))

/-- REP_TABLE to the owner: 1 LOADED, 2 NO_ENTRY, 3 NO_BANK, 4 ZEROED_BY_CLREP (R379). -/
def State.repTable (s : State) (i : Slot) (res : Nat) (gen : Word) : State :=
  let q := s.slot i
  s.post q.cfg.owner 0x00B3 (0x40 + i.val) none [w32 res, gen, w32 q.len, w32 (s.rate q.group)]

/-- The working table loads from the active bank (R357); with TABLE 0 it is set to zero without a load (DEDUCED,
log entry 34). -/
def State.loadTable (s : State) (i : Slot) : State :=
  let q := s.slot i
  if !(q.cfg.en && q.cfg.kind.repOk) then s
  else
    let s0 := s.modSlot i (fun q => { q with table := [], tableGen := 0 })
    if !q.cfg.table then s0
    else match s.activeBank with
    | none => s0.repTable i 3 0
    | some b =>
      let e := s.tabEnt q
      match s.bankFind (fun x n => x.type == 1 && x.kind == e.kind && x.target == e.target && x.profile == e.profile &&
          x.rate == e.rate && n == q.len) with
      | none => s0.repTable i 2 0
      | some bs =>
        (s0.modSlot i (fun q => { q with table := tabOf bs, tableGen := s.bankGen b })).repTable i 1 (s.bankGen b)

/-! ### Changing a slot's settings (R166, R343, R357) -/

/-- A slot's settings after a change. OFF clears the histories (R343); APPLY makes the whole shadow set active
(R166); a CLREP of another LEN sets the table to zero (R357). -/
def LoopSt.edit (q : LoopSt) (e : LoopEdit) : LoopSt :=
  match e with
  | .set ch v =>
    { q with
      sp := ch.elim (Vector.replicate 3 v) (fun c => upd q.sp c (fun _ => v))
      ch := ch.getD q.ch }
  | .coef i v => { q with shadow := upd q.shadow i (fun _ => v) }
  | .mode st g apply rep order =>
    { q with
      state := st
      group := g
      rep := rep
      order := order
      active := if apply then q.shadow else q.active
      eccCoef := q.eccCoef && !apply
      consec := if st == .run && q.state == .run then q.consec else 0
      repIdx := if rep && st == .run && !(q.rep && q.state == .run) then 0 else q.repIdx
      chan := if st == .off then mapTab (fun h => h.clear) q.chan else q.chan }
  | .lim lo hi => { q with omin := lo, omax := hi }
  | .rep lg f n =>
    { q with
      lgain := lg
      forget := f
      len := n
      table := if n = q.len then q.table else []
      tableGen := if n = q.len then q.tableGen else 0 }

/-- A change acts: the outputs keep the last value when the loop leaves RUN (R316), and a table loads or is zeroed
(R357). -/
def State.loopEdit (s : State) (i : Slot) (e : LoopEdit) (seq : Word) : State :=
  let q := s.slot i
  let s1 := s.modSlot i (fun q => q.edit e)
  match e with
  | .mode st g _ _ _ =>
    let s2 := if q.state == .run && st != .run then
        forEach ((s.slotOuts q).zip q.chan.toList) (fun o s => s.loopLeaves o.1 o.2.u (some seq)) s1
      else s1
    if s.rate g != s.rate q.group then s2.loadTable i else s2
  | .rep _ _ n => if n = q.len then s1 else s1.repTable i 4 0
  | _ => s1

/-- A waiting change acts at a Chime of a group: its slot is of the group, and the Bell it is due at has fired. -/
def State.editDue (s : State) (g : Fin 4) (e : Slot × LoopEdit × Word × Option Nat) : Bool :=
  (s.slot e.1).group = g && e.2.2.2.elim true (fun b => b ≤ s.bn)

/-- A Chime of a group: the changes that await it act, in their order (R73, R149). DESIGN CHOICE (log entry 94): one that
an action made in the latch step acts also where its tenant has faulted since. -/
def State.chimeEdits (s : State) (g : Fin 4) : State :=
  let xs := s.choir.late
  forEach (xs.filter (s.editDue g)) (fun x s => s.loopEdit x.1 x.2.1 x.2.2.1)
    { s with choir := { s.choir with late := xs.filter (fun e => !s.editDue g e) } }

/-! ### Start settings (R372) -/

/-- A slot at its start settings. -/
def SlotCfg.init (c : SlotCfg) : LoopSt :=
  { cfg := c
    state := if c.en then c.state else .off
    group := c.group
    order := c.order
    rep := c.rep
    shadow := c.coef
    active := c.coef
    omin := c.omin
    omax := c.omax
    sp := c.sp
    lgain := c.lgain
    forget := c.forget
    len := c.len }

/-- A slot takes its start settings and loads its table; its captures and injections end. -/
def State.slotInit (s : State) (i : Slot) : State := (s.modSlot i (fun q => q.cfg.init)).loadTable i

/-! ### Test injection (R358) -/

/-- S(k) of R358 over a quarter period, part 1. -/
def sineQ1 : List Nat :=
  [0, 101, 201, 302, 402, 503, 603, 703, 804, 904, 1005, 1105, 1205, 1305, 1406, 1506, 1606, 1706, 1806,
   1906, 2005, 2105, 2205, 2304, 2404, 2503, 2603, 2702, 2801, 2900, 2999, 3098, 3196, 3295, 3393, 3491,
   3590, 3688, 3785, 3883, 3981, 4078, 4175, 4273, 4370, 4466, 4563, 4659, 4756, 4852, 4948, 5044, 5139,
   5234, 5330, 5425, 5519, 5614, 5708, 5802, 5896, 5990, 6083, 6177, 6270, 6362, 6455, 6547, 6639, 6731,
   6822, 6914, 7005, 7095, 7186, 7276, 7366, 7456, 7545, 7634, 7723, 7811, 7900, 7988, 8075, 8162]

/-- S(k) of R358 over a quarter period, part 2. -/
def sineQ2 : List Nat :=
  [8249, 8336, 8423, 8509, 8594, 8680, 8765, 8850, 8934, 9018, 9102, 9185, 9268, 9351, 9433, 9515, 9597,
   9678, 9759, 9840, 9920, 10000, 10079, 10158, 10237, 10315, 10393, 10471, 10548, 10625, 10701, 10777,
   10852, 10927, 11002, 11076, 11150, 11224, 11297, 11369, 11441, 11513, 11585, 11655, 11726, 11796, 11865,
   11934, 12003, 12071, 12139, 12206, 12273, 12339, 12405, 12471, 12536, 12600, 12664, 12728, 12791, 12853,
   12915, 12977, 13038, 13099, 13159, 13219, 13278, 13336, 13394, 13452, 13509, 13566, 13622, 13678, 13733,
   13787, 13841, 13895, 13948, 14000, 14052, 14104, 14154, 14205]

/-- S(k) of R358 over a quarter period, part 3. -/
def sineQ3 : List Nat :=
  [14255, 14304, 14353, 14401, 14449, 14496, 14542, 14588, 14634, 14679, 14723, 14767, 14810, 14853, 14895,
   14936, 14977, 15018, 15058, 15097, 15136, 15174, 15212, 15249, 15285, 15321, 15356, 15391, 15425, 15459,
   15492, 15524, 15556, 15587, 15618, 15648, 15678, 15706, 15735, 15762, 15790, 15816, 15842, 15867, 15892,
   15916, 15940, 15963, 15985, 16007, 16028, 16048, 16068, 16088, 16106, 16124, 16142, 16159, 16175, 16191,
   16206, 16220, 16234, 16247, 16260, 16272, 16283, 16294, 16304, 16314, 16323, 16331, 16339, 16346, 16352,
   16358, 16363, 16368, 16372, 16375, 16378, 16380, 16382, 16383, 16383]

/-- S(k) of R358. -/
def sineS (k : Nat) : Int :=
  let q := fun i => (((sineQ1 ++ sineQ2 ++ sineQ3).getD i 0 : Nat) : Int)
  let k := k % 1024
  if k ≤ 256 then q k else if k ≤ 512 then q (512 - k) else if k ≤ 768 then - q (k - 512) else - q (1024 - k)

/-- The increment of a frequency in mHz at a rate in Hz. -/
def sineInc (f hz : Nat) : Int := ((f * 2 ^ 32 / (1000 * hz) : Nat) : Int)

/-- Tap bits of a PRBS order. -/
def prbsTaps (order : Nat) : List Nat :=
  match order with
  | 7 => [7, 6]
  | 8 => [8, 6, 5, 4]
  | 9 => [9, 5]
  | 10 => [10, 7]
  | 11 => [11, 9]
  | 12 => [12, 6, 4, 1]
  | 13 => [13, 4, 3, 1]
  | 14 => [14, 5, 3, 1]
  | _ => [15, 14]

/-- The PRBS bit of a state. -/
def prbsBit (order q : Nat) : Nat := (((prbsTaps order).map (fun t => nfld q (t - 1) 1)).foldl (· + ·) 0) % 2

/-- INJ at the generator's next Chime. -/
def Inj.value (j : Inj) : Int :=
  match j.kind with
  | .prbs => if prbsBit j.order j.q = 1 then j.amp else -(j.amp : Int)
  | _ => rhu (j.amp * sineS (j.phi / 2 ^ 22)) 14

/-- The generator after a Chime: none once its duration has ended. -/
def Inj.advance (j : Inj) (hz : Nat) : Option Inj :=
  let inc0 : Int := sineInc j.f0 hz
  let inc : Int := match j.kind with
    | .chirp => inc0 + (sineInc j.f1 hz - inc0) * (j.n : Int) / ((max j.dur 1 : Nat) : Int)
    | _ => inc0
  if j.n + 1 = j.dur then none
  else some { j with
    now := j.value
    n := j.n + 1
    phi := (((j.phi : Int) + inc) % (2 ^ 32 : Nat)).toNat
    q := (2 * j.q + prbsBit j.order j.q) % 2 ^ j.order }

/-! ### Capture (R198, R360, R361) -/

/-- Mask bits set. -/
def maskBits (m : Nat) : Nat := ((List.range 4).map (fun i => nfld m i 1)).foldl (· + ·) 0

/-- Bytes of a capture's buffer. -/
def Capture.bytes (c : Capture) : Nat := 2 * c.samples * maskBits c.mask

/-- A capture takes a sample: error, output, feedback and INJ of the channel recorded. -/
def State.capTake (s : State) (i : Slot) (inj : Int) : State :=
  let q := s.slot i
  match q.cap with
  | none => s
  | some c =>
    if c.done || c.samples ≤ c.taken then s
    else
      let h := if q.state == .off then {} else at' q.chan q.ch
      let vs := [(0, unsgn 16 h.x0), (1, h.u), (2, h.y), (3, unsgn 16 inj)].filter (fun e => nbit c.mask e.1)
      let s1 := s.underWrite (poolAddr c.first + 2 * maskBits c.mask * c.taken) (vs.flatMap (fun e => leBytes 2 e.2))
      s1.modSlot i (fun q => { q with cap := some { c with taken := c.taken + 1 } })

/-- CAPTURE_DONE (R361). -/
def State.captureDone (s : State) (i : Slot) : State :=
  match (s.slot i).cap with
  | none => s
  | some c =>
    if c.done || c.taken != c.samples then s
    else
      (s.modSlot i (fun q => { q with cap := some { c with done := true } })).post c.ten 0x0054 (0x40 + i.val)
        (some c.seq) [c.seq, w32 i.val, w32 (poolAddr c.first), w32 c.samples]

/-! ### Overruns (R364 to R366) -/

/-- A step overruns, by cause 1 LOAD, 2 FEEDBACK, 3 ECC. -/
def State.overrun (s : State) (i : Slot) (cause idx : Nat) : State :=
  let q := s.slot i
  let due := q.overDue && !q.overPosted
  let s1 := (s.modSlot i (fun q => { q with
    overruns := q.overruns + 1
    consec := q.consec + 1
    lastCause := cause
    overDue := false
    overPosted := q.overPosted || due })).tally 5 i.val cause 1
  if due then s1.post q.cfg.owner 0x00B0 (0x40 + i.val) none [w32 cause, w32 (q.overruns + 1), w32 (q.consec + 1), w32 idx]
  else s1

/-- LOOP_HELD: the 64th consecutive overrun of a slot of no mirror kind (R366). -/
def State.loopHeld (s : State) (i : Slot) : State :=
  let q := s.slot i
  if !(q.cfg.en && !q.cfg.kind.mirror && q.state == .run && 64 ≤ q.consec) then s
  else
    let outs := (s.slotOuts q).zip q.chan.toList
    let s1 := forEach outs (fun e s => s.loopLeaves e.1 e.2.u none) s
    (s1.modSlot i (fun q => { q with state := .hold })).post q.cfg.owner 0x00B2 (0x40 + i.val) none
      [w32 q.lastCause, w32 q.overruns]

/-! ### LOOP_SAT (R379) -/

/-- Report a channel's entry to or exit from windup where none was reported in this Bell. -/
def State.satPost (s : State) (i : Slot) (c : Fin 3) : State :=
  let q := s.slot i
  let now := (at' q.chan c).windup
  let seen := at' q.satSeen c
  if q.satPosted || (now = 0) == (seen = 0) then s
  else
    (s.modSlot i (fun q => { q with satPosted := true, satSeen := upd q.satSeen c (fun _ => now) })).post q.cfg.owner
      0x00B1 (0x40 + i.val) none
      [w32 (if now = 0 then 2 else 1), w32 c.val, w32 (if now = 0 then seen else now), w32 (at' q.chan c).u]

/-- At a Bell: the once-per-Bell marks are cleared, and a change not yet reported is reported. -/
def State.loopBell (s : State) : State :=
  forEach (allFin 16) (fun i s =>
    let s1 := s.modSlot i (fun q => { q with satPosted := false, overPosted := false })
    forEach (s1.slot i).chans (fun c s => s.satPost i c) s1) s

/-! ### Completing a step -/

/-- The WHITE slot's inner slot: the slot of its Chapel that names it as master (R349). -/
def State.innerSlot (s : State) (i : Slot) : Option Slot :=
  (allFin 16).find? (fun k => (s.slot k).cfg.en && (s.slot k).cfg.master == some i &&
    (s.slot k).cfg.target = (s.slot i).cfg.target)

/-- The inner channel is in windup at its upper limit. -/
def State.innerUp (s : State) (i : Slot) (c : Fin 3) : Bool :=
  match s.innerSlot i with
  | none => false
  | some k => (at' (s.slot k).chan c).windup = 1 || (at' (s.slot k).chan c).windup = 3

/-- The ratio hold of a WHITE slot (R350). -/
def State.ratioHold (s : State) (i : Slot) (r : Fin 3 → Nat) (y : Fin 3 → Nat) : Nat :=
  (([0, 1, 2] : List (Fin 3)).filterMap (fun c =>
    if s.innerUp i c && 0 < r c then some (min 16383 (y c * 16383 / r c)) else none)).foldl min 16383

/-- The upper limit of a channel with the code of what binds: OMAX, CEIL_D of an ILLUM channel's sink, or, while derated, the
SPAN of a laser with which TH + SPAN reaches its ceiling (R456, DEDUCED: log entry 105). -/
def State.upLimit (s : State) (q : LoopSt) (c : Fin 3) : Nat × Nat :=
  match q.cfg.kind with
  | .lasPwr =>
    match (s.slotOuts q)[c.val]?, q.chap with
    | some o, some x =>
      let lmax := (s.chap x).rec'.elim 0 (·.lMax)
      let m := s.lmaxT x lmax - (s.out o).cfg.th
      if s.lmaxT x lmax < lmax && m < q.omax then (m, 3) else (q.omax, 1)
    | _, _ => (q.omax, 1)
  | .illum =>
    match (s.slotOuts q)[c.val]? with
    | some o =>
      let m := min (s.out o).cfg.cmax (s.ceilD o)
      if m < q.omax then (m, 3) else (q.omax, 1)
    | none => (q.omax, 1)
  | _ => (q.omax, 1)

/-- A completed step writes one channel's output. -/
def State.stepWrite (s : State) (i : Slot) (c : Fin 3) (u : Nat) : State :=
  let q := s.slot i
  match q.cfg.kind with
  | .white =>
    (match s.innerSlot i with
     | some k => s.modSlot k (fun q => { q with sp := upd q.sp c (fun _ => u) })
     | none => s)
  | _ =>
    (match (s.slotOuts q)[c.val]? with
     | some o => s.loopOut o u
     | none => s)

/-- One channel of a step in service. -/
def State.stepChan (s : State) (j : StepJob) (s' : Nat) (c : Fin 3) : State :=
  match at' j.fb c with
  | none => s
  | some y =>
    let q := j.snap
    let r := if q.cfg.kind == .white then mul14 (at' j.r c) s' else at' j.r c
    let lim := s.upLimit q c
    let h := at' (s.slot j.slot).chan c
    let o := q.law h r y (q.repTerm j.idx) (q.inj.elim 0 (·.value)) lim.1 lim.2
      (q.cfg.kind == .white && s.innerUp j.slot c)
    let s1 := (s.modSlot j.slot (fun l => { l with chan := upd l.chan c (fun h => h.after o y) })).stepWrite j.slot c o.u
    let s2 := s1.satPost j.slot c
    if q.learns j.idx o.windup then
      (s2.modSlot j.slot (fun l => { l with table := q.learn l.table j.idx o.x0 })).tally 5 j.slot.val 5 1
    else s2

/-- A CLSAVE waits for its table. -/
def LoopSt.saving (q : LoopSt) : Bool := q.save.any (fun v => !v.taken)

/-- A pending CLSAVE takes the table at the end of the step of the first Chime after it (R371). -/
def State.saveTake (s : State) (i : Slot) : State :=
  let q := s.slot i
  match q.save with
  | none => s
  | some v =>
    if v.taken then s
    else
      let s1 := s.modSlot i (fun q => { q with save := some { v with taken := true } })
      { s1 with choir := { s1.choir with
          pending := s1.choir.pending ++ [{ who := .table i v.ten v.seq, ent := s.tabEnt q }] } }

/-- The end of a Chime's work on a slot, whether a step completed, overran or none fell due: its capture sample, and the
save that waited for the Chime. -/
def State.chimeEnd (s : State) (i : Slot) (take save : Bool) (inj : Int) : State :=
  let s1 := if take then s.capTake i inj else s
  if save then s1.saveTake i else s1

/-- A step completes (R346 to R350). A slot no longer in RUN takes no result. -/
def State.stepDone (s : State) (j : StepJob) : State :=
  let q := s.slot j.slot
  let s1 :=
    if q.state == .run then
      let y := fun c => (at' j.fb c).getD (at' q.chan c).y
      let s' := if q.cfg.kind == .white then s.ratioHold j.slot (at' j.r) y else 16383
      let a := forEach q.chans (fun c s => s.stepChan j s' c) s
      let wound := q.chans.any (fun c => (at' j.fb c).isSome && (at' (a.slot j.slot).chan c).windup != 0)
      ((if wound then a.tally 5 j.slot.val 4 1 else a).modSlot j.slot (fun l => { l with
        consec := 0
        overDue := true
        ratio := s' })).tally 5 j.slot.val 0 1
    else s
  s1.chimeEnd j.slot j.take j.save (j.snap.inj.elim 0 (·.value))

/-- Serve the queue for a number of Choir cycles of 2.5 ns (R362); the fuel bounds the steps. -/
def State.serve : Nat → Nat → State → State
  | 0, _, s => s
  | fuel + 1, n, s =>
    match s.choir.queue with
    | [] => s
    | j :: js =>
      if j.left ≤ n then
        State.serve fuel (n - j.left) ({ s with choir := { s.choir with queue := js } }.stepDone j)
      else if n = 0 then s
      else { s with choir := { s.choir with queue := { j with left := j.left - n, begun := true } :: js } }

/-- The Choir serves its queue up to this instant. -/
def State.choirServe (s : State) : State :=
  let s1 := if s.choir.queue.isEmpty then s else s.serve s.choir.queue.length (s.now - s.choir.servedAt)
  { s1 with choir := { s1.choir with servedAt := s.now } }

/-- Time passes until the Choir has served its queue, unless what is waited for is there. -/
def State.choirDrain (s : State) (there : State → Bool) : State :=
  if there s then s
  else (s.passTo (s.choir.servedAt + (s.choir.queue.map (·.left)).sum)).choirServe

/-- CAPTURE_DONE, of each capture whose last sample is taken. -/
def execCaptureDone (s : State) : Host.Outcome State Fault Refusal :=
  let full := fun (s : State) => s.choir.slots.toList.any (fun q => q.cap.any (fun c => !c.done && c.taken = c.samples))
  .next (forEach (allFin 16) (fun i s => State.captureDone s i) (s.choirDrain full))

/-- LOOP_HELD, of each slot that has reached 64 overruns in a row. -/
def execLoopHeld (s : State) : Host.Outcome State Fault Refusal :=
  let due := fun (s : State) => s.choir.slots.toList.any (fun q =>
    q.cfg.en && !q.cfg.kind.mirror && q.state == .run && 64 ≤ q.consec)
  .next (forEach (allFin 16) (fun i s => State.loopHeld s i) (s.choirDrain due))

/-! ### A Chime (R351, R352, R358, R360, R362) -/

/-- The cost of a slot's step in cycles. -/
def LoopSt.cost (q : LoopSt) : Nat :=
  let one := (if q.order then 48 else 40) + (if q.rep then 16 else 0) + (if q.inj.isSome then 8 else 0) +
    (if q.cap.any (fun c => !c.done && c.taken < c.samples) then 4 else 0)
  if q.cfg.kind.three then 3 * one else one

/-- Service comes before, in the order of R362. -/
def jobBefore (a b : StepJob) : Bool :=
  a.snap.cfg.kind.order < b.snap.cfg.kind.order ||
    (a.snap.cfg.kind.order == b.snap.cfg.kind.order && a.slot.val < b.slot.val)

/-- A step joins the queue; one begun is not pre-empted. -/
def joinQueue (j : StepJob) : List StepJob → List StepJob
  | [] => [j]
  | k :: ks => if !k.begun && jobBefore j k then j :: k :: ks else k :: joinQueue j ks

/-- The slow-axis reference of R290 at an instant, as whole codes and whether a fraction remains. -/
def State.slowRef (s : State) (c : Chap) : Nat × Bool :=
  let q := s.chap c
  match q.rec', q.state with
  | some p, .run =>
    (match q.frame with
     | none => (p.sTop, false)
     | some f =>
       let base := match s.bell.ann with
         | some a => a + us 1500
         | none => s.tB
       let retr := base + us 26 - us p.tRet
       if f.first && f.next = 0 then (p.sTop, false)
       else if retr ≤ s.now && s.now < base + us 26 then (p.rtab.getD ((s.now - retr) / us 4) p.sTop, false)
       else if f.next = 0 then (p.sTop, false)
       else
         let num : Int := ((p.sBot : Int) - p.sTop) * ((s.now - f.tl0 : Nat) * 256 * p.pixclk : Nat)
         let den : Int := (p.h * f.ht * 400 : Nat)
         if f.ht = 0 || den ≤ ((s.now - f.tl0) * 256 * p.pixclk : Nat) then (p.sBot, false)
         else (((p.sTop : Int) + num / den).toNat, num % den != 0))
  | some p, .stopping =>
    let d := (s.now - q.stopAt) * p.slew / us 1
    (if q.parkFrom ≤ p.sPark then min p.sPark (q.parkFrom + d) else max p.sPark (q.parkFrom - d), false)
  | some p, _ => (p.sTop, false)
  | none, _ => (0, false)

/-- The setpoints of a slot at a Chime (R340, R352); where ref(t) falls between two codes the choice is open. -/
def State.setpoints (s : State) (q : LoopSt) : Vector Nat 3 × State :=
  match q.cfg.kind with
  | .slowPos =>
    let x := s.slowRef (Fin.ofNat 4 q.cfg.target)
    if x.2 then
      let (b, s1) := s.fresh 1
      (upd q.sp 0 (fun _ => x.1 + b.toNat), s1)
    else (upd q.sp 0 (fun _ => x.1), s)
  | .railV => (upd q.sp 0 (fun _ => (min 16383 (rhu ((s.rail (Fin.ofNat 2 q.cfg.target)).vSet * q.cfg.fbscale : Nat) 12)).toNat), s)
  | _ => (q.sp, s)

/-- The last sample of a channel that a pulse has given by an instant (R351). -/
def LoopSt.pulseY (q : LoopSt) (now : Time) (c : Nat) : Option Nat :=
  ((q.samples.filter (fun x => x.1 ≤ now && x.2.1.val = c)).getLast?).map (·.2.2)

/-- The feedback of each channel at a Chime: the witness's samples, those of the pulses of its sinks, or those of the sense
converters. -/
def State.feedback (s : State) (i : Slot) (x : ChimeIn) : Vector (Option Nat) 3 :=
  match (s.slot i).cfg.kind with
  | .lasPwr | .white => (s.slot i).newY
  | .illum => Vector.ofFn (fun c => (s.slot i).pulseY s.now c.val)
  | _ => mapTabIdx (fun k (_ : Option Nat) => (fin? 3 k).bind (fun c => (x.fb.lookup (i, c)).map (· % 16384)))
      (Vector.replicate 3 none)

/-- A slot's step falls due at this Chime: at every Chime, or when a new sample has arrived (R351). -/
def LoopSt.dueNow (q : LoopSt) (fb : Vector (Option Nat) 3) : Bool :=
  q.cfg.en && q.state == .run && (!q.cfg.kind.three || fb.toList.any (·.isSome))

/-- The overrun that the sense converters or the ECC flag: FEEDBACK where a slot that steps at every Chime has no
valid sample; `ovr` 2 FEEDBACK, 3 ECC of histories, 4 of the active set, 5 of the table entry. -/
def LoopSt.flagged (q : LoopSt) (fb : Vector (Option Nat) 3) (o : Option Nat) : Option Nat :=
  if q.eccCoef then some 4
  else match o with
  | some 2 => some 2
  | some 3 => some 3
  | some 4 => some 4
  | some 5 => if q.rep then some 5 else none
  | _ => if !q.cfg.kind.three && (at' fb 0).isNone then some 2 else none

/-- The capture's sample falls on this Chime; and the capture after it. -/
def LoopSt.capDue (q : LoopSt) : Bool :=
  q.cap.elim false (fun c => !c.done && c.taken < c.samples && c.chimes % max c.decim 1 = 0)
def LoopSt.capTick (q : LoopSt) : LoopSt := { q with cap := q.cap.map (fun c => { c with chimes := c.chimes + 1 }) }

/-- A step of the Chime before that is not complete at this one overran by LOAD, and is abandoned (R364). -/
def State.slotLate (s : State) (i : Slot) (idx : Nat) : State :=
  match s.choir.queue.find? (fun j => j.slot == i) with
  | none => s
  | some j =>
    (({ s with choir := { s.choir with queue := s.choir.queue.filter (fun j => j.slot != i) } }).overrun i 1 idx).chimeEnd i
      j.take j.save (j.snap.inj.elim 0 (·.value))

/-- A slot after a Chime of its group: the generator and the capture advance whether or not a step falls due, and the
samples that have arrived are taken. -/
def LoopSt.advance (q : LoopSt) (due : Bool) (hz : Nat) (now : Time) : LoopSt :=
  { q.capTick with
    inj := q.inj.bind (fun j => j.advance hz)
    repIdx := if due && q.rep then (q.repIdx + 1) % max q.len 1 else q.repIdx
    newY := Vector.replicate 3 none
    samples := q.samples.filter (fun x => now < x.1) }

/-- A slot at a Chime of its group. -/
def State.slotChime (s : State) (i : Slot) (idx : Nat) (x : ChimeIn) : State :=
  let q := s.slot i
  let fb := s.feedback i x
  let take := q.capDue
  let inj := q.inj.elim 0 (·.value)
  let due := q.dueNow fb
  let adv := fun (s : State) => s.modSlot i (fun l => l.advance due (s.chimeHz l.group) s.now)
  if !due then (adv s).chimeEnd i take q.saving inj
  else match q.flagged fb (x.ovr.lookup i) with
  | some o =>
    let s1 := s.modSlot i (fun q => { q with
      eccCoef := q.eccCoef || o = 4
      chan := if o = 3 then mapTab LoopChan.clear q.chan else q.chan })
    (adv (s1.overrun i (if o = 2 then 2 else 3) idx)).chimeEnd i take q.saving inj
  | none =>
    let (r, s1) := s.setpoints q
    let job : StepJob :=
      { slot := i, left := q.cost, snap := s1.slot i, fb := fb, r := r, idx := idx, take := take, save := q.saving }
    adv { s1 with choir := { s1.choir with queue := joinQueue job s1.choir.queue } }

/-- The instant of the next Chime of a group, on the 2.5 ns grid (R71): the last one of an announcement falls on
t_B and is BELL_FIRE's. -/
def State.nextChime (s : State) (g : Fin 4) : Option Time :=
  match at' s.bell.anchor g with
  | none => none
  | some a =>
    let n := rateN (s.rate g)
    let k := at' s.bell.k g
    if s.bell.ann == some a && n ≤ k then none else some (a + (2 * k * 600000 + n) / (2 * n))

/-- A Chime of a group: steps not complete overrun, the changes that await the Chime act, and the steps that fall due join
the queue. -/
def State.chime (s : State) (g : Fin 4) (x : ChimeIn) : State :=
  let idx := at' s.bell.idx g
  let late := forEach (allFin 16) (fun i s => if (s.slot i).group = g then s.slotLate i idx else s) s.choirServe
  let s2 := forEach (allFin 16) (fun i s => if (s.slot i).group = g then s.slotChime i idx x else s) (late.chimeEdits g)
  s2.modBell (fun b => { b with k := upd b.k g (· + 1), idx := upd b.idx g (· + 1) })

/-- CHIME_TICK. -/
def execChimeTick (g : Fin 4) (x : ChimeIn) (s : State) : Host.Outcome State Fault Refusal :=
  .next (match s.nextChime g with
  | some t => if s.live then (s.passTo t).chime g x else s
  | none => s)

/-! ### Rate changes, Vigil -/

/-- The rate code of a group has changed: its slots load their tables (R357). -/
def State.rateChanged (s : State) (g : Fin 4) : State :=
  forEach (allFin 16) (fun i s => if (s.slot i).group = g then s.loadTable i else s) s

/-- Vigil exit: histories 0, tables load (R373). -/
def State.choirWake (s : State) : State :=
  forEach (allFin 16) (fun i s => (s.modSlot i (fun q => { q with chan := mapTab LoopChan.clear q.chan })).loadTable i)
    { s with choir := { s.choir with queue := [] } }

/-! ### Requests (R378) -/

/-- The code of a state. -/
def LoopState.code : LoopState → Nat
  | .off => 0
  | .run => 1
  | .hold => 2

/-- CL_QUERY. -/
def execClQuery (t : Ten) (s : State) : Host.Outcome State Fault Refusal :=
  .next (match s.request t 0x0501 with
  | none => s
  | some a =>
    match fin? 16 (a.getD 0 0).toNat with
    | none => s.answer t ansRange []
    | some i =>
      let q := s.slot i
      let (sp, s) := s.setpoints q
      s.answer t ansOk ([w32 (if q.cfg.en then q.cfg.kind.code else 0), w32 q.cfg.target, w32 q.cfg.owner.val,
        w32 q.state.code, w32 q.group.val, w32 (b2n q.order), w32 (b2n q.rep)] ++ sp.toList.map w32 ++
        q.chan.toList.map (fun h => w32 h.u) ++ q.chan.toList.map (fun h => i32 h.x0) ++
        [mkWord ((q.chan.toList.zipIdx).map (fun e => (b2n (e.1.windup != 0), e.2, 1))), w32 q.overruns, w32 q.consec,
         w32 (b2n (q.shadow != q.active)), q.tableGen]))

/-- CAP_READ. -/
def execCapRead (t : Ten) (s : State) : Host.Outcome State Fault Refusal :=
  .next (match s.request t 0x0502 with
  | none => s
  | some a =>
    match fin? 16 (a.getD 0 0).toNat with
    | none => s.answer t ansRange []
    | some i =>
      match (s.slot i).cap with
      | none => s.answer t ansState []
      | some c =>
        let off := (a.getD 1 0).toNat
        let n := (a.getD 2 0).toNat
        if c.ten != t then s.answer t ansClass []
        else if !c.done then s.answer t ansState []
        else if n < 2 || 1024 < n || n % 2 = 1 || c.bytes < off + n then s.answer t ansRange []
        else s.answer t ansOk (bytesWords (Memory.readN s.under (poolAddr c.first + off) n)))

end Sys2Proof.Machine
end

