-- ==== Sys2Proof/Machine/QuagalLoop.lean ====
section
/-!
DEFINITION. Loop-setup, test-injection and capture instructions (05_quagal_reference R165 to R170; 11_choir R344,
R349, R357 to R361, R376, R377).
-/

namespace Sys2Proof.Machine

/-! ### Changing a slot's settings -/

/-- The settings of a slot as last written: with the changes that await a Chime already made (log entry 94). -/
def State.slotView (s : State) (i : Slot) : LoopSt :=
  (s.choir.late.filter (fun e => e.1 == i)).foldl (fun q e => q.edit e.2.1) (s.slot i)

/-- A loop instruction's change acts from the next Chime of its slot's group; out of an action, from the Chime at t_B. A
ring's change of a slot that an action's change awaits stands after it (R73, R138, R149). -/
def loopChange (c : OpCtx) (s : State) (i : Slot) (e : LoopEdit) : State :=
  let t := some (s.bn + 1)
  let own := [(i, e, c.seq, if c.action then t else none)]
  let again := if !c.action && s.choir.late.any (fun x => x.1 == i && x.2.2.2 == t) then [(i, e, c.seq, t)] else []
  { s with choir := { s.choir with late := s.choir.late ++ own ++ again } }

/-! ### Fields and causes -/

/-- SLOT [23:20]. -/
def OpCtx.slot (c : OpCtx) : Slot := Fin.ofNat 16 (fld c.w 20 4)

/-- The causes of naming a slot: unused, or another tenant's (R147). -/
def slotCauses (c : OpCtx) (s : State) : List Nat :=
  let q := (s.slot c.slot).cfg
  if !q.en then [fSTATE] else when' (q.owner != c.ten) fOWNER

/-- The Chapel that a slot targets holds a Keystone mapping (R359). -/
def State.slotKeyed (s : State) (i : Slot) : Bool :=
  match (s.slot i).chap with
  | some c => s.key.maps.any (fun m => m.chap == c) || s.ovl.maps.any (fun m => m.chap == c)
  | none => false

/-- The injections on Chapels that the overlay shows a Keystone mapping on end, at the latch point (R359). -/
def State.injEnd (s : State) : State :=
  { s with choir := { s.choir with slots := mapTab (fun (q : LoopSt) =>
      if q.chap.any (fun c => s.ovl.maps.any (fun m => m.chap == c)) then { q with inj := none } else q) s.choir.slots } }

/-! ### Loop setup (R165 to R168, R376) -/

/-- The CLSET operand: the channel, none for all three, and the value; nothing where the format is broken (R344). -/
def clsetVal (q : LoopSt) (v : Word) : Option (Option (Fin 3) × Nat) :=
  if q.cfg.kind.three then
    (if fld v 14 16 != 0 then none
     else some (if fld v 30 2 = 3 then none else some (Fin.ofNat 3 (fld v 30 2)), fld v 0 14))
  else if fld v 14 18 != 0 then none else some (some 0, fld v 0 14)

/-- CLSET. -/
def semClset : OpSem where
  m0 := 0x00FF0000#32
  cost := fun _ => 1
  causes := fun c s =>
    let q := s.slot c.slot
    slotCauses c s ++
    (if !q.cfg.en then [] else
      when' (clsetVal q (c.reg (fld c.w 16 4))).isNone fRANGE ++
      when' (q.cfg.master.isSome || q.cfg.kind == .slowPos || q.cfg.kind == .railV) fSTATE)
  run := fun c s =>
    match clsetVal (s.slot c.slot) (c.reg (fld c.w 16 4)) with
    | some (ch, v) => loopChange c s c.slot (.set ch v)
    | none => s
def execClset (r : RingId) (s : State) : Host.Outcome State Fault Refusal := .next (s.runOp r 0x80 semClset)

/-- CLCOEF. -/
def semClcoef : OpSem where
  m0 := 0x00FF0000#32
  m1 := 0x000FFFFF#32
  cost := fun _ => 2
  range := fun c => 9 ≤ fld c.w 16 4 ||
    (fld c.w 16 4 = 8 && (sgn 20 (fld c.e1 0 20) < -16383 || 16383 < sgn 20 (fld c.e1 0 20)))
  causes := slotCauses
  run := fun c s =>
    match fin? 9 (fld c.w 16 4) with
    | some i => loopChange c s c.slot (.coef i (sgn 20 (fld c.e1 0 20)))
    | none => s
def execClcoef (r : RingId) (s : State) : Host.Outcome State Fault Refusal := .next (s.runOp r 0x81 semClcoef)

/-- The state of a code. -/
def loopState (n : Nat) : LoopState := if n = 1 then .run else if n = 2 then .hold else .off

/-- CLMODE. -/
def semClmode : OpSem where
  m0 := 0x00FFE000#32
  cost := fun _ => 2
  illegal := fun c => fld c.w 18 2 = 3
  causes := fun c s =>
    let q := s.slotView c.slot
    let st := loopState (fld c.w 18 2)
    slotCauses c s ++
    (if !q.cfg.en then [] else
      when' (fld c.w 16 2 != q.group.val && q.state != .off && st != .off) fSTATE ++
      when' (q.cfg.kind.mirror && st != .run &&
        (q.chap.elim false (fun k => (s.chap k).state == .starting || (s.chap k).state == .run))) fSTATE ++
      when' (bit c.w 14 && !q.cfg.kind.repOk) fSTATE)
  run := fun c s => loopChange c s c.slot
    (.mode (loopState (fld c.w 18 2)) (Fin.ofNat 4 (fld c.w 16 2)) (bit c.w 15) (bit c.w 14) (bit c.w 13))
def execClmode (r : RingId) (s : State) : Host.Outcome State Fault Refusal := .next (s.runOp r 0x82 semClmode)

/-- CLLIM. -/
def semCllim : OpSem where
  m0 := 0x00F00000#32
  m1 := 0x3FFF3FFF#32
  cost := fun _ => 2
  range := fun c => fld c.e1 16 14 < fld c.e1 0 14
  causes := slotCauses
  run := fun c s => loopChange c s c.slot (.lim (fld c.e1 0 14) (fld c.e1 16 14))
def execCllim (r : RingId) (s : State) : Host.Outcome State Fault Refusal := .next (s.runOp r 0x83 semCllim)

/-- CLREP. -/
def semClrep : OpSem where
  m0 := 0x00F0FF00#32
  m1 := 0x00001FFF#32
  cost := fun _ => 2
  range := fun c => fld c.e1 0 13 = 0 || 4096 < fld c.e1 0 13
  causes := slotCauses
  run := fun c s => loopChange c s c.slot (.rep (fld c.w 12 4) (fld c.w 8 4) (fld c.e1 0 13))
def execClrep (r : RingId) (s : State) : Host.Outcome State Fault Refusal := .next (s.runOp r 0x84 semClrep)

/-- CLSAVE. -/
def semClsave : OpSem where
  m0 := 0x00F00000#32
  cost := fun _ => 4
  causes := fun c s =>
    slotCauses c s ++
    (if !(s.slot c.slot).cfg.en then [] else
      when' (!(s.slot c.slot).cfg.kind.repOk || (s.slot c.slot).save.isSome) fSTATE)
  run := fun c s => s.modSlot c.slot (fun q => { q with save := some { ten := c.ten, seq := c.seq } })
def execClsave (r : RingId) (s : State) : Host.Outcome State Fault Refusal := .next (s.runOp r 0x85 semClsave)

/-! ### Test injection and capture (R169, R170, R358 to R361) -/

/-- KIND of a TINJ. -/
def tinjKind (c : OpCtx) : Nat := fld c.w 18 2

/-- Bits outside the fields of the TINJ's KIND. -/
def tinjBad (c : OpCtx) : Bool :=
  (tinjKind c = 2 && fld c.e1 5 11 != 0) || (tinjKind c = 3 && (c.e1 != 0 || c.e2 != 0))

/-- ORDER and masked SEED of a PRBS. -/
def prbsOrder (c : OpCtx) : Nat := fld c.e1 0 5
def prbsSeed (c : OpCtx) : Nat := fld c.e1 16 16 % 2 ^ prbsOrder c

/-- The values of a TINJ that no slot's state bears on. -/
def tinjRange (c : OpCtx) : Bool :=
  match tinjKind c with
  | 1 => c.e2 = 0
  | 2 => prbsOrder c < 7 || 15 < prbsOrder c || prbsSeed c = 0
  | _ => false

/-- A frequency above half the slot's Chime rate. -/
def tinjFast (c : OpCtx) (hz : Nat) : Bool :=
  match tinjKind c with
  | 0 => 500 * hz < c.e1.toNat
  | 1 => hz < 2 * fld c.e1 16 16 || hz < 2 * fld c.e1 0 16
  | _ => false

/-- The generator that a TINJ starts; OFF starts none. -/
def tinjOf (c : OpCtx) : Option Inj :=
  let amp := fld c.w 0 14
  let dur := c.e2.toNat
  match tinjKind c with
  | 0 => some { kind := .sine, amp := amp, f0 := c.e1.toNat, dur := dur }
  | 1 => some { kind := .chirp, amp := amp, f0 := 1000 * fld c.e1 16 16, f1 := 1000 * fld c.e1 0 16, dur := dur }
  | 2 => if dur = 0 then none else some { kind := .prbs, amp := amp, q := prbsSeed c, order := prbsOrder c, dur := dur }
  | _ => none

/-- TINJ. -/
def semTinj : OpSem where
  m0 := 0x00FC3FFF#32
  m1 := 0xFFFFFFFF#32
  m2 := 0xFFFFFFFF#32
  cost := fun _ => 8
  illegal := tinjBad
  range := tinjRange
  causes := fun c s =>
    slotCauses c s ++
    (if !(s.slot c.slot).cfg.en then [] else
      when' (tinjFast c (s.chimeHz (s.slotView c.slot).group)) fRANGE ++
      when' ((s.slotView c.slot).state == .off || s.slotKeyed c.slot) fSTATE)
  run := fun c s => s.modSlot c.slot (fun q => { q with inj := tinjOf c })
def execTinj (r : RingId) (s : State) : Host.Outcome State Fault Refusal := .next (s.runOp r 0x90 semTinj)

/-- The capture that a TCAP arms, from a unit of the pool. -/
def tcapOf (c : OpCtx) (first : Nat) : Capture :=
  let x : Capture := { ten := c.ten, seq := c.seq, mask := fld c.w 16 4, decim := fld c.e1 16 16,
                       samples := fld c.e1 0 16, first := first, units := 0 }
  { x with units := cdiv x.bytes 1024 }

/-- TCAP. -/
def semTcap : OpSem where
  m0 := 0x00FF0000#32
  m1 := 0xFFFFFFFF#32
  cost := fun _ => 4
  range := fun c => fld c.w 16 4 = 0 || fld c.e1 16 16 = 0 || 256 < fld c.e1 16 16 || fld c.e1 0 16 = 0
  causes := fun c s =>
    slotCauses c s ++
    (if !(s.slot c.slot).cfg.en then [] else
      when' ((s.slot c.slot).cap.isSome || s.slotKeyed c.slot) fSTATE ++
      when' (poolFit s.poolUsed (tcapOf c 0).units).isNone fRESOURCE)
  run := fun c s =>
    match poolFit s.poolUsed (tcapOf c 0).units with
    | some u => s.modSlot c.slot (fun q => { q with cap := some (tcapOf c u) })
    | none => s
def execTcap (r : RingId) (s : State) : Host.Outcome State Fault Refusal := .next (s.runOp r 0x91 semTcap)

/-- TREL. -/
def semTrel : OpSem where
  m0 := 0x00F00000#32
  cost := fun _ => 2
  causes := slotCauses
  run := fun c s => s.modSlot c.slot (fun q => { q with cap := none })
def execTrel (r : RingId) (s : State) : Host.Outcome State Fault Refusal := .next (s.runOp r 0x92 semTrel)

end Sys2Proof.Machine
end

