-- ==== Sys2Proof/Machine/QuagalBell.lean ====
section
/-!
DEFINITION. Bell and schedule instructions (02_bell R79 to R86; 04_quagal_model R136, R137; 05_quagal_reference R150).
-/

namespace Sys2Proof.Machine

/-! ### Points of a Bell -/

/-- A point of Bell `b` has passed. -/
def State.passed (s : State) (pt : BellPoint) (b : Nat) : Bool :=
  b ≤ s.bn || (b = s.bn + 1 && s.bell.ann.isSome && (match pt with
    | .fire => false
    | .announce => true
    | .latch => s.bell.latchDone))

/-- The next Bell whose point has not passed. -/
def State.nextPoint (s : State) (pt : BellPoint) : Nat := if s.passed pt (s.bn + 1) then s.bn + 2 else s.bn + 1

/-- A wait of a ring has ended (R79, R80). -/
def State.waitDone (s : State) (q : RingSt) (w : Wait) : Bool :=
  match w with
  | .bell pt b _ => s.passed pt b
  | .fence 1 b => s.passed .announce b
  | .fence 2 b => s.passed .fire b
  | .fence 3 _ => q.ats.isEmpty
  | .fence _ _ => true

/-- A ring that waits may go on: a WAITB on LATCH is released from 240 µs before the Bell on (R66). -/
def State.released (s : State) (w : Wait) : Bool :=
  match w with
  | .bell .latch b _ => b ≤ s.bn || s.bell.ann.any (fun a => a + us 1260 ≤ s.now)
  | _ => true

/-- The Bell that two extension words name. -/
def targetOf (lo hi : Word) : Nat := lo.toNat + fld hi 0 16 * 2 ^ 32

/-- An instruction that ends a wait: it retires with its predicate at 1 (R79, R131). -/
def semEndWait (w : Wait) : OpSem where
  m0 := 0xFFFFFFFF#32
  m1 := 0xFFFFFFFF#32
  m2 := 0xFFFFFFFF#32
  cost := fun _ => 1
  run := fun c s => match w with
    | .bell _ _ p => s.setPred c.ring p.val true
    | .fence _ _ => s

/-- The end of a ring's wait: its instruction retires, charged to the period in which it does. -/
def State.endWait (s : State) (r : RingId) : State :=
  match (s.ring r).wait with
  | none => s
  | some w =>
    if !s.ringReady r || !s.waitDone (s.ring r) w || !s.released w then s
    else
      let s1 := s.modRing r (fun q => { q with wait := none })
      match s1.atPc r with
      | .op c _ => s1.runOp r (opOf c.w) (semEndWait w)
      | _ => s1

/-- Every ring whose wait has ended goes on, in ascending ring number. -/
def State.releaseWaits (s : State) : State := forEach (allFin 16) (fun r s => s.endWait r) s

/-- WAITB or FENCE at the PC of a ring: it faults, waits, or retires at once. -/
def State.runWait (s : State) (r : RingId) (op : Nat) (o : OpSem) (wait : OpCtx → State → Wait) : State :=
  match (s.ring r).wait, s.atPc r with
  | some _, _ => s.endWait r
  | none, .op c _ =>
    if opOf c.w != op || !(o.allCauses c s).isEmpty || s.waitDone (s.ring r) (wait c s) then s.runOp r op o
    else (s.keepFetched r).modRing r (fun q => { q with wait := some (wait c s) })
  | none, _ => s.runOp r op o

/-! ### WAITB -/

/-- The point and the Bell that a WAITB names. -/
def waitOf (c : OpCtx) (s : State) : Wait :=
  let pt : BellPoint := match fld c.w 22 2 with
    | 0 => .fire
    | 1 => .announce
    | _ => .latch
  .bell pt (if bit c.w 21 then targetOf c.e1 c.e2 else s.nextPoint pt + fld c.w 0 16 - 1) (Fin.ofNat 4 (fld c.w 19 2))

/-- WAITB: what it does when its ABS target's point has passed. -/
def semWaitb : OpSem where
  m0 := 0x00F8FFFF#32
  m1 := 0xFFFFFFFF#32
  m2 := 0x0000FFFF#32
  cost := fun _ => 1
  illegal := fun c => fld c.w 22 2 = 3 || (bit c.w 21 != (fld c.w 0 16 = 0))
  causes := fun c s => when' (bit c.w 21 && s.bn + 65535 < targetOf c.e1 c.e2) fRANGE
  run := fun c s => s.setPred c.ring (fld c.w 19 2) false
def execWaitb (r : RingId) (s : State) : Host.Outcome State Fault Refusal := .next (s.runWait r 0x30 semWaitb waitOf)

/-! ### FENCE -/

/-- The Bell to which a COMMIT of this instant belongs (R60). -/
def State.commitBell (s : State) : Nat := s.nextPoint .announce

/-- What a FENCE waits for: FROZEN and SHOWN name the Bell of the tenant's latest COMMIT. -/
def fenceOf (c : OpCtx) (s : State) : Wait :=
  let q := s.ten c.ten
  .fence (fld c.w 22 2) (if q.commit.isSome then s.commitBell else q.frozenBell)

/-- FENCE. -/
def semFence : OpSem where
  m0 := 0x00C00000#32
  cost := fun _ => 1
  run := fun _ s => s
def execFence (r : RingId) (s : State) : Host.Outcome State Fault Refusal := .next (s.runWait r 0x32 semFence fenceOf)

/-! ### COMMIT (R60, R61, R83) -/

/-- A check rectangle's CHKV takes the SEQ of the commit that carries it. -/
def ChkCfg.stamp (k : ChkCfg) (old : Option Word) (seq : Word) : ChkCfg :=
  if k.crc.isSome && (k.seq.isNone || k.seq == old) then { k with seq := some seq } else k

/-- A tenant's pending changes are closed into its commit for the Bell not yet announced. -/
def State.takeCommit (s : State) (t : Ten) (seq : Word) : State :=
  let old := (s.ten t).commit
  let layer := fun (l : Layer) => if l.holder == some t then { l with taken := some l.work } else l
  let rect := fun (x : RectSt) =>
    if x.owner == .ten t then
      let w := x.work.map (fun k => k.stamp old seq)
      { x with
        work := w
        taken := some w }
    else x
  let wide := fun (q : ChapSt) =>
    let n := at' q.wideWork t
    let o := at' q.wideTaken t
    { q with
      wideTaken := upd q.wideTaken t (fun _ => { bg := n.bg.orElse (fun _ => o.bg), dith := n.dith.orElse (fun _ => o.dith) })
      wideWork := upd q.wideWork t (fun _ => {}) }
  let s1 : State := { s with chaps := mapTab (fun (q : ChapSt) => { wide q with
    layers := mapTab layer q.layers
    rects := mapTab rect q.rects }) s.chaps }
  let s2 := s1.modSurfs t (fun xs => xs.map (fun x => (x.1, { x.2 with genTaken := some x.2.gen })))
  (s2.modTen t (fun q => { q with commit := some seq })).runAhead t seq

/-- COMMIT. -/
def semCommit : OpSem where
  cost := fun _ => 2
  causes := fun c s => when' ((s.ten c.ten).cring != c.ring.val) fWRONG
  run := fun c s => s.takeCommit c.ten c.seq
def execCommit (r : RingId) (s : State) : Host.Outcome State Fault Refusal := .next (s.runOp r 0x33 semCommit)

/-! ### BPART, BWIN, CHIME -/

/-- BPART. -/
def semBpart : OpSem where
  m0 := 0x008F0000#32
  cost := fun _ => 1
  causes := fun c s => when' (bit c.w 23 &&
    (fin? 16 (fld c.w 16 4)).elim true (fun r => (s.ring r).owner != some c.ten)) fRANGE
  run := fun c s => s.modTen c.ten (fun q => { q with
    part := bit c.w 23
    cring := if bit c.w 23 then fld c.w 16 4 else q.cring })
def execBpart (r : RingId) (s : State) : Host.Outcome State Fault Refusal := .next (s.runOp r 0x34 semBpart)

/-- The limits before the BWINs of this instant (R62). -/
def State.winBefore (s : State) : Option (Time × Nat × Nat) :=
  if s.bell.winAt.any (fun x => x.1 == s.now) then s.bell.winAt else some (s.now, s.floorEff, s.ceilEff)

/-- BWIN: 10 µs are 250 reference cycles. -/
def semBwin : OpSem where
  m0 := 0x003FFFFF#32
  cost := fun _ => 1
  range := fun c =>
    let f := fld c.w 11 11
    let k := fld c.w 0 11
    k < 834 || 2000 < k || (f != 0 && (f < 834 || 2000 < f || k < f))
  run := fun c s => (s.modTen c.ten (fun q => { q with
    floorReq := if fld c.w 11 11 = 0 then 208334 else 250 * fld c.w 11 11
    ceilReq := 250 * fld c.w 0 11 })).modBell (fun b => { b with winAt := s.winBefore })
def execBwin (r : RingId) (s : State) : Host.Outcome State Fault Refusal := .next (s.runOp r 0x35 semBwin)

/-- CHIME: the highest code of those before an announcement applies (R86). -/
def semChime : OpSem where
  m0 := 0x00FC0000#32
  cost := fun _ => 1
  range := fun c => 10 ≤ fld c.w 18 4
  run := fun c s => s.modBell (fun b => { b with
    pendRate := upd b.pendRate (Fin.ofNat 4 (fld c.w 22 2)) (fun x => some (max (x.getD 0) (fld c.w 18 4))) })
def execChime (r : RingId) (s : State) : Host.Outcome State Fault Refusal := .next (s.runOp r 0x36 semChime)

/-! ### AT (R73 to R75, R81, R82, R136, R137) -/

/-- The meaning of an action word; none for an opcode that an action may not hold (R150). -/
def semOf (op : Nat) : Option OpSem :=
  match op with
  | 0x40 => some semSdef
  | 0x41 => some semSref
  | 0x42 => some semSgen
  | 0x43 => some semSfree
  | 0x44 => some semSput
  | 0x48 => some semLnew
  | 0x49 => some semLdel
  | 0x4A => some semLsrc
  | 0x4B => some semLdst
  | 0x4C => some semLdstr
  | 0x4D => some semLvis
  | 0x4E => some semLfall
  | 0x4F => some semLflat
  | 0x50 => some semLvid
  | 0x51 => some semBgcol
  | 0x52 => some semChkr
  | 0x53 => some semChkv
  | 0x60 => some semLblend
  | 0x61 => some semLscale
  | 0x62 => some semDith
  | 0x63 => some semLpri
  | 0x70 => some semDrvtgt
  | 0x71 => some semDrvduty
  | 0x72 => some semDrvdim
  | 0x73 => some semDrvderate
  | 0x74 => some semDrvrail
  | 0x80 => some semClset
  | 0x81 => some semClcoef
  | 0x82 => some semClmode
  | 0x83 => some semCllim
  | 0x84 => some semClrep
  | 0x85 => some semClsave
  | 0xA0 => some semKset
  | 0xA1 => some semKsetm
  | 0xA2 => some semKmap
  | 0xA3 => some semKload
  | 0xA4 => some semKwit
  | 0xA5 => some semKprime
  | 0xB0 => some semRtag
  | _ => none

/-- The context of an action word at an index of its action's words. -/
def actCtx (r : RingId) (t : Ten) (seq : Word) (g : Vector Word 16) (i : Nat) (ws : List Word) : OpCtx :=
  { ring := r, ten := t, seq := seq, pos := i, w := ws.getD 0 0, e1 := ws.getD 1 0, e2 := ws.getD 2 0, g := g, action := true }

/-- The causes found in an action at its AT's retirement: those of decoding, and an operand out of range (R136,
R150). An extension word beyond the action is TRUNC where it is beyond the packet too, `room` words after the action,
else ILLEGAL, and the words go on behind a word that an action may not hold, counted as one (DEDUCED, log entry 42). -/
def State.actCauses (s : State) (r : RingId) (t : Ten) (seq : Word) (g : Vector Word 16) (room : Nat) :
    Nat → List Word → List Nat
  | 0, _ => []
  | _, [] => []
  | fuel + 1, w :: ws =>
    match semOf (opOf w) with
    | none => fILLEGAL :: s.actCauses r t seq g room fuel ws
    | some o =>
      let n := opWords w
      let c := actCtx r t seq g 0 (w :: ws)
      if ws.length + 1 < n then [if room < n - (ws.length + 1) then fTRUNC else fILLEGAL]
      else o.decodeCauses c s ++ when' (o.range c) fRANGE ++ s.actCauses r t seq g room fuel (ws.drop (n - 1))

/-- The action words and the target of an AT. -/
def atWords (c : OpCtx) : List Word := if bit c.w 22 then c.acts.drop 2 else c.acts
def atTarget (c : OpCtx) (s : State) : Nat := if bit c.w 22 then targetOf c.e1 c.e2 else s.bn + fld c.w 0 16

/-- The latch step that runs an action queued now: its target's, or the next one when that has passed. -/
def State.latchFor (s : State) (target : Nat) : Nat := if s.passed .latch target then s.nextPoint .latch else target

/-- Action words of a tenant due at one latch step. -/
def State.atTotal (s : State) (t : Ten) (b : Nat) : Nat :=
  ((allFin 16).map (fun r => if (s.ring r).owner == some t then
    (((s.ring r).ats.filter (fun a => a.runAt = b)).map (·.words.length)).sum else 0)).sum

/-- A late AT with STRICT is discarded. -/
def atMissed (c : OpCtx) (s : State) : Bool := bit c.w 23 && s.passed .latch (atTarget c s)

/-- Words of the packet after an instruction. -/
def State.roomAfter (s : State) (c : OpCtx) : Nat := (s.ring c.ring).pkt.elim 0 (fun p => p.len - (c.pos + opWords c.w))

/-- AT. -/
def semAt : OpSem where
  m0 := 0x00FFFFFF#32
  m1 := 0xFFFFFFFF#32
  m2 := 0xFFFFFFFF#32
  cost := fun c => 2 + fld c.w 16 6
  illegal := fun c => fld c.w 16 6 = 0 || (bit c.w 22 != (fld c.w 0 16 = 0)) || (bit c.w 22 && fld c.e2 16 16 != 0)
  causes := fun c s =>
    s.actCauses c.ring c.ten c.seq c.g (s.roomAfter c) 64 (atWords c) ++
    when' (bit c.w 22 && s.bn + 65535 < atTarget c s) fRANGE ++
    when' (16 ≤ (s.ring c.ring).ats.length ||
      (!atMissed c s && 256 < s.atTotal c.ten (s.latchFor (atTarget c s)) + (atWords c).length)) fATQ
  run := fun c s =>
    let target := atTarget c s
    let runAt := s.latchFor target
    if atMissed c s then
      (s.tally 1 c.ring.val 5 1).post c.ten 0x0042 c.ring.val (some c.seq) [c.seq, w32 target, w32 (runAt - target)]
    else s.modRing c.ring (fun q => { q with ats := q.ats ++
      [AtAct.mk target runAt (bit c.w 23) c.seq (atWords c) c.g] })
def execAt (r : RingId) (s : State) : Host.Outcome State Fault Refusal := .next (s.runOp r 0x31 semAt)

/-! ### The actions of a latch step (R74, R138, R139) -/

/-- The words of an action run in order; one that fails is reported and ends the action. -/
def State.runWords (s : State) (r : RingId) (t : Ten) (a : AtAct) : Nat → Nat → List Word → State
  | 0, _, _ => s
  | _, _, [] => s
  | fuel + 1, i, w :: ws =>
    let c := actCtx r t a.seq a.regs i (w :: ws)
    match semOf (opOf w) with
    | none => s
    | some o =>
      match lowest (o.allCauses c s) with
      | some f => s.post t 0x0017 r.val (some a.seq) [a.seq, w32 f, w32 i, w32 a.target]
      | none => (o.run c s).runWords r t a fuel (i + opWords w) (ws.drop (opWords w - 1))

/-- Put an action into its place among actions by the serial order of their SEQs; equal ones keep their order. -/
def atInsert (x : RingId × AtAct) : List (RingId × AtAct) → List (RingId × AtAct)
  | [] => [x]
  | y :: ys => if precedes x.2.seq y.2.seq then x :: y :: ys else y :: atInsert x ys

/-- A tenant's actions due in the latch step of Bell `b`, in the order of R74. -/
def State.dueActs (s : State) (t : Ten) (b : Nat) : List (RingId × AtAct) :=
  let all := (allFin 16).flatMap (fun r => if (s.ring r).owner == some t then
    ((s.ring r).ats.filter (fun a => a.runAt ≤ b)).map (fun a => (r, a)) else [])
  all.foldl (fun acc x => atInsert x acc) []

/-- One action runs; LATE is posted where it runs after its target. -/
def State.runAct (s : State) (t : Ten) (b : Nat) (x : RingId × AtAct) : State :=
  let r := x.1
  let a := x.2
  let s1 := (s.runWords r t a 64 0 a.words).tally 1 r.val 3 1
  if a.target < b then (s1.tally 1 r.val 4 1).post t 0x0041 r.val (some a.seq) [a.seq, w32 a.target, w32 (b - a.target)]
  else s1

/-- The due actions of the latch step of Bell `b`, tenant by tenant; a faulted tenant's are held (R110). -/
def State.latchActs (s : State) (b : Nat) : State :=
  forEach s.bound (fun t s =>
    if (s.ten t).faulted then s
    else
      let due := s.dueActs t b
      let s1 : State := { s with rings := mapTab (fun (q : RingSt) =>
        if q.owner == some t then { q with ats := q.ats.filter (fun a => b < a.runAt) } else q) s.rings }
      forEach due (fun x s => s.runAct t b x) s1) s

end Sys2Proof.Machine
end

