-- ==== Sys2Proof/Machine/Chain.lean ====
section
/-!
DEFINITION. The Halser chain (18_halser_chain R577 to R604; 05_quagal_reference R179, R180): links, addresses,
marks, messages and sweeps. The operand `d` of a frame says the port it came by: true the D port, false the U port.
-/

namespace Sys2Proof.Machine

/-! ### Ports and frames -/

/-- A port has a link; a node without an address treats its D port as down (R580). -/
def State.linkUp (s : State) (d : Bool) : Bool :=
  if d then s.chain.d.up && s.chain.addr.isSome else s.chain.u.up

/-- Send a frame on a port with a link. -/
def State.chSend (s : State) (d : Bool) (f : ChFrame) : State :=
  if !s.linkUp d then s
  else if d then s.modChain (fun c => { c with outD := c.outD ++ [f] })
  else s.modChain (fun c => { c with outU := c.outU ++ [f] })

/-- The node's address, 0 for the head. -/
def State.chAddr (s : State) : Nat := s.chain.addr.getD 0

/-- The direction of a destination: down for a greater address (R583). -/
def State.toward (s : State) (dest : Nat) : Bool := s.chAddr < dest

/-- Forward a frame through the other port (R583). -/
def State.chForward (s : State) (d : Bool) (f : ChFrame) : State := s.chSend (!d) f

/-- A frame is received: counted, and an unaddressed node forwards and takes nothing (R580). A frame with a wrong CRC is
discarded, and one not addressed to this node alone (`mine`) goes on with a K30.7 ending (R583). -/
def State.chRecv (s : State) (d : Bool) (f : ChFrame) (mine : Bool) (k : State → State) : State :=
  if !s.live && s.power.state != .vigil then s
  else if !(if d then s.chain.d.up else s.chain.u.up) then s
  else
    let s1 := s.tally 9 (b2n d) 0 1
    let s2 := if f.ending == .k30 then s1.tally 9 (b2n d) 1 1 else s1
    if s2.chain.addr.isNone then s2
    else if f.ending == .good then k s2
    else if mine || !s2.linkUp (!d) then s2
    else (s2.chForward d { f with ending := .k30 }).tally 9 (b2n (!d)) 1 1

/-- HAL_LINK (R604): a port came up (1) or went down (2). -/
def State.halLink (s : State) (d : Bool) (what : Nat) : State :=
  s.postAll 0x0122 (0xB0 + b2n d) none
    [mkWord [(b2n d, 8, 8), (what, 0, 8)], s.chain.addr.elim Config.unaddressed w32, w32 s.chain.length]

/-- The tail, with its D port down, returns the chain length (R579). -/
def State.chTail (s : State) : State :=
  let n := s.chAddr + 1
  (s.modChain (fun c => { c with length := n })).chSend false
    { type := 0x02, up := true, dest := 0, src := s.chAddr, words := [w32 n] }

/-- Give the chain below its addresses: ENUM on D, or the tail's answer (R579). -/
def State.chEnumDown (s : State) : State :=
  if s.chain.d.up then s.chSend true { type := 0x01, words := [w32 (s.chAddr + 1)] } else s.chTail

/-- Node 0 enumerates. -/
def State.chEnumerate (s : State) : State := if s.chain.u.up then s else s.chEnumDown

/-- The loss of the chain Bell (R588, R600). -/
def State.chLoss (s : State) : State :=
  let s1 := s.modChain (fun c => { c with
    following := false
    lost := true
    lossAt := s.now
    expect := none
    annAt := none
    fireAt := none })
  let s2 := s1.postAll 0x0123 0xB0 none [1, s.bn32, s.chain.cbOff]
  let head := s.bn32 + s.chain.cbOff
  s2.modChain (fun c => { c with
    sweep := match c.sweep with
      | some w =>
        if w.complete || w.held then some w
        else if precedes head w.start then none
        else some { w with lostStep := true }
      | none => none })

/-! ### Links (R578, R579, R599) -/

/-- A port comes up after its commas and ECHO exchanges; a cable delay above 100 ns is refused. A node whose U
port is up is no longer node 0 and waits for ENUM. -/
def State.chLinkUp (s : State) (d : Bool) (delay : Nat) : State :=
  if !s.chain.cfg.en || 100 < delay || (if d then s.chain.d.up else s.chain.u.up) then s else
  let p : ChainPort := { up := true, delay := delay }
  let s1 := s.modChain (fun c => if d then { c with d := p } else { c with u := p })
  (s1.halLink d 1).chEnumerate
def execLinkUp (d : Bool) (delay : Nat) (s : State) : Host.Outcome State Fault Refusal := .next (s.chLinkUp d delay)

/-- A port goes down after 10 µs without a valid symbol. Without U the node is node 0 and loses the chain Bell;
without D it tells node 0 with BREAK. -/
def State.chLinkDown (s : State) (d : Bool) : State :=
  if !(if d then s.chain.d.up else s.chain.u.up) then s else
  let s1 := s.modChain (fun c => if d then { c with d := {} } else { c with u := {}, addr := some 0 })
  let s2 := (s1.halLink d 2).tally 9 (b2n d) 3 1
  let s3 := if !d && s.chain.following then s2.chLoss else s2
  let s4 := if d then s3.chSend false { type := 0x05, up := true, src := s.chAddr, words := [w32 s.chAddr] } else s3
  let s5 := if d && s4.chain.run.isSome && s4.chAddr = 0 then
      s4.modChain (fun c => { c with run := c.run.map (fun r => if r.first = 0 then { r with break' := some 0 } else r) }) else s4
  if d && s5.chain.u.up then s5.chTail else s5.chEnumerate
def execLinkDown (d : Bool) (s : State) : Host.Outcome State Fault Refusal := .next (s.chLinkDown d)

/-- ECHO: the one-way delay is half the round trip less the far node's turnaround, in ns (R578). -/
def State.chEcho (s : State) (d : Bool) (rt : Nat) : State :=
  s.modChain (fun c => if d then { c with d := { c.d with delay := rt / 2 } } else { c with u := { c.u with delay := rt / 2 } })
def execEcho (d : Bool) (rt : Nat) (s : State) : Host.Outcome State Fault Refusal := .next (s.chEcho d rt)

/-- ENUM arrives on U: the node takes the value, and passes it on plus one (R579, R580). -/
def State.chEnum (s : State) (v : Nat) : State :=
  if !s.chain.u.up then s else
  let s1 := s.tally 9 0 0 1
  if 4096 ≤ v then s1.modChain (fun c => { c with addr := none })
  else
    let new := s.chain.addr != some v
    let s2 := (s1.modChain (fun c => { c with addr := some v })).chEnumDown
    if new then s2.halLink false 1 else s2
def execEnum (v : Nat) (s : State) : Host.Outcome State Fault Refusal := .next (s.chEnum v)

/-- ENUM_TAIL: up to node 0, which returns it down to every node (R579). -/
def State.chEnumTail (s : State) (d : Bool) (f : ChFrame) : State :=
  s.chRecv d f (s.chAddr = 0) (fun s =>
    let s1 := s.modChain (fun c => { c with length := (f.words.getD 0 0).toNat })
    if d && s.chAddr = 0 then s1.chSend true { f with up := false } else s1.chForward d f)
def execEnumTail (d : Bool) (f : ChFrame) (s : State) : Host.Outcome State Fault Refusal := .next (s.chEnumTail d f)

/-! ### Marks (R581, R585, R588 to R590) -/

/-- The first edge of the 40 ns grid at or after an instant. -/
def grid (t : Time) : Time := cdiv t 16 * 16

/-- Departure of a mark from this node's D port: 400 ns after the upstream node's, cable delay counted (R581).
Cable delays are in ns; the departure is taken on the 2.5 ns grid. -/
def State.markDep (s : State) : Time := s.now + 160 - s.chain.u.delay * 2 / 5

/-- The node forwards marks: it follows, or is no follower because FOLLOW is clear (R589). -/
def State.forwards (s : State) : Bool := s.chain.u.up && (s.chain.following || !s.chain.cfg.follow)

/-- Forward a mark: 1 ANNOUNCE, 2 BELL. -/
def State.markForward (s : State) (k : Nat) : State :=
  if s.forwards && s.chain.d.up then
    (s.modChain (fun c => { c with marks := c.marks ++ [(k, s.markDep)] })).tally 9 1 2 1
  else s

/-- An ANNOUNCE mark on U. A follower will announce; a node that lost the chain Bell follows again (R590). -/
def State.chAnnounceMark (s : State) : State :=
  let c := s.chain
  if !c.u.up then s else
  let may := c.cfg.follow && c.addr.isSome && s.chAddr != 0 && s.bell.ann.isNone &&
    (match s.bell.lastAt with
     | some b => b + cyc s.floorEff ≤ s.now + us 1500
     | none => true)
  let s1 := if c.following || !may then s else
    (s.modChain (fun c => { c with following := true, lost := false })).postAll 0x0123 0xB0 none
      [2, s.bn32, c.cbOff]
  let s2 := if s1.chain.following then
      s1.modChain (fun c => { c with annAt := some (grid (s.markDep + us 2)), expect := some (s.now + us 1500) })
    else s1
  s2.markForward 1
def execAnnounceMark (s : State) : Host.Outcome State Fault Refusal := .next s.chAnnounceMark

/-- A BELL mark on U: a follower fires 2 µs past the mark's departure from its D port. -/
def State.chBellMark (s : State) : State :=
  if !s.chain.u.up then s else
  let s1 := if s.chain.following then
      s.modChain (fun c => { c with
        fireAt := some (grid (s.markDep + us 2))
        lastMark := some s.now
        expect := none
        skew := ((grid (s.markDep + us 2) : Int) - (s.markDep + us 2 : Nat)) * 5 / 2 })
    else s.modChain (fun c => { c with lastMark := some s.now })
  s1.markForward 2
def execBellMark (s : State) : Host.Outcome State Fault Refusal := .next s.chBellMark

/-- A follower loses the chain Bell: U down, or no BELL mark 2 µs after the instant it was expected (R588). -/
def State.chainBellLoss (s : State) : State :=
  if !s.chain.following then s
  else if !s.chain.u.up then s.chLoss
  else match s.chain.expect with
  | some e => (s.passTo (e + us 2 + 1)).chLoss
  | none => s
def execChainBellLoss (s : State) : Host.Outcome State Fault Refusal := .next s.chainBellLoss

/-- An ANNOUNCE frame: CB_OFF is the head's BELLNO of the announced Bell less the local one (R586). -/
def State.chAnnounceFrame (s : State) (d : Bool) (f : ChFrame) : State :=
  s.chRecv d f false (fun s =>
    (s.modChain (fun c => { c with cbOff := f.words.getD 0 0 - (s.bn32 + 1) })).chForward d f)
def execAnnounceFrame (d : Bool) (f : ChFrame) (s : State) : Host.Outcome State Fault Refusal :=
  .next (s.chAnnounceFrame d f)

/-- A FLOOR frame reaches node 0 (R587). -/
def State.chFloorFrame (s : State) (d : Bool) (f : ChFrame) : State :=
  s.chRecv d f (s.chAddr = 0) (fun s =>
    if s.chAddr != 0 then s.chForward d f
    else
      let v := (f.words.getD 0 0).toNat
      s.modChain (fun c => { c with floors := if v = 0 then dropKey f.src c.floors else putKey f.src v c.floors }))
def execFloorFrame (d : Bool) (f : ChFrame) (s : State) : Host.Outcome State Fault Refusal :=
  .next (s.chFloorFrame d f)

/-- A following node tells node 0 its floor when it changes (R587); `us` is 0 while no Scan Chapel runs. -/
def State.chFloorSend (s : State) : State :=
  let v := cdiv (s.ownFloor) 25
  if s.chain.following && v != s.chain.floorSent then
    (s.modChain (fun c => { c with floorSent := v })).chSend false
      { type := 0x04, up := true, src := s.chAddr, words := [w32 v] }
  else s

/-- A BREAK frame reaches node 0, which enumerates again (R579, R599). -/
def State.chBreak (s : State) (d : Bool) (f : ChFrame) : State :=
  s.chRecv d f (s.chAddr = 0) (fun s =>
    if s.chAddr != 0 then s.chForward d f
    else
      let a := (f.words.getD 0 0).toNat
      (s.modChain (fun c => { c with
        run := c.run.map (fun r =>
          if r.first ≤ a && a ≤ r.last then { r with break' := some (min a (r.break'.getD a)) } else r) })).chEnumerate)
def execBreakFrame (d : Bool) (f : ChFrame) (s : State) : Host.Outcome State Fault Refusal := .next (s.chBreak d f)

/-! ### Messages (R591 to R594) -/

/-- Deliver a message to a tenant: 0 DELIVERED, 2 FULL, 3 NO_TENANT (R593). -/
def State.deliver (s : State) (t : Ten) (src : Nat) (ws : List Word) : State × Nat :=
  if !(s.isCls t .safety || s.isCls t .service) then (s, 3)
  else
    let q := at' s.chain.rx t
    if 32 ≤ q.length then (s, 2)
    else
      let s1 := s.modChain (fun c => { c with rx := upd c.rx t (fun q => q ++ [{ src := src, words := ws }]) })
      (if q.isEmpty then s1.post t 0x0120 (0xB0 + b2n (s.toward src)) none [w32 src, 1] else s1, 0)

/-- The MSG frame of a queued message. -/
def msgFrame (src : Nat) (t : Ten) (m : ChMsg) (up : Bool) : ChFrame :=
  { type := 0x10, up := up, dest := m.dest, src := src, tnt := t, words := m.mseq :: m.words }

/-- A sent message fails: HMSG_FAIL with reason 1 UNREACHABLE, 2 FULL, 3 NO_TENANT, 4 TIMEOUT. -/
def State.msgFail (s : State) (t : Ten) (m : ChMsg) (why : Nat) : State :=
  (s.modChain (fun c => { c with stFail := c.stFail + 1 })).post t 0x0121 (0xB0 + b2n (s.toward m.dest))
    (some m.seq) [m.seq, m.mseq, w32 m.dest, w32 why]

/-- Drop a message from a tenant's queue. -/
def State.msgDrop (s : State) (t : Ten) (mseq : Word) : State :=
  s.modChain (fun c => { c with tx := upd c.tx t (fun q => q.filter (fun m => m.mseq != mseq)) })

/-- Send one queued message again or for the first time. -/
def State.msgSend1 (s : State) (t : Ten) (m : ChMsg) : State :=
  let d := s.toward m.dest
  if s.chain.addr.isSome && !s.linkUp d then (s.msgDrop t m.mseq).msgFail t m 1
  else
    let s1 := s.modChain (fun c => { c with
      tx := upd c.tx t (fun q => q.map (fun x =>
        if x.mseq = m.mseq then { x with sent := some s.now, tries := x.tries + 1 } else x)) })
    if s.chain.addr.isNone then s1
    else (s1.modChain (fun c => { c with stSent := c.stSent + 1 })).chSend d (msgFrame s.chAddr t m (!d))

/-- Messages of a tenant not yet sent, each the oldest of its destination: a later message to a node waits for the
earlier one, so that they are delivered in MSEQ order (DEDUCED from R591, log entry 21). -/
def heads (q : List ChMsg) : List ChMsg :=
  (q.foldl (fun (a : List Nat × List ChMsg) m =>
    if a.1.contains m.dest then a else (m.dest :: a.1, if m.sent.isNone then a.2 ++ [m] else a.2)) ([], [])).2

/-- Send what a tenant's queue allows. -/
def State.msgPump (s : State) (t : Ten) : State := forEach (heads (at' s.chain.tx t)) (fun m s => s.msgSend1 t m) s

/-- A tenant queues a message (R591, R592, R594). -/
def State.msgQueue (s : State) (t : Ten) (seq : Word) (bc : Bool) (dest : Nat) (ws : List Word) : State :=
  let mseq := at' s.chain.mseq t
  let s1 := s.modChain (fun c => { c with mseq := upd c.mseq t (fun x => x + 1) })
  if bc then
    if s.chain.addr.isNone then s1 else
    let f : ChFrame := { type := 0x10, bc := true, src := s.chAddr, tnt := t, words := mseq :: ws }
    ((s1.modChain (fun c => { c with stSent := c.stSent + 1 })).chSend true f).chSend false { f with up := true }
  else
    let m : ChMsg := { seq := seq, mseq := mseq, dest := dest, words := ws }
    if s.chain.addr = some dest then
      let s2 := s1.modChain (fun c => { c with stSent := c.stSent + 1 })
      match s2.deliver t dest ws with
      | (s3, 0) => s3.modChain (fun c => { c with stDeliv := c.stDeliv + 1 })
      | (s3, n) => s3.msgFail t m n
    else (s1.modChain (fun c => { c with tx := upd c.tx t (fun q => q ++ [m]) })).msgPump t

/-- A unicast MSG for this node: a message already delivered is acknowledged again; else it is delivered (R591,
R593; log entry 21). -/
def State.msgHere (s : State) (d : Bool) (f : ChFrame) : State :=
  let k := (f.src, f.tnt.val)
  let m := f.words.getD 0 0
  let ack := fun (n : Nat) => ({ type := 0x11, up := !d, dest := f.src, src := s.chAddr, tnt := f.tnt, words := [m, w32 n] } : ChFrame)
  let last := (s.chain.seen.find? (fun e => e.1 == k)).map (·.2)
  let dup := match last with
    | some l => m == l || (m != 0 && precedes m l)
    | none => false
  if dup then (s.modChain (fun c => { c with stDup := c.stDup + 1 })).chSend d (ack 0)
  else
    match s.deliver f.tnt f.src f.words.tail with
    | (s1, 0) => (s1.modChain (fun c => { c with seen := putKey k m c.seen, stDeliv := c.stDeliv + 1 })).chSend d (ack 0)
    | (s1, n) => s1.chSend d (ack n)

/-- MSG: delivered, forwarded, or returned by UNREACH from the end of the chain (R583, R591, R594). In Vigil a
message for this node is kept (R601). -/
def State.chMsg (s : State) (d : Bool) (f : ChFrame) : State :=
  s.chRecv d f (!f.bc && f.dest = s.chAddr) (fun s =>
    let mine := f.bc || f.dest = s.chAddr
    let s1 := if s.power.state == .vigil && mine then s.modChain (fun c => { c with held := c.held ++ [(d, f)] }) else s
    if s.power.state == .vigil && mine then (if f.bc then s1.chForward d f else s1)
    else if f.bc then ((s.deliver f.tnt f.src f.words.tail).1).chForward d f
    else if f.dest = s.chAddr then s.msgHere d f
    else if s.linkUp (!d) then s.chForward d f
    else s.chSend d { type := 0x12, up := !d, dest := f.src, src := s.chAddr, tnt := f.tnt,
                      words := [f.words.getD 0 0, w32 s.chAddr] })
def execMsg (d : Bool) (f : ChFrame) (s : State) : Host.Outcome State Fault Refusal := .next (s.chMsg d f)

/-- The queued message that an ACK or UNREACH names. -/
def State.msgOf (s : State) (f : ChFrame) : Option ChMsg :=
  (at' s.chain.tx f.tnt).find? (fun m => m.mseq == f.words.getD 0 0 && m.sent.isSome)

/-- ACK: DELIVERED frees the entry silently, another result fails it (R592). -/
def State.chAck (s : State) (d : Bool) (f : ChFrame) : State :=
  s.chRecv d f (f.dest = s.chAddr) (fun s =>
    if f.dest != s.chAddr then s.chForward d f
    else match s.msgOf f with
    | none => s
    | some m =>
      let s1 := s.msgDrop f.tnt m.mseq
      let n := (f.words.getD 1 0).toNat
      (if n = 0 then s1.modChain (fun c => { c with stDeliv := c.stDeliv + 1 }) else s1.msgFail f.tnt m n).msgPump f.tnt)
def execAck (d : Bool) (f : ChFrame) (s : State) : Host.Outcome State Fault Refusal := .next (s.chAck d f)

/-- UNREACH fails the message (R592). -/
def State.chUnreach (s : State) (d : Bool) (f : ChFrame) : State :=
  s.chRecv d f (f.dest = s.chAddr) (fun s =>
    if f.dest != s.chAddr then s.chForward d f
    else match s.msgOf f with
    | none => s
    | some m => ((s.msgDrop f.tnt m.mseq).msgFail f.tnt m 1).msgPump f.tnt)
def execUnreach (d : Bool) (f : ChFrame) (s : State) : Host.Outcome State Fault Refusal := .next (s.chUnreach d f)

/-- A message timeout of a tenant: 250 ms from each sending; sent again after the first two (R592). -/
def State.msgTimeout (s : State) (t : Ten) : State :=
  let due := (at' s.chain.tx t).filter (fun m => match m.sent with
    | some x => x + ms 250 ≤ s.now
    | none => false)
  (forEach due (fun m s => if m.tries < 3 then s.msgSend1 t m else (s.msgDrop t m.mseq).msgFail t m 4) s).msgPump t
def execMsgTimeout (s : State) : Host.Outcome State Fault Refusal :=
  .next (
    let s1 := s.passFirst ((s.chain.tx.toList.flatten.filterMap (·.sent)).map (· + ms 250))
    forEach (allFin 4) (fun t s => State.msgTimeout s t) s1)

/-- Messages queued by every tenant. -/
def State.txCount (s : State) : Nat := (s.chain.tx.toList.map List.length).sum

/-- HSEND (R179, R180). -/
def semHsend : OpSem where
  m0 := 0x00FFFFF0#32
  cost := fun c => 3 + fld c.w 8 3
  illegal := fun c => bit c.w 11 && fld c.w 12 12 != 0
  range := fun c => 16 < fld c.w 4 4 + fld c.w 8 3 + 1
  causes := fun _ s => when' (16 ≤ s.txCount) fRESOURCE
  run := fun c s => s.msgQueue c.ten c.seq (bit c.w 11) (fld c.w 12 12)
    ((List.range (fld c.w 8 3 + 1)).map (fun i => c.reg (fld c.w 4 4 + i)))
def execHsend (r : RingId) (s : State) : Host.Outcome State Fault Refusal := .next (s.runOp r 0xC0 semHsend)

/-- HRECV takes the oldest message into registers (R179, R180). -/
def State.hrecv (s : State) (c : OpCtx) : State :=
  let first := fld c.w 20 4
  match at' s.chain.rx c.ten with
  | [] => s.modRing c.ring (fun q => { q with p := q.p.set (fld c.w 18 2 % 4) false (by omega) })
  | m :: rest =>
    let s1 := s.modChain (fun x => { x with rx := upd x.rx c.ten (fun _ => rest) })
    let ws := mkWord [(m.src, 16, 12), (m.words.length, 0, 8)] :: m.words
    let n := fld c.w 15 3 + 1
    let put := (ws.take n).zipIdx
    s1.modRing c.ring (fun q => { q with
      p := q.p.set (fld c.w 18 2 % 4) true (by omega)
      g := forEach put (fun e g => match fin? 16 (first + e.2) with
        | some i => upd g i (fun _ => e.1)
        | none => g) q.g })

/-- HRECV. -/
def semHrecv : OpSem where
  m0 := 0x00FF8000#32
  cost := fun c => 3 + fld c.w 15 3
  range := fun c => 16 < fld c.w 20 4 + fld c.w 15 3 + 1
  run := fun c s => s.hrecv c
def execHrecv (r : RingId) (s : State) : Host.Outcome State Fault Refusal := .next (s.runOp r 0xC1 semHrecv)

/-! ### Sweeps (R595 to R600) -/

/-- Saturate to 32-bit two's complement. -/
def sat32 (x : Int) : Word := i32 (clampI x (-2147483648) 2147483647)

/-- A measurement probe of a witness input: M or E of the first measurement, or the sums of the last Bell period
on an ILLUM input (R597). -/
def State.probeWit (s : State) (i : Nat) (m : Bool) : Word :=
  match fin? 8 i with
  | none => 0
  | some i =>
    let q := s.pdIn i
    if q.role == .illum then
      (if m then sat32 q.lastM else w32 (min q.lastE 0xFFFFFFFF))
    else match q.last with
    | [] => 0
    | x :: _ => if m then sat32 x.m else w32 (min x.eVal 0xFFFFFFFF)

/-- The value of a probe word (18_halser_chain, probe sources). -/
def State.probe (s : State) (p : Nat) : Word :=
  let i := nfld p 8 4
  let c := nfld p 0 2
  let chan := (s.slot ⟨i % 16, by omega⟩).chan[c]?.getD default
  match nfld p 12 4 with
  | 1 => s.probeWit i true
  | 2 => s.probeWit i false
  | 3 => (fin? 8 i).elim 0 (fun i => w32 (s.pdIn i).dark)
  | 4 => w32 chan.y
  | 5 => w32 chan.u
  | 6 =>
    let q := s.chap ⟨i % 4, by omega⟩
    if q.state == .run then w32 q.ht else 0
  | 7 => w32 s.bell.lastUs
  | 8 => (s.chap ⟨i % 4, by omega⟩).kvP0
  | _ => 0

/-- Node 0 posts the end of its sweep once (R598): SWEEP_PARTIAL when a BREAK inside the range came. -/
def State.sweepPost (s : State) : State :=
  match s.chain.run with
  | none => s
  | some r =>
    if r.posted then s else
    let done := (r.reports.filter (fun x => x.2 = 1)).length
    let s1 := s.modChain (fun c => { c with run := some { r with posted := true } })
    match r.break' with
    | some b =>
      let miss := ((List.range (r.last + 1 - r.first)).map (· + r.first)).find? (fun a => !(r.reports.any (fun x => x.1 = a)))
      s1.post r.ten 0x0126 0xB1 none [w32 r.id, w32 b, w32 done, w32 (miss.getD r.last)]
    | none => s1.post r.ten 0x0125 0xB1 none [w32 r.id, w32 done, w32 done, w32 (r.reports.length - done)]

/-- A report reaches node 0. -/
def State.sweepReport (s : State) (id src st : Nat) : State :=
  match s.chain.run with
  | none => s
  | some r =>
    if r.id != id || r.posted then s else
    let reps := putKey src st r.reports
    let s1 := s.modChain (fun c => { c with run := some { r with reports := reps } })
    if reps.length = r.last + 1 - r.first then s1.sweepPost else s1

/-- The node reports a status to node 0: its own when it is node 0. -/
def State.sweepTell (s : State) (id steps : Nat) (st : Word) : State :=
  if s.chAddr = 0 then s.sweepReport id 0 (if st = 1 then 1 else 2)
  else s.chSend false { type := 0x21, up := true, src := s.chAddr, words := [w32 id, w32 steps, st] }

/-- SWEEP_START takes effect on a node (R596). -/
def State.sweepBegin (s : State) (ws : List Word) : State :=
  let w0 := ws.getD 0 0
  let w1 := ws.getD 1 0
  let id := fld w0 24 8
  let steps := fld w0 0 16
  let a := s.chAddr
  let start := ws.getD 2 0
  let sb := (ws.getD 3 0).toNat
  let keep := match s.chain.sweep with
    | some w => w.id = id && w.complete
    | none => false
  let s1 := if keep then s else s.modChain (fun c => { c with sweep := none })
  if keep || a < fld w1 16 12 || fld w1 0 12 < a then s1
  else if a != 0 && !s1.chain.following then s1.sweepTell id 0 Config.notFollowing
  else
    let n := cdiv (16 * steps) 1024
    match poolFit s1.poolUsed n with
    | none => s1.sweepTell id 0 Config.noSpace
    | some f =>
      let s2 := s1.modChain (fun c => { c with
        sweep := some { id := id, steps := steps, stepBells := sb, start := start, units := n, first := f } })
      s2.postTo (s2.ofCls .safety ++ s2.ofCls .service) 0x0124 0xB0 none
        [w32 id, start - s2.chain.cbOff, w32 steps, w32 sb]

/-- A SWEEP_START frame: it is passed on down. -/
def State.chSweepStart (s : State) (d : Bool) (f : ChFrame) : State :=
  s.chRecv d f false (fun s => (s.sweepBegin f.words).chForward d f)
def execSweepStart (d : Bool) (f : ChFrame) (s : State) : Host.Outcome State Fault Refusal :=
  .next (s.chSweepStart d f)

/-- HSWEEP (R179, R180, R595). -/
def State.hsweep (s : State) (t : Ten) (id first last steps : Nat) : State :=
  let start := s.bn32 + 3
  let sb := s.chain.cfg.stepBells
  let ws := [mkWord [(id, 24, 8), (steps, 0, 16)], mkWord [(first, 16, 12), (last, 0, 12)], start, w32 sb]
  let s1 := s.modChain (fun c => { c with
    run := some { ten := t, id := id, first := first, last := last, steps := steps, start := start, stepBells := sb } })
  (s1.sweepBegin ws).chSend true { type := 0x20, words := ws }

/-- HSWEEP. -/
def semHsweep : OpSem where
  m0 := 0x00FF0000#32
  m1 := 0x0FFF0FFF#32
  m2 := 0x0000FFFF#32
  cost := fun _ => 16
  range := fun c => fld c.e2 0 16 = 0
  causes := fun c s => when' ((match s.chain.run with
      | some r => !r.posted
      | none => false) || s.chain.following || fld c.e1 0 12 < fld c.e1 16 12 || s.chain.addr != some 0) fSTATE
  run := fun c s => s.hsweep c.ten (fld c.w 16 8) (fld c.e1 16 12) (fld c.e1 0 12) (fld c.e2 0 16)
def execHsweep (r : RingId) (s : State) : Host.Outcome State Fault Refusal := .next (s.runOp r 0xC2 semHsweep)

/-- A step's probes are latched at its closing Bell (R597); after a loss the step in progress is the last (R600). -/
def State.sweepStepLatch (s : State) : State :=
  match s.chain.sweep with
  | none => s
  | some w =>
    let j := w.done.length
    let last := w.start + w32 ((j + 1) * w.stepBells)
    let head := s.bn32 + s.chain.cbOff
    if w.complete || w.held || precedes head last then s else
    let ws := s.chain.cfg.probes.map s.probe
    let s1 := s.underWrite (poolAddr w.first + 16 * j) (wordsBytes ws)
    let w1 := { w with done := w.done ++ [ws] }
    if w.lostStep then
      (s1.modChain (fun c => { c with sweep := some { w1 with held := true } })).postTo
        (s.ofCls .safety ++ s.ofCls .service) 0x0127 0xB0 none [w32 w.id, w32 (j + 1), s.bn32]
    else if j + 1 = w.steps then
      (s1.modChain (fun c => { c with sweep := some { w1 with complete := true } })).sweepTell w.id w.steps 1
    else s1.modChain (fun c => { c with sweep := some w1 })
def execSweepStepLatch (s : State) : Host.Outcome State Fault Refusal := .next s.sweepStepLatch

/-- SWEEP_DONE on its way to node 0. -/
def State.chSweepDone (s : State) (d : Bool) (f : ChFrame) : State :=
  s.chRecv d f (s.chAddr = 0) (fun s =>
    if s.chAddr != 0 then s.chForward d f
    else s.sweepReport (f.words.getD 0 0).toNat f.src (if f.words.getD 2 0 = 1 then 1 else 2))
def execSweepDone (d : Bool) (f : ChFrame) (s : State) : Host.Outcome State Fault Refusal := .next (s.chSweepDone d f)

/-- 100 ms after the last step's Bell node 0 posts the end (R598). -/
def State.sweepEndTimeout (s : State) : State :=
  match s.chain.run with
  | some r =>
    match r.endAt with
    | some e => (s.passTo (e + ms 100)).sweepPost
    | none => s
  | none => s
def execSweepEndTimeout (s : State) : Host.Outcome State Fault Refusal := .next s.sweepEndTimeout

/-- Status of the results a node holds for a sweep: 1 COMPLETE, 2 PARTIAL, 3 NONE (R603), and its steps. -/
def State.sweepHeld (s : State) (id : Nat) : Nat × List (List Word) :=
  match s.chain.sweep with
  | some w => if w.id != id then (3, []) else if w.complete then (1, w.done) else if w.held then (2, w.done) else (3, [])
  | none => (3, [])

/-- FETCH asks this node for steps (R603); at the end of the chain it is discarded. -/
def State.chFetch (s : State) (d : Bool) (f : ChFrame) : State :=
  s.chRecv d f (f.dest = s.chAddr) (fun s =>
    if f.dest != s.chAddr then s.chForward d f
    else
      let id := (f.words.getD 0 0).toNat
      let first := (f.words.getD 1 0).toNat
      let h := s.sweepHeld id
      let ws := ((h.2.drop first).take (f.words.getD 2 0).toNat).flatten
      s.chSend d { type := 0x23, up := !d, dest := f.src, src := s.chAddr, words := [w32 id, w32 first, w32 h.1] ++ ws })
def execFetch (d : Bool) (f : ChFrame) (s : State) : Host.Outcome State Fault Refusal := .next (s.chFetch d f)

/-- Split words in fours. -/
def fours : Nat → List Word → List (List Word)
  | 0, _ => []
  | n + 1, ws => if ws.isEmpty then [] else ws.take 4 :: fours n (ws.drop 4)

/-- Answer a SWEEP_FETCH: status, steps held, 16 bytes per step asked; RANGE for steps not held (R603). -/
def State.fetchAnswer (s : State) (t : Ten) (st : Nat) (held : Nat) (steps : List (List Word)) (count : Nat) : State :=
  if steps.length < count then s.answer t ansRange [] else s.answer t ansOk ([w32 st, w32 held] ++ steps.flatten)

/-- SWEEP_FETCH. A remote node is asked with FETCH frames of up to 16 steps; the DATA frames complete the answer,
and without them it is STATE when the 2 s bound is reached. -/
def State.sweepFetch (s : State) (t : Ten) (a : List Word) : State :=
  let node := (a.getD 0 0).toNat
  let id := (a.getD 1 0).toNat
  let first := (a.getD 2 0).toNat
  let count := (a.getD 3 0).toNat
  let mayHead := s.chain.addr = some 0 && (match s.chain.run with
    | some r => r.ten = t && r.id = id
    | none => false)
  let mayHere := s.chain.addr = some node && (s.isCls t .safety || s.isCls t .service)
  if !mayHead && !mayHere then s.answer t ansClass []
  else if count < 1 || 64 < count then s.answer t ansRange []
  else if s.chain.addr = some node then
    let h := s.sweepHeld id
    s.fetchAnswer t h.1 h.2.length ((h.2.drop first).take count) count
  else if !s.linkUp true || s.chain.length ≤ node then s.answer t ansState []
  else if s.chain.fetchFor.isSome then
    let bound := match (s.box t).pend with
      | some (_, _, _, x) => x + ms 2000
      | none => 0
    ((s.passTo bound).modChain (fun c => { c with fetchFor := none, fetched := [] })).answer t ansState []
  else
    forEach (List.range (cdiv count 16)) (fun i s =>
      s.chSend true { type := 0x22, dest := node, src := 0, words := [w32 id, w32 (first + 16 * i), w32 (min 16 (count - 16 * i))] })
      (s.modChain (fun c => { c with fetchFor := some (t, node, id, first, count), fetched := [] }))
def execSweepFetch (t : Ten) (s : State) : Host.Outcome State Fault Refusal :=
  .next (match s.request t 0x0C02 with
  | none => s
  | some a => s.sweepFetch t a)

/-- DATA toward node 0 (R603). -/
def State.chData (s : State) (d : Bool) (f : ChFrame) : State :=
  s.chRecv d f (f.dest = s.chAddr) (fun s =>
    if f.dest != s.chAddr then s.chForward d f
    else match s.chain.fetchFor with
    | none => s
    | some (t, node, id, first, count) =>
      if f.src != node || f.words.getD 0 0 != w32 id then s else
      let at0 := (f.words.getD 1 0).toNat
      let got := (fours 64 (f.words.drop 3)).zipIdx.map (fun e => (at0 + e.2, e.1))
      let all := forEach got (fun e xs => putKey e.1 e.2 xs) s.chain.fetched
      let steps := (List.range count).filterMap (fun i => (all.find? (fun e => e.1 = first + i)).map (·.2))
      let st := (f.words.getD 2 0).toNat
      let short := got.length < min 16 (count - (at0 - first))
      if steps.length = count then
        (s.modChain (fun c => { c with fetchFor := none, fetched := [] })).fetchAnswer t st steps.length steps count
      else if short then (s.modChain (fun c => { c with fetchFor := none, fetched := [] })).answer t ansRange []
      else s.modChain (fun c => { c with fetched := all }))
def execData (d : Bool) (f : ChFrame) (s : State) : Host.Outcome State Fault Refusal := .next (s.chData d f)

/-- SWEEP_RELEASE (R603). The manual gives no frame that carries a release, so what other nodes released is a free
value (log entry 22). -/
def State.sweepRelease (s : State) (t : Ten) (a : List Word) : State :=
  let node := (a.getD 0 0).toNat
  if !s.isCls t .service then s.answer t ansClass []
  else if 4095 < node && node != 0xFFFF then s.answer t ansRange []
  else
    let own := s.chain.addr = some node || node = 0xFFFF
    let had := own && (match s.chain.sweep with
      | some w => w.complete || w.held
      | none => false)
    let s1 := if had then s.modChain (fun c => { c with sweep := none }) else s
    if own && s.chain.length ≤ 1 then s1.answer t ansOk [w32 (b2n had)]
    else
      let (v, s2) := s1.fresh 32
      s2.answer t ansOk [v]
def execSweepRelease (t : Ten) (s : State) : Host.Outcome State Fault Refusal :=
  .next (match s.request t 0x0C03 with
  | none => s
  | some a => s.sweepRelease t a)

/-- HAL_QUERY (R603). -/
def execHalQuery (t : Ten) (s : State) : Host.Outcome State Fault Refusal :=
  .next (match s.request t 0x0C01 with
  | none => s
  | some _ =>
    let c := s.chain
    s.answer t ansOk [c.addr.elim Config.unaddressed w32, w32 c.length, w32 (b2n c.u.up), w32 c.u.delay,
      w32 (b2n c.d.up), w32 c.d.delay, w32 (b2n c.following), c.cbOff, i32 c.skew, w32 c.stSent, w32 c.stDeliv,
      w32 c.stFail, w32 c.stDup])

end Sys2Proof.Machine
end

