-- ==== Sys2Proof/Machine/Verdict.lean ====
section
/-!
DEFINITION. Keystone verdicts (12_telltale_assurance R388 to R398): the light test, the verdict code, KVERDICT, the
ASSURANCE reason, and KV_ALERT_N.
-/

namespace Sys2Proof.Machine

/-! ### The light test and the code -/

/-- The light test of R388 with a rectangle's bounds. -/
def WitMeas.lightOk (x : WitMeas) (a : WitArm) (dmax : Nat) : Bool :=
  if x.eVal = 0 then x.m ≤ ((x.n * dmax : Nat) : Int)
  else ((a.minv * x.eVal : Nat) : Int) ≤ 8192 * x.m && 8192 * x.m ≤ ((a.maxv * x.eVal : Nat) : Int)

/-- The measurement of a rectangle in the last frame: its group's on a KEY_FIELD input, its own on a BEAM input. -/
def PdSt.measOf (q : PdSt) (r : Fin 16) : WitMeas :=
  let k := if q.role == .keyField then none else some r
  (q.last.find? (fun x => x.rect == k)).getD { rect := k }

/-- The verdict code of an armed rectangle whose CRC matched, in a frame that was not shortened (R389). -/
def WitMeas.code (x : WitMeas) (a : WitArm) (dmax nmin : Nat) : Nat :=
  if x.sat then 7
  else if x.n < nmin then 6
  else if x.lightOk a dmax then 1
  else if x.eVal = 0 then 5
  else 4

/-- The verdict code of a mapping shown in a frame (R389): `poison` an uncorrectable store read, `crc` a CRC that
differed, `short` a shortened Array frame. -/
def State.verdictOf (s : State) (m : KMap) (poison crc short : Bool) : Nat :=
  if poison then 8
  else if crc then 3
  else if short then 9
  else match m.wit with
  | none => 2
  | some a => ((s.pdIn a.pd).measOf m.rect).code a (s.pdIn a.pd).dmax s.witness.nmin

/-- The failing codes. -/
def failing (v : Nat) : Bool := 3 ≤ v && v ≤ 9

/-! ### The record of each mapping -/

/-- A verdict record belongs to a mapping. -/
def Verdict.isOf (v : Verdict) (m : KMap) : Bool := v.chap == m.chap && v.rect == m.rect && v.seg == m.seg

/-- A mapping's record. -/
def State.verdict (s : State) (m : KMap) : Verdict :=
  (s.witness.verdicts.find? (fun v => v.isOf m)).getD { chap := m.chap, rect := m.rect, seg := m.seg }

/-- Put a mapping's record. -/
def State.putVerdict (s : State) (m : KMap) (v : Verdict) : State :=
  { s with witness := { s.witness with verdicts := v :: s.witness.verdicts.filter (fun x => !x.isOf m) } }

/-- A record after one more code (R397). -/
def Verdict.after (v : Verdict) (code nfail npass : Nat) : Verdict :=
  let f := if failing code then v.fails + 1 else 0
  let p := if code = 1 || code = 2 then v.passes + 1 else 0
  { v with
    code := code
    fails := f
    passes := p
    joined := (v.joined || nfail ≤ f) && !(npass ≤ p) }

/-- Some mapping caused a joining of a segment that has not ended. -/
def State.assured (s : State) (g : Seg) : Bool := s.witness.verdicts.any (fun v => v.seg == g && v.joined)

/-- Segments that no mapping holds under ASSURANCE leave it. -/
def State.assurLeave (s : State) : State :=
  s.kmLeave .assur (fun g => at' s.light.matrix.assur g && !s.assured g)

/-- A mapping takes a verdict: its record, ASSURANCE, and the Gallery's counts. -/
def State.verdictNote (s : State) (m : KMap) (code : Nat) : State :=
  let s0 := if failing code then s.gfix (48 + m.chap.val) 1 else s
  let s1 := match m.wit with
    | some a => s0.tally 6 a.pd.val (16 + code) 1
    | none => s0
  if !s.ovl.maps.any (fun x => x.seg == m.seg && x.chap == m.chap && x.rect == m.rect) then s1
  else
    let v := (s1.verdict m).after code s.witness.nfail s.witness.npass
    let s2 := s1.putVerdict m v
    let s3 := if v.joined && !at' s2.light.matrix.assur m.seg then
        s2.kmJoin .assur (some m.chap) (fun g => g == m.seg) else s2
    s3.assurLeave

/-- A mapping released at a latch keeps no verdict (R397). -/
def State.verdictLatched (s : State) : State :=
  ({ s with witness := { s.witness with
      verdicts := s.witness.verdicts.filter (fun v => s.ovl.maps.any (fun m => v.isOf m)) } }).assurLeave

/-! ### KVERDICT (R390, R412) -/

/-- The codes of rectangles `o` to `o + 7`. -/
def kvWord (vs : List (KMap × Nat)) (o : Nat) : Word :=
  mkWord (vs.filterMap (fun v =>
    if o ≤ v.1.rect.val && v.1.rect.val < o + 8 then some (v.2, 4 * (v.1.rect.val - o), 4) else none))

/-- The KVERDICT record of a frame. -/
def State.kvPost (s : State) (c : Chap) (vs : List (KMap × Nat)) (bell : Nat) : State :=
  let p0 := kvWord vs 0
  let s1 := forEach vs (fun v s => (s.verdictNote v.1 v.2).sample (0x10 + c.val) v.2 v.2)
    (s.modChap c (fun q => { q with kvP0 := p0 }))
  s1.postTo s1.safetyOrService 0x00C0 (0x30 + c.val) none
    [p0, kvWord vs 8,
     mkWord (vs.map (fun v => (1, 16 + v.1.rect.val, 1)) ++ vs.map (fun v => (b2n v.1.wit.isSome, v.1.rect.val, 1))),
     w32 bell]

/-- The mappings of a Chapel in an overlay content. -/
def KStore.on' (k : KStore) (c : Chap) : List KMap := k.maps.filter (fun m => m.chap == c)

/-- The verdicts of a finished frame, whose overlay content is `past`; `bad` names the rectangles whose CRC
differed. -/
def State.kvFrame (s : State) (c : Chap) (f : FrameSt) (bad : List (Fin 16)) : State :=
  let ms := s.past.on' c
  let short := f.short && (s.chap c).rec'.elim false (fun p => !p.scan)
  if ms.isEmpty then s
  else s.kvPost c (ms.map (fun m =>
    (m, s.verdictOf m (s.keyPoisoned s.past m) (bad.contains m.rect) short))) f.bell

/-- LOST for each rectangle mapped in the frame shown, where its Bell is given. -/
def State.lostPost (s : State) (c : Chap) (bell : Option Nat) : State :=
  match bell with
  | none => s
  | some b =>
    let ms := s.shown.on' c
    if ms.isEmpty then s else s.kvPost c (ms.map (fun m => (m, 10))) b

/-- A Chapel leaves RUN during a frame: LOST, after the verdicts of the frame before where they are still due
(R390; log entry 73). -/
def State.kvLost (s : State) (c : Chap) : State :=
  match (s.chap c).frame with
  | none => s
  | some f =>
    if (s.chap c).prev.isSome then
      s.modChap c (fun q => { q with prev := q.prev.map (fun x => { x with thenLost := some f.bell }) })
    else s.lostPost c (some f.bell)

/-! ### KV_ALERT_N (R398) -/

/-- KV_ALERT_N is driven low. -/
def State.kvAlertLow (s : State) : Bool :=
  let m := s.light.matrix
  s.power.boot == .up && (s.power.state == .run || s.power.state == .idle) &&
    (s.witness.verdicts.any (fun v => failing v.code) ||
     (allFin 96).any (fun g => at' m.chapel g || at' m.source g || at' m.assur g ||
       (m.taken g && at' m.open' g)))

end Sys2Proof.Machine
end

