-- ==== Sys2Proof/Machine/Chapels.lean ====
section
/-!
DEFINITION. The Chapels: their states, start sequences, stops and requests (09_engine_ports R279 to R306).
-/

namespace Sys2Proof.Machine

/-! ### Who hears of a Chapel -/

/-- The Chapel holds a Keystone mapping, as last written. -/
def State.keyOn (s : State) (c : Chap) : Bool := s.key.maps.any (fun m => m.chap == c)

/-- Every tenant with a layer on the Chapel, and the SAFETY tenant when it holds a Keystone mapping there (R306). -/
def State.lostTo (s : State) (c : Chap) : List Ten :=
  s.bound.filter (fun t => (s.chap c).layers.toList.any (fun l => l.holder == some t) ||
    (s.isCls t .safety && s.keyOn c))

/-- The scope of a Chapel, or DEVICE, stands at STOP or HARD (R456, R458). -/
def State.chapHot (s : State) (c : Chap) : Bool :=
  2 ≤ at' s.thermal.level (Fin.ofNat 9 (c.val + 1)) || 2 ≤ at' s.thermal.level 8

/-- µs from the last Bell, rounded down. -/
def State.sinceBell (s : State) : Word := w32 (usOf (s.now - s.tB))

/-- CHAPEL_LOST. -/
def State.chapLost (s : State) (c : Chap) (cause : Nat) : State :=
  s.postTo (s.lostTo c) 0x0090 (0x30 + c.val) none [w32 cause, w32 (s.chap c).doneBell, s.sinceBell]

/-! ### Leaving RUN (R294 to R297) -/

/-- An armed interlock trips by a condition of R296, in their order; it latches (R297). -/
def State.laserTrip (s : State) (c : Chap) (cond : Nat) : State :=
  if !(s.chap c).armed then s
  else (s.modChap c (fun q => { q with armed := false, tripped := true, trips := q.trips + 1, lasEn := false })).tally 3
    c.val (9 + cond) 1

/-- The pulse or line in progress of a Chapel that stops gives no sample and no background value (R351, R391). -/
def State.pulsesEnd (s : State) (c : Chap) : State :=
  { s with
    choir := { s.choir with slots := mapTab (fun (q : LoopSt) =>
      if q.chap == some c then { q with samples := q.samples.filter (fun x => x.1 ≤ s.now) } else q) s.choir.slots }
    witness := { s.witness with pds := mapTab (fun (q : PdSt) =>
      if q.chap == c then { q with bgs := q.bgs.filter (fun w => w.ends ≤ s.now) } else q) s.witness.pds } }

/-- The Chapel goes from STARTING or RUN to STOPPING. -/
def State.leaveRun (s : State) (c : Chap) (cond : Nat) : State :=
  let q := s.chap c
  let s1 := s.laserTrip c cond
  let outs := q.rec'.elim [] (fun p => if p.scan then [] else p.sinks)
  let s2 := (forEach outs (fun o s => s.modOut o (fun x => { x with
    pulseEnd := true
    samp := x.samp.filter (fun t => t ≤ s.now) })) s1).pulsesEnd c
  let s3 := s2.modChap c (fun q => { q with
    state := .stopping
    stopAt := s.now
    parkFrom := (s.slowRef c).1
    stopDue := none
    stopBell := none
    emits := false
    lasEn := false
    frame := none
    coming := none
    prevFrame := false })
  if q.state == .run then s3.kmChapelLost c else s3

/-- A safe stop with its cause (R294, R306); `cond` is the interlock condition that counts. -/
def State.safeStop (s : State) (c : Chap) (cause cond : Nat) : State :=
  match (s.chap c).state with
  | .starting | .run =>
    let s1 := (s.kvLost c).leaveRun c cond
    ((s1.modChap c (fun q => { q with stopWhy := 0 })).gfix 57 1).chapLost c cause
  | _ => s

/-- A time since the last turning point is above 1.25 * T_half; before the first HT, T_half is that of F_MIN. -/
def ChapSt.turnMissed (q : ChapSt) (p : ChapRec) (gap : Nat) : Bool :=
  if q.ht = 0 then 5 * 200000000 < 4 * gap * p.fMin else 5 * 400 * q.ht < 4 * gap * 256 * p.pixclk

/-- The condition of R296 that what an armed interlock senses meets, by its place there; a deviation counts from the arming
at the earliest. The Chapel's own leaving of RUN is counted where it leaves. -/
def State.tripCond (s : State) (c : Chap) (p : ChapRec) (x : TripIn) : Option Nat :=
  let q := s.chap c
  match x with
  | .peak v => if v.toNat < p.aMin then some 0 else none
  | .turning gap => if q.turnMissed p gap then some 1 else none
  | .slow v held =>
    let r := s.slowRef c
    let off := r.1 + p.sWin < v.toNat || v.toNat + p.sWin < r.1 + b2n r.2
    if off && us 8 ≤ min held (s.now - q.runAt) then some 2 else none
  | .lock => some 3
  | .state => none

/-- INTERLOCK_TRIP: conditions 0 to 3 give causes 1 to 4. -/
def State.interlock (s : State) (c : Chap) (x : TripIn) : State :=
  match (s.chap c).armed, (s.chap c).rec' with
  | true, some p =>
    (match s.tripCond c p x with
     | some n => (if n = 1 then s.tally 3 c.val 8 1 else s).safeStop c (n + 1) n
     | none => s)
  | _, _ => s
def execInterlockTrip (c : Chap) (x : TripIn) (s : State) : Host.Outcome State Fault Refusal := .next (s.interlock c x)

/-- ENGINE_READY_LOSS: ACn_RDY falls; from the beginning of a Vigil entry on, that rules out a warm start (13, Edges). -/
def execEngineReadyLoss (c : Chap) (s : State) : Host.Outcome State Fault Refusal :=
  .next (if c.val < 2 then
    (s.modPower (fun p => { p with save := p.save.map (fun v => { v with lost := c :: v.lost }) })).safeStop c 7 4
  else s)

/-- FAST_AXIS_FREQ_FAULT. -/
def execFastAxisFreqFault (c : Chap) (s : State) : Host.Outcome State Fault Refusal :=
  .next (if 2 ≤ c.val then s.safeStop c 6 4 else s)

/-- MIRROR_OVERRUN_STOP: the third consecutive overrun of a mirror slot (R365). -/
def State.mirrorStop (s : State) (i : Slot) : State :=
  let q := s.slot i
  match q.chap with
  | some c => if q.cfg.kind.mirror && 3 ≤ q.consec then s.safeStop c 5 4 else s
  | none => s

/-- MIRROR_OVERRUN_STOP, of each Chapel whose mirror loop has missed three steps in a row. -/
def execMirrorOverrunStop (s : State) : Host.Outcome State Fault Refusal :=
  let due := fun (s : State) => s.choir.slots.toList.any (fun q => q.chap.isSome && q.cfg.kind.mirror && 3 ≤ q.consec)
  .next (forEach (allFin 16) (fun i s => State.mirrorStop s i) (s.choirDrain due))

/-- The limit of a start sequence (R293). -/
def ChapRec.startLimit (p : ChapRec) : Time := if p.scan then ms 400 else ms (p.rdyMs + 5)

/-- START_TIMEOUT. -/
def State.startTimeout (s : State) (c : Chap) : State :=
  let q := s.chap c
  match q.state, q.rec' with
  | .starting, some p => if q.startedAt + p.startLimit ≤ s.now then s.safeStop c 8 4 else s
  | _, _ => s

/-- START_TIMEOUT, of each Chapel whose limit has passed. -/
def execStartTimeout (s : State) : Host.Outcome State Fault Refusal :=
  .next (
    let ends := s.chaps.toList.filterMap (fun q => if q.state == .starting then q.rec'.map (fun p => q.startedAt + p.startLimit) else none)
    forEach (allFin 4) (fun c s => State.startTimeout s c) (s.passFirst ends))

/-- ORDERLY_STOP: the Chapel leaves RUN at t_B of the Bell whose announcement took the stop; a thermal stop posts
CHAPEL_LOST there. -/
def State.orderlyStop (s : State) (c : Chap) : State :=
  let q := s.chap c
  match q.state, q.stopBell with
  | .run, some b | .starting, some b =>
    if b ≤ s.bn then
      let s1 := s.leaveRun c 4
      if q.stopWhy = 3 then s1.chapLost c 9 else s1
    else s
  | _, _ => s
def execOrderlyStop (c : Chap) (s : State) : Host.Outcome State Fault Refusal := .next (s.orderlyStop c)

/-! ### Parking (R295) -/

/-- The mirrors can be parked: PARK_MS on an Array Chapel; on a Scan Chapel the slow axis has reached SPARK, and an
orderly stop's amplitude ramp of 20 ms has ended. -/
def State.parked (s : State) (c : Chap) : Bool :=
  let q := s.chap c
  q.rec'.elim true (fun p =>
    if p.scan then (s.slowRef c).1 = p.sPark && (q.stopWhy = 0 || q.stopAt + ms 20 ≤ s.now)
    else q.stopAt + ms p.parkMs ≤ s.now)

/-- The instant from which a Chapel that stops is parked. -/
def State.parkedAt (s : State) (c : Chap) : Time :=
  let q := s.chap c
  match q.rec' with
  | none => s.now
  | some p =>
    if p.scan then
      let d := if q.parkFrom ≤ p.sPark then p.sPark - q.parkFrom else q.parkFrom - p.sPark
      max (q.stopAt + cdiv (d * us 1) (max p.slew 1)) (if q.stopWhy = 0 then 0 else q.stopAt + ms 20)
    else q.stopAt + ms p.parkMs

/-- The mirror slots of a Chapel. -/
def State.mirrors (s : State) (c : Chap) : List Slot :=
  (allFin 16).filter (fun i => (s.slot i).cfg.kind.mirror && (s.slot i).chap == some c)

/-- CHAPEL_PARKED: STOPPED is reached, the mirror slots go to OFF, and a reconfiguration continues. -/
def State.chapParked (s0 : State) (c : Chap) : State :=
  let q := s0.chap c
  let s := if q.state == .stopping then s0.passTo (s0.parkedAt c) else s0
  if !(q.state == .stopping && s.parked c) then s
  else
    let s1 := s.modChap c (fun q => { q with 
      state := .stopped
      acEn := q.acEn && q.stopWhy = 4 && s.power.entering.any (fun e => e.1 == .vigil)
      thenStart := none
      stopWhy := 0 })
    let s2 := forEach (s.mirrors c) (fun i s => s.modSlot i (fun l => { l with
      state := .off
      consec := 0
      chan := mapTab LoopChan.clear l.chan })) s1
    let s3 := if q.stopWhy = 1 || q.stopWhy = 2 then
        s2.postAll 0x0092 (0x30 + c.val) none [w32 q.stopWhy, w32 q.doneBell] else s2
    match q.thenStart with
    | none => s3
    | some x => if s3.chapHot c then s3.chapLost c 9 else s3.modChap c (fun q => { q with startDue := some x })
def execChapelParked (c : Chap) (s : State) : Host.Outcome State Fault Refusal := .next (s.chapParked c)

/-! ### Starting (R291 to R293, R302, R342, R357, R396) -/

/-- The inputs of a Chapel load their gains for a profile. -/
def State.loadGains (s : State) (c : Chap) (profile : Nat) : State :=
  forEach (allFin 8) (fun i s =>
    let q := s.pdIn i
    if q.role == .unused || q.chap != c then s
    else match s.bankFind (fun x n => x.type == 3 && x.chan == i.val && x.profile == profile && n == 6), s.activeBank with
    | some bs, some b => s.modPd i (fun q => { q with
        gain := #v[getLe bs 0 4, getLe bs 4 4, getLe bs 8 4]
        gainGen := s.bankGen b })
    | _, _ => s.modPd i (fun q => { q with gain := q.gain0, gainGen := 0 })) s

/-- A start that its checks refuse: CHAPEL_REFUSED to who asked. -/
def State.chapRefuse (s : State) (c : Chap) (x : ChStart) (reason off : Nat) : State :=
  let s1 := s.modChap c (fun q => { q with lastRefusal := reason })
  match x.ten with
  | none => s1
  | some t => s1.post t 0x0093 (0x30 + c.val) none [w32 x.profile, w32 reason, w32 off]

/-- The checks of a profile at a start; `lock` says that SCn_LOCK_N was sampled low. -/
def State.startCheck (s : State) (c : Chap) (profile : Nat) (lock : Bool) : Except (Nat × Nat) ChapRec :=
  match s.profile c profile with
  | none => .error (1, 0)
  | some bs =>
    match s.chapCheck c bs with
    | .error e => .error e
    | .ok p => if p.scan && lock then .error (9, 0) else .ok p

/-- A mirror slot is put in RUN by its Chapel's start (R342): with its start settings, or after Vigil with those in force
(R373). -/
def State.mirrorStart (s : State) (i : Slot) (resume : Bool) : State :=
  if resume then s.modSlot i (fun q => { q with state := .run, consec := 0 })
  else
    let s1 : State := { s with choir := { s.choir with late := s.choir.late.filter (fun e => e.1 != i) } }
    s1.modSlot i (fun q => { q.cfg.init with
      state := .run
      inj := q.inj
      cap := q.cap
      save := q.save
      overruns := q.overruns })

/-- The Chapel enters STARTING with a checked record. The record's check and the training pattern last free times within
the bounds of the tables (log entry 102). -/
def State.enterStarting (s0 : State) (c : Chap) (x : ChStart) (p : ChapRec) : State :=
  let (a, sA) := s0.fresh 19
  let (b, sB) := sA.fresh 18
  let s := forEach (if p.scan then [] else p.sinks) (fun o s => s.dimCut o) sB
  let s1 := s.modChap c (fun q => { q with
    state := .starting
    rec' := some p
    profile := x.profile
    startDue := none
    startedAt := s.now
    seqPhase := .check
    phaseAt := s.now
    checkEnd := s.now + us 50 + a.toNat % (us 950 + 1)
    trainEnd := s.now + us 1000 + b.toNat % (us 500 + 1)
    resonance := 0
    halves := []
    warm := x.warm
    acEn := x.warm && q.acEn
    underPix := 0
    ht := 0
    stores := (false, false)
    wide := {} })
  let s2 := (s1.tally 3 c.val 6 1).loadGains c x.profile
  forEach (allFin 16) (fun i s =>
    let q := s.slot i
    if q.chap != some c then s
    else (if q.cfg.kind.mirror then s.mirrorStart i x.resume else s).loadTable i) s2

/-- A phase of the start sequence ends, and the next one begins. -/
def State.phaseTo (s : State) (c : Chap) (t : Time) (f : StartPhase) : State :=
  let s1 := s.passTo t
  s1.modChap c (fun q => { q with seqPhase := f, phaseAt := s1.now })

/-- The running phase of a start sequence ends (R291, R292): on an Array Chapel ACn_EN goes high with the record checked; on a
Scan Chapel the sweep ends with a resonance between F_MIN and F_MAX, and the next phase once locked for 16 periods. -/
def State.chapPhase (s : State) (c : Chap) (x : StartSeqIn) : State :=
  let q := s.chap c
  match q.rec' with
  | none => s
  | some p =>
    match q.seqPhase with
    | .check =>
      if p.scan then s.phaseTo c q.checkEnd .sweep
      else (s.phaseTo c q.checkEnd .train).modChap c (fun q => { q with acEn := true })
    | .train => if q.warm then s.phaseTo c (q.startedAt + us 1500) .zeros else s.phaseTo c q.trainEnd .wait
    | .wait => s.phaseTo c (q.startedAt + us 1500) .zeros
    | .sweep =>
      if p.fMin ≤ x.freq && x.freq ≤ p.fMax then
        (s.phaseTo c (q.startedAt + ms 1) .raise).modChap c (fun q => { q with resonance := x.freq })
      else s
    | .raise => if 16 ≤ x.periods then s.phaseTo c (q.startedAt + ms 20) .locked else s
    | .zeros | .locked => s

/-- CHAPEL_START_SEQUENCE: a start that is due begins, and in STARTING the running phase ends; that of ACn_RDY ends when it is
seen high. A start of AUTOSTART or of a Vigil exit is not begun while its scope is hot (R458). -/
def State.chapStart (s : State) (c : Chap) (y : StartSeqIn) : State :=
  let q := s.chap c
  match q.startDue, q.state with
  | some x, .off | some x, .stopped =>
    (if x.ten.isNone && s.chapHot c then s.modChap c (fun q => { q with startDue := none }) else
     match s.startCheck c x.profile y.lock with
     | .error (r, o) => (s.modChap c (fun q => { q with startDue := none })).chapRefuse c x r o
     | .ok p => s.enterStarting c x p)
  | _, .starting => s.chapPhase c y
  | _, _ => s
def execChapelStartSequence (c : Chap) (x : StartSeqIn) (s : State) : Host.Outcome State Fault Refusal :=
  .next (s.chapStart c x)

/-- The three planes of 0 of an Array Chapel's start, and the shortest start sequence (R291, R292, R421). -/
def ChapRec.zerosLen (p : ChapRec) : Time := cdiv (3 * p.tMin * 4) (10 * (p.lanes * p.rate))
def ChapRec.startMin (p : ChapRec) : Time := if p.scan then ms 20 else us 1500 + p.zerosLen

/-- A rectangle lies inside a raster. -/
def insideRaster (p : ChapRec) (x y w h : Nat) : Bool := x + w ≤ p.w && y + h ≤ p.h

/-- Mappings and tenant rectangles outside the started raster are released, and counted (R302). -/
def State.releaseOutside (s : State) (c : Chap) (p : ChapRec) : State :=
  let out := s.key.maps.filter (fun m => m.chap == c && !insideRaster p m.x m.y m.w m.h)
  let bad := fun (x : RectSt) => match x.owner with
    | .ten _ => (x.work.toList ++ (x.taken.bind id).toList ++ x.frozen.toList).any (fun k =>
        !insideRaster p k.x k.y k.w k.h)
    | _ => false
  let n := out.length + ((s.chap c).rects.toList.filter bad).length
  let s1 : State := { s with key := { s.key with maps := s.key.maps.filter (fun m => !out.contains m) } }
  s1.modChap c (fun q => { q with
    released := n
    rects := mapTabIdx (fun r (x : RectSt) =>
      if bad x then {}
      else match out.find? (fun m => m.rect.val = r) with
      | some m => { x with owner := .keyFreed m.seg }
      | none => x) q.rects })

/-- CHAPEL_START_COMPLETE: the last phase has ended; a Scan Chapel needs its mirror loops, so a Choir record (R375). -/
def State.startComplete (s : State) (c : Chap) : State :=
  let q := s.chap c
  match q.state, q.rec' with
  | .starting, some p =>
    if q.stopBell.isSome || (p.scan && !s.choir.valid) || q.seqPhase != (if p.scan then .locked else .zeros) then s
    else
      let s := s.passTo (max (q.startedAt + p.startMin) (q.phaseAt + (if p.scan then 0 else p.zerosLen)))
      let s1 := (s.releaseOutside c p).modChap c (fun x => { x with
        state := .run
        runAt := s.now
        armed := p.scan
        tripped := false
        lasEn := p.scan
        floorCyc := if p.scan then p.floorCyc else 0
        frame := none
        coming := none
        prevFrame := false })
      ((s1.tally 3 c.val 7 1).kmDark c).chFloorSend
  | _, _ => s
def execChapelStartComplete (c : Chap) (s : State) : Host.Outcome State Fault Refusal := .next (s.startComplete c)

/-! ### Requests (R300, R301, R305) -/

/-- The request code of a kind. -/
def ChReqKind.code : ChReqKind → Nat
  | .start => 0x0301
  | .stop => 0x0302
  | .reconf => 0x0303

/-- The states in which a request is accepted. -/
def ChReqKind.accepted (k : ChReqKind) (st : ChState) : Bool :=
  match k with
  | .start => st == .off || st == .stopped
  | .stop => st == .starting || st == .run
  | .reconf => st == .run || st == .stopped

/-- The answer to a Chapel request that its state and the thermal levels give: none where it may stand. -/
def State.chapBars (s : State) (c : Chap) (k : ChReqKind) : Bool :=
  !k.accepted (s.chap c).state || (k != .stop && s.chapHot c)

/-- A tenant may make Chapel requests. -/
def State.mayChapel (s : State) (t : Ten) : Bool := s.isCls t .safety || s.isCls t .service

/-- A request that may stand waits for the next announcement. -/
def State.chapQueue (s : State) (c : Chap) (x : ChReq) : State :=
  s.modChap c (fun q => { q with reqs := q.reqs.filter (fun y => y.ten != x.ten || y.kind != x.kind || y.profile != x.profile) ++ [x] })

/-- A Chapel request (R305): refused at once, or accepted and waiting for the announcement at which it takes effect or
R300 refuses it. -/
def State.chapRequest (s : State) (t : Ten) (k : ChReqKind) : State :=
  match s.request t k.code with
  | none => s
  | some a =>
    if !s.mayChapel t then s.answer t ansClass []
    else match fin? 4 (a.getD 0 0).toNat with
    | none => s.answer t ansRange []
    | some c =>
      let n := (a.getD 1 0).toNat
      if (s.chap c).reqs.any (fun x => x.ten == t && x.kind == k && (k == .stop || x.profile = n)) then s
      else if k == .stop then
        if s.chapBars c k then s.answer t ansState [] else s.chapQueue c { kind := k, profile := 0, ten := t }
      else if 4 ≤ n then s.answer t ansRange []
      else if s.chapBars c k then s.answer t ansState []
      else match s.profile c n with
      | none => s.answer t ansAbsent []
      | some bs =>
        match s.chapCheck c bs with
        | .error (r, o) => (s.chapRefuse c { profile := n, ten := some t } r o).answer t ansSettings [w32 r]
        | .ok _ => s.chapQueue c { kind := k, profile := n, ten := t }

def execChStart (t : Ten) (s : State) : Host.Outcome State Fault Refusal := .next (s.chapRequest t .start)
def execChStop (t : Ten) (s : State) : Host.Outcome State Fault Refusal := .next (s.chapRequest t .stop)
def execChReconf (t : Ten) (s : State) : Host.Outcome State Fault Refusal := .next (s.chapRequest t .reconf)

/-- The code of a state in CH_QUERY (DEDUCED, log entry 37). -/
def ChState.query : ChState → Nat
  | .off => 0
  | .starting => 1
  | .run => 2
  | .stopping => 3
  | .stopped => 4

/-- CH_QUERY. -/
def execChQuery (t : Ten) (s : State) : Host.Outcome State Fault Refusal :=
  .next (match s.request t 0x0304 with
  | none => s
  | some a =>
    if !s.mayChapel t then s.answer t ansClass []
    else match fin? 4 (a.getD 0 0).toNat with
    | none => s.answer t ansRange []
    | some c =>
      let q := s.chap c
      s.answer t ansOk [w32 q.state.query, w32 q.profile, w32 q.ht, mkWord [(b2n q.armed, 0, 1), (b2n q.tripped, 1, 1)],
        w32 q.trips, w32 q.lastRefusal])

/-- Answer a waiting Chapel request, where the mailbox still holds it. -/
def State.chapAnswer (s : State) (x : ChReq) (code : Nat) : State :=
  match (s.box x.ten).pend with
  | some (k, _, _, _) => if k = x.kind.code then s.answer x.ten code [] else s
  | none => s

/-- The request that stands at an announcement: the SAFETY tenant's latest, else the latest (R300). -/
def State.chapWinner (s : State) (xs : List ChReq) : Option ChReq :=
  match (xs.filter (fun x => s.isCls x.ten .safety)).getLast? with
  | some x => some x
  | none => xs.getLast?

/-- A request takes effect at the announcement of the coming Bell. -/
def State.chapTake (s : State) (c : Chap) (x : ChReq) : State :=
  let go : ChStart := { profile := x.profile, ten := some x.ten }
  match x.kind, (s.chap c).state with
  | .start, _ | .reconf, .stopped => s.modChap c (fun q => { q with startDue := some go })
  | .stop, _ => s.modChap c (fun q => { q with stopBell := some (s.bn + 1), stopWhy := 1, thenStart := none })
  | .reconf, _ => s.modChap c (fun q => { q with stopBell := some (s.bn + 1), stopWhy := 2, thenStart := some go })

/-- The announcement resolves a Chapel's waiting requests and a stop that is due (R300, 14_thermal Edges). -/
def State.chapAnnounce (s : State) (c : Chap) : State :=
  let q := s.chap c
  let s1 := s.modChap c (fun q => { q with reqs := [] })
  let win := s.chapWinner q.reqs
  let s2 := forEach q.reqs (fun x s =>
    if some x == win && !s.chapBars c x.kind then (s.chapTake c x).chapAnswer x ansOk
    else s.chapAnswer x ansState) s1
  match q.stopDue, (s2.chap c).state with
  | some why, .run | some why, .starting =>
    s2.modChap c (fun q => { q with
      stopDue := none
      stopBell := some (s.bn + 1)
      stopWhy := why
      thenStart := if q.stopWhy = 2 then q.thenStart else none })
  | _, _ => s2.modChap c (fun q => { q with stopDue := none })

/-- An orderly stop that another block asks for, by its reason 3 THERMAL, 4 POWER, 5 UPDATE. -/
def State.chapStopDue (s : State) (c : Chap) (why : Nat) : State :=
  match (s.chap c).state with
  | .run | .starting => s.modChap c (fun q => { q with stopDue := some why })
  | _ => s

end Sys2Proof.Machine
end

