-- ==== Sys2Proof/Machine/ScanOut.lean ====
section
/-!
DEFINITION. Scan-out (08_scanout R252 to R278): read points and underruns, the Keystone overlay, slots and lines, the
rectangle CRCs, and frame done.
-/

namespace Sys2Proof.Machine

/-! ### The slot sequence (R261 to R263) -/

/-- S of a depth. -/
def ChapRec.sN (p : ChapRec) : Nat := p.depth - 3

/-- The plane of slot `n`, as its colour and its bit. -/
def ChapRec.slotPlane (p : ChapRec) (n : Nat) : Nat × Nat :=
  if n < 21 then (n % 3, p.depth - ([1, 2, 1, 3, 1, 2, 1].getD (n / 3) 1)) else ((n - 21) % 3, (n - 21) / 3)

/-- The pulse weight of slot `n`. -/
def ChapRec.slotWeight (p : ChapRec) (n : Nat) : Nat := if n < 21 then 2 ^ p.sN else 2 ^ ((n - 21) / 3)

/-- T_min, a pulse's length, and a slot's least length, as times. -/
def ChapRec.tMinT (p : ChapRec) : Time := cdiv (p.tMin * 4) (10 * (p.lanes * p.rate))
def ChapRec.pulse (p : ChapRec) (n : Nat) : Time := p.slotWeight n * (2 * p.u)
def ChapRec.slotLen (p : ChapRec) (n : Nat) : Time := max p.tMinT (p.pulse n)

/-- The length of closing slots from 21 up to slot `n`, and of the whole closing round. -/
def ChapRec.closeTo (p : ChapRec) (n : Nat) : Time := ((List.range (n - 21)).map (fun i => p.slotLen (21 + i))).foldl (· + ·) 0
def ChapRec.closeLen (p : ChapRec) : Time := p.closeTo (21 + 3 * p.sN)

/-- T_m of a frame. -/
def FrameSt.tM (f : FrameSt) : Time := cyc ((f.floor - 38150) / 21)

/-- The slot that comes next: main slots that do not fit are left out. -/
def FrameSt.nextSlot (f : FrameSt) : Nat := if f.cutEnd ≤ f.next && f.next < 21 then 21 else f.next

/-- The start of slot `n` of a frame, once it is fixed. -/
def FrameSt.slotStart (f : FrameSt) (p : ChapRec) (n : Nat) : Option Time :=
  if n < 21 then
    match f.cutAt with
    | none => some (f.tB + cyc 650 + n * f.tM)
    | some e => some (e + (n - f.cutFirst) * p.slotLen 0)
  else f.closeAt.map (fun a => a + p.closeTo n)

/-- The announcement of the next Bell fixes the closing round; where it comes before the hold point, the frame is cut
short (R262, Edges). -/
def State.frameAnnounce (s : State) (c : Chap) : State :=
  match (s.chap c).frame, (s.chap c).rec' with
  | some f, some p =>
    if p.scan then s
    else if s.now < f.tB + cyc f.floor - us 1500 then
      let e := max s.now f.until'
      let close := s.now + us (1500 - 224) - p.closeLen
      let fit := min (21 - f.next) ((close - e) / max (p.slotLen 0) 1)
      s.modChap c (fun q => { q with frame := some { f with
        short := true
        cutAt := some e
        cutFirst := f.next
        cutEnd := min 21 f.next + fit
        closeAt := some (max close e) } })
    else s.modChap c (fun q => { q with frame := some { f with closeAt := some s.now } })
  | _, _ => s

/-! ### The frame of the announced Bell -/

/-- The frame that the announcement has composed, before its Bell. -/
def State.frameNew (s : State) (c : Chap) (p : ChapRec) (ht : Nat) : FrameSt :=
  let q := s.chap c
  { bell := s.bn + 1
    tB := s.now + us 1500
    zeroed := if s.naveOn then [] else List.range (bandCount p.h)
    stored := s.naveOn
    ht := ht
    hasPrev := if s.bn % 2 = 0 then q.stores.1 else q.stores.2
    bandRep := s.nave.repeats.any (fun r => r.1 == c)
    chks := (allFin 16).filterMap (fun r =>
      let x := at' q.rects r
      match x.owner, x.frozen with
      | .ten t, some k => if k.crc.isSome && !s.clearing t then some (r, t, k) else none
      | _, _ => none)
    seqs := Vector.ofFn (fun t => if s.clearing t then none else (s.ten t).frozen)
    vis := (allFin 4).filter (fun t => !s.clearing t && q.layers.toList.any (fun l =>
      l.holder == some t && !l.shed && l.frozen.elim false (fun v => v.vis))) }

/-- The half periods measured since the last announcement join those of a Chapel; HT is the sum of the last 16 (R353). -/
def ChapSt.measured (q : ChapSt) (xs : List Nat) : ChapSt :=
  let h := q.halves ++ xs
  let l := h.drop (h.length - 16)
  { q with halves := l, ht := if l.length = 16 then l.sum else q.ht }

/-- After composition, each Chapel shown at the coming Bell has its frame; HT is that of this announcement. -/
def State.framesNew (s : State) (x : AnnIn) : State :=
  forEach (allFin 4) (fun c s =>
    let s1 := if 2 ≤ c.val then s.modChap c (fun q => q.measured ((x.halves.lookup c).getD [])) else s
    match (s1.chap c).rec' with
    | some p =>
      if s1.composed c then s1.modChap c (fun q => { q with coming := some (s1.frameNew c p (s1.chap c).ht) }) else s1
    | none => s1) s

/-! ### Read points (R256 to R258, R268, R269) -/

/-- The last pixel read before band `k` in raster order, with substitution (R268). -/
def State.lastRead (s : State) (c : Chap) (p : ChapRec) (f : FrameSt) : Nat → Nat × Nat × Nat
  | 0 => (0, 0, 0)
  | k + 1 =>
    if f.zeroed.contains k then (0, 0, 0)
    else if f.subst.contains k then s.lastRead c p f k
    else s.storePx c p f.bell (p.w - 1) ((bandRows p.h k).2 - 1)

/-- A pixel of the frame store as the formatter reads it, band substitution included. -/
def State.bandPx (s : State) (c : Chap) (p : ChapRec) (f : FrameSt) (x y : Nat) : Nat × Nat × Nat :=
  let k := y / 32
  if f.zeroed.contains k then (0, 0, 0)
  else if f.subst.contains k then s.lastRead c p f k
  else s.storePx c p f.bell x y

/-- Count pixels under the underrun rules. -/
def State.underrun (s : State) (c : Chap) (n : Nat) : State :=
  (s.modChap c (fun q => { q with underPix := min 0xFFFFFFFF (q.underPix + n) })).tally 3 c.val 2 n

/-- A frame with `n` more pixels under the underrun rules, by a cause. -/
def FrameSt.under (f : FrameSt) (n cause : Nat) : FrameSt :=
  { f with
    pix := f.pix + n
    cause := if f.cause = 0 then cause else f.cause }

/-- A frame one of whose bands is not complete at its read point, and the pixels replaced. -/
def FrameSt.bandLate (f : FrameSt) (p : ChapRec) (k : Nat) : FrameSt × Nat :=
  if f.zeroed.contains k || f.subst.contains k then (f, 0)
  else if !f.hasPrev then ({ f with zeroed := f.zeroed ++ [k] }, 0)
  else
    let r := bandRows p.h k
    let n := if !p.abort then (r.2 - r.1) * p.w
      else if p.scan then (f.abortFrom.getD p.h - r.1) * p.w
      else if f.abortFrom.isSome then 0 else p.w * p.h
    let a := if !p.abort then none
      else if p.scan then some (min r.1 (f.abortFrom.getD r.1)) else some 0
    (({ f with subst := f.subst ++ [k], abortFrom := a }).under n 1, n)

/-- T_half in time steps, by the HT of a frame. -/
def FrameSt.halfTime (f : FrameSt) (p : ChapRec) : Nat := 400 * f.ht / (256 * max p.pixclk 1)

/-- A frame whose line 0 is foreseen `lead` after t_B + 26 µs (R256, R285). -/
def FrameSt.foresee (f : FrameSt) (p : ChapRec) (lead : Nat) : FrameSt :=
  if p.scan then { f with lead := min lead (f.halfTime p) } else f

/-- A band's blocks are counted as late, for the bay that had the band and for the Nave. -/
def State.bandMissed (s : State) (c : Chap) (p : ChapRec) (k : Nat) : State :=
  let blocks := cdiv p.w 8 * cdiv ((bandRows p.h k).2 - (bandRows p.h k).1) 8
  match s.nave.owner c k with
  | some b => (s.tally 2 b.val 4 blocks).tally 2 4 4 blocks
  | none => s.tally 2 4 4 blocks

/-- BAND_READ_POINT: of the coming frame on an Array Chapel and for band 0, else of the frame shown. On a Scan Chapel the
point of band 0 lies 250 µs before line 0, which comes `lead` after t_B + 26 µs. Self-refresh causes no underrun (R195). -/
def State.bandRead (s : State) (c : Chap) (k : Nat) (done : Bool) (lead : Nat) : State :=
  let q := s.chap c
  match q.state, q.rec' with
  | .run, some p =>
    if done || bandCount p.h ≤ k then s
    else if s.memc.selfRef then s.lpRequest
    else
      if !p.scan || k = 0 then
        match q.coming, s.fireDue with
        | some f0, some b =>
          let f := if k = 0 then f0.foresee p lead else f0
          let s := s.passTo (b - us 224 + f.lead)
          let x := f.bandLate p k
          ((s.modChap c (fun q => { q with coming := some x.1 })).underrun c x.2).bandMissed c p k
        | _, _ => s
      else
        match q.frame with
        | none => s
        | some f =>
          if f.next = 0 then s
          else
            let s := s.passTo (f.readPoint p k)
            let x := f.bandLate p k
            ((s.modChap c (fun q => { q with frame := some x.1 })).underrun c x.2).bandMissed c p k
  | _, _ => s
def execBandReadPoint (c : Chap) (band : Fin 25) (x : BandIn) (s : State) : Host.Outcome State Fault Refusal :=
  .next (s.bandRead c band.val x.done x.lead)

/-! ### Late fetches (R270) -/

/-- A frame whose plane or line `n` is generated, and the pixels generated. -/
def FrameSt.fetchLate (f : FrameSt) (p : ChapRec) (n : Nat) : FrameSt × Nat :=
  let one := if p.scan then p.w else p.w * p.h
  if f.gener.contains n || f.abortFrom.elim false (fun a => a ≤ n) then (f, 0)
  else if p.abort then
    let m := one * (f.abortFrom.getD p.count - n)
    (({ f with abortFrom := some n }).under m 2, m)
  else (({ f with gener := f.gener ++ [n] }).under one 2, one)

/-- FETCH_LATE: the plane or line that comes next misses its deadline; the first one may be that of the coming frame. While
LPDDR4X is in self-refresh or under hold nothing is fetched from it, so nothing is late (R195, R457). -/
def State.fetchLate (s : State) (c : Chap) (n : Nat) : State :=
  let q := s.chap c
  if s.memc.selfRef || !s.lpUsable then s.lpRequest else
  match q.state, q.rec' with
  | .run, some p =>
    let due := s.bell.ann.elim false (fun a => a + us (1500 - 224) ≤ s.now)
    (match q.coming, q.frame with
     | some f, _ =>
       if n = 0 && due && !f.stored then s
       else if n = 0 && due then
         let x := f.fetchLate p n
         (s.modChap c (fun q => { q with coming := some x.1 })).underrun c x.2
       else match q.frame with
       | some f =>
         if n = f.nextSlot && n < p.count && f.stored then
           let x := f.fetchLate p n
           (s.modChap c (fun q => { q with frame := some x.1 })).underrun c x.2
         else s
       | none => s
     | none, some f =>
       if n = f.nextSlot && n < p.count && f.stored then
         let x := f.fetchLate p n
         (s.modChap c (fun q => { q with frame := some x.1 })).underrun c x.2
       else s
     | none, none => s)
  | _, _ => s
def execFetchLate (c : Chap) (n : Nat) (s : State) : Host.Outcome State Fault Refusal := .next (s.fetchLate c n)

/-! ### What a plane and a line hold -/

/-- A bit of slot `n`'s plane before the overlay, when it is fetched. -/
def State.fetchBit (s : State) (c : Chap) (p : ChapRec) (f : FrameSt) (n x y : Nat) : Bool :=
  let pl := p.slotPlane n
  nbit (chan3 (s.bandPx c p f x y) pl.1) pl.2

/-- The last value that reached the plane buffer before slot `n` (R270; DEDUCED, log entry 38). -/
def State.lastBit (s : State) (c : Chap) (p : ChapRec) (f : FrameSt) : Nat → Bool
  | 0 => false
  | n + 1 => if f.gener.contains n then s.lastBit c p f n else s.fetchBit c p f n (p.w - 1) (p.h - 1)

/-- A bit of slot `n`'s plane before the overlay. -/
def State.planeBit (s : State) (c : Chap) (p : ChapRec) (f : FrameSt) (n x y : Nat) : Bool :=
  if f.abortFrom.elim false (fun a => a ≤ n) then false
  else if f.gener.contains n then s.lastBit c p f n
  else s.fetchBit c p f n x y

/-- The last pixel that reached the line buffer before line `y`. -/
def State.lastLine (s : State) (c : Chap) (p : ChapRec) (f : FrameSt) : Nat → Nat × Nat × Nat
  | 0 => (0, 0, 0)
  | y + 1 => if f.gener.contains y then s.lastLine c p f y else s.bandPx c p f (p.w - 1) y

/-- A pixel of line `y` before the overlay. -/
def State.linePx (s : State) (c : Chap) (p : ChapRec) (f : FrameSt) (x y : Nat) : Nat × Nat × Nat :=
  if f.abortFrom.elim false (fun a => a ≤ y) then (0, 0, 0)
  else if f.gener.contains y then s.lastLine c p f y
  else s.bandPx c p f x y

/-! ### The Keystone overlay (R259, R260) -/

/-- The mapping that gives a pixel: the one with the highest RECT that contains it. -/
def KStore.at' (k : KStore) (c : Chap) (x y : Nat) : Option KMap :=
  (k.on' c).foldl (fun a m =>
    if inRect m.x m.y m.w m.h x y && a.elim true (fun b => b.rect.val < m.rect.val) then some m else a) none

/-- The glyph pixel of a mapping at a raster pixel. -/
def KStore.glyphAt (k : KStore) (m : KMap) (x y : Nat) : Nat :=
  (((k.glyphs.lookup (m.chap, m.rect)).getD []).getD ((y - m.y) * 128 + (x - m.x)) 0).toNat

/-- A glyph channel at a depth. -/
def glyphVal (depth c5 : Nat) : Nat := (c5 * (2 ^ depth - 1) + 15) / 31

/-- What a mapping shows at a raster pixel. -/
def KStore.shows (k : KStore) (depth : Nat) (m : KMap) (x y : Nat) : Nat × Nat × Nat :=
  let v := k.glyphAt m x y
  if nbit v 15 && Machine.at' k.on m.seg then
    (glyphVal depth (nfld v 10 5), glyphVal depth (nfld v 5 5), glyphVal depth (nfld v 0 5))
  else (0, 0, 0)

/-- A bit of slot `n`'s plane as the engine shows it. -/
def State.shownBit (s : State) (k : KStore) (c : Chap) (p : ChapRec) (f : FrameSt) (n x y : Nat) : Bool :=
  let pl := p.slotPlane n
  match k.at' c x y with
  | some m => nbit (chan3 (k.shows p.depth m x y) pl.1) pl.2
  | none => s.planeBit c p f n x y

/-- A pixel of line `y` as the engine shows it. -/
def State.shownPx (s : State) (k : KStore) (c : Chap) (p : ChapRec) (f : FrameSt) (x y : Nat) : Nat × Nat × Nat :=
  match k.at' c x y with
  | some m => k.shows p.depth m x y
  | none => s.linePx c p f x y

/-! ### Slots and lines -/

/-- LINE_MATCH to the tenants whose MATCH it is: direction 1 is right to left. -/
def State.lineMatch (s : State) (c : Chap) (n dir : Nat) (t : Time) : State :=
  let ts := (allFin 4).filter (fun x =>
    let e := at' (s.chap c).even x
    bit e 30 && fld e 0 12 = n)
  s.postTo ts 0x0081 (0x30 + c.val) none [w32 n, w32 dir, w32 (usOf t)]

/-- BLANK_START, with the end of the last pulse or line (log entry 39). -/
def State.blankStart (s : State) (c : Chap) (shown bell : Nat) (t : Time) : State :=
  let ts := (allFin 4).filter (fun x => bit (at' (s.chap c).even x) 31)
  (s.postTo ts 0x0080 (0x30 + c.val) none [w32 (usOf t), w32 shown]).traceMark 4 c.val bell

/-- The last pulse or line of a frame has ended: BLANK_START. -/
def State.blankEnd (s : State) (c : Chap) : State :=
  let q := s.chap c
  match q.state, q.frame, q.rec' with
  | .run, some f, some p =>
    if f.blanked || f.nextSlot < p.count || s.now < f.until' then s
    else (s.modChap c (fun q => { q with frame := some { f with blanked := true } })).blankStart c
      (if p.scan then p.h else p.count - (21 - f.cutEnd)) f.bell (f.until' - f.tB)
  | _, _, _ => s
def State.blankEnds (s : State) : State := forEach (allFin 4) (fun c s => s.blankEnd c) s

/-- A pulse runs: the sense voltage of its sink is sampled 50 ns before it ends, for ILLUM and for the rail (R319, R340). -/
def State.pulseSample (s : State) (c : Chap) (p : ChapRec) (n : Nat) (ends : Time) (y : BitVec 14) : State :=
  let col := (p.slotPlane n).1
  let s1 := forEach (allFin 16) (fun i s =>
    let q := s.slot i
    if q.cfg.en && q.cfg.kind == .illum && q.cfg.target = c.val then
      s.modSlot i (fun q => { q with samples := q.samples ++ [(ends - 20, Fin.ofNat 3 col, y.toNat)] })
    else s) s
  match p.sinks[col]? with
  | some o => s1.modOut o (fun q => q.sampled [ends - 20])
  | none => s1

/-- A slot starts: the mirrors take the slot's plane and its pulse starts, whose sense sample is `y`. Behind the last slot
the end of its pulse is awaited. -/
def State.arraySlot (s : State) (c : Chap) (y : BitVec 14) : State :=
  let q := s.chap c
  match q.state, q.frame, q.rec' with
  | .run, some f, some p =>
    if p.scan then s
    else
      let n := f.nextSlot
      (match f.slotStart p n with
       | none => s
       | some a =>
         if p.count ≤ n then (s.passTo f.until').blankEnd c
         else
           let s := s.passTo a
           let s1 := s.modChap c (fun q => { q with frame := some { f with
             next := n + 1
             slotAt := a
             until' := a + p.pulse n } })
           (s1.pulseSample c p n (a + p.pulse n) y).lineMatch c n 0 (a - f.tB))
  | _, _, _ => s

/-- A line is drawn left to right (R286). -/
def FrameSt.rightward (f : FrameSt) (n : Nat) : Bool := f.leftFirst == (n % 2 == 0)

/-- A line starts: line 0 starts at its turning point, whose side is `left`; the others follow HT. Behind the last line its
end is awaited. -/
def State.scanLine (s : State) (c : Chap) (left : Bool) : State :=
  let q := s.chap c
  match q.state, q.frame, q.rec' with
  | .run, some f, some p =>
    let n := f.next
    if !p.scan then s
    else if p.h ≤ n then (s.passTo f.until').blankEnd c
    else
      let s := s.passTo (if n = 0 then f.tB + us 26 + f.lead else f.lineStart p n)
      let f1 := if n = 0 then { f with tl0 := s.now, leftFirst := left } else f
      let a := f1.lineStart p n
      let e := f1.lineStart p (n + 1)
      let s1 := s.modChap c (fun q => { q with frame := some { f1 with
        next := n + 1
        slotAt := a
        until' := e } })
      s1.lineMatch c n (b2n (!f1.rightward n)) (a - f.tB)
  | _, _, _ => s

/-! ### Rectangle CRCs (R273 to R276) -/

/-- The slots that first show a plane, in order (R274). -/
def ChapRec.firstSlots (p : ChapRec) : List Nat := [0, 1, 2, 3, 4, 5, 9, 10, 11] ++ (List.range (3 * p.sN)).map (· + 21)

/-- The bytes of a rectangle in one plane. -/
def planeBytes (x y w h : Nat) (bitAt : Nat → Nat → Bool) : List Byte :=
  (List.range h).flatMap (fun j => packBits ((List.range w).map (fun i => bitAt (x + i) (y + j))))

/-- The bytes of a rectangle whose CRC is taken, from its plane bits or its pixels. -/
def crcBytes (p : ChapRec) (x y w h : Nat) (bitAt : Nat → Nat → Nat → Bool) (px : Nat → Nat → Nat × Nat × Nat) :
    List Byte :=
  if p.scan then
    (List.range h).flatMap (fun j => (List.range w).flatMap (fun i =>
      let v := px (x + i) (y + j)
      leBytes 2 v.1 ++ leBytes 2 v.2.1 ++ leBytes 2 v.2.2))
  else p.firstSlots.flatMap (fun n => planeBytes x y w h (bitAt n))

/-- Bytes with some of their bits turned, numbered from bit 0 of the first byte. -/
def flipBits (bs : List Byte) (ns : List Nat) : List Byte :=
  bs.zipIdx.map (fun e => (ns.filter (fun n => n / 8 = e.2)).foldl (fun b n => b ^^^ BitVec.ofNat 8 (2 ^ (n % 8))) e.1)

/-- The slots that show a plane again, each with the slot of the plane's first fetch (R261). -/
def ChapRec.laterSlots (p : ChapRec) : List (Nat × Nat) :=
  if p.scan then []
  else ([6, 7, 8, 12, 13, 14, 15, 16, 17, 18, 19, 20].map (fun n =>
    (n, (p.firstSlots.find? (fun m => p.slotPlane m == p.slotPlane n)).getD n)))

/-- A slot or line fetches its plane or pixels in a frame: it is neither left out of a frame cut short nor generated. -/
def FrameSt.fetches (f : FrameSt) (n : Nat) : Bool :=
  !(f.cutEnd ≤ n && n < 21) && !f.gener.contains n && f.abortFrom.elim true (fun a => n < a)

/-- A later fetch of a plane gave a rectangle another CRC over that plane than its first fetch (R274); `turned` are the bits
that a slot's fetch read otherwise. -/
def FrameSt.refetchBad (f : FrameSt) (p : ChapRec) (x y w h : Nat) (bitAt : Nat → Nat → Nat → Bool)
    (turned : List (Nat × Nat)) : Bool :=
  p.laterSlots.any (fun e => f.fetches e.1 &&
    crc32 (flipBits (planeBytes x y w h (bitAt e.1)) ((turned.filter (fun z => z.1 = e.1)).map (·.2))) !=
      crc32 (planeBytes x y w h (bitAt e.2)))

/-- The bits of a rectangle that a command's inputs turn in its later fetches. -/
def DoneIn.again (x : DoneIn) (r : Fin 16) : List (Nat × Nat) := (x.refetch.filter (fun z => z.1 == r)).map (·.2)

/-- The CRC of a tenant rectangle in a frame, before the overlay. -/
def State.rectCrc (s : State) (c : Chap) (p : ChapRec) (f : FrameSt) (k : ChkCfg) : Word :=
  crc32 (crcBytes p k.x k.y k.w k.h (s.planeBit c p f) (s.linePx c p f))

/-- The expected CRC of a Keystone rectangle, from the latched glyphs and segment states by the rule of R260 (R276). -/
def KStore.expect (k : KStore) (p : ChapRec) (m : KMap) : Word :=
  let v := fun x y => (k.at' m.chap x y).elim (0, 0, 0) (fun w => k.shows p.depth w x y)
  crc32 (crcBytes p m.x m.y m.w m.h (fun n x y => nbit (chan3 (v x y) (p.slotPlane n).1) (p.slotPlane n).2) v)

/-- The stream CRC of a Keystone rectangle at step 4 of R252, over the data that enters the engine stream, of which the
engine stream's own faults turn some bits. -/
def State.streamCrc (s : State) (k : KStore) (c : Chap) (p : ChapRec) (f : FrameSt) (m : KMap) (turned : List Nat) : Word :=
  crc32 (flipBits (crcBytes p m.x m.y m.w m.h (s.shownBit k c p f) (s.shownPx k c p f)) turned)

/-- The Keystone rectangles of a finished frame whose stream CRC differs from the expected value, or whose later fetches
differ from the first (R274, R276). -/
def State.keyBad (s : State) (k : KStore) (c : Chap) (p : ChapRec) (f : FrameSt) (x : DoneIn) : List (Fin 16) :=
  ((k.on' c).filter (fun m =>
    s.streamCrc k c p f m ((x.stream.filter (fun z => z.1 == m.rect)).map (·.2)) != k.expect p m ||
    f.refetchBad p m.x m.y m.w m.h (s.shownBit k c p f) (x.again m.rect))).map (·.rect)

/-- One tenant rectangle compared at frame done (R275). -/
def State.rectDone (s : State) (c : Chap) (p : ChapRec) (f : FrameSt) (turned : DoneIn)
    (x : Fin 16 × Ten × ChkCfg) : State :=
  let (r, t, k) := x
  match k.crc with
  | none => s
  | some e =>
    let v := s.rectCrc c p f k
    let bad := v != e || f.refetchBad p k.x k.y k.w k.h (s.planeBit c p f) (turned.again r)
    let due := match (s.rect c r).last with
      | none => true
      | some (_, none) => true
      | some (q, some w) => q != k.seq || w != v
    let s1 := s.modRect c r (fun x => { x with
      last := some (k.seq, if bad then some v else none)
      mfail := bad && x.owner == .ten t })
    if !bad then s1
    else
      let s2 := s1.tally 3 c.val 3 1
      if due then s2.post t 0x0084 (0x30 + c.val) k.seq [k.seq.getD 0, w32 r.val, e, v] else s2

/-! ### Frame done -/

/-- What a frame reads of its frame store, as ranges: each plane once for each slot that fetches it, each line once, the
bands that are substituted left out. -/
def State.storeReads (s : State) (c : Chap) (p : ChapRec) (f : FrameSt) : List (Nat × Nat) :=
  let a := s.storeAddr c f.bell
  let bands := (List.range (bandCount p.h)).filter (fun k => !f.zeroed.contains k && !f.subst.contains k)
  if !f.stored then []
  else if p.scan then
    bands.flatMap (fun k =>
      let r := bandRows p.h k
      (((List.range (r.2 - r.1)).map (· + r.1)).filter f.fetches).map (fun y => (a + y * rowPitch p.w, 8 * p.w)))
  else ((List.range p.count).filter f.fetches).flatMap (fun n =>
    let pl := p.slotPlane n
    bands.map (fun k =>
      let r := bandRows p.h k
      (a + planeOff pl.1 pl.2 + r.1 * p.w / 8, cdiv ((r.2 - r.1) * p.w) 8)))

/-- MEM_UE of the frame stores: every failing read of a finished frame is counted, and the record is posted once for each
frame, with the lowest failing address of the Chapels' stores (R694). -/
def State.storeUe (s : State) (c : Chap) (p : ChapRec) (f : FrameSt) : State :=
  let s1 := s.ueCount 0 (ueReads s.memc.ueLp (s.storeReads c p f))
  let all := (allFin 4).flatMap (fun d =>
    match (s.chap d).prev, (s.chap d).rec' with
    | some g, some q => if g.bell = f.bell then s.storeReads d q g else []
    | _, _ => [])
  if s.nave.storeUe == some f.bell then s1
  else match ueLowest s.memc.ueLp all with
  | none => s1
  | some a =>
    ({ s1 with nave := { s1.nave with storeUe := some f.bell } }).postAll 0x0063 0xD0 none [w32 3, w32 a, 0]

/-- The flags of FRAME_DONE. -/
def FrameSt.flags (f : FrameSt) (abort : Bool) : Word :=
  mkWord [(b2n (f.cause != 0), 0, 1), (b2n f.short, 1, 1), (b2n f.bandRep, 2, 1), (b2n (abort && f.cause != 0), 3, 1)]

/-- FRAME_DONE (R275 to R278, R390). -/
def State.frameDone (s : State) (c : Chap) (x : DoneIn) : State :=
  let q := s.chap c
  match q.prev, q.rec' with
  | some f, some p =>
      let s := s.passTo (s.tB + us 26)
      let bad := s.keyBad s.past c p f x
      let s0 := s.modChap c (fun q => { q with
        prev := none
        doneBell := f.bell % 2 ^ 32
        rects := mapTabIdx (fun r (y : RectSt) => { y with mfail := false, kfail := bad.any (fun b => b.val = r) }) q.rects })
      let s1 := forEach f.chks (fun k s => s.rectDone c p f x k) ((s.storeUe c p f).modChap c (fun _ => s0.chap c))
      let s2 := (s1.tally 3 c.val 0 1).tally 3 c.val 4 bad.eraseDups.length
      let s3 := (s2.tally 3 c.val 1 (b2n (f.cause != 0))).tally 3 c.val 5 (b2n f.short)
      let s4 := forEach (allFin 4) (fun t s =>
        if bit (at' (s.chap c).even t) 29 then
          s.post t 0x0082 (0x30 + c.val) (at' f.seqs t)
            [(at' f.seqs t).getD 0, f.flags p.abort, w32 f.pix, (s.chap c).rectFail t (s.isCls t .safety)]
        else s) s3
      let s5 := if f.cause = 0 then s4 else
        forEach f.vis (fun t s => s.post t 0x0083 (0x30 + c.val) (at' f.seqs t)
          [(at' f.seqs t).getD 0, mkWord [(if f.cause = 1 then (f.subst.min?).getD 0xFF else 0xFF, 8, 8), (f.cause, 0, 2)],
           w32 (b2n p.abort), w32 f.pix]) s4
      let s6 := s5.traceMark 3 c.val f.bell
      let s7 := if q.state == .run then s6.kmShown c f.tB else s6
      (s7.kvFrame c f bad).lostPost c f.thenLost
  | _, _ => s
def execFrameDone (c : Chap) (x : DoneIn) (s : State) : Host.Outcome State Fault Refusal := .next (s.frameDone c x)

/-! ### The Bell -/

/-- At t_B the announced frame is shown, and the frame before it awaits its frame done; the first emission posts
CHAPEL_RUN (R279, R306). -/
def State.frameBell (s : State) (c : Chap) : State :=
  let q := s.chap c
  let s1 := s.modChap c (fun q => { q with
    prev := q.frame
    frame := q.coming.map (fun f => { f with
      tB := s.now
      tl0 := s.now + us 26 + f.lead
      floor := s.floorEff
      first := !q.emits
      bandRep := s.nave.repeats.any (fun r => r.1 == c) })
    coming := none
    prevFrame := q.coming.any (fun f => f.stored) })
  if q.coming.isSome && !q.emits then
    (s1.modChap c (fun q => { q with emits := true })).postAll 0x0091 (0x30 + c.val) none
      [w32 q.profile, w32 (cdiv q.floorCyc 25), s.bn32, w32 q.released]
  else s1

end Sys2Proof.Machine
end

