-- ==== Sys2Proof/Machine/MemoryCtl.lean ====
section
/-!
DEFINITION. Memory control (06_memory_surfaces R190, R191, R194, R217, R221): training, the drift read,
self-refresh in Idle, and the scrub of the Moangex store.
-/

namespace Sys2Proof.Machine

/-- OSC of set `k` of the training set in force, and whether its rank is fitted (R221). -/
def MemCtl.osc (m : MemCtl) (k : Fin 4) : Nat := getLe m.set (32 * k.val + 24) 2
def MemCtl.fitted (m : MemCtl) (k : Fin 4) : Bool := k.val % 2 < m.ranks

/-- DQS_DRIFT_READ, every 100 ms in Run: the oscillator of each rank is read, and the write timing takes its drift from the
count at training. -/
def execDqsDriftRead (n : Vector (BitVec 16) 4) (s : State) : Host.Outcome State Fault Refusal :=
  .next (
    if s.live && s.power.state == .run && s.lpUsable then
      let s := s.passTo (s.memc.dqsAt + ms 100)
      { s with memc := { s.memc with
          dqsAt := s.now
          dqsAdj := Vector.ofFn (fun k => if s.memc.fitted k then ((at' n k).toNat : Int) - s.memc.osc k else 0) } }
    else s)

/-! ### Latency tolerance and self-refresh (R193 to R195) -/

/-- What the clients state. -/
def State.tolTake (s : State) (x : TolIn) : State :=
  { s with memc := { s.memc with
      needAt := Vector.ofFn (fun c =>
        if (s.chap c).state == .run then some (s.now + ((x.chaps.find? (fun e => e.1 == c)).map (·.2)).getD 0) else none)
      naveAt := some (s.now + x.nave)
      lpReq := x.req } }

/-- The instants at which a reader needs LPDDR4X: of each running Chapel, and of the Nave. -/
def State.needs (s : State) : List Time :=
  (allFin 4).filterMap (fun c => if (s.chap c).state == .run then at' s.memc.needAt c else none) ++ s.memc.naveAt.toList

/-- TOL at this instant: the least of T_c and T_n, or 0 while a request waits. -/
def State.tol (s : State) : Nat := if s.memc.lpReq then 0 else ((s.needs.map (· - s.now)).min?).getD 0

/-- SELF_REFRESH_ENTRY, in Idle: TOL has reached 20 µs. -/
def execSelfRefreshEntry (s : State) : Host.Outcome State Fault Refusal :=
  .next (if s.live && s.power.state == .idle && s.lpUsable && us 20 ≤ s.tol then s.refBegin else s)

/-- SELF_REFRESH_EXIT: the clients state how long they can wait, and the self-refresh of Idle ends, at once where a request
waits, else when TOL has fallen to 8 µs; the exit starts no earlier than 1 µs after the entry. Outside self-refresh the
command is their statement alone (log entry 106). -/
def execSelfRefreshExit (x : TolIn) (s : State) : Host.Outcome State Fault Refusal :=
  .next (
    let s1 := s.tolTake x
    if !(s1.live && s1.memc.selfRef) then s1
    else if x.req then s1.lpRequest
    else match s1.needs.min? with
      | some n => (s1.passTo (n - us 8)).lpRequest
      | none => s1)

/-! ### The scrub of the Moangex store (R217, R218) -/

/-- Powered time (R218). -/
def State.scrubTime (s : State) : Nat := s.memc.scrubUp + (s.now - s.memc.scrubFrom)

/-- Powered time ends; a start lets it begin again. -/
def State.scrubStop (s : State) : State := { s with memc := { s.memc with scrubUp := s.scrubTime, scrubFrom := s.now } }

/-- The scrub is behind one full pass per 30 days of powered time. -/
def State.scrubBehind (s : State) : Bool := s.memc.scrubDone * ms (30 * 86400000) < s.scrubTime * moaWords

/-- A write of an update, of calibration, of prime content or of the Reliquary is in progress; a settings write is one
command. -/
def State.moaWriting (s : State) : Bool :=
  (s.update.swapOn && (s.update.jrec.unit != 0 || s.update.jrec.phase != 0)) || s.choir.writeFrom.isSome ||
    s.prime.kprime.isSome || s.prime.setBusy.isSome || s.prime.puts.any (fun e => s.now < e.2.2) || s.reliq.flush

/-- The next word is read: a single-bit error is corrected and the word rewritten, an uncorrectable one is counted. -/
def State.scrubWord (s : State) : State :=
  let w := s.memc.scrub
  let s1 := { s with memc := { s.memc with scrub := (w + 1) % moaWords, scrubDone := s.memc.scrubDone + 1 } }
  if s1.memc.ueMoa.contains w then (s1.gfix 59 1).tally 7 3 1 1
  else if s1.memc.oneMoa.contains w then
    (({ s1 with memc := { s1.memc with oneMoa := s1.memc.oneMoa.filter (· != w) } }).gfix 58 1).tally 7 3 0 1
  else s1

/-- SCRUB_READ in Run, Idle and Vigil: the next word; while a write is in progress none, but behind its pace 64 bytes
once in a ms, ahead of the write. -/
def State.scrubRead (s : State) : State :=
  if !((s.live || s.power.state == .vigil) && s.power.boot == .up) then s
  else if !s.moaWriting then s.scrubWord.tally 7 3 7 1
  else if s.scrubBehind && s.memc.scrubAt + ms 1 ≤ s.now then
    (forEach (List.range 8) (fun _ (s : State) => s.scrubWord)
      { s with memc := { s.memc with scrubAt := s.now } }).tally 7 3 7 1
  else s
def execScrubRead (s : State) : Host.Outcome State Fault Refusal := .next s.scrubRead

/-! ### Training (R190, R221) -/

/-- The training set that full training yields: its measured delays are free, OP[6:0] of VREF_DQ and VREF_CA have 7 bits,
its RSV bytes and the sets of a rank that is not fitted are 0. -/
def trainingSet (free : BitVec 1024) (ranks : Nat) : List Byte :=
  (List.range 128).map (fun i =>
    let o := i % 32
    if o = 23 || 26 ≤ o || (ranks = 1 && (i / 32) % 2 = 1) then 0
    else BitVec.ofNat 8 (nfld free.toNat (8 * i) (if o = 20 || o = 21 then 7 else 8)))

/-- RETRAINED, recorded by the Reliquary. -/
def State.retrained (s : State) (p0 : Nat) : State := s.notice 0x0183 0xD0 false none [w32 p0]

/-- Full training has ended well: the new set is to be stored in the inactive bank. -/
def State.trainStore (s : State) : State :=
  let (v, s1) := s.fresh 1024
  let set := trainingSet v s.memc.ranks
  let ent : BankEnt := { type := 2, rate := s.memc.rate, data := set }
  { s1 with
    memc := { s1.memc with set := set }
    choir := { s1.choir with pending := s1.choir.pending ++ [{ who := .training, ent := ent }] } }

/-- The stored set of the rate in force (R221). -/
def State.trainSet (s : State) : Option (List Byte) := s.bankFind (fun e _ => e.type == 2 && e.rate == s.memc.rate)

/-- The end of a training pass. At a start a failed verify pass leads to full training. A Vigil exit runs only the verify
pass, and where that fails LPDDR4X is not used until the next start (DESIGN CHOICE, log entry 97). -/
def State.trainDone (s : State) (ok : Bool) : State :=
  let set := fun (s : State) (t : TrainState) => { s with memc := { s.memc with train := t, trainAt := s.now } }
  match s.memc.train with
  | .verify => if ok then set { s with memc := { s.memc with set := s.trainSet.getD [] } } .trained else set s .full
  | .reverify => set s (if ok then .trained else .failed)
  | .full =>
    let el := (s.now - s.memc.trainAt) / ms 1
    if ok then ((set s .trained).trainStore).retrained el else (set s .failed).retrained 0xFFFFFFFF
  | _ => s

end Sys2Proof.Machine
end

