-- ==== Sys2Proof/Machine/Update.lean ====
section
/-!
DEFINITION. Replacing firmware and settings (16_update R515 to R550): images, the header check, the journal,
reception, CHECK, arming, the activation routes, confirmation, discard and the slot exchange.
-/

namespace Sys2Proof.Machine

/-- Write bytes of the Moangex store, in 64-byte units. -/
def State.moaPut (s : State) (a : Nat) (bs : List Byte) : State :=
  (s.moaWrite a bs).tally 7 3 8 (cdiv (a % 64 + bs.length) 64)

/-! ### Headers (R517) -/

/-- Fields of a header. -/
def hdrType (h : List Byte) : Nat := getLe h 6 1
def hdrEnc (h : List Byte) : Bool := nbit (getLe h 7 1) 0
def hdrState (h : List Byte) : Bool := nbit (getLe h 7 1) 1
def hdrVersion (h : List Byte) : Word := w32 (getLe h 12 4)
def hdrFloor (h : List Byte) : Nat := getLe h 16 1
def hdrSfmt (h : List Byte) : Nat := getLe h 17 1
def hdrSize (h : List Byte) : Nat := getLe h 20 4
def hdrStateFmt (h : List Byte) : Nat := getLe h 24 4
def hdrDigest (h : List Byte) : List Byte := (h.drop 32).take 32
def hdrEng (h : List Byte) : List Byte := (h.drop 64).take 32
def hdrEpk (h : List Byte) : List Byte := (h.drop 96).take 64
def hdrSalt (h : List Byte) : List Byte := (h.drop 160).take 8
def hdrSigner (h : List Byte) : List Byte := (h.drop 192).take 64
def hdrSig (h : List Byte) : List Byte := (h.drop 448).take 64

/-- Chunks of an image, the bytes of chunk `i`, and its bytes on the way. -/
def hdrChunks (h : List Byte) : Nat := cdiv (hdrSize h) 4096
def chunkLen (h : List Byte) (i : Nat) : Nat := min 4096 (hdrSize h - 4096 * i)
def wireLen (h : List Byte) (i : Nat) : Nat := chunkLen h i + (if hdrEnc h then 16 else 0)

/-- All bytes of a span are 0. -/
def zeros (h : List Byte) (a n : Nat) : Bool := ((h.drop a).take n).all (· == 0)

/-- An unsigned SETTINGS image is allowed (R519). -/
def State.unsignedOk (s : State) (h : List Byte) : Bool :=
  hdrType h = 2 && zeros h 192 64 && zeros h 448 64 && s.cloister.life = 0 &&
    !(List.range 4).any (fun k => s.ownerUsed k)

/-- Check 1, FORMAT. -/
def hdrFormat (h : List Byte) : Bool :=
  h.take 4 == [0x46, 0x4C, 0x43, 0x49] && getLe h 4 2 = 1 && 1 ≤ hdrType h && hdrType h ≤ 3 && getLe h 7 1 < 4 &&
    zeros h 18 2 && zeros h 168 24 && zeros h 256 192 && hdrSize h % 4 = 0 && 4 ≤ hdrSize h &&
    hdrSize h ≤ (if hdrType h = 2 then 1044480 else 8384512)

/-- Check 3, TYPE: the lifecycle state and the route. -/
def State.hdrTypeOk (s : State) (route : Route) (h : List Byte) : Bool :=
  if hdrType h = 3 then s.cloister.life = 3 && route == .svc else s.cloister.life != 3

/-- Check 4, KEY. -/
def State.hdrKeyOk (s : State) (h : List Byte) : Bool :=
  s.unsignedOk h ||
    (if hdrType h = 2 then s.ownerSlot.any (fun k => keyFor (s.ownerHash k) (hdrSigner h))
     else keyFor (s.otpB 0 32) (hdrSigner h))

/-- Check 5, SIGNATURE. -/
def State.hdrSigOk (s : State) (h : List Byte) : Bool :=
  s.unsignedOk h || ecdsaOk (hdrSigner h) (h.take 448) (hdrSig h)

/-- Check 7, ENCRYPTION. -/
def State.hdrEncOk (s : State) (h : List Byte) : Bool :=
  if hdrEnc h then s.cloister.life != 0 && s.duk != 0 && (ecPoint (hdrEpk h)).isSome else s.cloister.life != 2

/-- The destination of an image is the slot that holds the image that runs. -/
def State.destLocked (s : State) (h : List Byte) : Bool := hdrType h != 2 && s.runsStaging

/-- An exchange of the slots is under way, forward or turned back. -/
def JRec.swapping (j : JRec) : Bool := j.unit != 0 || j.phase != 0

/-- Check 8, STATE: the destination is free. A Staging slot that holds the image that runs, or that an exchange is
writing, is not (R493; log entry 16). -/
def State.hdrFree (s : State) (h : List Byte) : Bool :=
  s.update.jrec.state == .idle &&
    (hdrType h = 2 || (s.update.jrec.boot = 0 && !s.update.jrec.swapping && !s.destLocked h))

/-- The floor that images are held to: 0 in Blank (R474, R494). -/
def State.imgFloor (s : State) : Nat := if s.cloister.life = 0 then 0 else s.rbFloor

/-- The refusal reason of a header, the first failing check (R519). -/
def State.hdrCheck (s : State) (route : Route) (h : List Byte) : Option Nat :=
  if !hdrFormat h then some 1
  else if getLe h 8 4 != 0x07150003 then some 2
  else if !s.hdrTypeOk route h then some 3
  else if !s.hdrKeyOk h then some 4
  else if !s.hdrSigOk h then some 5
  else if hdrFloor h < s.imgFloor then some 6
  else if !s.hdrEncOk h then some 7
  else if !s.hdrFree h then some 8
  else none

/-! ### The journal (R521 to R523) -/

/-- STATE codes. -/
def JState.code : JState → Nat
  | .idle => 0
  | .receiving => 1
  | .staged => 2
  | .armed => 3
  | .trial => 4
def jstateOf (n : Nat) : JState := if n = 1 then .receiving else if n = 2 then .staged else if n = 3 then .armed
  else if n = 4 then .trial else .idle

/-- The 64 bytes of a record, and the record of 64 bytes where it is valid. -/
def JRec.bytes (j : JRec) : List Byte :=
  let b := [0x4A, 0x52, 0x4E, 0x31] ++ wordBytes j.jseq ++
    [BitVec.ofNat 8 j.state.code, BitVec.ofNat 8 j.content, BitVec.ofNat 8 j.boot, BitVec.ofNat 8 j.trials,
     BitVec.ofNat 8 j.unit, BitVec.ofNat 8 j.phase, BitVec.ofNat 8 (j.area + 16 * j.trialArea), 0] ++
    wordBytes j.verBoot ++ wordBytes j.verOther ++ padTo 32 0 j.hdrHash ++ List.replicate 4 0
  b ++ wordBytes (crc32 b)
def jrecOf (b : List Byte) : Option JRec :=
  if b.take 4 == [0x4A, 0x52, 0x4E, 0x31] && w32 (getLe b 60 4) == crc32 (b.take 60) then
    some { jseq := w32 (getLe b 4 4), state := jstateOf (getLe b 8 1), content := getLe b 9 1, boot := getLe b 10 1,
           trials := getLe b 11 1, unit := getLe b 12 1, phase := getLe b 13 1, area := getLe b 14 1 % 4,
           trialArea := getLe b 14 1 / 16 % 4, verBoot := w32 (getLe b 16 4), verOther := w32 (getLe b 20 4),
           hdrHash := (b.drop 24).take 32 }
  else none

/-- The valid record with the greatest JSEQ, and its slot. -/
def State.jScan (s : State) : Option (Nat × JRec) :=
  ((List.range 1024).filterMap (fun k => (jrecOf (Memory.readN s.moa (jAddr k) 64)).map (fun j => (k, j)))).foldl
    (fun b x => match b with
      | some y => if precedes y.2.jseq x.2.jseq then some x else some y
      | none => some x) none

/-- Write a new journal record. -/
def State.jWrite (s : State) (f : JRec → JRec) : State :=
  let u := s.update
  let j := { f u.jrec with jseq := u.jrec.jseq + 1 }
  (s.moaPut (jAddr u.jpos) j.bytes).modUpd (fun u => { u with jrec := j, jpos := (u.jpos + 1) % 1024 })

/-- The header of the transfer, and the chunks stored. -/
def State.xferHdr (s : State) : List Byte := Memory.readN s.moa jHdrAddr 512
def State.mapAt (s : State) (i : Nat) : Bool := Memory.read s.moa (jMapAddr + i) == 0xA5
def State.stored (s : State) (h : List Byte) : Nat := ((List.range (hdrChunks h)).filter s.mapAt).length

/-- Clear the chunk map. -/
def State.mapClear (s : State) : State := s.moaPut jMapAddr (List.replicate 2048 0)

/-- An IDLE record that ends a transfer, with the map cleared. -/
def State.jIdle (s : State) : State :=
  (s.jWrite (fun j => { j with state := .idle, content := 0, trials := 0, trialArea := 3,
                               hdrHash := List.replicate 32 0 })).mapClear

/-- An update event goes to every tenant. -/
def State.updPost (s : State) (code : Nat) (p : List Word) : State := s.postAll code 0x90 none p

/-- An update step is in progress (R527). -/
def State.updStep (s : State) : Bool :=
  s.update.check.isSome || s.update.load.isSome || s.update.act.isSome

/-! ### Reception (R524 to R526) -/

/-- Route codes of UPD_REFUSED. -/
def Route.code : Route → Nat
  | .uds => 1
  | .mailbox => 2
  | .svc => 3

/-- The first byte of a transfer's destination. -/
def State.destOf (s : State) (h : List Byte) : Nat :=
  if hdrType h = 2 then areaAddr (1 - min s.update.jrec.area 1) else 0x800000

/-- A header begins or resumes a transfer, or is refused with a reason (R520, R524). -/
def State.updBegin (s : State) (route : Route) (h : List Byte) : Option Nat × State :=
  if s.update.jrec.state == .receiving && sha256 h == s.update.jrec.hdrHash then (none, s)
  else match s.hdrCheck route h with
  | some r => (some r, s.updPost 0x0111 [w32 r, w32 (hdrType h), hdrVersion h, w32 route.code])
  | none =>
    let s1 := ((s.moaPut jHdrAddr h).mapClear).jWrite (fun j => { j with
      state := .receiving
      hdrHash := sha256 h
      verOther := if hdrType h = 2 then j.verOther else 0 })
    (none, s1)

/-- The content key of an image (R486). -/
def State.cekOf (s : State) (h : List Byte) : List Byte :=
  hkdf (ecdh s.duk (hdrEpk h)) (sha256 h) ([0x56, 0x51, 0x37, 0x2D, 0x43, 0x45, 0x4B] ++ s.devUid)

/-- The plaintext of chunk `i`, none where its tag fails (R487). -/
def State.chunkOpen (s : State) (h : List Byte) (i : Nat) (bs : List Byte) : Option (List Byte) :=
  if !hdrEnc h then some bs
  else
    let n := chunkLen h i
    gcmOpen (s.cekOf h) (hdrSalt h ++ leBytes 4 i) (sha256 h ++ leBytes 4 i) (bs.take n) (bs.drop n)

/-- What becomes of a chunk (R525). -/
inductive ChunkRes
  | stored | badIndex | badLength | badTag | locked
  deriving DecidableEq, Repr

/-- A body chunk: decrypted, written, mapped. -/
def State.updChunk (s : State) (i : Nat) (bs : List Byte) : ChunkRes × State :=
  let h := s.xferHdr
  if hdrChunks h ≤ i then (.badIndex, s)
  else if bs.length != wireLen h i then (.badLength, s)
  else if s.destLocked h then (.locked, s)
  else match s.chunkOpen h i bs with
  | none => (.badTag, s)
  | some p =>
    let s0 : State := if hdrEnc h then { s with cloister := { s.cloister with cek := some (s.cekOf h) } } else s
    if s0.mapAt i then (.stored, s0)
    else (.stored, (s0.moaPut (s0.destOf h + 0x1000 + 4096 * i) p).moaPut (jMapAddr + i) [0xA5])

/-- Every chunk is stored, so CHECK may run. -/
def State.complete (s : State) : Bool :=
  s.update.jrec.state == .receiving && !s.destLocked s.xferHdr && (List.range (hdrChunks s.xferHdr)).all s.mapAt

/-- A key engine forgets the content key (R485). -/
def State.cekClear (s : State) : State := { s with cloister := { s.cloister with cek := none } }

/-- An answer of the UDS server that was awaited is sent. -/
def State.udsFinal (s : State) (bs : List Byte) : State :=
  if s.update.uds.pending78 then s.modUds (fun u => { u with pending78 := false, answer := bs }) else s

/-- A routine's results. -/
def State.udsResult (s : State) (rid : Nat) (bs : List Byte) : State :=
  s.modUds (fun u => { u with results := putKey rid bs u.results })

/-- UPD_CHECK_DONE: the digest of the stored body is compared (R526). -/
def State.updCheckDone (s : State) : State :=
  match s.update.check with
  | none => s
  | some job =>
    let h := s.xferHdr
    let dest := s.destOf h
    let ok := sha256 (Memory.readN s.moa (dest + 0x1000) (hdrSize h)) == hdrDigest h
    let s0 := (s.cekClear).modUpd (fun u => { u with check := none })
    let s1 := if ok then
        ((s0.moaPut dest (h ++ List.replicate 3584 0)).jWrite (fun j => { j with
          state := .staged
          content := if hdrType h = 2 then 2 else 1
          verOther := if hdrType h = 2 then j.verOther else hdrVersion h })).updPost 0x0110
            [w32 (hdrType h), hdrVersion h, w32 (hdrFloor h), w32 (hdrChunks h)]
      else s0.jIdle.updPost 0x0117 [1, hdrVersion h]
    if job.route == .uds then
      (s1.udsResult 0xFD11 [if ok then 0 else 1]).udsFinal (if ok then [0x71, 0x01, 0xFD, 0x11] else [0x7F, 0x31, 0x72])
    else s1
def execUpdCheckDone (s : State) : Host.Outcome State Fault Refusal := .next s.updCheckDone

/-! ### Requests (R549) -/

/-- Words of a journal record as stored. -/
def State.jWords (s : State) : List Word := bytesWords s.update.jrec.bytes

/-- A transfer exists whose header the journal region holds. -/
def State.xfer (s : State) : Bool :=
  s.update.jrec.state == .receiving || s.update.jrec.state == .staged || s.update.jrec.state == .armed

/-- UPD_QUERY: journal record; chunks and chunks stored; swap progress; floor. -/
def execUpdQuery (t : Ten) (s : State) : Host.Outcome State Fault Refusal :=
  .next (match s.request t 0x0A01 with
  | none => s
  | some _ =>
    let h := s.xferHdr
    s.answer t ansOk (s.jWords ++
      [w32 (if s.xfer then hdrChunks h else 0), w32 (if s.xfer then s.stored h else 0), w32 s.update.jrec.unit,
       w32 s.rbFloor]))

/-- An update request needs SERVICE class, and in Locked a session with the UPDATE flag. -/
def State.updReq (s : State) (t : Ten) (code : Nat) (f : List Word → State) : State :=
  match s.request t code with
  | none => s
  | some a =>
    if !s.isCls t .service then s.answer t ansClass []
    else if s.cloister.life = 2 && !(at' s.cloister.reqs (tenReq t)).session.any (fun x => bit x.flags 1) then
      s.answer t ansAuth []
    else f a

/-- UPD_BEGIN. -/
def execUpdBegin (t : Ten) (s : State) : Host.Outcome State Fault Refusal :=
  .next (s.updReq t 0x0A02 (fun a =>
    if s.updStep then s.answer t ansBusy []
    else
      let h := wordsBytes (padTo 128 0 a)
      match s.updBegin .mailbox h with
      | (some r, s1) => s1.answer t ansRefused [w32 r]
      | (none, s1) => s1.answer t ansOk [w32 (hdrChunks h), w32 (s1.stored h)]))

/-- UPD_CHUNK. -/
def execUpdChunk (t : Ten) (s : State) : Host.Outcome State Fault Refusal :=
  .next (s.updReq t 0x0A03 (fun a =>
    if s.updStep then s.answer t ansBusy []
    else if s.update.jrec.state != .receiving then s.answer t ansState []
    else match s.updChunk (a.getD 0 0).toNat (wordsBytes (a.drop 1)) with
    | (.stored, s1) => s1.answer t ansOk []
    | (.badTag, s1) => s1.answer t ansSignature []
    | (.locked, s1) => s1.answer t ansState []
    | (_, s1) => s1.answer t ansRange []))

/-- UPD_CHECK. -/
def execUpdCheck (t : Ten) (s : State) : Host.Outcome State Fault Refusal :=
  .next (s.updReq t 0x0A04 (fun _ =>
    if s.updStep || !s.complete then s.answer t ansState []
    else (s.modUpd (fun u => { u with check := some { route := .mailbox, ten := some t, start := s.now } })).answer t
      ansOk []))

/-- Every bound SAFETY and SERVICE tenant but the issuer has a UALLOW in force (R182, R537). -/
def State.consents (s : State) (issuer : Option Ten) : Bool :=
  s.bound.all (fun t => some t == issuer || s.isCls t .app || (s.ten t).allowTo.any (fun b => s.bn < b))

/-- Arm the staged pair (R536). -/
def State.canArm (s : State) (issuer : Option Ten) : Bool :=
  s.update.jrec.state == .staged && !s.updStep && s.consents issuer
def State.arm (s : State) : State := s.jWrite (fun j => { j with state := .armed })

/-- UPD_ARM. -/
def execUpdArm (t : Ten) (s : State) : Host.Outcome State Fault Refusal :=
  .next (s.updReq t 0x0A05 (fun a =>
    if s.canArm (some t) && a.getD 0 0 == hdrVersion s.xferHdr then s.arm.answer t ansOk [] else s.answer t ansState []))

/-! ### A whole image over the service port (R533, R633) -/

/-- UPD_LOAD opens a load on the service port. -/
def execUpdLoad (t : Ten) (s : State) : Host.Outcome State Fault Refusal :=
  .next (s.updReq t 0x0A06 (fun _ =>
    if (s.ten t).cfg.port != .svc then s.answer t ansState []
    else if s.updStep then s.answer t ansBusy []
    else (s.modUpd (fun u => { u with load := some { ten := t, last := s.now } })).answer t ansOk []))

/-- The load ends. -/
def State.loadEnd (s : State) : State := s.modUpd (fun u => { u with load := none })

/-- A complete load runs CHECK; with a chunk missing it ends as a failed one (log entry 49). -/
def State.loadDone (s : State) (t : Ten) : State :=
  let s1 := s.loadEnd
  if s1.complete then s1.modUpd (fun u => { u with check := some { route := .svc, ten := some t, start := s.now } })
  else (s1.cekClear).jIdle.updPost 0x0117 [1, hdrVersion s.xferHdr]

/-- Take the complete header or the complete chunks at the front of the stream. -/
def State.loadTake : Nat → State → State
  | 0, s => s
  | fuel + 1, s =>
    match s.update.load with
    | none => s
    | some l =>
      let done := l.got - l.part.length
      let keep := fun (n : Nat) (s : State) =>
        s.modUpd (fun u => { u with load := u.load.map (fun l => { l with part := l.part.drop n }) })
      if done < 512 then
        if l.part.length < 512 then s
        else match s.updBegin .svc (l.part.take 512) with
        | (some _, s1) => s1.loadEnd
        | (none, s1) => State.loadTake fuel (keep 512 s1)
      else
        let h := s.xferHdr
        let i := (done - 512) / (4096 + (if hdrEnc h then 16 else 0))
        if hdrChunks h ≤ i then s.loadDone l.ten
        else if l.part.length < wireLen h i then s
        else
          let s1 := keep (wireLen h i) (s.updChunk i (l.part.take (wireLen h i))).2
          if hdrChunks h ≤ i + 1 then s1.loadDone l.ten else State.loadTake fuel s1

/-- Stream bytes that LOAD has brought. -/
def State.loadStream (s : State) (bs : List Byte) : State :=
  State.loadTake 4 (s.modUpd (fun u => { u with load := u.load.map (fun l => { l with
    got := l.got + bs.length
    part := l.part ++ bs
    last := s.now }) }))

/-- LOAD_BREAK: more than 1,000 ms without a part (R533). -/
def State.loadBreak (s : State) : State :=
  match s.update.load with
  | some l => (((s.passTo (l.last + ms 1000 + 1)).loadEnd).cekClear).jIdle
  | none => s
def execLoadBreak (s : State) : Host.Outcome State Fault Refusal := .next s.loadBreak

/-! ### Images in the slots (R490) -/

/-- Steps 3 to 5 of secure boot pass for an image. -/
def State.imgOk (s : State) (other : Bool) : Bool :=
  let h := s.imgHdr other
  hdrFormat h && getLe h 8 4 = 0x07150003 && hdrType h = (if s.cloister.life = 3 then 3 else 1) &&
    keyFor (s.otpB 0 32) (hdrSigner h) && ecdsaOk (hdrSigner h) (h.take 448) (hdrSig h) && s.imgFloor ≤ hdrFloor h &&
    sha256 (s.imgRead other 0x1000 (hdrSize h)) == hdrDigest h

/-! ### ACTIVATE and HANDOVER (R535 to R542) -/

/-- The preconditions of a route. -/
def State.canAct (s : State) (issuer : Option Ten) (handover : Bool) (ver : Word) : Bool :=
  let j := s.update.jrec
  let h := s.imgHdr true
  let a := s.imgHdr false
  j.state == .staged && !s.updStep && s.consents issuer && nbit j.content 0 && ver == hdrVersion h &&
    (nbit j.content 1 || s.update.noArea || hdrSfmt h = hdrSfmt (s.moaHeader (areaAddr j.area))) &&
    (!handover || (!nbit j.content 1 && hdrState h && hdrStateFmt h = hdrStateFmt a && hdrEng h == hdrEng a &&
      hdrSfmt h = hdrSfmt a && s.power.standbyReady))

/-- An activation is accepted: the standby copy stops. -/
def State.actTake (s : State) (handover uds : Bool) : State :=
  (s.modUpd (fun u => { u with act := some { handover := handover, start := s.now, uds := uds } })).modPower (fun p =>
    { p with standbyReady := false })

/-- The activation ends, with the final answer of the UDS routine. -/
def State.actEnd (s : State) (ok : Bool) : State :=
  match s.update.act with
  | none => s
  | some a =>
    let s1 := s.modUpd (fun u => { u with act := none })
    if a.uds then
      (s1.udsResult 0xFD13 [if ok then 0 else 1]).udsFinal (if ok then [0x71, 0x01, 0xFD, 0x13] else [0x7F, 0x31, 0x22])
    else s1

/-- The staged pair becomes the trial pair, run from the Staging slot. -/
def State.toTrial (s : State) (trials : Nat) : State :=
  s.jWrite (fun j => { j with
    state := .trial
    boot := if nbit j.content 0 then 1 else j.boot
    trials := trials
    unit := 0
    phase := 0
    trialArea := if nbit j.content 1 then 1 - min j.area 1 else 3
    verBoot := if nbit j.content 0 then j.verOther else j.verBoot
    verOther := if nbit j.content 0 then j.verBoot else j.verOther
    hdrHash := List.replicate 32 0 })

/-- Answer BUSY every request that waits (R538, R54). -/
def State.busyAll (s : State) : State := forEach s.bound (fun t (s : State) => s.answer t ansBusy []) s

/-- HANDOVER_BELL: a Bell whose announcement follows verification and the import, 37.10 ms at the least after the
acceptance. -/
def State.handoverBell (s : State) : State :=
  match s.update.act with
  | some a =>
    if a.handover && s.live && s.now = s.tB && a.start + us 37100 + us 1500 ≤ s.tB && s.imgOk true then
      let new := hdrVersion (s.imgHdr true)
      let old := s.fwVer
      let s1 := ((s.toTrial 0).modUpd (fun u => { u with runOther := false })).modPower (fun p => { p with
        south := !p.south
        standbyReady := false })
      let s2 := ({ s1 with fwVer := new }).busyAll
      ((s2.gfix 55 1).updPost 0x0113 [2, new, old, 0]).actEnd true
    else s
  | none => s
def execHandoverBell (s : State) : Host.Outcome State Fault Refusal := .next s.handoverBell

/-- HANDOVER_ABANDON (R539). -/
def State.handoverAbandon (s : State) : State :=
  match s.update.act with
  | some a => if a.handover then (s.updPost 0x0117 [2, hdrVersion s.xferHdr]).actEnd false else s
  | none => s
def execHandoverAbandon (s : State) : Host.Outcome State Fault Refusal := .next s.handoverAbandon

/-- UPDATE_PAUSE_BEGIN: at the first announcement after verification, 35.10 ms at the least after the acceptance; an
image that fails ends the ACTIVATE (R540, R542). -/
def State.pauseBegin (s : State) : State :=
  match s.update.act, s.bell.ann with
  | some a, some x =>
    if !a.handover && a.phase == .verify && a.start + us 35100 ≤ x then
      if s.imgOk true then
        (s.kmPause.modUpd (fun u => { u with act := some { a with phase := .pause, dark := s.bn + 2 } })).updPost 0x0112
          [1, w32 (s.bn + 2), 0]
      else (s.updPost 0x0117 [3, hdrVersion s.xferHdr]).actEnd false
    else s
  | _, _ => s
def execUpdatePauseBegin (s : State) : Host.Outcome State Fault Refusal := .next s.pauseBegin

/-- UPDATE_PAUSE_END: the programs are loaded, 41.50 ms at the least from the first dark Bell; emission resumes at the
next announced Bell. -/
def State.pauseLoaded (s : State) : State :=
  match s.update.act with
  | some a =>
    if a.phase == .pause && a.dark ≤ s.bn then
      (s.passTo (a.darkAt + us 41500)).modUpd (fun u => { u with act := some { a with phase := .loaded } })
    else s
  | none => s
def execUpdatePauseEnd (s : State) : Host.Outcome State Fault Refusal := .next s.pauseLoaded

/-- The announcement that follows the load names the resume Bell. -/
def State.pauseAnnounce (s : State) : State :=
  match s.update.act with
  | some a => if a.phase == .loaded && a.due.isNone then
      s.modUpd (fun u => { u with act := some { a with due := some (s.bn + 1) } }) else s
  | none => s

/-- At its Bell the pause darkens the Chapels, with the standby aisle in control of the new image; at the resume Bell
it ends, on the new image or, after a failure, on the Active one. -/
def State.pauseBell (s : State) : State :=
  match s.update.act with
  | none => s
  | some a =>
    if a.phase == .pause && a.dark = s.bn then
      let s1 := s.modUpd (fun u => { u with act := some { a with darkAt := s.now }, runOther := true })
      ({ s1 with fwVer := hdrVersion (s.imgHdr true) }).modPower (fun p => { p with south := !p.south })
    else if a.due == some s.bn then
      let new := hdrVersion (s.imgHdr true)
      let old := hdrVersion (s.imgHdr false)
      let msDark := (s.now - a.darkAt) / ms 1
      let ended := fun (s : State) =>
        (s.modUpd (fun u => { u with runOther := false })).updPost 0x0112 [2, s.bn32, w32 msDark]
      if a.failed then
        let s1 := ended (({ s with fwVer := old }).modPower (fun p => { p with south := !p.south }))
        (s1.updPost 0x0117 [3, new]).actEnd false
      else ((ended (s.toTrial 0)).updPost 0x0113 [1, new, old, 0]).actEnd true
    else s

/-! ### Update instructions (R181, R182) -/

def semUact : OpSem where
  m0 := 0x00800000#32
  m1 := 0xFFFFFFFF#32
  cost := fun _ => 16
  causes := fun c s => when' (!s.canAct (some c.ten) (bit c.w 23) c.e1) fSTATE
  run := fun c s => s.actTake (bit c.w 23) false
def execUact (r : RingId) (s : State) : Host.Outcome State Fault Refusal := .next (s.runOp r 0xC8 semUact)

/-- CONFIRM is accepted: TRIAL, the expected VERSION, the consents, no step in progress (R545), and OTP programming may
begin where the floor rises (R686, log entry 90). -/
def State.canConfirm (s : State) (issuer : Option Ten) (ver : Word) : Bool :=
  s.update.jrec.state == .trial && ver == s.update.jrec.verBoot && s.consents issuer && !s.updStep &&
    (s.otpReady || min 128 (hdrFloor (s.imgHdr false)) ≤ s.rbFloor)

/-- The bits of a thermometer value. -/
def thermo (n : Nat) : List Byte := leBytes 16 (2 ^ n - 1)

/-- Raise the rollback floor to a step (R496). -/
def State.raiseFloor (s : State) (step : Nat) (seq : Option Word) : State :=
  let old := s.rbFloor
  if step ≤ old then s
  else
    let s1 := (s.otpSet 0x30 (thermo step)).otpSet 0x40 (thermo step)
    s1.postAll 0x00F1 0x90 seq [seq.getD 0, w32 old, w32 step]

/-- CONFIRM: the floor rises, the trial area comes into force (R545). -/
def State.confirm (s : State) (seq : Option Word) : State :=
  let old := s.rbFloor
  let j := s.update.jrec
  let s1 := s.raiseFloor (min 128 (hdrFloor (s.imgHdr false))) seq
  let s2 := s1.jWrite (fun j => { j with
    state := .idle
    content := 0
    trials := 0
    area := if j.trialArea < 2 then j.trialArea else j.area
    trialArea := 3 })
  s2.updPost 0x0114 [j.verBoot, w32 old, w32 s2.rbFloor]

def semUconf : OpSem where
  m1 := 0xFFFFFFFF#32
  cost := fun _ => 16
  causes := fun c s => when' (!s.canConfirm (some c.ten) c.e1) fSTATE
  run := fun c s => s.confirm (some c.seq)
def execUconf (r : RingId) (s : State) : Host.Outcome State Fault Refusal := .next (s.runOp r 0xC9 semUconf)

/-- DISCARD is accepted (R546, R537). -/
def State.canDiscard (s : State) (issuer : Option Ten) : Bool :=
  s.update.jrec.state != .trial && s.consents issuer && !s.updStep

/-- DISCARD: the transfer or staged pair goes; in IDLE the other slot becomes empty. -/
def State.discard (s : State) : State :=
  if s.update.jrec.state == .idle then s.jWrite (fun j => { j with verOther := 0 })
  else (s.cekClear).jIdle

def semUdisc : OpSem where
  cost := fun _ => 8
  causes := fun c s => when' (!s.canDiscard (some c.ten)) fSTATE
  run := fun _ s => s.discard
def execUdisc (r : RingId) (s : State) : Host.Outcome State Fault Refusal := .next (s.runOp r 0xCA semUdisc)

def semUallow : OpSem where
  m0 := 0x0000FFFF#32
  cost := fun _ => 2
  run := fun c s =>
    let n := fld c.w 0 16
    s.modTen c.ten (fun q => { q with allowTo := if n = 0 then none else some (s.bn + n) })
def execUallow (r : RingId) (s : State) : Host.Outcome State Fault Refusal := .next (s.runOp r 0xCB semUallow)

/-! ### The slot exchange (R544) -/

/-- Copy a 64 KiB unit of the Moangex store. -/
def State.unitCopy (s : State) (from' to' : Nat) : State :=
  s.moaPut to' (Memory.readN s.moa from' 65536)

/-- SWAP_UNIT where a revert has turned the exchange back (log entry 52): a unit that was moved is moved back, and with
none left the slots hold the images as before the exchange. -/
def State.swapBack (s : State) : State :=
  let j := s.update.jrec
  let k := j.unit
  let s1 := if j.phase = 2 then s.unitCopy jScratch (65536 * k) else s
  if j.phase != 0 then
    let s2 := s1.jWrite (fun j => { j with phase := 0 })
    s2.modUpd (fun u => { u with swapOn := u.jrec.swapping })
  else
    let a := 65536 * (k - 1)
    let s2 := (((s.unitCopy (0x800000 + a) jScratch).unitCopy a (0x800000 + a)).unitCopy jScratch a).jWrite (fun j =>
      { j with unit := k - 1 })
    s2.modUpd (fun u => { u with swapOn := u.jrec.swapping })

/-- SWAP_UNIT: the unit that the journal names, from its recorded phase; after unit 127 the exchange is complete. -/
def State.swapUnit (s : State) : State :=
  let j := s.update.jrec
  match s.power.tellAt with
  | none => s
  | some tt =>
    if !(s.update.swapOn && s.live && !s.updStep) then s
    else if j.boot != 1 then (if j.swapping then s.swapBack else s)
    else
      let k := j.unit
      let a := 65536 * k
      let s1 := if j.phase = 0 then (s.unitCopy a jScratch).jWrite (fun j => { j with phase := 1 }) else s
      let s2 := if j.phase < 2 then (s1.unitCopy (0x800000 + a) a).jWrite (fun j => { j with phase := 2 }) else s1
      let s3 := s2.unitCopy jScratch (0x800000 + a)
      if k < 127 then s3.jWrite (fun j => { j with unit := k + 1, phase := 0 })
      else
        let s5 := s3.jWrite (fun j => { j with boot := 0, unit := 0, phase := 0 })
        (s5.modUpd (fun u => { u with swapOn := false })).updPost 0x0116 [j.verBoot, w32 ((s.now - tt) / ms 1)]
def execSwapUnit (s : State) : Host.Outcome State Fault Refusal := .next s.swapUnit

end Sys2Proof.Machine
end

