-- ==== Sys2Proof/Machine/HostPorts.lean ====
section
/-!
DEFINITION. The host ports (20_host_ports): register access, framed operations, the PCIe BARs, link loss and
return, writes held in Vigil, and the mailbox commands.
-/

namespace Sys2Proof.Machine

/-! ### Ports -/

/-- The ports are powered: not in Crypt, and a start has raised its supplies (R640). -/
def State.portsOn (s : State) : Bool :=
  s.power.state != .crypt && (s.power.boot == .ready || s.power.boot == .up || s.power.boot == .dead)

/-- The device sleeps in Vigil, so that accesses follow R640. -/
def State.asleep (s : State) : Bool := s.power.state == .vigil

/-- A wake is detected (R420); the first one of a sleep stands. -/
def State.wake (s : State) (w : WakeSrc) : State :=
  if s.power.waking.isSome then s else s.modPower (fun p => { p with waking := some w, wakeAt := s.now })

/-- A framed port's state; a PCIe function has none. -/
def State.portSt (s : State) (p : HostPort) : Option PortSt :=
  match p with
  | .spi0 => some (at' s.ports.spi 0)
  | .spi1 => some (at' s.ports.spi 1)
  | .can0 => some (at' s.ports.can 0)
  | .can1 => some (at' s.ports.can 1)
  | .svc => some s.ports.svc
  | .pf _ => none

/-- PORT code of a port. -/
def HostPort.code : HostPort → Nat
  | .spi0 => 0
  | .spi1 => 1
  | .pf _ => 2
  | .can0 => 3
  | .can1 => 4
  | .svc => 5

/-- The CAN channel of a port. -/
def HostPort.can? : HostPort → Option (Fin 2)
  | .can0 => some 0
  | .can1 => some 1
  | _ => none

/-- NW maximum, and bytes of the burst FIFO share (R623, R637). -/
def HostPort.nwMax : HostPort → Nat
  | .spi0 | .spi1 => 256
  | .can0 | .can1 => 14
  | .svc => 1040
  | .pf _ => 0
def HostPort.share : HostPort → Nat
  | .spi0 | .spi1 => 16384
  | .can0 | .can1 => 4096
  | .svc => 8192
  | .pf _ => 65536

/-- LINK_MS of a port (R651). -/
def State.linkMs (s : State) (p : HostPort) : Nat :=
  match p with
  | .spi0 => at' s.ports.cfg.linkMs 0
  | .spi1 => at' s.ports.cfg.linkMs 1
  | .can0 => at' s.ports.cfg.linkMs 2
  | .can1 => at' s.ports.cfg.linkMs 3
  | .svc => at' s.ports.cfg.linkMs 4
  | .pf _ => 0

/-- Return a value to a port's tenant, where it has one. -/
def State.giveTo (s : State) (t : Option Ten) (v : Word) : State :=
  match t with
  | some t => s.give t v
  | none => s

/-! ### Link loss (R638, R505, R109) -/

/-- A service session ends (R505). -/
def State.endSession (s : State) (q : Fin 5) : State := s.modClo q (fun x => { x with session := none })

/-- A tenant's host link is lost. -/
def State.linkLost (s : State) (t : Ten) : State := (s.endSession (tenReq t)).tenFault t 1 0

/-- A port's link is marked lost or returned. -/
def State.markLost (s : State) (p : HostPort) (b : Bool) : State :=
  match p with
  | .pf n => s.modPf n (fun f => { f with lost := b })
  | p => s.modPort p (fun q => { q with lost := b })

/-- A port's criterion of loss holds (the link loss table of R638). It is judged while the device is in Run or Idle
(log entry 24). -/
def State.linkGone (s : State) (p : HostPort) : Bool :=
  match p with
  | .pf _ => !s.ports.dllUp && s.ports.dllDownAt.elim false (fun a => a + ms 10 ≤ s.now)
  | p =>
    (match p.can? with
     | some c => (at' s.ports.canSt c).busOff
     | none => false) ||
    (s.linkMs p != 0 && (s.portSt p).elim false (fun q => q.lastOk + ms (s.linkMs p) ≤ s.now))

/-- The instant at which a tenant's link is gone, where it is not lost yet. -/
def State.goneAt (s : State) (t : Ten) : Option Time :=
  if (s.ten t).faulted then none
  else match s.portOf t with
  | .pf _ => if s.ports.dllUp then none else s.ports.dllDownAt.map (· + ms 10)
  | p =>
    if p.can?.any (fun c => (at' s.ports.canSt c).busOff) then some s.now
    else if s.linkMs p = 0 then none
    else (s.portSt p).bind (fun q => if q.lost then none else some (q.lastOk + ms (s.linkMs p)))

/-- HOST_LINK_LOST. -/
def State.hostLost (s : State) (t : Ten) : State :=
  if s.live && (s.ten t).cfg.bound && s.linkGone (s.portOf t) then (s.markLost (s.portOf t) true).linkLost t else s

/-- HOST_LINK_LOST, of each tenant whose host link has gone. -/
def execHostLinkLost (s : State) : Host.Outcome State Fault Refusal :=
  .next (forEach (allFin 4) (fun t s => State.hostLost s t) (s.passFirst (s.bound.filterMap s.goneAt)))

/-- Every tenant of a PCIe function loses its link. -/
def State.pcieLost (s : State) : State :=
  forEach s.bound (fun t s => if (s.ten t).cfg.port == .pcie then (s.markLost (.pf t) true).linkLost t else s) s

/-- PCIE_FLR: a Function Level Reset clears the function's Memory Space Enable and MSI-X state (PCI Express Base
3.0, log entry 25) and loses its tenant's link. -/
def execPcieFlr (n : Ten) (s : State) : Host.Outcome State Fault Refusal :=
  .next (
    let s1 := s.modPf n (fun f => { f with
      mse := false
      msix := Vector.replicate 2 (0, 0, true)
      pba := Vector.replicate 2 false })
    if s.isCls n (s.ten n).cfg.cls && (s.ten n).cfg.port == .pcie then (s1.markLost (.pf n) true).linkLost n else s1)

/-- PCIE_PERST: the pin changes level; while low every PCIe tenant's link is lost. -/
def execPciePerst (low : Bool) (s : State) : Host.Outcome State Fault Refusal :=
  .next (
    let s1 := { s with ports := { s.ports with perst := low } }
    if low then ({ s1 with ports := { s1.ports with
        dllUp := false
        dllDownAt := some (s.ports.dllDownAt.getD s.now)
        pf := mapTab (fun (f : PfSt) => { f with mse := false }) s1.ports.pf } }).pcieLost else s1)

/-- PCIE_LINK_DOWN: the 10 ms count begins; a hot reset loses every PCIe tenant's link at once. -/
def execPcieLinkDown (hot : Bool) (s : State) : Host.Outcome State Fault Refusal :=
  .next (
    let s1 := { s with ports := { s.ports with dllUp := false, dllDownAt := some (s.ports.dllDownAt.getD s.now) } }
    if hot then s1.pcieLost else s1)

/-- PCIE_LINK_UP: the Data Link Layer is up with Memory Space Enable set, so that the links have returned. -/
def execPcieLinkUp (speed width : Nat) (s : State) : Host.Outcome State Fault Refusal :=
  .next (if s.portsOn && !s.ports.perst then
    { s with ports := { s.ports with
        dllUp := true
        dllDownAt := none
        speed := min speed s.ports.cfg.speed
        width := min width s.ports.cfg.lanes
        pf := mapTab (fun (f : PfSt) => { f with mse := true, lost := false }) s.ports.pf } }
  else s)

/-- CAN_BUS_OFF (R629, R638). -/
def execCanBusOff (n : Fin 2) (s : State) : Host.Outcome State Fault Refusal :=
  .next (
    let p : HostPort := if n = 0 then .can0 else .can1
    let s1 := { s with ports := { s.ports with canSt := upd s.ports.canSt n (fun c => { c with busOff := true }) } }
    match s1.portTen p with
    | some t => (s1.markLost p true).linkLost t
    | none => s1)

/-- CAN_BUSOFF_RECOVERY (R629): the error counters are 0 again (ISO 11898-1, log entry 25). -/
def execCanBusoffRecovery (n : Fin 2) (s : State) : Host.Outcome State Fault Refusal :=
  .next (if (at' s.ports.canSt n).busOff then
    { s with ports := { s.ports with canSt := upd s.ports.canSt n (fun _ => {}) } } else s)

/-! ### Memory access of a host (R189, R690, R694) -/

/-- Host words of a memory, 0 for an uncorrectable one; a read that finds one counts it and posts MEM_UE (R694). -/
def State.hostRead (s : State) (t : Ten) (under : Bool) (addrs : List (Option Nat)) : List Word × State :=
  let ue := if under then s.memc.ueUnder else s.memc.ueLp
  let m := if under then s.under else s.lp
  let s := if under || (addrs.filterMap id).isEmpty then s else s.lpRequest
  let one : Option Nat → Word := fun a =>
    match a with
    | some a => if ueAt ue a then 0 else Memory.readW m a
    | none => 0
  let bad := addrs.filterMap (fun a => a.bind (fun a => if ueAt ue a then some a else none))
  let s1 := match bad.min? with
    | some a => ((s.gfix 59 bad.length).tally 7 (b2n under) 1 bad.length).post t 0x0063 (0xD0 + b2n under) none
        [5, w32 a]
    | none => s
  (addrs.map one, s1)

/-- Addresses of `n` words from an offset in a tenant's region, none outside it. -/
def TenCfg.regionWords (c : TenCfg) (off n : Nat) : List (Option Nat) :=
  (List.range n).map (fun i => if off + 4 * i + 4 ≤ c.regSize then some (c.regBase + off + 4 * i) else none)

/-- A host write of words into a tenant's region: one request, one write (R690). -/
def State.regionWrite (s : State) (t : Ten) (off : Nat) (ws : List Word) : State :=
  let c := (s.ten t).cfg
  let keep := min ws.length ((c.regSize - off) / 4)
  let s1 := if s.lpUsable && keep != 0 then s.lpRequest.lpWrite (c.regBase + off) (wordsBytes (ws.take keep)) else s
  s1.outsideWrite t (ws.length - keep)

/-! ### Framed operations (R622 to R633) -/

/-- Fields of the OP byte. -/
def FReq.code (q : FReq) : Nat := fld q.op 0 4
def FReq.produce (q : FReq) : Bool := bit q.op 7
def FReq.fixed (q : FReq) : Bool := bit q.op 6
def FReq.nw (q : FReq) : Nat := q.nwm1.toNat + 1
def FReq.writes (q : FReq) : Bool := q.code = 1 || q.code = 3 || q.code = 4 || q.code = 8

/-- Status FORMAT (R623, R632; log entry 26). -/
def FReq.badFormat (q : FReq) (p : HostPort) : Bool :=
  q.code = 0 || 8 < q.code || fld q.op 4 2 != 0 || (q.produce && q.code != 3) ||
  (q.fixed && q.code != 1 && q.code != 2) || p.nwMax < q.nw ||
  (q.code = 7 && (q.addr != 0 || q.nw != 1)) || (q.code = 3 && fld q.addr 20 8 != 0) ||
  (q.code = 6 && q.nw % 8 != 0) ||
  ((q.code = 4 || q.code = 5) && q.addr.toNat % 4 != 0) ||
  (q.code = 8 && p != .svc) ||
  (if q.writes then q.data.length != q.nw else !q.data.isEmpty)

/-- The request reads the identity page only (R624 UNBOUND). -/
def FReq.idPage (q : FReq) : Bool :=
  q.code = 2 && q.addr.toNat + (if q.fixed then 4 else 4 * q.nw) ≤ 4096

/-- A request that a dead unit does not serve: all but register access, which reaches the identity page and the mailbox
alone (R56). It is answered as on a port without a tenant (log entry 82). -/
def State.deadUnserved (s : State) (q : FReq) : Bool := s.dead && (3 ≤ q.code && q.code != 7)

/-- Status RANGE (R624, R633). -/
def State.badRange (s : State) (t : Ten) (q : FReq) : Bool :=
  if q.code = 3 then
    (match fin? 16 (fld q.addr 28 4) with
     | some r => (s.ring r).owner != some t || !(s.ring r).under || (s.ring r).words ≤ fld q.addr 0 20
     | none => true)
  else if q.code = 6 then (s.ten t).cfg.evqCap ≤ q.addr.toNat
  else if q.code = 8 then
    (match s.update.load with
     | some l => l.ten != t || l.got != q.addr.toNat
     | none => true)
  else false

/-- A read whose data is not ready (R627, R640): in Vigil, or from an LPDDR4X that cannot be used. -/
def State.notReady (s : State) (t : Option Ten) (q : FReq) : Bool :=
  (s.asleep && (q.code = 5 || q.code = 6 || (q.code = 2 && !q.idPage))) ||
  (q.code = 5 && !s.lpUsable) ||
  (q.code = 6 && t.elim false (fun t => !(s.ten t).cfg.evqUnder && !s.lpUsable))

/-- Bytes of a write held in Vigil. -/
def HeldWrite.bytes : HeldWrite → Nat
  | .framed q => 8 + 4 * q.data.length
  | .bar _ _ bs => 8 + bs.length

/-- A held write that the port's share cannot take (R640). -/
def State.overShare (s : State) (p : HostPort) (w : HeldWrite) : Bool :=
  let held := match p with
    | .pf n => (at' s.ports.pf n).held
    | p => (s.portSt p).elim [] (·.held)
  p.share < (held.map HeldWrite.bytes).foldl (· + ·) 0 + w.bytes

/-- Four bytes read from an address: each is taken from the whole aligned word that holds it (R21), so that an unaligned
read takes two words (log entry 26). -/
def State.regBytes (s : State) (t : Option Ten) (addr : Nat) : Word × State :=
  let k := 8 * (addr % 4)
  let (lo, s1) := s.regRead t (addr - addr % 4)
  if k = 0 then (lo, s1)
  else
    let (hi, s2) := s1.regRead t (addr - addr % 4 + 4)
    ((lo >>> k) ||| (hi <<< (32 - k)), s2)

/-- Registers read or written in turn from an address, or at one address (FIXED). A write at an address that is not a
multiple of 4 covers no whole aligned word, so that it is discarded and counted (R21, R625). -/
def regAddr (q : FReq) (i : Nat) : Nat := q.addr.toNat + (if q.fixed then 0 else 4 * i)
def State.regReads (s : State) (t : Option Ten) (q : FReq) : Nat → List Word × State
  | 0 => ([], s)
  | n + 1 =>
    let (ws, s1) := s.regReads t q n
    let (w, s2) := s1.regBytes t (regAddr q n)
    (ws ++ [w], s2)
def State.regWrites (s : State) (t : Option Ten) (q : FReq) : State :=
  forEach (q.data.zipIdx) (fun e s => s.regWrite t (regAddr q e.2) (regAddr q e.2 % 4 == 0) e.1) s

/-- RING: words into the ring body, wrapping, then PRODUCE (R623). -/
def State.ringWords (s : State) (r : RingId) (idx : Nat) (ws : List Word) : State :=
  let q := s.ring r
  let tail := q.words - idx % q.words
  -- a wrapped request is one write on each side of the end
  let s1 := s.underWrite (q.addr + 4 * (idx % q.words)) (wordsBytes (ws.take tail))
  let rest := ws.drop tail
  if rest.isEmpty then s1
  else if rest.length ≤ q.words then s1.underWrite q.addr (wordsBytes rest)
  else forEach (rest.zipIdx) (fun e s => s.underWrite (q.addr + 4 * (e.2 % q.words)) (wordBytes e.1)) s1
def State.framedRing (s : State) (t : Ten) (q : FReq) : State :=
  match fin? 16 (fld q.addr 28 4) with
  | none => s
  | some r =>
    let idx := fld q.addr 0 20
    let s1 := s.ringWords r idx q.data
    if q.produce then s1.doorbell t r 0 ((idx + q.nw) % (s.ring r).words) else s1

/-- EVQ: records from an index, wrapping (R623). -/
def State.framedEvq (s : State) (t : Ten) (q : FReq) : List Word × State :=
  let c := (s.ten t).cfg
  s.hostRead t c.evqUnder ((List.range q.nw).map (fun i =>
    some (c.evqBase + 32 * ((q.addr.toNat + i / 8) % c.evqCap) + 4 * (i % 8))))

/-- LOAD: the next stream bytes go to the update service (R633). -/
def State.framedLoad (s : State) (q : FReq) : State := s.loadStream (wordsBytes q.data)

/-- The effect of an accepted request, with the data it reads. -/
def State.framedEffect (s : State) (t : Option Ten) (q : FReq) : List Word × State :=
  match t with
  | none => if q.code = 2 then s.regReads none q q.nw else ([], s)
  | some t =>
    match q.code with
    | 1 => ([], s.regWrites (some t) q)
    | 2 => s.regReads (some t) q q.nw
    | 3 => ([], s.framedRing t q)
    | 4 => ([], s.regionWrite t q.addr.toNat q.data)
    | 5 =>
      let a := (s.ten t).cfg.regionWords q.addr.toNat q.nw
      (s.outside t (a.filter (·.isNone)).length).hostRead t false a
    | 6 => s.framedEvq t q
    | 8 => ([], s.framedLoad q)
    | _ => ([], s)

/-- FLAGS of a response (R624); ERR_SINCE is about requests before this one (DEDUCED, log entry 26). -/
def State.respFlags (s : State) (t : Option Ten) (err : Bool) : Nat :=
  (match t with
   | some t =>
     let q := s.ten t
     b2n (q.evq.wr != q.evq.rd) + 2 * b2n (s.box t).ready + 4 * b2n (q.faulted || q.resetting)
   | none => 0) + 8 * b2n err

/-- Status of a request (R624). -/
def State.framedStatus (s : State) (p : HostPort) (t : Option Ten) (q : FReq) : Nat :=
  if !q.crcOk then 1
  else if q.badFormat p then 2
  else match t with
  | none => if q.idPage then 0 else 6
  | some t =>
    if s.deadUnserved q then 6
    else if s.badRange t q then 3
    else if s.notReady (some t) q then 4
    else if s.asleep && q.writes && s.overShare p (.framed q) then 5
    else 0

/-- Hold a write in a framed port's share. -/
def PortSt.hold (x : PortSt) (w : HeldWrite) : PortSt := { x with held := x.held ++ [w] }

/-! ### The service port's UART (R631, R632) -/

/-- The bytes of a response (R624). -/
def FResp.bytes (r : FResp) : List Byte :=
  [r.op, r.tag, BitVec.ofNat 8 r.status, BitVec.ofNat 8 r.flags] ++ wordsBytes r.data

/-- A frame of the service port: a content with its CRC-16, high byte first, stuffed and delimited (R628, R632). -/
def svcFrame (content : List Byte) : List Byte :=
  let body := content ++ beBytes 2 (crc16 content).toNat
  [0x7E#8] ++ body.flatMap (fun b => if b = 0x7E#8 || b = 0x7D#8 then [0x7D#8, b ^^^ 0x20#8] else [b]) ++ [0x7E#8]

/-- The bytes of a request as its port receives them, without the frame check (R622). -/
def FReq.bytes (q : FReq) : List Byte := [q.op, q.tag] ++ leBytes 2 q.nwm1.toNat ++ wordBytes q.addr ++ wordsBytes q.data

/-- The levels of a line for one character: the start bit, eight data bits from the least significant, the stop bit
(R631). -/
def uartChar (b : Byte) : List Bool := false :: (List.range 8).map (bit b) ++ [true]

/-- Bytes held in the 8 KiB receive FIFO: those of the requests that wait in Vigil; every other request is taken as it
arrives (log entry 93). -/
def State.svcLevel (s : State) : Nat := ((s.ports.svc.held.map HeldWrite.bytes).foldl (· + ·) 0)

/-- SVC_RTS_N is high: fewer than 64 bytes of the receive FIFO are free (R631). -/
def State.svcRtsN (s : State) : Bool := 8192 < s.svcLevel + 64

/-- Response bytes for the service port: they are sent while SVC_CTS_N is low; once the host has driven it high, sending
stops within 2 characters, so that a free number of at most 2 still leave (R631). -/
def State.svcSend (s : State) (bs : List Byte) (ctsN : Bool) : State :=
  let wait := s.ports.svcTx ++ bs
  let put := fun (s : State) (n : Nat) => { s with ports := { s.ports with
    svcCtsN := ctsN
    svcTx := wait.drop n
    svcOut := s.ports.svcOut ++ wait.take n } }
  if !ctsN then put s wait.length
  else if s.ports.svcCtsN then put s 0
  else
    let (n, s1) := s.fresh 2
    put s1 (min 2 n.toNat)

/-- A response put on its port's line: the service port sends it framed; SPI and CAN carry it as it is. -/
def State.svcAnswer (s : State) (p : HostPort) (q : FReq) : State :=
  if p == .svc then s.svcSend (s.ports.svc.resp.elim [] (fun r => svcFrame r.bytes)) q.ctsHigh else s

/-- A request received by a framed port, with its response (R622 to R625, R640). -/
def State.framed (s : State) (p : HostPort) (q : FReq) : State :=
  match s.portSt p with
  | none => s
  | some _ =>
    if !s.portsOn || p.can?.elim false (fun c => (at' s.ports.canSt c).busOff) then s
    else if q.classical then
      (if p.can?.isSome then (s.modPort p (fun x => { x with refused := x.refused + 1 })).tally 11 p.code 1 1 else s)
    else
      let t := s.portTen p
      let st := s.framedStatus p t q
      let good := st != 1 && st != 2
      let s0 := if good && t.isSome then
          (s.modPort p (fun x => { x with lastOk := s.now, lost := false })) else s
      let s1 := if good then t.elim s0 (fun t => s0.touch t) else s0
      let s2 := if st = 0 then (s1.modPort p (fun x => { x with accepted := x.accepted + 1 })).tally 11 p.code 0 1
        else (s1.modPort p (fun x => { x with refused := x.refused + 1 })).tally 11 p.code 1 1
      let (data, s3) :=
        if st != 0 then (([] : List Word), s2)
        else if s.asleep && q.writes then
          ([], ((if t.isSome && q.code != 8 then s2.wake .hostPort else s2).modPort p (fun x => x.hold (.framed q))))
        else s2.framedEffect t q
      let err := (s.portSt p).elim false (·.errSince)
      let sent := !(q.skip && q.code != 2 && q.code != 5 && q.code != 6)
      let nData := if st = 0 then data else if st = 4 then List.replicate q.nw 0 else []
      if sent then
        (s3.modPort p (fun x => { x with
          resp := some { op := q.op, tag := q.tag, status := st, flags := s3.respFlags t err, data := nData }
          errSince := false })).svcAnswer p q
      else s3.modPort p (fun x => { x with errSince := err || st != 0 })

def execWr (p : HostPort) (q : FReq) (s : State) : Host.Outcome State Fault Refusal := .next (s.framed p q)
def execRd (p : HostPort) (q : FReq) (s : State) : Host.Outcome State Fault Refusal := .next (s.framed p q)
def execRing (p : HostPort) (q : FReq) (s : State) : Host.Outcome State Fault Refusal := .next (s.framed p q)
def execMwr (p : HostPort) (q : FReq) (s : State) : Host.Outcome State Fault Refusal := .next (s.framed p q)
def execMrd (p : HostPort) (q : FReq) (s : State) : Host.Outcome State Fault Refusal := .next (s.framed p q)
def execEvq (p : HostPort) (q : FReq) (s : State) : Host.Outcome State Fault Refusal := .next (s.framed p q)
def execFramedNop (p : HostPort) (q : FReq) (s : State) : Host.Outcome State Fault Refusal := .next (s.framed p q)
def execLoad (p : HostPort) (q : FReq) (s : State) : Host.Outcome State Fault Refusal := .next (s.framed p q)

/-! ### The PCIe BARs (R635, R636) -/

/-- The tenant that a PCIe function reaches. -/
def State.pfTen (s : State) (n : Ten) : Option Ten := s.portTen (.pf n)

/-- The byte runs of a write, each with its offset. -/
def byteRuns : Nat → List (Option Byte) → List (Nat × List Byte)
  | _, [] => []
  | o, none :: bs => byteRuns (o + 1) bs
  | o, some b :: bs =>
    match byteRuns (o + 1) bs with
    | (o', r) :: rest => if o' = o + 1 then (o, b :: r) :: rest else (o, [b]) :: (o', r) :: rest
    | [] => [(o, [b])]

/-- A posted write to BAR2 (R189, R690); bytes outside the region are discarded and counted. -/
def State.bar2Write (s : State) (n : Ten) (off : Nat) (bs : List (Option Byte)) : State :=
  match s.pfTen n with
  | none => s
  | some t =>
    let c := (s.ten t).cfg
    let keep := min bs.length (c.regSize - off)
    let s1 := if s.lpUsable then
        forEach (byteRuns off (bs.take keep)) (fun r s => s.lpWrite (c.regBase + r.1) r.2) s.lpRequest else s
    s1.outsideWrite t (cdiv (bs.length - keep) 4)

/-- The MSI-X table at 0x6000 and its mask bits: an unmasked pending vector is sent (R635, R639). -/
def PfSt.msixWrite (f : PfSt) (k : Nat) (v : Word) : PfSt :=
  match fin? 2 (k / 4) with
  | none => f
  | some i =>
    let f1 := { f with msix := upd f.msix i (fun (a, d, m) =>
      match k % 4 with
      | 0 => (a / 2 ^ 32 * 2 ^ 32 + v.toNat, d, m)
      | 1 => (a % 2 ^ 32 + v.toNat * 2 ^ 32, d, m)
      | 2 => (a, v, m)
      | _ => (a, d, bit v 0)) }
    if at' f1.pba i && !(at' f1.msix i).2.2 then ({ f1 with pba := upd f1.pba i (fun _ => false) }).msi i else f1

/-- A write of a BAR0 word by a function. -/
def State.bar0Write (s : State) (n : Ten) (addr : Nat) (whole : Bool) (v : Word) : State :=
  if addr < 0x5000 then s.regWrite (s.pfTen n) addr whole v
  else if 0x6000 ≤ addr && addr < 0x6020 && whole then s.modPf n (fun f => f.msixWrite ((addr - 0x6000) / 4) v)
  else s

/-- A PCIe write in Vigil is a wake and is held, or discarded beyond the share (R640). -/
def State.holdPf (s : State) (n : Ten) (w : HeldWrite) : State :=
  if s.overShare (.pf n) w then s.modPf n (fun f => { f with discarded := f.discarded + 1 })
  else
    let s1 := s.modPf n (fun f => { f with held := f.held ++ [w] })
    if (s.pfTen n).isSome then s1.wake .hostPort else s1

/-- A write held in Vigil takes effect (R640). -/
def State.heldEffect (s : State) (p : HostPort) (w : HeldWrite) : State :=
  match p, w with
  | .pf n, .bar true off bs => s.bar2Write n off bs
  | .pf n, .bar false addr bs =>
    let whole := bs.all (·.isSome) && bs.length = 4 && addr % 4 = 0
    s.bar0Write n addr whole (w32 (ofLe (bs.filterMap id)))
  | p, .framed q => (s.framedEffect (s.portTen p) q).2
  | _, _ => s

/-- Every port. -/
def allPorts : List HostPort := [.spi0, .spi1, .can0, .can1, .svc, .pf 0, .pf 1, .pf 2, .pf 3]

/-- After a Vigil exit the held writes of every port take effect in order (R640). -/
def State.releaseHeld (s : State) : State :=
  forEach allPorts (fun p s =>
    let held := match p with
      | .pf n => (at' s.ports.pf n).held
      | p => (s.portSt p).elim [] (·.held)
    let s1 := match p with
      | .pf n => s.modPf n (fun f => { f with held := [] })
      | p => s.modPort p (fun x => { x with held := [], lastOk := s.now })
    forEach held (fun w s => s.heldEffect p w) s1) s

/-- Bytes of a word that a byte enable selects. -/
def beBytes4 (be : BitVec 4) (v : Word) : List (Option Byte) :=
  (List.range 4).map (fun i => if bit be i then some (BitVec.ofNat 8 (v.toNat / 256 ^ i)) else none)

/-- A WR request of one word. -/
def FReq.wordWrite (addr : Nat) (v : Word) : FReq :=
  { op := 1#8, tag := 0, nwm1 := 0, addr := BitVec.ofNat 32 addr, data := [v] }

/-- A write of one register word in Vigil is held in the port's share, and the first is a wake (R640); an unbound framed
port takes none. -/
def State.holdWord (s : State) (p : HostPort) (addr : Nat) (v : Word) : State :=
  match p with
  | .pf n => s.holdPf n (.bar false addr (beBytes4 0xF#4 v))
  | p =>
    if (s.portTen p).isNone then s
    else if s.overShare p (.framed (FReq.wordWrite addr v)) then s.modPort p (fun x => { x with refused := x.refused + 1 })
    else (s.wake .hostPort).modPort p (fun x => x.hold (.framed (FReq.wordWrite addr v)))

/-- REGISTER_WRITE: a write of one word, or of a part of one, by a port (R21, R42, R640). -/
def execRegisterWrite (p : HostPort) (addr : Nat) (be : BitVec 4) (v : Word) (s : State) :
    Host.Outcome State Fault Refusal :=
  .next (
    let whole := be == 0xF#4 && addr % 4 = 0
    if !s.portsOn then s
    else match p with
    | .pf n =>
      let s1 := (s.pfTen n).elim s (fun t => s.touch t)
      if s.asleep then s1.holdPf n (.bar false addr (beBytes4 be v)) else s1.bar0Write n addr whole v
    | p =>
      let s1 := (s.portTen p).elim s (fun t => s.touch t)
      if !s.asleep then s1.regWrite (s.portTen p) addr whole v else if whole then s1.holdWord p addr v else s1)

/-- A register read by a port: identity-page words are served in Vigil, others are not (R640). -/
def State.portRegRead (s : State) (p : HostPort) (addr : Nat) : State :=
  if !s.portsOn then s
  else
    let t := s.portTen p
    if s.asleep && 4096 ≤ addr then s.giveTo t 0
    else
      let (v, s1) := s.regRead t addr
      (t.elim s1 (fun t => s1.touch t)).giveTo t v
def execBellnoLoRead (p : HostPort) (s : State) : Host.Outcome State Fault Refusal := .next (s.portRegRead p 0x1C)
def execBellnoHiRead (p : HostPort) (s : State) : Host.Outcome State Fault Refusal := .next (s.portRegRead p 0x20)

/-- A write of a word of a tenant's own window through its port (R43, R640). -/
def State.ownWrite (s : State) (t : Ten) (off : Nat) (v : Word) : State :=
  if !s.portsOn || !s.reached t then s
  else
    let s1 := s.touch t
    let addr := 4096 * (t.val + 1) + off
    if s.asleep then s1.holdWord (s.portOf t) addr v else s1.regWrite (some t) addr true v

/-- A DOORBELL word (R118). -/
def doorbellWord (op idx : Nat) : Word := mkWord [(op, 30, 2), (idx, 0, 20)]

/-- DOORBELL_PRODUCE, DOORBELL_RESTART and DOORBELL_REBIND: a write of the ring's doorbell word. -/
def execDoorbellProduce (t : Ten) (r : RingId) (idx : Nat) (s : State) : Host.Outcome State Fault Refusal :=
  .next (s.ownWrite t (0x100 + 4 * r.val) (doorbellWord 0 idx))
def execDoorbellRestart (t : Ten) (r : RingId) (idx : Nat) (s : State) : Host.Outcome State Fault Refusal :=
  .next (s.ownWrite t (0x100 + 4 * r.val) (doorbellWord 1 idx))
def execDoorbellRebind (t : Ten) (r : RingId) (idx : Nat) (s : State) : Host.Outcome State Fault Refusal :=
  .next (s.ownWrite t (0x100 + 4 * r.val) (doorbellWord 2 idx))

/-- TENANT_RESET_REQ, TEN_KICK and EVQ_RD_WRITE: writes of TENANT_RESET, TEN_KICK and EVQ_RD. -/
def execTenantResetReq (t : Ten) (v : Word) (s : State) : Host.Outcome State Fault Refusal := .next (s.ownWrite t 0x008 v)
def execTenKick (t : Ten) (v : Word) (s : State) : Host.Outcome State Fault Refusal := .next (s.ownWrite t 0x00C v)
def execEvqRdWrite (t : Ten) (v : Word) (s : State) : Host.Outcome State Fault Refusal := .next (s.ownWrite t 0x20C v)

/-- COUNTER_LOW_READ and COUNTER_HIGH_READ of a view slot, at 0x400 + 8 v of the reading tenant's window (R610, R611,
R618). -/
def execCounterLowRead (p : HostPort) (v : Fin 112) (s : State) : Host.Outcome State Fault Refusal :=
  .next (match s.portTen p with
  | some t => s.portRegRead p (4096 * (t.val + 1) + 0x400 + 8 * v.val)
  | none => s)
def execCounterHighRead (p : HostPort) (v : Fin 112) (s : State) : Host.Outcome State Fault Refusal :=
  .next (match s.portTen p with
  | some t => s.portRegRead p (4096 * (t.val + 1) + 0x404 + 8 * v.val)
  | none => s)

/-- PCIE_BAR2_WRITE. -/
def execPcieBar2Write (n : Ten) (off : Nat) (bs : List (Option Byte)) (s : State) : Host.Outcome State Fault Refusal :=
  .next (if !s.portsOn then s
    else if s.asleep then s.holdPf n (.bar true off bs)
    else ((s.pfTen n).elim s (fun t => (s.touch t).tally 11 2 0 1)).bar2Write n off bs)

/-- PCIE_BAR2_READ of whole words; 0 in Vigil, before training completes, in memory hold, and outside the region. -/
def execPcieBar2Read (n : Ten) (off len : Nat) (s : State) : Host.Outcome State Fault Refusal :=
  .next (match s.pfTen n with
  | none => s
  | some t =>
    if !s.portsOn then s
    else if s.asleep then s.modPf n (fun f => { f with rdata := List.replicate (cdiv len 4) 0 })
    else
      let s0 := (s.touch t).tally 11 2 0 1
      let a := (s.ten t).cfg.regionWords off (cdiv len 4)
      let s1 := s0.outside t (a.filter (·.isNone)).length
      let (ws, s2) := if s.lpUsable then s1.hostRead t false a else (a.map (fun _ => 0), s1)
      s2.modPf n (fun f => { f with rdata := ws }))

/-! ### Mailbox commands (R645, R646, R650) -/

/-- A tenant's port reaches its mailbox: powered and awake. -/
def State.boxOpen (s : State) (t : Ten) : Bool :=
  s.portsOn && !s.asleep && (s.reached t || (s.cloister.life = 3 && t == 3))

/-- MB_CMD. -/
def execMbCmd (t : Ten) (v : Word) (s : State) : Host.Outcome State Fault Refusal :=
  .next (if s.boxOpen t then (s.touch t).mbCmd t v else if s.asleep then s.ownWrite t 0x804 v else s)

/-- MB_DATA: a write of a word, or a read. -/
def execMbData (t : Ten) (w : Option Word) (s : State) : Host.Outcome State Fault Refusal :=
  .next (if s.boxOpen t then
    (match w with
     | some v => (s.touch t).boxWrite t v
     | none => let (v, s1) := (s.touch t).boxRead t; s1.give t v)
  else if s.asleep then
    (match w with
     | some v => s.ownWrite t 0x810 v
     | none => if s.portsOn then s.give t 0 else s)
  else s)

/-- MB_DONE. -/
def execMbDone (t : Ten) (v : Word) (s : State) : Host.Outcome State Fault Refusal :=
  .next (if s.boxOpen t then (s.touch t).mbDone t v else if s.asleep then s.ownWrite t 0x814 v else s)

/-- The error counters and flags that only a bus or a cable can change: a free value at each query (log entry 27). -/
def State.linkErrors (s : State) : State :=
  let (a, s1) := s.fresh 9
  let (b, s2) := s1.fresh 8
  let (c, s3) := s2.fresh 9
  let (d, s4) := s3.fresh 8
  let (e, s5) := s4.fresh 32
  let (f, s6) := s5.fresh 32
  { s6 with ports := { s6.ports with
      canSt := #v[{ at' s.ports.canSt 0 with tec := a.toNat, rec' := b.toNat },
        { at' s.ports.canSt 1 with tec := c.toNat, rec' := d.toNat }]
      pf := mapTab (fun (p : PfSt) => { p with aer := e }) s.ports.pf
      csiErr := f } }

/-- HP_QUERY: the items of R650 in order, one word each (log entry 27). -/
def State.hpData (s : State) (t : Ten) : List Word :=
  let p := s.portOf t
  let own : List Word := match p with
    | .pf n =>
      let f := at' s.ports.pf n
      [w32 (b2n (!f.lost)), w32 s.ports.speed, w32 s.ports.width, f.aer]
    | .can0 | .can1 =>
      let c := at' s.ports.canSt (if p = .can0 then 0 else 1)
      [w32 (b2n (!((s.portSt p).elim false (·.lost)))), w32 c.tec, w32 c.rec', w32 (b2n c.busOff)]
    | p =>
      let x := (s.portSt p).getD {}
      [w32 (b2n (!x.lost)), w32 x.accepted, w32 x.refused]
  let vids := (allFin 4).flatMap (fun v =>
    match s.nave.video.find? (fun b => b.vc == v) with
    | some b => (match b.latest with
      | some f => [w32 f.w, w32 f.h]
      | none => [0, 0])
    | none => [0, 0])
  w32 p.code :: own ++ [w32 s.ports.cfg.csiLanes] ++ vids ++ [s.ports.csiErr]
def execHpQuery (t : Ten) (s : State) : Host.Outcome State Fault Refusal :=
  .next (match s.request t 0x0E01 with
  | none => s
  | some _ => (s.linkErrors).answer t ansOk (s.linkErrors.hpData t))

end Sys2Proof.Machine
end

