-- ==== Sys2Proof/Machine/Prime.lean ====
section
/-!
DEFINITION. Prime content (13_power_wake R430 to R436, R443): the manifest, the prime install, and the prime
requests.
-/

namespace Sys2Proof.Machine

/-! ### The manifest (R432) -/

/-- Bytes of the manifest stored. -/
def State.manB (s : State) (o n : Nat) : List Byte := Memory.readN s.moa (primeBase + o) n
def State.manN (s : State) (o n : Nat) : Nat := ofLe (s.manB o n)

/-- The bytes that the manifest's CRC covers, with KS_VALID and KS_CRC taken as 0. -/
def State.manBody (s : State) : List Byte :=
  s.manB 0 6 ++ [0#8] ++ s.manB 7 5 ++ List.replicate 4 0 ++ s.manB 16 1072

/-- MAGIC, VERSION and CRC of the manifest hold. -/
def State.manOk (s : State) : Bool :=
  s.manB 0 4 == [0x50, 0x52, 0x4D, 0x31] && s.manN 4 2 = 1 && w32 (s.manN 1088 4) == crc32 s.manBody

/-- GEN of the manifest as stored. -/
def State.manGen (s : State) : Word := w32 (s.manN 8 4)

/-- Layer `i` of Chapel `c` in the manifest: its Z, its surface, its settings. -/
def State.manLayer (s : State) (c : Chap) (i : Nat) : Fin 32 × Surface × LayerCfg :=
  let a := 40 + 264 * c.val + 32 * i
  let g := fun (o n : Nat) => s.manN (a + o) n
  let f : Surface := { fmt := g 1 1, prime := true, base := g 4 4, w := g 8 2, h := g 10 2 }
  let v : LayerCfg :=
    { sid := some (224 + 8 * c.val + i), sx := g 12 2, sy := g 14 2, sw := g 16 2, sh := g 18 2,
      dx := sgn 16 (g 20 2), dy := sgn 16 (g 22 2), dw := g 24 2, dh := g 26 2, vis := true,
      mode := nfld (g 2 1) 0 3, edgeZero := nfld (g 2 1) 3 2 = 1, galpha := g 28 2, pri := 31 }
  (Fin.ofNat 32 (nfld (g 0 1) 0 5), f, v)

/-- The layers of the manifest. -/
def State.manLayers (s : State) : List (Chap × Nat) :=
  (allFin 4).flatMap (fun c => (List.range (min 8 (s.manN (32 + 264 * c.val) 1))).map (fun i => (c, i)))

/-- One manifest layer becomes part of the SAFETY tenant's prime commit. -/
def State.primeLayer (s : State) (t : Ten) (c : Chap) (i : Nat) : State :=
  let (z, f, v) := s.manLayer c i
  (s.modSurfs t (fun xs => putKey (224 + 8 * c.val + i) f xs)).modChap c (fun q => { q with
    layers := upd q.layers z (fun _ => { holder := some t, work := some v, frozen := some v }) })

/-- The prime commit of the SAFETY tenant, with SEQ 0 (R433). -/
def State.primeCommit (s : State) (t : Ten) : State :=
  forEach s.manLayers (fun x s => s.primeLayer t x.1 x.2) (s.modTen t (fun q => { q with frozen := some 0 }))

/-- The prime install of a start (R433, R434), with the PRIME_STATE records due at Bell 1. -/
def State.primeInstall (s : State) : State :=
  let man := s.manOk
  let pat := s.ksOk
  let gen := s.manGen
  let s1 := s.keyInstall (if pat then s.ksLoad else s.ksAlways)
  let s2 := if man then forEach (s1.ofCls .safety) (fun t s => s.primeCommit t) s1 else s1
  { s2 with prime := {
      manifestOk := man
      patternOk := pat
      gen := gen
      postBad := (if man then [] else [(1, gen)]) ++ (if pat then [] else [(2, gen)]) } }

/-- The prime latch of a start (R427): the overlay stage takes the store, and every mapped segment is in the takeover
set under CHAPEL. -/
def State.primeLatch (s : State) : State :=
  { s with ovl := s.key }.modMatrix (fun m => { m with
    chapel := Vector.ofFn (fun g => !(s.key.carriers g).isEmpty) })

/-! ### Requests (R443) -/

/-- A prime request of a tenant that one of the classes may make. -/
def State.primeReq (s : State) (t : Ten) (code : Nat) (ok : Bool) (f : List Word → State) : State :=
  match s.request t code with
  | none => s
  | some a => if ok then f a else s.answer t ansClass []

/-- A PRIME_WRITE is not yet complete at an instant. -/
def PrimeSt.putting (p : PrimeSt) (now : Time) : Bool := p.puts.any (fun e => now < e.2.2)

/-- Bytes of the prime surface area are written in place, one write after another at 12 MB/s (R685; log entry 61). -/
def State.primePut (s : State) (a : Nat) (bs : List Byte) : State :=
  let left := s.prime.puts.filter (fun e => s.now < e.2.2)
  let from' := left.foldl (fun m e => max m e.2.2) s.now
  let put := (a, Memory.readN s.moa a bs.length, from' + cdiv (bs.length * us 1) 12)
  ({ s with prime := { s.prime with puts := left ++ [put] } }).moaPut a bs

/-- PRIME_WRITE. -/
def execPrimeWrite (t : Ten) (s : State) : Host.Outcome State Fault Refusal :=
  .next (s.primeReq t 0x0702 (s.isCls t .safety) (fun a =>
    let off := (a.getD 0 0).toNat
    let n := (a.getD 1 0).toNat
    if n < 4 || 1024 < n || n % 4 != 0 || primeSize - primeArea < off + n then s.answer t ansRange []
    else (s.primePut (primeBase + primeArea + off) (padTo n 0 (wordsBytes (a.drop 2)))).answer t ansOk []))

/-- The layers that PRIME_SET takes on a Chapel: visible, with a LOC 1 surface of FMT 0 to 6, ascending in Z, eight at
the most (R436). -/
def State.primeTaken (s : State) (t : Ten) (c : Chap) : List (Fin 32 × Surface × LayerCfg) :=
  ((allFin 32).filterMap (fun z =>
    let l := at' (s.chap c).layers z
    match l.frozen with
    | some v =>
      (match v.sid.bind (s.surf t) with
       | some f => if l.holder == some t && v.vis && v.vc.isNone && f.prime && f.fmt ≤ 6 then some (z, f, v) else none
       | none => none)
    | none => none)).take 8

/-- The layers of a tenant's last frozen commit. -/
def State.frozenLayers (s : State) (t : Ten) : Nat :=
  ((allFin 4).map (fun c => ((s.chap c).layers.toList.filter (fun l => l.holder == some t && l.frozen.isSome)).length)).sum

/-- A layer entry of the manifest. -/
def manEntry (x : Fin 32 × Surface × LayerCfg) : List Byte :=
  let (z, f, v) := x
  [BitVec.ofNat 8 z.val, BitVec.ofNat 8 f.fmt, BitVec.ofNat 8 (v.mode + 8 * b2n v.edgeZero), 0] ++ leBytes 4 f.base ++
    leBytes 2 f.w ++ leBytes 2 f.h ++ leBytes 2 v.sx ++ leBytes 2 v.sy ++ leBytes 2 v.sw ++ leBytes 2 v.sh ++
    leBytes 2 (unsgn 16 v.dx) ++ leBytes 2 (unsgn 16 v.dy) ++ leBytes 2 v.dw ++ leBytes 2 v.dh ++ leBytes 2 v.galpha ++
    List.replicate 2 0

/-- The manifest's bytes 16 to 1,087 from the SAFETY tenant's last frozen commit. -/
def State.manLayersBytes (s : State) (t : Ten) : List Byte :=
  List.replicate 16 0 ++ (allFin 4).flatMap (fun c =>
    let xs := s.primeTaken t c
    padTo 264 0 (leBytes 8 xs.length ++ xs.flatMap manEntry))

/-- PRIME_SET: the manifest is written, its CRC last (R436). -/
def State.primeSet (s : State) (t : Ten) : State :=
  if s.prime.setBusy.isSome then s.answer t ansState []
  else
    let gen := s.manGen + 1
    let n := ((allFin 4).map (fun c => (s.primeTaken t c).length)).sum
    let s1 := (((s.moaPut primeBase [0x50, 0x52, 0x4D, 0x31, 0x01, 0x00]).moaPut (primeBase + 7) [0]).moaPut
      (primeBase + 8) (wordBytes gen)).moaPut (primeBase + 16) (s.manLayersBytes t)
    ({ s1 with prime := { s1.prime with
        setBusy := some (gen, crc32 s1.manBody, n, s.frozenLayers t - n) } }).answer t ansOk []
def execPrimeSet (t : Ten) (s : State) : Host.Outcome State Fault Refusal :=
  .next (s.primeReq t 0x0703 (s.isCls t .safety) (fun _ => s.primeSet t))

/-- PRIME_STATE to the SAFETY tenant (R444). -/
def State.primeState (s : State) (what : Nat) (gen : Word) (taken skipped : Nat) : State :=
  s.postTo (s.ofCls .safety) 0x00D2 (0x80 + b2n s.power.south) none [w32 what, gen, w32 taken, w32 skipped]

/-- PRIME_SET_DONE: the CRC completes the manifest, or the write has failed. -/
def execPrimeSetDone (ok : Bool) (s : State) : Host.Outcome State Fault Refusal :=
  .next (match s.prime.setBusy with
  | none => s
  | some (gen, crc, taken, skipped) =>
    let s1 := { s with prime := { s.prime with setBusy := none } }
    if ok then
      ({ (s1.moaPut (primeBase + 1088) (wordBytes crc)) with
          prime := { s1.prime with gen := gen, manifestOk := true } }).primeState 3 gen taken skipped
    else s1.primeState 4 s.prime.gen taken skipped)

/-- PRIME_READ. -/
def execPrimeRead (t : Ten) (s : State) : Host.Outcome State Fault Refusal :=
  .next (s.primeReq t 0x0704 (s.isCls t .safety || s.isCls t .service) (fun a =>
    let off := (a.getD 0 0).toNat
    let n := (a.getD 1 0).toNat
    if n < 4 || 1024 < n || primeSize < off + n then s.answer t ansRange []
    else s.answer t ansOk (bytesWords (Memory.readN s.moa (primeBase + off) n))))

end Sys2Proof.Machine
end

