-- ==== Sys2Proof/Machine/Settings.lean ====
section
/-!
DEFINITION. The settings area in use and its records (16_update R518, R534): light drive R335, Choir R374, witness
R408, thermal R465, host ports R651, LPDDR4X R220, chain R602. A record that its chapter refuses reads as absent.
-/

namespace Sys2Proof.Machine

/-- Every byte of a record that its layout does not name is 0; `named` lists (offset, length). -/
def rsvZero (bs : List Byte) (named : List (Nat × Nat)) : Bool :=
  (bs.zip (List.range bs.length)).all (fun x => x.1 == 0 || named.any (fun e => e.1 ≤ x.2 && x.2 < e.1 + e.2))

/-- MAGIC, SIZE and CRC of a record of `n` bytes. -/
def recHead (bs : List Byte) (magic : List Byte) (n : Nat) : Bool :=
  bs.take 4 == magic && getLe bs 4 2 = n && recCrcOk bs (n - 4)

/-! ### The area (R534, R518) -/

/-- The settings area in use at a start on an image with settings format `sfmt`; one below the floor is refused
(R495). -/
def State.areaOk (s : State) (sfmt : Nat) : Bool :=
  let a := s.update.jrec.setArea
  let h := s.moaHeader (areaAddr a)
  a < 2 && hdrType h = 2 && hdrFormat h && getLe h 8 4 = 0x07150003 && s.cloister.life != 3 && s.hdrKeyOk h &&
    s.hdrSigOk h && s.imgFloor ≤ hdrFloor h && hdrSfmt h = sfmt

/-- The directory of a settings body: (RTYPE, INDEX, OFFSET). -/
def State.setDir (s : State) : List (Nat × Nat × Nat) :=
  let b := areaAddr s.update.jrec.setArea + 0x1000
  let g := fun (o n : Nat) => ofLe (Memory.readN s.moa (b + o) n)
  if s.update.noArea || Memory.readN s.moa b 4 != [0x53, 0x45, 0x54, 0x31] || g 6 10 != 0 then []
  else (List.range (g 4 2)).filterMap (fun i =>
    let o := 16 + 8 * i
    if g (o + 2) 2 = 0 then some (g o 1, g (o + 1) 1, g (o + 4) 4) else none)

/-- A record of `n` bytes, where the directory lists it inside the body. -/
def State.setRec (s : State) (rtype index n : Nat) : Option (List Byte) :=
  let a := areaAddr s.update.jrec.setArea
  match s.setDir.find? (fun e => e.1 == rtype && e.2.1 == index) with
  | none => none
  | some e =>
    if e.2.2 + n ≤ hdrSize (s.moaHeader a) then some (Memory.readN s.moa (a + 0x1000 + e.2.2) n) else none

/-- A Chapel profile record as stored: its SIZE is a 32-bit word at byte 12 (R303). -/
def State.setProfile (s : State) (index : Nat) : Option (List Byte) :=
  match s.setRec 1 index 64 with
  | none => none
  | some h => s.setRec 1 index (max 64 (getLe h 12 4))

/-! ### LPDDR4X (R220) -/

/-- The record is accepted. -/
def lpRecOk (bs : List Byte) : Bool :=
  let b := getB bs
  recHead bs [0x4C, 0x50, 0x44, 0x31] 48 && rsvZero bs [(0, 15), (16, 3), (20, 4), (44, 4)] && b 6 ≤ 4 && b 7 ≤ 2 &&
    (b 8 = 1 || b 8 = 2) && 1 ≤ b 9 && b 9 ≤ 6 && b 10 ≤ 6 && b 11 ≤ 6 && b 12 ≤ 6 && b 13 ≤ 3 && b 14 ≤ 4 &&
    b 16 < 128 && b 17 < 128 && 20 ≤ b 18 && b 18 ≤ 160 && b 20 ≤ 1 && b 21 ≤ 1 && b 22 ≤ 1 && b 23 ≤ 1 &&
    b 20 != b 21 && b 22 != b 23

/-- The memory controller with the settings in force; the defaults without a record. -/
def MemCtl.withRec (m : MemCtl) (r : Option (List Byte)) : MemCtl :=
  match r.filter lpRecOk with
  | some bs => { m with valid := true, rate := getB bs 6, density := getB bs 7, ranks := getB bs 8, rec' := bs }
  | none => { m with valid := false, rate := 0, density := 0, ranks := 1, rec' := lpDefault }

/-! ### Light drive (R335, R336) -/

/-- An OWNER byte: enabled, and its tenant; its other bits are RSV. -/
def ownEn (b : Nat) : Bool := nbit b 7
def ownTen (b : Nat) : Ten := Fin.ofNat 4 b
def ownRsv (b : Nat) : Bool := nfld b 2 5 != 0

/-- The tenant of an enabled entry is bound in class SAFETY or SERVICE. -/
def State.lightOwner (s : State) (b : Nat) : Bool := s.isCls (ownTen b) .safety || s.isCls (ownTen b) .service

/-- An enabled sink entry at `o` is accepted. -/
def State.sinkOk (s : State) (bs : List Byte) (o : Nat) : Bool :=
  let g := getLe bs
  s.lightOwner (g o 1) && g (o + 1) 1 ≤ 1 && ownEn (g (140 + 8 * g (o + 1) 1) 1) && g (o + 2) 2 ≤ 16383 &&
    g (o + 6) 2 ≤ g (o + 2) 2 && g (o + 8) 2 ≤ 16383 && g (o + 11) 1 < 128 && g (o + 14) 2 ≤ 16383

/-- The record is accepted. -/
def State.lightRecOk (s : State) (bs : List Byte) : Bool :=
  let g := getLe bs
  let each := fun (n base step : Nat) (f : Nat → Bool) => (List.range n).all (fun k => f (base + step * k))
  recHead bs [0x4C, 0x44, 0x53, 0x31] 176 &&
    rsvZero bs ([(0, 6), (156, 20)] ++ (List.range 6).map (fun k => (8 + 16 * k, 16)) ++
      (List.range 6).flatMap (fun j => [(104 + 6 * j, 1), (106 + 6 * j, 4)]) ++
      (List.range 2).flatMap (fun r => [(140 + 8 * r, 1), (142 + 8 * r, 6)])) &&
    each 6 8 16 (fun o => !ownRsv (g o 1) && nfld (g (o + 10) 1) 4 4 = 0 && (!ownEn (g o 1) || s.sinkOk bs o)) &&
    each 6 104 6 (fun o => !ownRsv (g o 1) && (!ownEn (g o 1) ||
      (s.lightOwner (g o 1) && g (o + 2) 2 ≤ 16383 && g (o + 4) 2 ≤ 16383))) &&
    each 2 140 8 (fun o => !ownRsv (g o 1) && (!ownEn (g o 1) ||
      (s.lightOwner (g o 1) && g (o + 2) 2 ≤ g (o + 4) 2 && g (o + 4) 2 ≤ 4000 && 15 ≤ g (o + 6) 1 && g (o + 6) 1 ≤ 150))) &&
    4 ≤ g 156 1 && g 156 1 ≤ 240 && (g 157 1 ≤ 5 || g 157 1 = 0xFF) && 400 ≤ g 158 2 && g 158 2 ≤ 46800

/-- An output's settings from an accepted record. -/
def outCfgOf (bs : List Byte) (o : OutId) : OutCfg :=
  let g := getLe bs
  if o.val < 6 then
    let a := 8 + 16 * o.val
    if !ownEn (g a 1) then {}
    else
      let st : OutCopy := { code := g (a + 6) 2, duty := g (a + 8) 2, period := nfld (g (a + 10) 1) 0 3,
                            scramble := nbit (g (a + 10) 1) 3 }
      { en := true, owner := ownTen (g a 1), rail := g (a + 1) 1, cmax := g (a + 2) 2, rsns := g (a + 4) 2, start := st,
        sensor := g (a + 11) 1, knee := sgn 8 (g (a + 12) 1), slope := g (a + 13) 1, floor := g (a + 14) 2 }
  else if 8 ≤ o.val then
    let a := 104 + 6 * (o.val - 8)
    if !ownEn (g a 1) then {}
    else { en := true, owner := ownTen (g a 1), th := g (a + 2) 2, start := { code := g (a + 4) 2 } }
  else {}

/-- A rail from an accepted record. -/
def railOf (bs : List Byte) (r : Nat) : RailSt :=
  let g := getLe bs
  let a := 140 + 8 * r
  if !ownEn (g a 1) then {}
  else { en := true, owner := ownTen (g a 1), vMin := g (a + 2) 2, vMax := g (a + 4) 2, startHead := 10 * g (a + 6) 1,
         ilim := g (a + 7) 1, vSet := g (a + 2) 2, head := 10 * g (a + 6) 1 }

/-- The light drive as a start begins it, with the matrix on. -/
def State.lightStart (s : State) (r : Option (List Byte)) : State :=
  match r.filter s.lightRecOk with
  | some bs =>
    let g := getLe bs
    let m : MatrixSt := { on := true, kmI := g 156 1, follow := fin? 6 (g 157 1), minOn := g 158 2,
                          always := Vector.ofFn (fun i => nbit (g 160 12) i.val), slotFrom := s.now }
    { s with light := {
        outs := Vector.ofFn (fun o => let c := outCfgOf bs o
          c.init o s.now c.knee c.slope c.floor)
        rails := Vector.ofFn (fun r => { railOf bs r.val with lastStep := s.now })
        matrix := m
        sensorAt := s.now } }
  | none => { s with light := { matrix := { on := true, slotFrom := s.now }, sensorAt := s.now } }

/-! ### Choir (R374, R375) -/

/-- The settings of a slot entry at `o`. -/
def slotCfgOf (bs : List Byte) (o : Nat) : SlotCfg :=
  let g := getLe bs
  let mode := g (o + 3) 1
  let src := g (o + 4) 1
  { en := ownEn (g (o + 2) 1)
    kind := (kindOf (g o 1)).getD .fastAmp
    target := g (o + 1) 1 % 4
    owner := ownTen (g (o + 2) 1)
    state := if mode % 4 = 1 then .run else if mode % 4 = 2 then .hold else .off
    group := Fin.ofNat 4 (mode / 4)
    order := nbit mode 4
    rep := nbit mode 5
    inv := nbit mode 6
    free := nbit mode 7
    master := if nbit src 7 then some (Fin.ofNat 16 src) else none
    lead := g (o + 6) 2
    coef := Vector.ofFn (fun i => sgn 20 (g (o + 8 + 4 * i.val) 4))
    omin := g (o + 44) 2
    omax := g (o + 46) 2
    sp := Vector.ofFn (fun i => g (o + 48 + 2 * i.val) 2)
    len := g (o + 54) 2
    lgain := g (o + 56) 1 / 16
    forget := g (o + 56) 1 % 16
    table := nbit (g (o + 57) 1) 0
    fbscale := g (o + 58) 2 }

/-- A kind suits its target. -/
def LoopKind.suits (k : LoopKind) (t : Nat) : Bool :=
  match k with
  | .fastAmp | .fastPhase | .slowPos | .lasPwr => t = 2 || t = 3
  | .railV | .illum => t ≤ 1
  | .white => t ≤ 3

/-- The fields of an enabled slot entry are in range. -/
def slotRange (bs : List Byte) (o : Nat) : Bool :=
  let g := getLe bs
  let c := slotCfgOf bs o
  (kindOf (g o 1)).isSome && g (o + 1) 1 < 4 && c.kind.suits c.target && nfld (g (o + 2) 1) 2 5 = 0 &&
    g (o + 3) 1 % 4 < 3 && nfld (g (o + 4) 1) 4 3 = 0 && c.lead ≤ 255 &&
    (List.range 9).all (fun i => g (o + 8 + 4 * i) 4 < 2 ^ 20) && -16383 ≤ at' c.coef 8 && at' c.coef 8 ≤ 16383 &&
    c.omax ≤ 16383 && c.omin ≤ c.omax && c.sp.toList.all (· ≤ 16383) && 1 ≤ c.len && c.len ≤ 4096 &&
    g (o + 57) 1 ≤ 1 && (!c.rep || c.kind.repOk)

/-- The owner and master rules of a slot among all (R341, R349). -/
def State.slotRules (s : State) (cs : List SlotCfg) (c : SlotCfg) : Bool :=
  let outOk := fun (o : OutId) => (s.out o).cfg.en && (s.out o).cfg.owner == c.owner
  let own := match c.kind with
    | .lasPwr => (laserOuts (Fin.ofNat 4 c.target)).all outOk
    | .railV => (s.rail (Fin.ofNat 2 c.target)).en && (s.rail (Fin.ofNat 2 c.target)).owner == c.owner
    | .illum | .white => true
    | _ => s.isCls c.owner .safety || s.isCls c.owner .service
  let mst := match c.master with
    | none => true
    | some m => (c.kind == .lasPwr || c.kind == .illum) &&
        (cs[m.val]?).any (fun w => w.en && w.kind == .white && w.target == c.target)
  let one := c.kind == .white || (cs.filter (fun d => d.en && d.kind == c.kind && d.target == c.target)).length ≤ 1
  own && mst && one

/-- The slots of an accepted record. -/
def State.choirRec (s : State) (bs : List Byte) : Option (List SlotCfg) :=
  let offs := (List.range 16).map (fun k => 16 + 64 * k)
  let cs := offs.map (slotCfgOf bs)
  let named := offs.flatMap (fun o => [(o, 5), (o + 6, 54)])
  if recHead bs [0x43, 0x48, 0x52, 0x31] 1044 && rsvZero bs ([(0, 6), (1040, 4)] ++ named) &&
      offs.all (fun o => !ownEn (getLe bs (o + 2) 1) || slotRange bs o) &&
      cs.all (fun c => !c.en || s.slotRules cs c) then some cs
  else none

/-- The Choir as a start begins it: each slot takes its record's settings, its state too (R372). -/
def State.choirStart (s : State) (r : Option (List Byte)) : State :=
  match r.bind s.choirRec with
  | none => { s with choir := { servedAt := s.now } }
  | some cs =>
    let s1 : State := { s with choir := {
      slots := Vector.ofFn (fun i => (cs.getD i.val {}).init)
      servedAt := s.now
      valid := true } }
    forEach (allFin 16) (fun i s =>
      let q := s.slot i
      if !q.cfg.en then s.modSlot i (fun _ => {}) else s.loadTable i) s1

/-! ### Witness (R408) -/

/-- A role of a code. -/
def roleOf (n : Nat) : PdRole := if n = 1 then .keyField else if n = 2 then .illum else if n = 3 then .beam else .unused

/-- An input from its entry. -/
def pdOf (bs : List Byte) (k : Nat) : PdSt :=
  let g := getLe bs
  let o := 16 + 16 * k
  if g o 1 = 0 then {}
  else
    let gs : Vector Nat 3 := #v[g (o + 4) 4, g (o + 8) 4, g (o + 12) 4]
    { role := roleOf (g o 1), chap := Fin.ofNat 4 (g (o + 1) 1), dmax := g (o + 2) 2, gain0 := gs, gain := gs }

/-- The record is accepted. -/
def witRecOk (bs : List Byte) : Bool :=
  let g := getLe bs
  let ks := List.range 8
  let many := fun (role c : Nat) => 1 < (ks.filter (fun k => g (16 + 16 * k) 1 = role && g (17 + 16 * k) 1 = c)).length
  recHead bs [0x4B, 0x57, 0x53, 0x31] 148 && rsvZero bs [(0, 10), (16, 132)] && 16 ≤ g 6 2 && g 6 2 ≤ 4096 &&
    1 ≤ g 8 1 && g 8 1 ≤ 4 && 1 ≤ g 9 1 &&
    ks.all (fun k =>
      let o := 16 + 16 * k
      let r := g o 1
      let c := g (o + 1) 1
      r ≤ 3 && (r = 0 || (c < 4 && g (o + 2) 2 ≤ 16383 && (r = 3) = (2 ≤ c) &&
        [4, 8, 12].all (fun i => 1 ≤ g (o + i) 4 && g (o + i) 4 < 2 ^ 24)))) &&
    !(List.range 4).any (fun c => many 2 c || many 3 c)

/-- The witness as a start begins it. -/
def State.witStart (s : State) (r : Option (List Byte)) : State :=
  match r.filter witRecOk with
  | some bs =>
    { s with witness := { valid := true, nmin := getLe bs 6 2, nfail := getLe bs 8 1, npass := getLe bs 9 1,
                          pds := Vector.ofFn (fun k => pdOf bs k.val) } }
  | none => { s with witness := {} }

/-! ### Thermal (R465, R466) -/

/-- A channel's settings from its entry. -/
def thCfgOf (bs : List Byte) (k : Nat) : ThCfg :=
  let g := fun (o n : Nat) => getLe bs (16 + 64 * k + o) n
  { mode := if g 0 1 = 1 then .diode else if g 0 1 = 2 then .ntc else if g 0 1 = 3 then .die else .off
    scope := g 1 1
    nb0 := fin? 10 (g 2 1)
    nb1 := fin? 10 (g 3 1)
    dmax := g 4 1
    margin := g 5 1
    hyst := g 6 1
    derateT := sgn 16 (g 8 2)
    stopT := sgn 16 (g 10 2)
    hardT := sgn 16 (g 12 2)
    slopeT := g 14 2
    floorT := g 16 2
    offs := sgn 16 (g 18 2)
    gain := g 20 4
    tab := (List.range 17).map (fun i => sgn 16 (g (24 + 2 * i) 2)) }

/-- A list strictly falls. -/
def falling : List Int → Bool
  | a :: b :: xs => b < a && falling (b :: xs)
  | _ => true

/-- An entry is accepted. -/
def thEntryOk (bs : List Byte) (k : Nat) : Bool :=
  let g := fun (o n : Nat) => getLe bs (16 + 64 * k + o) n
  let c := thCfgOf bs k
  let off := fun (n : Nat) => getLe bs (16 + 64 * n) 1 = 0
  let nbOk := fun (n : Nat) => n = 0xFF || (n < 10 && n != k && !off n)
  let hard := 1 ≤ c.scope && c.scope ≤ 6
  (if k < 8 then g 0 1 ≤ 2 else g 0 1 = 3 && c.scope = 8) && c.scope ≤ 8 && nbOk (g 2 1) && nbOk (g 3 1) && 1 ≤ c.dmax &&
    c.dmax ≤ 50 && c.margin ≤ 30 && 2 ≤ c.hyst && c.hyst ≤ 20 && c.derateT < c.stopT &&
    (if hard then c.stopT < c.hardT && c.hardT ≤ 2400 else c.hardT = 0 && c.stopT ≤ 2400) && c.slopeT ≤ 1023 &&
    c.floorT ≤ 16383 && (c.scope != 8 || (c.derateT ≤ 1840 && c.stopT ≤ 2000)) && (c.mode != .ntc || falling c.tab)

/-- The record is accepted. -/
def thRecOk (bs : List Byte) : Bool :=
  recHead bs [0x54, 0x48, 0x53, 0x31] 660 &&
    rsvZero bs ([(0, 6), (656, 4)] ++ (List.range 10).flatMap (fun k => [(16 + 64 * k, 7), (24 + 64 * k, 50)])) &&
    (List.range 10).all (thEntryOk bs)

/-- The settings without a record. -/
def thDefault (k : Nat) : ThCfg :=
  if k < 8 then {}
  else { mode := .die, scope := 8, nb0 := none, dmax := 10, margin := 5, hyst := 5, derateT := 1760, stopT := 2000,
         slopeT := 16, floorT := 8192 }

/-- The thermal block as a start begins it; the comparators keep what they read. -/
def State.thermalStart (s : State) (r : Option (List Byte)) : State :=
  let cfg := fun (k : Nat) => match r.filter thRecOk with
    | some bs => thCfgOf bs k
    | none => thDefault k
  { s with thermal := {
      chans := Vector.ofFn (fun k => { cfg := cfg k.val, dueAt := s.now })
      holdRead := s.now
      cmp := s.thermal.cmp } }

/-! ### Host ports (R651) and the chain (R602) -/

/-- The CAN settings at `o`. -/
def canCfgOf (bs : List Byte) (o : Nat) : CanCfg :=
  let g := fun (i n : Nat) => getLe bs (o + i) n
  { nom := g 0 1, dat := g 1 1, uds := nbit (g 2 1) 0, ext := nbit (g 2 1) 1, treq := g 4 4, trsp := g 8 4,
    udsReq := g 12 4, udsRsp := g 16 4, spN := g 20 1, spD := g 21 1 }

/-- Identifiers of a channel are in range and differ. -/
def CanCfg.ok (c : CanCfg) : Bool :=
  let lim := if c.ext then 2 ^ 29 else 2 ^ 11
  let ids := [c.treq, c.trsp] ++ (if c.uds then [c.udsReq, c.udsRsp] else [])
  c.nom ≤ 3 && c.dat ≤ 3 && ids.all (· < lim) && ids.eraseDups.length = ids.length && 60 ≤ c.spN && c.spN ≤ 90 &&
    60 ≤ c.spD && c.spD ≤ 90

/-- The lanes of CSI_MAP that are in use are different. -/
def csiMapOk (lanes m : Nat) : Bool :=
  let xs := (List.range lanes).map (fun i => m / 4 ^ i % 4)
  xs.eraseDups.length = xs.length

/-- The record is accepted. -/
def hostRecOk (bs : List Byte) : Bool :=
  let g := getLe bs
  let cans := [canCfgOf bs 28, canCfgOf bs 52]
  recHead bs [0x48, 0x50, 0x53, 0x31] 96 &&
    rsvZero bs ([(0, 6), (8, 19), (92, 4)] ++ [28, 52].flatMap (fun o => [(o, 3), (o + 4, 18)])) &&
    (List.range 5).all (fun i => g (8 + 2 * i) 2 = 0 || (10 ≤ g (8 + 2 * i) 2 && g (8 + 2 * i) 2 ≤ 2000)) &&
    1 ≤ g 18 1 && g 18 1 ≤ 3 && (g 19 1 = 1 || g 19 1 = 2) && (g 24 1 = 1 || g 24 1 = 2 || g 24 1 = 4) &&
    csiMapOk (g 24 1) (g 25 1) && g 26 1 < 32 && g 30 1 < 4 && g 54 1 < 4 && cans.all CanCfg.ok &&
    !(cans.all (·.uds))

/-- The host-port settings of a start. -/
def hostCfgOf (r : Option (List Byte)) : HostCfg :=
  match r.filter hostRecOk with
  | none => {}
  | some bs =>
    let g := getLe bs
    { linkMs := Vector.ofFn (fun i => g (8 + 2 * i.val) 2)
      speed := g 18 1
      lanes := g 19 1
      ssvid := g 20 2
      ssid := g 22 2
      csiLanes := g 24 1
      csiMap := g 25 1
      csiPol := g 26 1
      can := #v[canCfgOf bs 28, canCfgOf bs 52] }

/-- The chain settings of a start. -/
def chainCfgOf (r : Option (List Byte)) : ChainCfg :=
  match r with
  | none => {}
  | some bs =>
    let g := getLe bs
    let ps := (List.range 4).map (fun i => g (8 + 2 * i) 2)
    if recHead bs [0x48, 0x41, 0x4C, 0x31] 32 && rsvZero bs [(0, 16), (28, 4)] && g 6 1 < 4 && 1 ≤ g 7 1 &&
        ps.all (fun p => p / 4096 ≤ 8) then
      { en := nbit (g 6 1) 0, follow := nbit (g 6 1) 1, stepBells := g 7 1, probes := ps }
    else {}

end Sys2Proof.Machine
end

