-- ==== Sys2Proof/Machine/Thermal.lean ====
section
/-!
DEFINITION. Temperature sensing and thermal action (14_thermal R445 to R458, R463, R467, R468).
-/

namespace Sys2Proof.Machine

/-! ### Conversion (R446 to R448) -/

/-- T16 of a raw code, none where the conversion is INVALID. A code of 65,536 or above stands for a converter error. -/
def ThCfg.convert (c : ThCfg) (x : Nat) : Option Int :=
  let inRange := fun (t : Int) => if -880 ≤ t && t ≤ 2400 then some t else none
  if 65536 ≤ x then none
  else match c.mode with
  | .off => none
  | .die => some (sgn 16 x)
  | .diode => if x < 5000 || 60000 < x then none else inRange (rhu ((x * c.gain : Nat) : Int) 16 + c.offs)
  | .ntc =>
    let i := x / 4096
    let a := c.tab.getD i 0
    let b := c.tab.getD (i + 1) 0
    if x = 0 || x = 65535 then none else inRange (a + asr ((b - a) * ((x - 4096 * i : Nat) : Int)) 12)

/-! ### Neighbours (R451 to R453) -/

/-- The neighbours of a channel: TS8 and TS9 are always neighbours of each other. -/
def State.thNbs (s : State) (k : Fin 10) : List (Fin 10) :=
  let c := (s.th k).cfg
  let own := c.nb0.toList ++ c.nb1.toList
  let die : List (Fin 10) := if k = 8 then [9] else if k = 9 then [8] else []
  (die ++ own.filter (fun n => !die.contains n)).take 2

/-- The latest valid sample of a channel within the last 100 ms. -/
def State.thRecent (s : State) (k : Fin 10) : Option Int :=
  let q := s.th k
  match q.validAt with
  | some a => if q.cfg.mode != .off && s.now - a ≤ ms 100 then some q.t16 else none
  | none => none

/-- The neighbours with their number and their recent value. -/
def State.thSeen (s : State) (k : Fin 10) : List (Fin 2 × Int) :=
  ((s.thNbs k).zipIdx).filterMap (fun n => (s.thRecent n.1).map (fun v => (Fin.ofNat 2 n.2, v)))

/-- Two values lie further apart than DMAX. -/
def ThCfg.apart (c : ThCfg) (a b : Int) : Bool := 16 * (c.dmax : Int) < a - b || 16 * (c.dmax : Int) < b - a

/-- The largest of some values. -/
def maxI : List Int → Option Int
  | [] => none
  | x :: xs => some (xs.foldl max x)

/-- The value that a state makes a channel act with (R452), none under R453. -/
def State.thActs (s : State) (k : Fin 10) : Option Int :=
  let q := s.th k
  let seen := s.thSeen k
  match q.state with
  | .ok => some q.t16
  | .suspect => some ((maxI ((seen.filter (fun n => at' q.against n.1)).map (·.2))).elim q.t16 (max q.t16))
  | .broken | .invalid => (maxI (seen.map (·.2))).map (· + 16 * (q.cfg.margin : Int))

/-- THERM_SENSOR, when the state changes; where no queue takes events, it is posted at the first Bell that comes. -/
def State.thSetState (s : State) (k : Fin 10) (st : ThState) : State :=
  let q := s.th k
  let s1 := s.modTh k (fun q => { q with state := st })
  if q.state == st then s1
  else
    let code := match st with
      | .ok => 0
      | .suspect => 1
      | .broken => 2
      | .invalid => 3
    let nb := ((s.thNbs k).zipIdx.find? (fun n => at' q.against (Fin.ofNat 2 n.2))).elim 15 (fun n => n.1.val)
    let own := if st == .invalid then 0x8000#32 else i32 q.t16
    let rec' := [w32 code, w32 nb, own, i32 ((s1.thActs k).getD q.act)]
    if s1.live then s1.postAll 0x00E1 (0x70 + k.val) none rec'
    else { s1 with thermal := { s1.thermal with late := s1.thermal.late ++ [(k, rec')] } }

/-! ### Levels (R454, R455) -/

/-- The threshold of a level; HARD exists for scopes 1 to 6. -/
def ThCfg.thr (c : ThCfg) (l : Nat) : Int := if l = 1 then c.derateT else if l = 2 then c.stopT else c.hardT

/-- The highest level that a value reaches. -/
def ThCfg.levelOf (c : ThCfg) (v : Int) : Nat :=
  if 1 ≤ c.scope && c.scope ≤ 6 && c.hardT ≤ v then 3
  else if c.stopT ≤ v then 2 else if c.derateT ≤ v then 1 else 0

/-- The level after a value: it rises at once, and falls by one step with its hysteresis. -/
def ThCfg.nextLevel (c : ThCfg) (cur : Nat) (v : Int) : Nat :=
  if cur < c.levelOf v then c.levelOf v
  else if cur != 0 && v < c.thr cur - 16 * (c.hyst : Int) then cur - 1 else cur

/-- f_T (R455). -/
def ThCfg.fOf (c : ThCfg) (level : Nat) (v : Int) : Nat :=
  if level = 0 then 16383 else (clampI (16383 - (v - c.derateT) * c.slopeT) c.floorT 16383).toNat

/-- The channel takes its acting value. -/
def State.thAct (s : State) (k : Fin 10) : State :=
  let q := s.th k
  let (l, f, a) := match s.thActs k with
    | some v => (q.cfg.nextLevel q.level v, q.cfg.fOf (q.cfg.nextLevel q.level v) v, v)
    | none => (max 1 q.level, q.cfg.floorT, q.act)
  let s1 := s.modTh k (fun q => { q with
    level := l
    f := f
    act := a })
  if l = q.level then s1 else s1.tally 8 k.val 3 1

/-- The channels that act on a scope. -/
def State.scopeChans (s : State) (sc : Fin 9) : List (Fin 10) :=
  (allFin 10).filter (fun k => (s.th k).cfg.mode != .off && (s.th k).cfg.scope = sc.val && sc.val != 0)

/-- Two MR4 reads in a row gave 110b or above (R457). -/
def State.mr4Stop (s : State) : Bool := 2 ≤ s.thermal.mr4Hot

/-- A scope's level and its f_T. -/
def State.scopeLevel (s : State) (sc : Fin 9) : Nat :=
  ((s.scopeChans sc).map (fun k => (s.th k).level)).foldl max (if sc = 7 && s.mr4Stop then 2 else 0)
def State.scopeF (s : State) (sc : Fin 9) : Nat := ((s.scopeChans sc).map (fun k => (s.th k).f)).foldl min 16383

/-- THERM_LEVEL of a scope: from the level posted last, with the channel whose sample set it. A level that MR4 set names no
channel: those words are free. -/
def State.scopePost (s : State) (sc : Fin 9) : State :=
  let old := at' s.thermal.told sc
  let new := at' s.thermal.level sc
  let s1 := { s with thermal := { s.thermal with told := upd s.thermal.told sc (fun _ => new) } }
  let word := mkWord [(sc.val, 0, 8), (old, 8, 8), (new, 16, 8)]
  match at' s.thermal.setBy sc with
  | some k => s1.postAll 0x00E0 (0x70 + k.val) none [word, w32 k.val, i32 (s.th k).act, w32 (s.th k).f]
  | none =>
    let (k, s2) := s1.fresh 4
    let (v, s3) := s2.fresh 32
    s3.postAll 0x00E0 (0x70 + k.toNat) none [word, w32 k.toNat, v, w32 (s.scopeF sc)]

/-- The actions of a level that rises to STOP or HARD (R456, R457). -/
def State.scopeAct (s : State) (sc : Fin 9) (old new : Nat) : State :=
  if new ≤ old || new < 2 then s
  else if sc.val = 0 then s
  else if sc.val ≤ 4 then
    let c : Chap := Fin.ofNat 4 (sc.val - 1)
    if new = 3 then s.safeStop c 9 4 else s.chapStopDue c 3
  else if sc.val ≤ 6 then s.railStop (Fin.ofNat 2 (sc.val - 5)) 3
  else if sc.val = 7 then
    if s.thermal.hold then s
    else ({ s with thermal := { s.thermal with hold := true, holdRead := s.now } }).refBegin
  else forEach (allFin 4) (fun c s => s.chapStopDue c 3) s

/-- A scope takes its level and fraction; a change is posted, in Vigil at the first Bell after the exit (R454, 14
Edges). -/
def State.scopeSet (s : State) (sc : Fin 9) (by' : Option (Fin 10)) : State :=
  let old := at' s.thermal.level sc
  let new := s.scopeLevel sc
  let s1 := { s with thermal := { s.thermal with
    level := upd s.thermal.level sc (fun _ => new)
    f := upd s.thermal.f sc (fun _ => s.scopeF sc) } }
  if old = new then s1
  else
    let s2 := { s1 with thermal := { s1.thermal with setBy := upd s1.thermal.setBy sc (fun _ => by') } }
    (if s2.live then s2.scopePost sc else s2).scopeAct sc old new

/-- At a Bell the states and the levels that changed in Vigil are posted. -/
def State.thBell (s : State) : State :=
  let s1 := { s with thermal := { s.thermal with late := [] } }
  let s2 := forEach s.thermal.late (fun e s => s.postAll 0x00E1 (0x70 + e.1.val) none e.2) s1
  forEach (allFin 9) (fun sc s => if at' s.thermal.told sc = at' s.thermal.level sc then s else s.scopePost sc) s2

/-! ### Samples (R449 to R452, R463) -/

/-- A channel is enabled in this power state. -/
def State.thEnabled (s : State) (k : Fin 10) : Bool :=
  (s.th k).cfg.mode != .off &&
  (match s.power.state with
   | .run | .idle => s.power.boot == .ready || s.power.boot == .up
   | .vigil => 8 ≤ k.val
   | .crypt => false)

/-- The sampling period. -/
def State.thPeriod (s : State) (k : Fin 10) : Time :=
  if s.power.state == .vigil then ms 1000 else if (s.th k).fast then ms 5 else ms 100

/-- FAST and SLOW after a valid sample (R450). -/
def State.thPace (s : State) (k : Fin 10) : State :=
  let stop := 2 ≤ at' s.thermal.level (Fin.ofNat 9 (s.th k).cfg.scope)
  s.modTh k (fun q =>
    let edge := q.cfg.derateT - 160
    let run := if q.t16 < edge - 16 * (q.cfg.hyst : Int) then q.slowRun + 1 else 0
    { q with
      slowRun := run
      fast := edge ≤ q.t16 || (q.fast && (run < 20 || stop)) })

/-- The state of R452 that a valid sample's condition gives, none where the table lists no condition (log entry 43). -/
def State.thCandidate (s : State) (k : Fin 10) : Option ThState :=
  let q := s.th k
  let dis := (allFin 2).filter (fun i => 3 ≤ at' q.dis i && i.val < (s.thNbs k).length)
  let seen := s.thSeen k
  let nbApart := match seen with
    | [a, b] => q.cfg.apart a.2 b.2
    | _ => true
  match dis with
  | [] => some .ok
  | [_] => if (s.thNbs k).length < 2 || nbApart then some .suspect else none
  | _ => if nbApart then none else some .broken

/-- A valid sample: its comparisons, the state, and the pace. Under a condition that R452 does not list, the state stays or
becomes SUSPECT or BROKEN, a free choice (log entry 43). -/
def State.thValid (s : State) (k : Fin 10) (t : Int) : State :=
  let s0 := s.modTh k (fun q => { q with
    t16 := t
    validAt := some s.now
    badRun := 0 })
  let seen := s0.thSeen k
  let cmp := fun (i : Fin 2) => (seen.find? (fun n => n.1 = i)).map (fun n => (s0.th k).cfg.apart t n.2)
  let s1 := s0.modTh k (fun q => { q with
    dis := mapTabIdx (fun i (n : Nat) => match cmp (Fin.ofNat 2 i) with
      | some true => min 3 (n + 1)
      | some false => 0
      | none => if 3 ≤ n then n else 0) q.dis
    goodRun := if seen.all (fun n => !(s0.th k).cfg.apart t n.2) then q.goodRun + 1 else 0 })
  let s2 := if (allFin 2).any (fun i => cmp i == some true) then s1.tally 8 k.val 2 1 else s1
  let q := s2.th k
  let mark := fun (s : State) => s.modTh k (fun q => { q with against := mapTab (fun (n : Nat) => decide (3 ≤ n)) q.dis })
  let s3 := match s2.thCandidate k with
    | some .ok => if q.state == ThState.ok || 20 ≤ q.goodRun then (mark s2).thSetState k .ok else s2
    | some st => (mark s2).thSetState k st
    | none =>
      let (v, s3) := s2.fresh 2
      (mark s3).thSetState k (if v = 0 then q.state else if v = 1 then .suspect else .broken)
  s3.thPace k

/-- One channel's conversion at its period start; the next one is due at the first period start after this instant. -/
def State.thConvert (s : State) (k : Fin 10) (x : Nat) : State :=
  let q := s.th k
  let s1 := (s.tally 8 k.val 0 1).tally 8 k.val 1 (if q.fast then 5 else 0)
  let s2 := match q.cfg.convert x with
    | some t => s1.thValid k t
    | none =>
      let s2 := s1.modTh k (fun q => { q with badRun := q.badRun + 1, goodRun := 0 })
      if 3 ≤ (s2.th k).badRun then s2.thSetState k .invalid else s2
  let s3 := if (s2.th k).validAt.isNone && (s2.th k).state == .ok then s2 else s2.thAct k
  let p := s3.thPeriod k
  let s4 := s3.modTh k (fun q => { q with dueAt := q.dueAt + p * ((s3.now - q.dueAt) / p + 1) })
  s4.scopeSet (Fin.ofNat 9 (s4.th k).cfg.scope) (some k)

/-- THERMAL_SAMPLE: the due channels convert in ascending order; `x` gives their raw codes. -/
def State.thSample (s0 : State) (x : List (Fin 10 × Nat)) : State :=
  let s := s0.passFirst ((x.filter (fun e => s0.thEnabled e.1)).map (fun e => (s0.th e.1).dueAt))
  forEach (allFin 10) (fun k s =>
    match x.lookup k with
    | some v => if s.thEnabled k && (s.th k).dueAt ≤ s.now then s.thConvert k v else s
    | none => s) s
def execThermalSample (x : List (Fin 10 × Nat)) (s : State) : Host.Outcome State Fault Refusal := .next (s.thSample x)

/-! ### MR4 and the memory hold (R186, R457) -/

/-- One MR4 read: MEM_HOT where its field is 101b or above, and the count toward MEM STOP. -/
def State.mr4Take (s : State) (v : Nat) : State :=
  let f := v % 8
  let s1 : State := { s with
    memc := { s.memc with mr4 := v, mr4At := s.now }
    thermal := { s.thermal with mr4Hot := if 6 ≤ f then s.thermal.mr4Hot + 1 else 0 } }
  (if 5 ≤ f then s1.postAll 0x0064 0xD0 none [w32 v] else s1).scopeSet 7 none

/-- MR4_READ, every 16 ms. -/
def execMr4Read (v : Nat) (s : State) : Host.Outcome State Fault Refusal :=
  .next (if s.live && s.lpUsable then (s.passTo (s.memc.mr4At + ms 16)).mr4Take v else s)

/-- MEMORY_HOLD_CHECK, every 1,000 ms of a memory hold: the self-refresh ends for one MR4 read, and begins again where the hold
goes on. -/
def execMemoryHoldCheck (v : Nat) (s : State) : Host.Outcome State Fault Refusal :=
  .next (
    if s.live && s.thermal.hold then
      let s := (s.passTo (s.thermal.holdRead + ms 1000)).refEnd
      let s1 := { s with thermal := { s.thermal with holdRead := s.now } }.mr4Take v
      if v % 8 ≤ 5 && (s1.scopeChans 7).all (fun k => (s1.th k).level < 2) then
        { s1 with thermal := { s1.thermal with hold := false } }
      else s1.refBegin
    else s)

/-! ### TH_QUERY (R467) -/

/-- The code of a mode and of a state. -/
def ThMode.code : ThMode → Nat
  | .off => 0
  | .diode => 1
  | .ntc => 2
  | .die => 3
def ThState.code : ThState → Nat
  | .ok => 0
  | .suspect => 1
  | .broken => 2
  | .invalid => 3

/-- TH_QUERY. -/
def execThQuery (t : Ten) (s : State) : Host.Outcome State Fault Refusal :=
  .next (match s.request t 0x0801 with
  | none => s
  | some a =>
    let n := (a.getD 0 0).toNat
    let h := s.thermal
    if n = 0xFF then
      s.answer t ansOk ((allFin 9).flatMap (fun sc => [w32 (at' h.level sc), w32 (at' h.f sc)]) ++
        [w32 (b2n h.hold), w32 (b2n (at' h.cmp 0)), w32 (b2n (at' h.cmp 1))])
    else match fin? 10 n with
    | none => s.answer t ansRange []
    | some k =>
      let q := s.th k
      s.answer t ansOk [w32 q.cfg.mode.code, w32 q.cfg.scope, w32 q.state.code, w32 (b2n q.fast), i32 q.t16, i32 q.act,
        mkWord [(b2n (at' q.dis 0 < 3), 0, 1), (b2n (at' q.dis 1 < 3), 1, 1)], w32 q.level, w32 q.f])

end Sys2Proof.Machine
end

