-- ==== Sys2Proof/Machine/Start.lean ====
section
/-!
DEFINITION. The start path (13_power_wake R423 to R429): what survives into a start, secure boot (15_cloister R490,
R491; 16_update R543, R547), tenants as provisioned (R91, R115), settings (R534), the recorder's scan (R563), and the
prime install.
-/

namespace Sys2Proof.Machine

/-! ### What a start keeps -/

/-- The journal and what goes with it; a load that a power failure broke is known to the next start (R533). -/
def UpdateSt.kept (u : UpdateSt) : UpdateSt := { jrec := u.jrec, jpos := u.jpos, load := u.load }

/-- The state at a release of the core reset: the always-on domain, the Moangex store and the OTP are kept, and
everything else is at its reset value (R422, R423). -/
def State.startBase (s : State) (cause : StartCause) (x : StartIn) : State :=
  { State.reset with
    pending := s.pending
    now := s.now
    free := s.free
    calMs := s.calMs
    calAt := s.calAt
    calSet := s.calSet
    moa := s.moa
    chaps := if cause == .cold then State.reset.chaps else mapTab (fun (q : ChapSt) => { trips := q.trips }) s.chaps
    memc := { scrub := s.memc.scrub, scrubDone := s.memc.scrubDone, scrubUp := s.memc.scrubUp, scrubFrom := s.now,
              ueMoa := s.memc.ueMoa, oneMoa := s.memc.oneMoa }
    cloister := { otp := s.cloister.otp, lifePost := s.cloister.lifePost }
    update := s.update.kept
    thermal := { cmp := s.thermal.cmp }
    ports := { perst := s.ports.perst }
    reliq := { flushLeft := s.reliq.flushLeft, failTime := s.reliq.failTime, vbakMs := s.reliq.vbakMs }
    power := {
      boot := .ready
      cause := cause
      startSrc := s.power.waking
      startAt := s.power.wakeAt
      pwrEnAt := s.power.pwrEnAt
      pwrGood := true
      aonUp := true
      coldNext := false
      vbakMv := s.power.vbakMv
      clkSel := x.clkSel
      testEn := x.testEn
      devFailN := s.power.devFailN
      vbakAt := s.now } }

/-! ### The Cloister and secure boot -/

/-- The Cloister at a start: the lifecycle state, DUK_KILL and DBG_OFF come into force, the lower copy of the floor is
programmed up to the higher (R497), and the DRBG is instantiated (R501). -/
def State.startCloister (s : State) : State :=
  let top := s.rbFloor
  let s1 := if s.otpTop 0x30 16 != top || s.otpTop 0x40 16 != top then
      (s.otpSet 0x30 (thermo top)).otpSet 0x40 (thermo top) else s
  ({ s1 with cloister := { s1.cloister with
      life := s1.lifeOf
      dukOff := nbit s1.otpCtrl 9
      dbgOff := nbit s1.otpCtrl 8 } }).drbgSeed {}

/-- A load over the service port that was broken is not resumable (R533). -/
def State.startLoad (s : State) : State :=
  let s1 := s.modUpd (fun u => { u with load := none })
  if s.update.load.isSome && s.update.jrec.state == .receiving then s1.jIdle else s1

/-- The journal as the ROM finds it; with no valid record it is IDLE with BOOT 0 and area A (R523). -/
def State.startJournal (s : State) : State :=
  (match s.jScan with
   | some (k, j) => s.modUpd (fun u => { u with jrec := j, jpos := (k + 1) % 1024 })
   | none => s.modUpd (fun u => { u with jrec := {}, jpos := 0 })).startLoad

/-- A revert to the previous pair, by cause 1 STARTS, 2 VERIFY (R543, R547). No slot is written (R429): an exchange under
way keeps its unit and phase beside the new BOOT, and is turned back after the tell-tale instant (DESIGN CHOICE, log
entry 52). -/
def State.revert (s : State) (cause : Nat) : State :=
  let fw := nbit s.update.jrec.content 0
  let j := s.update.jrec
  let s2 := s.jWrite (fun j => { j with
    state := .idle
    content := 0
    trials := 0
    boot := if fw then 1 - min j.boot 1 else j.boot
    trialArea := 3
    verBoot := if fw then j.verOther else j.verBoot
    verOther := if fw then j.verBoot else j.verOther })
  s2.modUpd (fun u => { u with postAt1 := some (0x0115, w32 cause, j.verBoot, if fw then j.verOther else j.verBoot, 0) })

/-- The record that a start writes before it boots: a trial start is counted or reverted, and an armed pair becomes the
trial pair (R543). -/
def State.startTrial (s : State) : State :=
  let j := s.update.jrec
  match j.state with
  | .armed =>
    let s1 := s.toTrial 1
    s1.modUpd (fun u => { u with postAt1 := some (0x0113, 3, s1.update.jrec.verBoot, j.verBoot, 1) })
  | .trial => if 3 ≤ j.trials then s.revert 1 else s.jWrite (fun j => { j with trials := j.trials + 1 })
  | _ => s

/-- The image booted, and the unit dead where both images fail (R491, R56, R548). -/
def State.startBoot (s : State) : State :=
  let s1 := s.startJournal.startTrial
  let up := fun (s : State) (other : Bool) =>
    let h := s.imgHdr other
    { s with fwVer := hdrVersion h, update := { s.update with
        swapOn := s.update.jrec.boot = 1 || s.update.jrec.swapping
        runOther := other
        noArea := !s.areaOk (hdrSfmt h) } }
  if s1.imgOk false then up s1 false
  else if !s1.imgOk true then { s1 with dead := true }
  else if s1.update.jrec.state == .trial then up (s1.revert 2) false
  else up s1 true

/-! ### Tenants and rings (R91, R92, R115) -/

/-- A port of a code. -/
def portOfCode (n : Nat) : Port :=
  if n = 0 then .spi0 else if n = 1 then .spi1 else if n = 2 then .pcie else if n = 3 then .can0
  else if n = 4 then .can1 else .svc

/-- A class of a code. -/
def clsOfCode (n : Nat) : Cls := if n = 0 then .safety else if n = 1 then .app else .service

/-- A tenant as a provisioning record gives it. -/
def provTenant (r : List Byte) (n : Nat) : Tenant :=
  if !provEn r n then {}
  else
    let q := provEvq r n
    { cfg := { bound := true, port := portOfCode (provPort r n), cls := clsOfCode (provCls r n), wdogMs := provWdog r n,
               obs := BitVec.ofNat 8 (getLe r (208 + n) 1), regBase := provRegBase r n, regSize := provRegSize r n,
               evqUnder := nbit q 31, evqSize := nfld q 0 4, evqBase := provEvqBase r n }
      cring := ((provOf r n).min?).getD 0 }

/-- A ring as a provisioning record gives it. DESIGN CHOICE (log entry 94): its budget stands at B before Bell 1, as after
each Bell (R131). -/
def provRing (r : List Byte) (k : Nat) : RingSt :=
  if !provBound r k then { lectern := k }
  else
    let g := provGeom r k
    let b := 64 * provBudget r k
    { owner := fin? 4 (provOwner r k), fatal := nbit g 31, under := nbit g 30, size := nfld g 20 4, base := nfld g 0 16,
      budgetB := b, budget := b, lectern := k }

/-- The tenants of a start: in Blank as R46 to R48 say, in Returned none, else as provisioned. -/
def State.startTenants (s : State) : State :=
  match s.cloister.life, s.provRec with
  | 0, _ => s
  | 3, _ | _, none =>
    { s with tens := Vector.replicate 4 {}, rings := Vector.ofFn (fun k => { lectern := k.val }) }
  | _, some r =>
    { s with
      tens := Vector.ofFn (fun n => provTenant r n.val)
      rings := Vector.ofFn (fun k => provRing r k.val) }

/-- The self-test of the Lecterns: a failing Lectern of a bound ring is replaced by the lowest spare, and a ring left
without one starts in FAULT (R115). -/
def State.lecternTest (s : State) (bad : List Nat) : State :=
  let s1 := { s with spares := [16, 17].filter (fun l => !bad.contains l) }
  forEach (allFin 16) (fun r s =>
    let q := s.ring r
    if q.owner.isNone || !bad.contains q.lectern then s
    else match s.spares.min? with
    | some l => ({ s with spares := s.spares.filter (fun x => x != l) }).modRing r (fun q => { q with lectern := l })
    | none =>
      (s.modRing r (fun q => { q with state := .fault, cause := fLECTERN })).modPower (fun p => { p with
        lecPost := p.lecPost ++ [r] })) s1

/-- The self-test of the bays: BAY_RETIRED falls due at Bell 1 (R248). -/
def State.bayTest (s : State) (bad : List (Fin 4)) : State :=
  { s with nave := { s.nave with
    alive := s.nave.alive.filter (fun b => !bad.contains b)
    leaving := (allFin 4).filterMap (fun b =>
      if bad.contains b then some { bay := b, reason := 3, frame := 0, due := 1 } else none) } }

/-! ### Settings and training -/

/-- Every record of the settings area in use takes effect; the light drive, the matrix, the Choir, the witness and the
thermal block start with it (R534). -/
def State.startSettings (s : State) : State :=
  let s1 := { s with profiles := (List.range 16).filterMap (fun k => (s.setProfile k).map (fun b => (k, b))) }
  let s2 := { s1 with memc := s1.memc.withRec (s1.setRec 7 0 48) }
  let s3 := s2.lightStart (s2.setRec 2 0 176)
  let s4 := s3.witStart (s3.setRec 4 0 148)
  let s5 := s4.choirStart (s4.setRec 3 0 1044)
  let s6 := s5.thermalStart (s5.setRec 5 0 660)
  let s7 := { s6 with ports := { s6.ports with cfg := hostCfgOf (s6.setRec 6 0 96) } }
  s7.modChain (fun c => { c with cfg := chainCfgOf (s7.setRec 8 0 32) })

/-- LPDDR4X training begins: a stored set of the rate is verified, and without one the training is full (R190, R221). -/
def State.startTraining (s : State) : State :=
  { s with memc := { s.memc with train := if s.trainSet.isSome then .verify else .full, trainAt := s.now } }

/-- A bank that holds bytes and is not valid is a broken write (R368): the GEN attempted. -/
def State.bankBroken (s : State) : Option Word :=
  let (b, gen) := s.nextBank
  if !s.bankValid b && s.moa.any (fun c => bankAddr b ≤ c.1 && c.1 < bankAddr b + bankSize) then some gen else none

/-! ### The recorder (R563) -/

/-- A record of 64 bytes. -/
def relOf (b : List Byte) : RelRec :=
  { kind := getLe b 4 1, src := getLe b 5 1, code := getLe b 6 2, time := getLe b 8 6, unset := nbit (getLe b 14 1) 0,
    fault := nbit (getLe b 14 1) 1, rep := getLe b 16 4, body := (b.drop 20).take 40 }

/-- A slot's bytes; its CRC is correct and its RSEQ names the slot. -/
def State.relBytes (s : State) (k : Nat) : List Byte := Memory.readN s.moa (relSlot k) 64
def relGood (b : List Byte) (k : Nat) : Bool := getLe b 60 4 = (crc32 (b.take 60)).toNat && getLe b 0 2 = k

/-- ERA as the slots 0 and 1 tell it, none where a new log begins. -/
def State.relEra (s : State) : Option Nat :=
  let b0 := s.relBytes 0
  let b1 := s.relBytes 1
  if relGood b0 0 && getLe b0 4 1 = 10 then some (getLe b0 2 2)
  else if relGood b1 1 then some (getLe b1 2 2) else none

/-- The highest valid slot of an era. A slot with no byte other than 0 fails its CRC, so the slots that hold a listed
byte are the candidates. -/
def State.relHigh (s : State) (era : Nat) : Nat :=
  let ks := ((s.moa.filter (fun c => relSlot 1 ≤ c.1 && c.1 < relSlot 65536)).map (fun c => (c.1 - relSlot 0) / 64)).eraseDups
  (ks.filter (fun k => let b := s.relBytes k
    relGood b k && getLe b 2 2 = era)).foldl max 0

/-- The recorder at a start. -/
def State.relStart (s : State) : State :=
  let s0 := if s.relEra.isNone && !s.dead && s.cloister.life != 3 then
      s.relWrite 0 (s.relRec 10 0xA0 0 false []) else s
  let era := s.relEra.getD 0
  let k := s0.relHigh era
  let full := k = 65535
  s0.modRel (fun q => { q with
    era := era
    next := min 65535 (k + 1)
    newest := if full || k = 0 then none else some (relOf (s0.relBytes k))
    full := full
    fullRec := if full then some (relOf (s0.relBytes k)) else none
    drops := if full then getLe (s0.relBytes k) 20 4 else 0 })

/-! ### The path -/

/-- AUTOSTART of the Chapels whose profile 0 asks for it (R303). -/
def State.autostart (s : State) : State :=
  forEach (allFin 4) (fun c s =>
    match s.profile c 0 with
    | some bs => if (chapParse bs).autostart then
        s.modChap c (fun q => { q with startDue := some { profile := 0, ten := none } }) else s
    | none => s) s

/-- The firmware's part of a start, up to the enabled Bell generator. -/
def State.aisleStart (s : State) (x : StartIn) : State :=
  let s1 := (s.lecternTest x.badLecterns).bayTest x.badBays
  let s2 := s1.startSettings.startTraining
  let s3 := (s2.primeInstall.primeLatch).autostart
  let s4 := match s3.bankBroken with
    | some g => s3.notice 0x0184 0xD3 false none [g]
    | none => s3
  (s4.modBell (fun b => { b with enabled := true })).modPower (fun p => { p with
    boot := .up
    upAt := s.now
    postStart := true })

/-- A start from the release of the core reset (R425). TEST_EN stops it (R665), and so does a dead unit (R56). -/
def State.startPath (s : State) (cause : StartCause) (x : StartIn) : State :=
  let s0 := s.startBase cause x
  if x.testEn then s0.modPower (fun p => { p with boot := .test, devFailN := false })
  else
    let s1 := ((s0.startCloister).startBoot.startTenants).relStart
    if s1.dead then s1.modPower (fun p => { p with boot := .dead, devFailN := false })
    else s1.aisleStart x

end Sys2Proof.Machine
end

