-- ==== Sys2Proof/Machine/Uds.lean ====
section
/-!
DEFINITION. The UDS server (16_update R529 to R532, R537). A message is the whole request, its first byte the service
identifier. Response codes that the manual does not list are those of ISO 14229-1 (PRESUMED, log entry 50).
-/

namespace Sys2Proof.Machine

/-- The requester number of the UDS server. -/
def udsReq : Fin 5 := 4

/-- A UDS channel is configured (R651). -/
def State.udsOn (s : State) : Bool := s.ports.cfg.can.toList.any (·.uds)

/-- Give an answer; a negative one names the service and the response code. -/
def State.udsAns (s : State) (bs : List Byte) : State := s.modUds (fun u => { u with answer := bs })
def State.udsNeg (s : State) (sid nrc : Byte) : State := s.udsAns [0x7F, sid, nrc]

/-- A request that the server takes: it runs, the service is the row's, and the session's idle time starts again. -/
def State.uds (s : State) (sid : Byte) (m : List Byte) (f : State → State) : State :=
  if s.live && s.aisleRuns && s.udsOn && m.head? == some sid then
    f ((s.modUds (fun u => { u with lastReq := s.now })).modClo udsReq (fun x => { x with
      session := x.session.map (fun y => { y with last := s.now }) }))
  else s

/-- Services of the programming session alone. -/
def State.udsProg (s : State) (sid : Byte) (f : State → State) : State :=
  if s.update.uds.mode == .programming then f s else s.udsNeg sid 0x7F

/-- In Locked an update session is needed (R530). -/
def State.udsOpen (s : State) : Bool :=
  s.cloister.life != 2 || (at' s.cloister.reqs udsReq).session.any (fun x => bit x.flags 1)
def State.udsAuth (s : State) (sid : Byte) (f : State → State) : State :=
  if s.udsOpen then f s else s.udsNeg sid 0x33

/-- DiagnosticSessionControl. -/
def State.udsSession (s : State) (m : List Byte) : State :=
  s.uds 0x10 m (fun s =>
    if m.length != 2 then s.udsNeg 0x10 0x13
    else
      let sub := m.getD 1 0
      let go := fun (d : UdsMode) => (s.modUds (fun u => { u with mode := d, next := none, prev := none })).udsAns
        [0x50, sub, 0x00, 0x32, 0x00, 0xC8]
      if sub == 1 then go .default else if sub == 2 then go .programming else if sub == 3 then go .extended
      else s.udsNeg 0x10 0x12)
def execUdsSessionControl (m : List Byte) (s : State) : Host.Outcome State Fault Refusal := .next (s.udsSession m)

/-- UDS_SESSION_TIMEOUT. -/
def execUdsSessionTimeout (s : State) : Host.Outcome State Fault Refusal :=
  .next (if s.update.uds.mode != .default then
    (s.passTo (s.update.uds.lastReq + ms 5000)).modUds (fun u => { u with mode := .default, next := none, prev := none }) else s)

/-- The chunk map as a bitmap of 256 bytes. -/
def State.mapBits (s : State) : List Byte :=
  (List.range 256).map (fun i => BitVec.ofNat 8 ((List.range 8).foldl (fun a j => a + b2n (s.mapAt (8 * i + j)) * 2 ^ j) 0))

/-- The data of an identifier. -/
def State.udsDid (s : State) (d : Nat) : Option (List Byte) :=
  if d = 0xFD00 then some s.update.jrec.bytes
  else if d = 0xFD01 then some s.mapBits
  else if d = 0xFD02 then
    some (wordBytes (hdrVersion (s.moaHeader 0)) ++ wordBytes (hdrVersion (s.moaHeader 0x800000)) ++
      wordBytes (if s.xfer then hdrVersion s.xferHdr else 0))
  else none

/-- ReadDataByIdentifier. -/
def State.udsRead (s : State) (m : List Byte) : State :=
  s.uds 0x22 m (fun s =>
    if m.length != 3 then s.udsNeg 0x22 0x13
    else match s.udsDid (ofBe (m.drop 1)) with
    | some bs => s.udsAns ([0x62] ++ m.drop 1 ++ bs)
    | none => s.udsNeg 0x22 0x31)
def execUdsReadData (m : List Byte) (s : State) : Host.Outcome State Fault Refusal := .next (s.udsRead m)

/-- requestSeed: the nonce of CLO_CHALLENGE (R530). -/
def State.udsSeed (s : State) (m : List Byte) : State :=
  s.uds 0x27 m (fun s => s.udsProg 0x27 (fun s =>
    if m != [0x27, 0x11] then s.udsNeg 0x27 (if m.length = 2 then 0x12 else 0x13)
    else if (at' s.cloister.reqs udsReq).busyUntil.any (fun b => s.now < b) then s.udsNeg 0x27 0x37
    else if s.cloister.trngError || 8 ≤ s.cloister.glitches.length then s.udsNeg 0x27 0x22
    else
      let (v, s1) := s.reseed.draw 32
      (s1.modClo udsReq (fun x => { x with nonce := some (v, s.now) })).udsAns ([0x67, 0x11] ++ v)))
def execUdsRequestSeed (m : List Byte) (s : State) : Host.Outcome State Fault Refusal := .next (s.udsSeed m)

/-- sendKey: flags word and signature (R504, R530). A key without the UPDATE flag opens nothing. -/
def State.udsKey (s : State) (m : List Byte) : State :=
  s.uds 0x27 m (fun s => s.udsProg 0x27 (fun s =>
    if m.length != 70 then s.udsNeg 0x27 0x13
    else if m.getD 1 0 != 0x12 then s.udsNeg 0x27 0x12
    else if (s.nonce udsReq).isNone then s.udsNeg 0x27 0x24
    else
      let flags := w32 (getLe m 2 4)
      match s.sessTry udsReq flags (m.drop 6), bit flags 1 with
      | (true, s1), true => s1.udsAns [0x67, 0x12]
      | _, _ =>
        let s1 := (s.sessFail udsReq).authFailPost [] udsReq
        s1.udsNeg 0x27 (if 5 ≤ (at' s1.cloister.reqs udsReq).fails then 0x36 else 0x35)))
def execUdsSendKey (m : List Byte) (s : State) : Host.Outcome State Fault Refusal := .next (s.udsKey m)

/-- A routine that starts: its identifier, the length of its option record, and its effect. -/
def State.udsRoutine (s : State) (m : List Byte) (rid opt : Nat) (f : State → State) : State :=
  s.uds 0x31 m (fun s => s.udsProg 0x31 (fun s => s.udsAuth 0x31 (fun s =>
    if m.length < 4 then s.udsNeg 0x31 0x13
    else if m.getD 1 0 != 1 then s.udsNeg 0x31 0x12
    else if ofBe ((m.drop 2).take 2) != rid then s.udsNeg 0x31 0x31
    else if m.length != 4 + opt then s.udsNeg 0x31 0x13
    else f s)))

/-- The positive answer of a routine, with its results kept. -/
def State.udsDone (s : State) (rid : Nat) (res : List Byte) : State :=
  (s.udsResult rid res).udsAns ([0x71, 0x01] ++ beBytes 2 rid)
def State.udsFail (s : State) (rid : Nat) (res : List Byte) (nrc : Byte) : State := (s.udsResult rid res).udsNeg 0x31 nrc

/-- A routine beyond P2server: ResponsePending, and a final answer later. -/
def State.udsPend (s : State) : State :=
  (s.modUds (fun u => { u with pending78 := true })).udsNeg 0x31 0x78

/-- Routine BEGIN (R524). -/
def State.udsBegin (s : State) (m : List Byte) : State :=
  s.udsRoutine m 0xFD10 512 (fun s =>
    if s.updStep then s.udsFail 0xFD10 [8] 0x22
    else match s.updBegin .uds (m.drop 4) with
    | (some r, s1) => s1.udsFail 0xFD10 [BitVec.ofNat 8 r] 0x22
    | (none, s1) => s1.udsDone 0xFD10 [0])
def execUdsRoutineBegin (m : List Byte) (s : State) : Host.Outcome State Fault Refusal := .next (s.udsBegin m)

/-- Routine CHECK (R526). -/
def State.udsCheck (s : State) (m : List Byte) : State :=
  s.udsRoutine m 0xFD11 0 (fun s =>
    if s.update.jrec.state != .receiving || s.updStep then s.udsNeg 0x31 0x22
    else if !s.complete then s.udsNeg 0x31 0x24
    else (s.modUpd (fun u => { u with check := some { route := .uds, ten := none, start := s.now } })).udsPend)
def execUdsRoutineCheck (m : List Byte) (s : State) : Host.Outcome State Fault Refusal := .next (s.udsCheck m)

/-- Routine ARM (R536). -/
def State.udsArm (s : State) (m : List Byte) : State :=
  s.udsRoutine m 0xFD12 0 (fun s => if s.canArm none then s.arm.udsDone 0xFD12 [0] else s.udsFail 0xFD12 [1] 0x22)
def execUdsRoutineArm (m : List Byte) (s : State) : Host.Outcome State Fault Refusal := .next (s.udsArm m)

/-- Routine ACTIVATE: KIND and the expected VERSION (R536). -/
def State.udsAct (s : State) (m : List Byte) : State :=
  s.udsRoutine m 0xFD13 5 (fun s =>
    let kind := (m.getD 4 0).toNat
    if 1 < kind then s.udsNeg 0x31 0x31
    else if s.canAct none (kind == 1) (w32 (getLe m 5 4)) then (s.actTake (kind == 1) true).udsPend
    else s.udsFail 0xFD13 [1] 0x22)
def execUdsRoutineActivate (m : List Byte) (s : State) : Host.Outcome State Fault Refusal := .next (s.udsAct m)

/-- Routine CONFIRM: the expected VERSION (R545). -/
def State.udsConfirm (s : State) (m : List Byte) : State :=
  s.udsRoutine m 0xFD14 4 (fun s =>
    if s.canConfirm none (w32 (getLe m 4 4)) then (s.confirm none).udsDone 0xFD14 [0] else s.udsFail 0xFD14 [1] 0x22)
def execUdsRoutineConfirm (m : List Byte) (s : State) : Host.Outcome State Fault Refusal := .next (s.udsConfirm m)

/-- Routine DISCARD (R546). -/
def State.udsDiscard (s : State) (m : List Byte) : State :=
  s.udsRoutine m 0xFD15 0 (fun s =>
    if s.canDiscard none then s.discard.udsDone 0xFD15 [0] else s.udsFail 0xFD15 [1] 0x22)
def execUdsRoutineDiscard (m : List Byte) (s : State) : Host.Outcome State Fault Refusal := .next (s.udsDiscard m)

/-- requestRoutineResults. -/
def State.udsResults (s : State) (m : List Byte) : State :=
  s.uds 0x31 m (fun s => s.udsProg 0x31 (fun s => s.udsAuth 0x31 (fun s =>
    let rid := ofBe ((m.drop 2).take 2)
    if m.length != 4 then s.udsNeg 0x31 0x13
    else if m.getD 1 0 != 3 then s.udsNeg 0x31 0x12
    else if rid < 0xFD10 || 0xFD15 < rid then s.udsNeg 0x31 0x31
    else match s.update.uds.results.lookup rid with
    | some bs => s.udsAns ([0x71, 0x03] ++ beBytes 2 rid ++ bs)
    | none => s.udsNeg 0x31 0x24)))
def execUdsRoutineResults (m : List Byte) (s : State) : Host.Outcome State Fault Refusal := .next (s.udsResults m)

/-- RequestDownload (R531): memoryAddress and memorySize are big-endian, as ISO 14229-1 sends them. -/
def State.udsDownload (s : State) (m : List Byte) : State :=
  s.uds 0x34 m (fun s => s.udsProg 0x34 (fun s => s.udsAuth 0x34 (fun s =>
    let a := ofBe ((m.drop 3).take 4)
    let n := ofBe ((m.drop 7).take 4)
    let h := s.xferHdr
    if m.length != 11 then s.udsNeg 0x34 0x13
    else if m.getD 1 0 != 0x00 || m.getD 2 0 != 0x44 then s.udsNeg 0x34 0x31
    else if s.update.jrec.state != .receiving then s.udsNeg 0x34 0x22
    else if a % 4096 != 0 || hdrSize h ≤ a || n != hdrSize h - a then s.udsNeg 0x34 0x31
    else (s.modUds (fun u => { u with next := some (a / 4096), ctr := 1, prev := none })).udsAns
      [0x74, 0x20, 0x10, 0x12])))
def execUdsRequestDownload (m : List Byte) (s : State) : Host.Outcome State Fault Refusal := .next (s.udsDownload m)

/-- TransferData: the next chunk, or the one of the previous counter again (R531). -/
def State.udsTransfer (s : State) (m : List Byte) : State :=
  s.uds 0x36 m (fun s => s.udsProg 0x36 (fun s => s.udsAuth 0x36 (fun s =>
    let c := (m.getD 1 0).toNat
    let put := fun (i : Nat) (f : UdsSt → UdsSt) =>
      match s.updChunk i (m.drop 2) with
      | (.stored, s1) => (s1.modUds f).udsAns [0x76, BitVec.ofNat 8 c]
      | (.badTag, s1) => s1.udsNeg 0x36 0x72
      | (.locked, s1) => s1.udsNeg 0x36 0x72
      | (.badLength, s1) => s1.udsNeg 0x36 0x13
      | (.badIndex, s1) => s1.udsNeg 0x36 0x31
    if m.length < 2 then s.udsNeg 0x36 0x13
    else if s.updStep || s.update.jrec.state != .receiving then s.udsNeg 0x36 0x24
    else match s.update.uds.next with
    | none => s.udsNeg 0x36 0x24
    | some i =>
      if c = s.update.uds.ctr then
        put i (fun u => { u with next := some (i + 1), prev := some (c, i), ctr := (c + 1) % 256 })
      else match s.update.uds.prev with
      | some (pc, pi) => if c = pc then put pi id else s.udsNeg 0x36 0x73
      | none => s.udsNeg 0x36 0x73)))
def execUdsTransferData (m : List Byte) (s : State) : Host.Outcome State Fault Refusal := .next (s.udsTransfer m)

/-- RequestTransferExit. -/
def State.udsExit (s : State) (m : List Byte) : State :=
  s.uds 0x37 m (fun s => s.udsProg 0x37 (fun s =>
    if m.length != 1 then s.udsNeg 0x37 0x13
    else if s.update.uds.next.isNone then s.udsNeg 0x37 0x24
    else (s.modUds (fun u => { u with next := none, prev := none })).udsAns [0x77]))
def execUdsTransferExit (m : List Byte) (s : State) : Host.Outcome State Fault Refusal := .next (s.udsExit m)

/-- TesterPresent; 0x80 gets no answer. -/
def State.udsPresent (s : State) (m : List Byte) : State :=
  s.uds 0x3E m (fun s =>
    if m == [0x3E, 0x00] then s.udsAns [0x7E, 0x00]
    else if m == [0x3E, 0x80] then s
    else s.udsNeg 0x3E (if m.length = 2 then 0x12 else 0x13))
def execUdsTesterPresent (m : List Byte) (s : State) : Host.Outcome State Fault Refusal := .next (s.udsPresent m)

/-- Any other service: NRC 0x11 (R529). -/
def State.udsOther (s : State) (m : List Byte) : State :=
  match m.head? with
  | some sid =>
    if [0x10, 0x22, 0x27, 0x31, 0x34, 0x36, 0x37, 0x3E].contains sid then s
    else s.uds sid m (fun s => s.udsNeg sid 0x11)
  | none => s
def execUdsUnsupportedService (m : List Byte) (s : State) : Host.Outcome State Fault Refusal := .next (s.udsOther m)

/-- A request by its service, sub-function and routine identifier. -/
def State.udsRequest (s : State) (m : List Byte) : State :=
  let sub := m.getD 1 0
  let rid := ofBe ((m.drop 2).take 2)
  match m.head? with
  | some 0x10 => s.udsSession m
  | some 0x22 => s.udsRead m
  | some 0x27 => if sub == 0x12 then s.udsKey m else s.udsSeed m
  | some 0x31 =>
    if sub == 0x03 then s.udsResults m
    else if rid = 0xFD11 then s.udsCheck m
    else if rid = 0xFD12 then s.udsArm m
    else if rid = 0xFD13 then s.udsAct m
    else if rid = 0xFD14 then s.udsConfirm m
    else if rid = 0xFD15 then s.udsDiscard m
    else s.udsBegin m
  | some 0x34 => s.udsDownload m
  | some 0x36 => s.udsTransfer m
  | some 0x37 => s.udsExit m
  | some 0x3E => s.udsPresent m
  | _ => s.udsOther m

/-- UDS_VIGIL_FRAME (R532): a wake; a single frame is held and answered 0x78, another is discarded. -/
def State.udsVigil (s : State) (f : UdsFrame) : State :=
  if !(s.asleep && s.udsOn) then s
  else
    let s1 := s.wake .uds
    match f with
    | .single req =>
      (s1.modUds (fun u => { u with held := some req })).udsAns [0x7F, req.getD 0 0, 0x78]
    | .multi => s1
def execUdsVigilFrame (f : UdsFrame) (s : State) : Host.Outcome State Fault Refusal := .next (s.udsVigil f)

/-- The held request is answered after the exit. -/
def State.udsHeld (s : State) : State :=
  match s.update.uds.held with
  | some m => (s.modUds (fun u => { u with held := none })).udsRequest m
  | none => s

end Sys2Proof.Machine
end

