-- ==== Sys2Proof/Machine/Power.lean ====
section
/-!
DEFINITION. Power states (13_power_wake R413 to R444), the supervisor and resets (21_balls_supplies R661 to R671), the
thermal comparators (14_thermal R459 to R461) and the change of aisles (01_architecture R53, R54).
-/

namespace Sys2Proof.Machine

/-! ### Choosing a state (R414, R415) -/

/-- SRC of the running aisle. -/
def State.aisleSrc (s : State) : Nat := 0x80 + b2n s.power.south

/-- The code of a state in POWER_STATE. -/
def PowerState.code : PowerState → Nat
  | .run => 0
  | .idle => 1
  | .vigil => 2
  | .crypt => 3

/-- The code of a wake source. -/
def WakeSrc.code : WakeSrc → Nat
  | .wakeIn => 1
  | .service => 2
  | .hostPort => 3
  | .chain => 4
  | .uds => 5
  | .tolerance => 0

/-- A source that wakes the device from Crypt too. -/
def WakeSrc.deep (w : WakeSrc) : Bool := w == .wakeIn || w == .service

/-- The counted tenants with their tolerances. -/
def State.tolerances (s : State) : List (Ten × Nat) :=
  s.bound.filterMap (fun t =>
    let q := s.ten t
    if q.resetAt.isSome || !q.faulted then some (t, q.ptol)
    else if q.cfg.cls == .safety then some (t, 0) else none)

/-- T_tol, and the tenant that sets it, the lowest of those; 0xF when none is counted. -/
def State.tTol (s : State) : Nat × Nat :=
  match s.tolerances with
  | [] => (0xFFFF, 0xF)
  | x :: xs => xs.foldl (fun m y => if y.2 < m.1 then (y.2, y.1.val) else m) (x.2, x.1.val)

/-- The deepest state whose exit time is within a tolerance. -/
def deepest (tol : Nat) : PowerState :=
  if 640 ≤ tol then .crypt else if 120 ≤ tol then .vigil else if 20 ≤ tol then .idle else .run

/-- The blocking conditions, in table order. A Chapel whose start is due counts as starting, and a storage request counts from
the retirement of its CLSAVE (R370). -/
def State.blocking (s : State) : List Bool :=
  [s.updStep,
   !s.choir.pending.isEmpty || !s.choir.writing.isEmpty || s.choir.writeFrom.isSome ||
     s.choir.slots.toList.any LoopSt.saving,
   s.prime.setBusy.isSome || s.prime.kprime.isSome || s.prime.putting s.now,
   s.reliq.freeze.isSome,
   (allFin 16).any (fun i => (s.slot i).cap.isSome),
   s.chain.run.any (fun r => !r.posted) || s.chain.sweep.any (fun w => !w.complete && !w.held),
   (allFin 4).any (fun c => (s.chap c).state == .starting || (s.chap c).state == .stopping || (s.chap c).startDue.isSome),
   (allFin 4).any (fun t => (s.box t).pend.isSome),
   s.power.tookOver && !s.power.standbyReady]

/-- The target state. -/
def State.targetOf (s : State) : PowerState :=
  let d := deepest s.tTol.1
  let deep := d == .vigil || d == .crypt
  if deep && (s.chain.following || s.now < s.power.upAt + ms 1000 || (s.blocking.take 8).any id) then .idle
  else if d == .crypt && (s.blocking.drop 8).any id then .vigil
  else d

/-- The target is evaluated at an announcement (R416). -/
def State.powerAnnounce (s : State) : State :=
  let to' := s.targetOf
  let t := s.tTol
  s.modPower (fun p => { p with target := to', ttol := t.1, ttolBy := t.2 })

/-- POWER_STATE. -/
def State.powerPost (s : State) (from' to' : PowerState) (wake msec : Nat) : State :=
  s.postAll 0x00D0 s.aisleSrc none
    [mkWord [(from'.code, 0, 4), (to'.code, 4, 4), (wake, 8, 8)], w32 s.power.ttol, w32 s.power.ttolBy, w32 msec]

/-! ### Entries (R416, R418, R422) -/

/-- Every Chapel that emits or starts stops at the coming Bell. -/
def State.chapsOut (s : State) : State :=
  { s with chaps := mapTab (fun (q : ChapSt) =>
      if q.state == .run || q.state == .starting then
        { q with
          stopBell := some (s.bn + 1)
          stopWhy := 4
          stopDue := none
          thenStart := none
          coming := none }
      else q) s.chaps }

/-- An entry begins at the announcement of this instant; the watchdogs stop (R691). -/
def State.entryBegin (s : State) (to' : PowerState) : State :=
  let s1 := (s.powerPost s.power.state to' 0 0).chapsOut
  ({ s1 with tens := mapTab (fun (q : Tenant) => { q with wdogFrom := none }) s1.tens }).modPower (fun p =>
    { p with entering := some (to', s.now) })

/-- An entry to a state may begin at this instant. -/
def State.entryDue (s : State) (to' : PowerState) : Bool :=
  s.live && s.bell.ann == some s.now && s.power.target == to' && s.power.entering.isNone

/-- The Chapels in RUN with their profiles. -/
def State.inRun (s : State) : List (Chap × Nat) :=
  (allFin 4).filterMap (fun c => if (s.chap c).state == .run then some (c, (s.chap c).profile) else none)

/-- VIGIL_ENTRY. -/
def State.vigilEntry (s : State) : State :=
  if !s.entryDue .vigil then s
  else (s.entryBegin .vigil).modPower (fun p => { p with save := some { ran := s.inRun } })
def execVigilEntry (s : State) : Host.Outcome State Fault Refusal := .next s.vigilEntry

/-- The orderly stops have ended. -/
def State.chapsStill (s : State) : Bool :=
  s.bell.ann.isNone && (allFin 4).all (fun c => (s.chap c).state == .off || (s.chap c).state == .stopped)

/-- The ring region of the Undercroft (R196). -/
def ringRegion (m : Mem) : Mem := m.filter (fun c => UnderPart.rings.holds c.1 1)

/-- VIGIL_ENTRY_COMPLETE: a tolerance lowered since the entry began acts as a wake (Edges). -/
def State.vigilEnter (s : State) : State :=
  if !(s.power.entering.any (fun e => e.1 == .vigil) && s.chapsStill) then s
  else
    let low := s.tTol.1 < 120 && s.power.waking.isNone
    let kept := ringRegion s.under
    let s1 : State := { s with
      under := []
      nave := { s.nave with flat := [] }
      memc := { s.memc with selfRef := true, selfRefAt := s.now }
      gal := { s.gal with off := true }
      choir := { s.choir with queue := [] } }
    let s2 := (forEach allOuts (fun o s => s.dimCut o) s1).modMatrix (fun m => { m with
      on := false
      lit := Vector.replicate 96 false })
    s2.modPower (fun p => { p with
      state := .vigil
      entering := none
      save := p.save.map (fun v => { v with under := kept })
      waking := if low then some .tolerance else p.waking
      wakeAt := if low then s.now else p.wakeAt })
def execVigilEntryComplete (s : State) : Host.Outcome State Fault Refusal := .next s.vigilEnter

/-- CRYPT_ENTRY: the stops, the accumulators' closing and the flush. -/
def State.cryptEntry (s : State) : State :=
  if !s.entryDue .crypt then s else ((s.entryBegin .crypt).accClose (fun _ => true)).flushStart
def execCryptEntry (s : State) : Host.Outcome State Fault Refusal := .next s.cryptEntry

/-- PWR_EN goes low: the device is in Crypt. Only a comparator trip keeps DEV_FAIL_N low there (R644). -/
def State.cryptLow (s : State) : State :=
  s.modPower (fun p => { p with
    state := .crypt
    boot := .none
    pwrEn := false
    pwrGood := false
    pwrEnAt := s.now
    entering := none
    takeover := none
    save := none
    waking := p.waking.filter WakeSrc.deep
    devFailN := p.tripAt.isNone })

/-- An entry to Crypt completes once the stops have ended and the buffer is flushed. -/
def State.cryptComplete (s : State) : State :=
  if s.power.entering.any (fun e => e.1 == .crypt) && s.chapsStill && !s.reliq.flush then s.scrubStop.cryptLow
  else s

/-! ### Wakes and Vigil exit (R420, R421) -/

/-- PWR_EN has been low for its 10 ms, and neither a failure nor a trip holds a start. -/
def State.mayStart (s : State) : Bool :=
  s.power.state == .crypt && s.power.boot == .none && s.power.aonUp && !s.power.pwrEn && s.power.failAt.isNone &&
    s.power.tripAt.isNone && s.power.pwrEnAt + ms 10 ≤ s.now

/-- A wake in Crypt raises PWR_EN. -/
def State.suppliesUp (s : State) : State :=
  if s.mayStart && s.power.waking.isSome then
    s.modPower (fun p => { p with
      pwrEn := true
      pwrEnAt := s.now
      boot := .supplies
      cause := if p.coldNext then .cold else .cryptExit })
  else s

/-- The device is in Crypt or on its way there. -/
def State.cryptward (s : State) : Bool := s.power.state == .crypt || s.power.entering.any (fun e => e.1 == .crypt)

/-- The sources that wake the device from a state, and during the entry to it. -/
def State.wakes (s : State) (w : WakeSrc) : Bool :=
  if s.cryptward then w.deep
  else (s.power.state == .vigil || s.power.entering.isSome) && (w != .tolerance || s.tTol.1 < 120)

/-- WAKE_DETECT: a wake that comes during an entry, or while a trip holds the start, is kept. -/
def execWakeDetect (w : WakeSrc) (s : State) : Host.Outcome State Fault Refusal :=
  .next (
    let s := s.cryptComplete
    if s.wakes w && s.power.aonUp && s.power.boot != .supplies then (s.wake w).suppliesUp else s)

/-- Writes held by the ports take effect once LPDDR4X can be used again (R640). -/
def State.heldAny (s : State) : Bool :=
  allPorts.any (fun p => match p with
    | .pf n => !(at' s.ports.pf n).held.isEmpty
    | p => (s.portSt p).elim false (fun x => !x.held.isEmpty))
def State.heldOut (s : State) : State := if s.live && s.heldAny then s.releaseHeld else s

/-- LPDDR4X_TRAINING_DONE. -/
def execLpddr4xTrainingDone (ok : Bool) (s : State) : Host.Outcome State Fault Refusal :=
  .next (
    let s1 := s.trainDone ok
    if s1.memc.train == .trained || s1.memc.train == .failed then s1.heldOut else s1)

/-- The Bell generator after a Vigil exit (R78). -/
def BellGen.woken (b : BellGen) : BellGen :=
  { b with
    lastAt := none
    fired := 0
    lastUs := 0
    ann := none
    latchDone := false
    afterVigil := true
    enabled := true
    anchor := Vector.replicate 4 none }

/-- The witness after a Vigil exit: dark levels and deferral counts restart at 0 (R419). -/
def PdSt.woken (q : PdSt) : PdSt :=
  { q with
    darkAcc := []
    dark := 0
    darkNext := none
    meas := []
    bgs := []
    held := none
    deferral := 0
    reserved := false
    winEnded := false
    converted := false }

/-- The light drive resumes at an instant with the Keystone store as saved, every mapped segment under CHAPEL. -/
def State.lightWake (s : State) : State :=
  let mapped := fun g => !(s.key.carriers g).isEmpty
  { s with ovl := s.key, light := {
      outs := mapTab (fun (o : OutSt) => { o with periodFrom := s.now, samp := [] }) s.light.outs
      rails := mapTab (fun (r : RailSt) => { r with lastStep := s.now }) s.light.rails
      sensorAt := s.now
      matrix := { s.light.matrix with
        on := true
        row := 0
        slotFrom := s.now
        chapel := mapTabIdx (fun i (b : Bool) => b || (fin? 96 i).elim false mapped) s.light.matrix.chapel } } }

/-- Frames and MSG frames kept in Vigil are taken up again (R532, R601, R640). -/
def State.heldIn (s : State) : State :=
  let msgs := s.chain.held
  let s1 := s.modChain (fun c => { c with held := [] })
  let s2 := forEach allPorts (fun p s => s.modPort p (fun x => { x with lastOk := s.now })) s1
  forEach msgs (fun m s => s.chMsg m.1 m.2) s2.udsHeld

/-- The state in retention SRAM is read back: a free number of its uncorrectable words lie in it (log entry 96). -/
def State.retRead (s : State) : State :=
  if s.memc.ueRet.isEmpty then s
  else
    let (v, s1) := s.fresh 16
    let n := v.toNat % (s.memc.ueRet.length + 1)
    (s1.gfix 59 n).tally 7 2 1 n

/-- VIGIL_EXIT. The thermal channels are due at the next point of the 5 ms grid (log entry 43). -/
def State.vigilExit (s : State) : State :=
  match s.power.state, s.power.waking, s.power.save with
  | .vigil, some w, some v =>
    let s1 : State := { s with
      under := v.under
      bell := s.bell.woken
      witness := { s.witness with pds := mapTab PdSt.woken s.witness.pds, slotAt := none }
      memc := { s.memc with 
        train := if s.memc.train == .trained then .reverify else s.memc.train, trainAt := s.now,
        selfRef := s.thermal.hold }
      thermal := { s.thermal with chans := mapTab (fun (q : ThChan) => { q with
        dueAt := s.now + (((q.dueAt : Int) - s.now) % ms 5).toNat }) s.thermal.chans }
      nave := { s.nave with video := s.nave.video.map (fun b => { b with latest := none, sel := none }) }
      chaps := mapTabIdx (fun i (q : ChapSt) =>
        match v.ran.find? (fun r => r.1.val = i) with
        | some r => { q with startDue := some {
            profile := r.2, ten := none, resume := true, warm := r.1.val < 2 && !v.lost.contains r.1 } }
        | none => q) s.chaps }
    let s2 := ((s1.retRead).lightWake).choirWake.modPower (fun p => { p with
      state := .run
      waking := none
      wakeSrc := some w
      upAt := s.now
      postExit := true
      save := none
      exitRan := (v.ran.map (·.1)).filter (fun c => c.val < 2) })
    s2.heldIn
  | _, _, _ => s
def execVigilExit (s : State) : Host.Outcome State Fault Refusal := .next s.vigilExit

/-! ### Stopping at once (R438, R460, R667) -/

/-- A free number of whole 64-byte units of a write in progress have been written (log entry 61). -/
def State.brokenWrite (s : State) (a : Nat) (bs : List Byte) : State :=
  let (v, s1) := s.fresh 32
  s1.moaWrite a (bs.take (64 * (v.toNat % (bs.length / 64 + 1))))

/-- The PRIME_WRITEs that are not complete leave their bytes partly new, in whole units from the first (R436). -/
def State.putsBroken (s : State) : State :=
  forEach (s.prime.puts.filter (fun e => s.now < e.2.2)).reverse (fun e s =>
    let (v, s1) := s.fresh 32
    let k := v.toNat % (cdiv (e.1 % 64 + e.2.1.length) 64 + 1) * 64 - e.1 % 64
    s1.moaWrite (e.1 + k) (e.2.1.drop k)) s

/-- Writes of the Moangex store in progress break: a calibration bank without its header, a KPRIME with KS_VALID at 0
(R369, R436). -/
def State.writesBroken (s : State) : State :=
  let s1 := if s.choir.writeFrom.isNone then s else
    let (b, gen) := s.nextBank
    let img := bankImage (s.choir.writing.foldl (fun xs r => addEnt xs r.ent) s.bankEnts) gen
    s.brokenWrite (bankAddr b + 64) (img.drop 64)
  let s2 := match s1.prime.kprime with
    | some (_, _, k) => s1.brokenWrite ksPattern (k.pattern ++ k.glyphArea)
    | none => s1
  let s3 := s2.putsBroken
  { s3 with
    choir := { s3.choir with pending := [], writing := [], writeFrom := none }
    prime := { s3.prime with kprime := none, setBusy := none, puts := [] } }

/-- No laser, no sink, no interlock output and no matrix segment gives light; an armed interlock trips (R296). -/
def State.lightsOut (s0 : State) : State :=
  let s := forEach (allFin 4) (fun c s => s.laserTrip c 4) s0
  let s1 : State := { s with
    chaps := mapTab (fun (q : ChapSt) => { q with
      state := .off
      armed := false
      lasEn := false
      acEn := false
      emits := false
      frame := none
      coming := none
      prev := none
      stopDue := none
      stopBell := none
      startDue := none
      thenStart := none
      reqs := [] }) s.chaps
    light := { s.light with
      outs := mapTab (fun (o : OutSt) => { o with stopped := true, active := {} }) s.light.outs
      rails := mapTab (fun (r : RailSt) => { r with stopped := true }) s.light.rails } }
  (s1.modMatrix (fun m => { m with on := false, lit := Vector.replicate 96 false })).modBell (fun b => { b with
    ann := none
    enabled := false })

/-- The device runs, is asleep in Vigil, or is on its start path. -/
def State.powered (s : State) : Bool :=
  s.power.state != .crypt && s.power.aonUp && s.power.boot != .none

/-- The device goes to Crypt by way of the flush, with nothing else running. -/
def State.downNow (s : State) : State :=
  (s.writesBroken.modPower (fun p => { p with
    state := .run
    boot := .none
    entering := some (.crypt, s.now)
    save := none
    waking := p.waking.filter WakeSrc.deep
    devFailN := false })).flushStart

/-! ### Power failure and return (R438 to R441, R567, R671) -/

/-- The always-on domain runs from VBAK from this instant. -/
def State.toVbak (s : State) : State :=
  (s.modPower (fun p => { p with onVbak := true })).modRel (fun q => { q with vbakFrom := s.cal, failTime := s.cal })

/-- It runs from VAON again: the ms on VBAK. -/
def State.fromVbak (s : State) : State :=
  (s.modPower (fun p => { p with onVbak := false })).modRel (fun q => { q with
    vbakMs := some ((s.cal + 2 ^ 48 - q.vbakFrom) % 2 ^ 48) })

/-- The device before its start path fails the start. -/
def State.startFails (s : State) : State :=
  (s.cryptLow).modPower (fun p => { p with waking := none, failAt := none })

/-- POWER_FAIL. -/
def State.powerFail (s : State) : State :=
  if s.power.failAt.isSome then s
  else if s.power.boot == .supplies || (s.power.boot == .ready && s.power.cause != .cold) then s.startFails
  else if !(s.powered || s.power.entering.isSome) then s
  else
    let s1 := ((s.lightsOut.freezeEnd 4).cekClear).scrubStop
    let s2 := (s1.modRel (fun q => { q with onVbak := true })).accClose (fun _ => true)
    let s3 := (s2.writesBroken.flushStart).toVbak
    (s3.modRel (fun q => { q with flushLeft := q.units, flush := 0 < q.units })).modPower (fun p => { p with
      state := .crypt
      boot := .none
      entering := none
      takeover := none
      save := none
      waking := none
      failAt := some s.now
      flushStopped := false
      devFailN := false })
def execPowerFail (s : State) : Host.Outcome State Fault Refusal := .next s.powerFail

/-- POWER_RETURN: after the flush has completed or stopped. While a trip holds every start, the device goes on to Crypt
(R461). -/
def State.powerReturn (s : State) : State :=
  match s.power.failAt with
  | some a =>
    if s.power.aonUp && (!s.reliq.flush || s.power.flushStopped) then
      let s := s.passTo (a + ms 2)
      let s1 := (s.fromVbak).modRel (fun q => { q with onVbak := false, flush := false })
      if s.power.tripAt.isSome then (s1.cryptLow).modPower (fun p => { p with failAt := none })
      else s1.modPower (fun p => { p with
        failAt := none
        boot := .ready
        cause := if p.coldNext then .cold else .powerReturn
        pwrGood := true
        wakeAt := s.now
        devFailN := true })
    else s
  | none => s
def execPowerReturn (s : State) : Host.Outcome State Fault Refusal := .next s.powerReturn

/-- VBAK_LOST: the always-on power-on reset begins; the stores that need no power keep their content (R441, R663). -/
def State.vbakLost (s : State) : State :=
  if !(s.power.onVbak && s.power.aonUp) then s
  else { State.powerOn with
    pending := s.pending
    now := s.now
    free := s.free
    calAt := s.now
    moa := s.moa
    memc := { ueMoa := s.memc.ueMoa, oneMoa := s.memc.oneMoa }
    cloister := { otp := s.cloister.otp, lifePost := s.cloister.lifePost }
    update := s.update.kept
    power := { pwrEnAt := s.now } }
def execVbakLost (s : State) : Host.Outcome State Fault Refusal := .next s.vbakLost

/-- VAON_LOW and VAON_RETURN (R662). -/
def execVaonLow (s : State) : Host.Outcome State Fault Refusal :=
  .next (if s.power.aonUp && !s.power.onVbak then s.toVbak else s)
def execVaonReturn (s : State) : Host.Outcome State Fault Refusal :=
  .next (if s.power.onVbak && !s.power.pwrEn then s.fromVbak else s)

/-- AON_POR_END: PWR_EN is driven, and the straps are sampled (R663 to R665). Calendar time counts from 0 (R23). -/
def State.porEnd (s : State) (clk test : Bool) : State :=
  if s.power.aonUp then s
  else
    let s := s.passTo (s.power.pwrEnAt + ms 2)
    ({ s with calMs := 0, calAt := s.now, calSet := false }).modPower (fun p => { p with
      aonUp := true
      pwrEn := true
      pwrGood := true
      boot := if test then .test else .ready
      cause := .cold
      wakeAt := s.now
      clkSel := clk
      testEn := test
      devFailN := !test })
def execAonPorEnd (clk test : Bool) (s : State) : Host.Outcome State Fault Refusal := .next (s.porEnd clk test)

/-- PWR_GOOD_TIMEOUT (R663, R671). -/
def State.pwrGoodTimeout (s : State) : State :=
  if !s.power.aonUp then
    let s := s.passTo (s.power.pwrEnAt + ms 42)
    (({ s with calMs := 0, calAt := s.now, calSet := false }).startFails).modPower (fun p => { p with aonUp := true })
  else if s.power.boot == .supplies then (s.passTo (s.power.pwrEnAt + ms 40)).startFails
  else s
def execPwrGoodTimeout (s : State) : Host.Outcome State Fault Refusal := .next s.pwrGoodTimeout

/-- VBAK_MV_SAMPLE: a measurement; below VBAK_FL a flush from VBAK stops (R439); every 60 s it is a sample (R551). -/
def State.vbakSample (s : State) (mv : Nat) : State :=
  let s1 := s.modPower (fun p => { p with
    vbakMv := mv
    flushStopped := p.flushStopped || (p.onVbak && mv < 2700 && s.reliq.flush) })
  if s.live && s.power.vbakAt + ms 60000 ≤ s.now then
    (s1.modPower (fun p => { p with vbakAt := s.now })).sample 0x21 mv (clampI (((mv : Int) - 2304) / 128) 0 31).toNat
  else s1
def execVbakMvSample (mv : Nat) (s : State) : Host.Outcome State Fault Refusal := .next (s.vbakSample mv)

/-! ### The comparators and the reference clock (R459 to R461, R667) -/

/-- The update step that a THERMAL_TRIP record names: 2 an exchange of slots, 3 a bank write. A chunk is one command,
so that none is ever in progress. -/
def State.tripStep (s : State) : Nat :=
  if s.choir.writeFrom.isSome then 3
  else if s.update.swapOn && (s.update.jrec.unit != 0 || s.update.jrec.phase != 0) then 2 else 0

/-- COMPARATOR_TRIP: bit 0 TS8, bit 1 TS9. -/
def State.compTrip (s : State) (m : Fin 4) : State :=
  if m.val = 0 || !s.powered then s
  else
    let chapUp := nfld s.unitHealth.toNat 4 4
    let body := [BitVec.ofNat 8 m.val, 0, 0, 0] ++ wordBytes s.bn32 ++ [BitVec.ofNat 8 chapUp, BitVec.ofNat 8 s.tripStep]
    let s1 := s.lightsOut.freezeEnd 5
    let s2 := (s1.relAppend (s1.relRec 8 (if nbit m.val 0 then 0x78 else 0x79) 0 false body)).accClose (fun _ => true)
    (({ s2 with thermal := { s2.thermal with
        cmp := mapTabIdx (fun i (b : Bool) => b || nbit m.val i) s2.thermal.cmp } }).downNow).modPower (fun p =>
      { p with tripAt := some s.now, waking := none })
def execComparatorTrip (m : Fin 4) (s : State) : Host.Outcome State Fault Refusal := .next (s.compTrip m)

/-- TRIP_HOLD_END: a wake held until then starts the device. -/
def State.tripHoldEnd (s0 : State) (cool : Bool) : State :=
  let s := s0.cryptComplete
  match s.power.tripAt with
  | some a =>
    if cool && s.power.state == .crypt then
      let s := s.passTo (a + ms 10000)
      (({ s with thermal := { s.thermal with cmp := Vector.replicate 2 false } }).modPower (fun p =>
        { p with tripAt := none })).suppliesUp
    else s
  | none => s
def execTripHoldEnd (cool : Bool) (s : State) : Host.Outcome State Fault Refusal := .next (s.tripHoldEnd cool)

/-- REFCLK_FAULT. -/
def execRefclkFault (s : State) : Host.Outcome State Fault Refusal :=
  .next (if s.powered then ((s.lightsOut.freezeEnd 4).accClose (fun _ => true)).downNow else s)

/-! ### Starts (R423, R425, R476) -/

/-- START: once PWR_GOOD is high. The straps of an always-on power-on reset stand for the start that follows it; a
lifecycle transition starts through Crypt at once. -/
def State.startUp (s : State) (x : StartIn) : State :=
  let p := s.power
  if p.restart && p.boot == .up then
    let s1 := (s.lightsOut.freezeEnd 4).accClose (fun _ => true)
    let s2 := forEach (List.range 2048) (fun _ (s : State) => s.flushUnit)
      (s1.scrubStop.modRel (fun q => { q with flush := true }))
    (s2.modPower (fun p => { p with waking := none, wakeAt := s.now })).startPath .cryptExit x
  else if p.boot == .ready && !p.testEn then
    if p.cause == .cold && p.coldNext then s.startPath .cold { x with clkSel := p.clkSel, testEn := p.testEn }
    else s.startPath p.cause x
  else if p.boot == .supplies then s.startPath p.cause x
  else if s.mayStart && p.waking.isSome then s.startPath (if p.coldNext then .cold else .cryptExit) x
  else s

/-- A kept wake starts the device once PWR_EN has been low for its 10 ms. -/
def State.startWait (s : State) : State :=
  let s1 := s.cryptComplete
  if s1.power.state == .crypt && s1.power.boot == .none && s1.power.aonUp && s1.power.waking.isSome && s1.power.failAt.isNone &&
      s1.power.tripAt.isNone then s1.passTo (s1.power.pwrEnAt + ms 10)
  else s1
def execStart (x : StartIn) (s : State) : Host.Outcome State Fault Refusal := .next (s.startWait.startUp x)

/-! ### Aisles (R53, R54, R539, R648) -/

/-- AISLE_WATCHDOG_EXPIRY: the running aisle has stopped, by its watchdog or by an ECC error. A handover is abandoned, an
ACTIVATE in verification fails, and one in its pause resumes on the Active image. -/
def State.aisleStop (s : State) (ecc : Bool) : State :=
  if !(s.live && s.power.takeover.isNone) then s
  else
    let s1 := match s.update.act with
      | some a =>
        if a.handover then s.handoverAbandon
        else if a.phase == ActPhase.verify || a.phase == ActPhase.ready then (s.updPost 0x0117 [3, hdrVersion s.xferHdr]).actEnd false
        else s.modUpd (fun u => { u with act := some { a with failed := true } })
      | none => s
    let s2 := s1.modPower (fun p => { p with takeover := some s.now })
    s2.notice 0x0182 s.aisleSrc true none [w32 (b2n s.power.south), if ecc then 2 else 1]
def execAisleWatchdogExpiry (ecc : Bool) (s : State) : Host.Outcome State Fault Refusal := .next (s.aisleStop ecc)

/-- AISLE_TAKEOVER: at the next Bell with a standby aisle ready, else once it has booted. The event has no code in the
manual (log entry 62). -/
def State.aisleTake (s : State) : State :=
  match s.power.takeover with
  | some a =>
    if s.live && (!s.power.standbyReady || (a ≤ s.tB && s.now = s.tB)) then
      let s1 := s.modPower (fun p => { p with takeover := none, standbyReady := false, tookOver := true, south := !p.south })
      let occ := s1.reliq.occ
      let s2 := forEach occ (fun r s => s.relAppend r) (s1.modRel (fun q => { q with occ := [] }))
      let (code, s3) := (s2.busyAll.gfix 55 1).fresh 16
      s3.postList s3.bound code.toNat s3.aisleSrc true none []
    else s
  | none => s
def execAisleTakeover (s : State) : Host.Outcome State Fault Refusal := .next s.aisleTake

/-- STANDBY_AISLE_READY: the standby aisle boots the image that runs, by steps 3 to 6 of secure boot (R492). -/
def execStandbyAisleReady (s : State) : Host.Outcome State Fault Refusal :=
  .next (if s.live && s.power.takeover.isNone && s.update.act.isNone && s.imgOk s.update.runOther then
    s.modPower (fun p => { p with standbyReady := true, tookOver := false }) else s)

/-! ### PWR_QUERY (R443) -/

/-- The code of a start cause. -/
def StartCause.code : StartCause → Nat
  | .cold => 1
  | .cryptExit => 2
  | .powerReturn => 3

/-- ms from the wake, or the return, of the last start to an instant of it. -/
def State.sinceWake (s : State) (x : Option Time) : Word := x.elim 0xFFFFFFFF (fun t => w32 ((t - s.power.startAt) / ms 1))

/-- PWR_QUERY. -/
def execPwrQuery (t : Ten) (s : State) : Host.Outcome State Fault Refusal :=
  .next (match s.request t 0x0701 with
  | none => s
  | some _ =>
    let tol := s.tTol
    s.answer t ansOk ([w32 s.power.state.code, w32 s.targetOf.code, w32 tol.1, w32 tol.2] ++
      (allFin 4).map (fun u => w32 (s.ten u).ptol) ++
      [mkWord ((List.range 9).map (fun i => (b2n (s.blocking.getD i false), i, 1))), w32 s.power.cause.code,
       w32 (s.power.startSrc.elim 0 WakeSrc.code), s.sinceWake s.power.bell1At, s.sinceWake s.power.tellAt,
       w32 s.power.vbakMv]))

/-- What time does when no command waits: a Crypt entry completes, and a wake kept meanwhile raises PWR_EN. -/
def State.powerTick (s : State) : State := (s.cryptComplete).suppliesUp

end Sys2Proof.Machine
end

