-- ==== Sys2Proof/Machine/TenantReset.lean ====
section
/-!
DEFINITION. A tenant reset (03_tenants_rings R112, R113, with the rules of the blocks it reaches: R178, R182, R435, R505,
R553, R558, R572, R591, R617, R648).
-/

namespace Sys2Proof.Machine

/-- What a tenant holds of a Chapel is free: its layers, its rectangles with their expected values, its changes. -/
def ChapSt.without (q : ChapSt) (t : Ten) : ChapSt :=
  let noChk := fun (f : FrameSt) => { f with chks := f.chks.filter (fun k => k.2.1 != t) }
  { q with
    layers := mapTab (fun (l : Layer) => if l.holder == some t then {} else l) q.layers
    rects := mapTab (fun (x : RectSt) => if x.owner == .ten t then {} else x) q.rects
    wideWork := upd q.wideWork t (fun _ => {})
    wideTaken := upd q.wideTaken t (fun _ => {})
    frame := q.frame.map noChk
    prev := q.prev.map noChk
    coming := q.coming.map noChk }

/-- A ring is emptied; one whose Lectern is retired stays in FAULT. -/
def RingSt.emptied (q : RingSt) : RingSt :=
  let retired := q.cause = fLECTERN && q.state != .run
  { q with
    state := if retired then .fault else .run
    cause := if retired then q.cause else 0
    rd := 0
    prod := 0
    lastSeq := none
    g := Vector.replicate 16 0
    p := Vector.replicate 4 false
    pc := 0
    pkt := none
    wait := none
    ats := []
    pend := none
    spare := none }

/-- An output at its start settings; what its sensor and its rail made of it stands. -/
def OutSt.restart (q : OutSt) (now : Time) (loop : Bool) : OutSt :=
  { q with
    shadow := q.cfg.start
    active := if loop then { q.cfg.start with code := q.active.code } else q.cfg.start
    aside := []
    pend := []
    took := false
    deferred := false
    knee := q.cfg.knee
    slope := q.cfg.slope
    floor := q.cfg.floor
    pendDerate := none
    periodFrom := now }

/-- The light targets of a tenant. -/
def State.lightReset (s : State) (t : Ten) : State :=
  let s1 := forEach allOuts (fun o s =>
    if (s.out o).cfg.en && (s.out o).cfg.owner == t then
      (s.dimCut o).modOut o (fun q => q.restart s.now (s.outLoop o).isSome) else s) s
  forEach (allFin 2) (fun r s =>
    if (s.rail r).en && (s.rail r).owner == t then
      s.modRail r (fun q => { q with head := q.startHead, pendHead := none }) else s) s1

/-- A slot's state belongs to its Chapel's start sequencer and stops (R342). -/
def State.slotHeld (s : State) (q : LoopSt) : Bool :=
  q.cfg.kind.mirror && q.chap.any (fun c => (s.chap c).state == .starting || (s.chap c).state == .run)

/-- The loops of a tenant, and its captures. A mirror slot of a Chapel in STARTING or RUN keeps its state (R342), and a
CLSAVE stays due: the reset takes no storage request back (R112, R168). -/
def State.loopsReset (s : State) (t : Ten) : State :=
  let s1 := { s with choir := { s.choir with
    slots := mapTab (fun (q : LoopSt) => if q.cap.any (fun c => c.ten == t) then { q with cap := none } else q) s.choir.slots
    late := s.choir.late.filter (fun e => (s.slot e.1).cfg.owner != t) } }
  forEach (allFin 16) (fun i s =>
    let q := s.slot i
    if !(q.cfg.en && q.cfg.owner == t) then s
    else
      (s.slotInit i).modSlot i (fun x => { x with
        state := if s.slotHeld q then q.state else x.state
        save := q.save })) s1

/-- The Keystone store after a reset of the SAFETY tenant (R435): a KPRIME in progress gives what it writes. -/
def State.keyReset (s : State) (t : Ten) : State :=
  if !s.isCls t .safety then s
  else
    let k := match s.prime.kprime with
      | some (_, _, k) => k
      | none => if s.prime.patternOk then s.ksLoad else s.ksAlways
    { (s.keyInstall k) with kloads := [] }

/-- The tenant's own registers and settings; its watchdog starts where watchdogs run. -/
def Tenant.restart (q : Tenant) (at' : Time) (runs : Bool) : Tenant :=
  { q with
    faulted := false
    faultCause := 0
    faultRing := 0
    resetAt := none
    wdogFrom := if q.cfg.wdogMs = 0 || !runs then none else some at'
    part := false
    commit := none
    frozen := none
    frozenBell := 0
    lateCnt := 0
    floorReq := 208334
    ceilReq := 500000
    allowTo := none
    ptol := 0 }

/-- Unread records of an event queue. -/
def Tenant.unread (q : Tenant) : Nat := (q.evq.wr + q.cfg.evqCap - q.evq.rd) % q.cfg.evqCap

/-- The records dropped before a reset, not yet told by an EVQ_OVERFLOW, count before any dropped since (R106). -/
def Evq.dropsToo (q old : Evq) : Evq :=
  if old.drop = 0 then q else { q with drop := min 0xFFFF (old.drop + q.drop), firstDrop := old.firstDrop }

/-- The queue starts again with TENANT_RESET_DONE, then takes what was posted from the reset Bell onward. -/
def State.evqReset (s : State) (t : Ten) : State :=
  let q := s.ten t
  let n := q.unread
  let s1 := s.modTen t (fun q => { q with evq := { q.evq with wr := 0, rd := 0, drop := 0, later := [] } })
  let s2 := s1.postNow t 0x0012 0xF0 false none [s.bn32, w32 n]
  let s3 := s2.modTen t (fun x => { x with evq := x.evq.dropsToo q.evq })
  forEach q.evq.later (fun e s => s.postNow t e.1 e.2.1 e.2.2.1 e.2.2.2.1 e.2.2.2.2) s3

/-- TENANT_RESET_EFFECT. -/
def State.tenReset (s : State) (t : Ten) : State :=
  if !s.resetDue t then s
  else
    let s1 : State := { s with
      chaps := mapTab (fun (q : ChapSt) => q.without t) s.chaps
      rings := mapTab (fun (q : RingSt) => if q.owner == some t then q.emptied else q) s.rings
      surfs := upd s.surfs t (fun _ => [])
      chain := { s.chain with mseq := upd s.chain.mseq t (fun _ => 0) } }
    let s2 := ((s1.loopsReset t).lightReset t).keyReset t
    let s3 := (s2.accClose (fun c => metricTen c == some t)).modRel (fun q => { q with tags := upd q.tags t (fun _ => 0) })
    let s4 := ((s3.galReset t).endSession (tenReq t)).modBox t (fun b => { b with
      busy := false
      ready := false
      alen := 0
      token := 0
      answer := 0
      pend := none })
    ((s4.modTen t (fun q => q.restart s.tB s.wdogRuns)).evqReset t).freezeEndOf t 3
/-- A frame that has begun at this Bell takes FLOOR_EFF as it stands after the changes of the Bell (R262). -/
def State.floorTaken (s : State) : State :=
  { s with chaps := mapTab (fun (q : ChapSt) => { q with frame := q.frame.map (fun f =>
      if f.tB = s.tB && f.next = 0 then { f with floor := s.floorEff } else f) }) s.chaps }
def execTenantResetEffect (s : State) : Host.Outcome State Fault Refusal :=
  .next (forEach (allFin 4) (fun t s => State.tenReset s t) s).floorTaken

end Sys2Proof.Machine
end

