-- ==== Sys2Proof/Machine/Witness.lean ====
section
/-!
DEFINITION. The optical witness (12_telltale_assurance R380 to R396, R410 to R412): ADC slots, foreground and background
windows, the samples for LAS_PWR and WHITE, deferral, and gain calibration.
-/

namespace Sys2Proof.Machine

/-! ### Pixels of a line (R288) -/

/-- off(x) in pixel-clock periods. -/
def FrameSt.off (f : FrameSt) (p : ChapRec) (x : Nat) : Nat := (p.ptab.getD x 0 * f.ht + 2 ^ 23) / 2 ^ 24

/-- The pixel whose span contains a pixel-clock period of a line. -/
def FrameSt.pixelAt (f : FrameSt) (p : ChapRec) (line k : Nat) : Option Nat :=
  let m := f.off p 0 + f.off p p.w
  let j := if f.rightward line then some k else if k < m then some (m - 1 - k) else none
  j.bind (fun j => (List.range p.w).find? (fun x => f.off p x ≤ j && j < f.off p (x + 1)))

/-- The pixel of a Scan Chapel at this instant: its column and row. -/
def State.beamAt (s : State) (c : Chap) : Option (ChapRec × FrameSt × Nat × Nat) :=
  let q := s.chap c
  match q.state, q.frame, q.rec' with
  | .run, some f, some p =>
    if !p.scan || f.next = 0 || f.until' ≤ s.now then none
    else (f.pixelAt p (f.next - 1) ((s.now - f.slotAt) * p.pixclk / 400)).map (fun x => (p, f, x, f.next - 1))
  | _, _, _ => none

/-- The pulse of an Array Chapel at this instant, from 1 µs after its slot start (R385). -/
def State.pulseAt (s : State) (c : Chap) : Option (ChapRec × FrameSt × Nat) :=
  let q := s.chap c
  match q.state, q.frame, q.rec' with
  | .run, some f, some p =>
    if p.scan || f.next = 0 || s.now < f.slotAt + us 1 || f.until' ≤ s.now then none else some (p, f, f.next - 1)
  | _, _, _ => none

/-! ### Foreground (R385 to R387) -/

/-- The armed rectangles of a KEY_FIELD input, as latched for the frame shown. -/
def State.group (s : State) (k : Pd) : List KMap :=
  s.shown.maps.filter (fun m => m.chap == (s.pdIn k).chap && m.wit.elim false (fun a => a.pd == k))

/-- An active foreground window: its input, its rectangle or a group. -/
structure FgWin where
  pd : Pd
  rect : Option (Fin 16)
  deriving DecidableEq, Repr

/-- The place of a window in the round robin. -/
def FgWin.key (w : FgWin) : Nat := 17 * w.pd.val + w.rect.elim 0 (fun r => r.val + 1)

/-- The active foreground windows, in ascending order. -/
def State.fgWins (s : State) : List FgWin :=
  (allFin 8).filterMap (fun k =>
    let q := s.pdIn k
    match q.role with
    | .keyField => if (s.pulseAt q.chap).isSome && !(s.group k).isEmpty then some { pd := k, rect := none } else none
    | .beam =>
      (match s.beamAt q.chap with
       | none => none
       | some (_, _, x, y) =>
         match s.shown.at' q.chap x y with
         | some m => if m.wit.isSome then some { pd := k, rect := some m.rect } else none
         | none => none)
    | _ => none)

/-- The window granted a slot: the first after the one granted last. -/
def State.fgNext (s : State) : Option FgWin :=
  let ws := s.fgWins
  match ws.find? (fun w => s.witness.lastGrant ≤ w.key) with
  | some w => some w
  | none => ws.head?

/-- The lit pixels of a group's rectangles in slot `n`'s plane, each counted once (R387; log entry 88). -/
def State.groupLit (s : State) (k : Pd) (p : ChapRec) (f : FrameSt) (n : Nat) : Nat :=
  let g := s.group k
  (g.map (fun m =>
    ((List.range m.h).map (fun j => ((List.range m.w).filter (fun i =>
      !g.any (fun b => b.rect.val < m.rect.val && inRect b.x b.y b.w b.h (m.x + i) (m.y + j)) &&
        s.shownBit s.shown m.chap p f n (m.x + i) (m.y + j))).length)).sum)).sum

/-- What a granted sample adds to E, as a sum before its shift, and the colour that a calibration counts it for. -/
def State.fgLight (s : State) (w : FgWin) : Nat × Option (Fin 3) :=
  let q := s.pdIn w.pd
  match w.rect with
  | none =>
    (match s.pulseAt q.chap with
     | none => (0, none)
     | some (p, f, n) =>
       let col := Fin.ofNat 3 (p.slotPlane n).1
       (s.groupLit w.pd p f n * at' q.gain col, some col))
  | some _ =>
    match s.beamAt q.chap with
    | none => (0, none)
    | some (p, f, x, y) =>
      let v := s.shownPx s.shown q.chap p f x y
      let lit := (allFin 3).filter (fun c => chan3 v c.val != 0)
      (((allFin 3).map (fun c => chan3 v c.val * 2 ^ (14 - p.depth) * at' q.gain c)).sum,
        if lit.length = 1 then lit.head? else none)

/-- Add to the running calibration of an input. -/
def State.calAdd (s : State) (k : Pd) (c : Fin 3) (m : Int) (e : Nat) : State :=
  { s with witness := { s.witness with cal := s.witness.cal.map (fun x =>
      if x.pd == k && 0 < x.left && x.left ≤ x.frames then { x with m := upd x.m c (· + m), e := upd x.e c (· + e) } else x) } }

/-- A measurement after one more sample. -/
def WitMeas.add (x : WitMeas) (v dark e : Nat) : WitMeas :=
  { x with
    n := x.n + 1
    m := x.m + ((v : Int) - dark)
    e := x.e + e
    sat := x.sat || v = 16383 }

/-- A granted sample. -/
def State.fgGrant (s : State) (w : FgWin) (v : Nat) : State :=
  let (e, col) := s.fgLight w
  let dark := (s.pdIn w.pd).dark
  let s1 := s.modPd w.pd (fun q => { q with
    meas := if q.meas.any (fun x => x.rect == w.rect) then
        q.meas.map (fun x => if x.rect == w.rect then x.add v dark e else x)
      else q.meas ++ [({ rect := w.rect } : WitMeas).add v dark e] })
  let s2 : State := { s1 with witness := { s1.witness with lastGrant := w.key + 1 } }
  let s3 := match col with
    | some c => s2.calAdd w.pd c ((v : Int) - dark) e
    | none => s2
  s3.tally 6 w.pd.val 0 1

/-! ### Background (R391 to R394) -/

/-- A time in units of 50/256 ns, rounded down. -/
def bgUnits (t : Time) : Nat := t * 64 / 5

/-- M_b and E_b of a converted value. -/
def State.bgLight (s : State) (k : Pd) (w : BgWin) (v : Nat) : Int × Nat :=
  let q := s.pdIn k
  let g := at' q.gain w.col
  ((v : Int) - rhu ((w.dark * w.w : Nat) : Int) 8,
    if q.role == .beam then (rhu ((w.e * g : Nat) : Int) 46).toNat else (rhu ((w.w * g : Nat) : Int) 32).toNat)

/-- The feedback of a ratio of measured to expected light. -/
def ratioY (m : Int) (num den : Nat) : Nat := min 16383 (m.toNat * num * 8192 / den)

/-- The slots of a kind on an input's Chapel. -/
def State.fedSlots (s : State) (k : Pd) (kind : LoopKind) : List Slot :=
  (allFin 16).filter (fun i => (s.slot i).cfg.en && (s.slot i).cfg.kind == kind &&
    (s.slot i).cfg.target = (s.pdIn k).chap.val)

/-- A new sample to the slots of a kind. -/
def State.feedY (s : State) (k : Pd) (kind : LoopKind) (c : Fin 3) (y : Nat) : State :=
  forEach (s.fedSlots k kind) (fun i s => s.modSlot i (fun q => { q with newY := upd q.newY c (fun _ => some y) })) s

/-- A converted background value. -/
def State.bgConvert (s : State) (k : Pd) (w : BgWin) (v : Nat) : State :=
  let (m, e) := s.bgLight k w v
  let s1 := s.modPd k (fun q => { q with mSum := upd q.mSum w.col (· + m), eSum := upd q.eSum w.col (· + e) })
  let s2 := if (s.pdIn k).role == .beam && 0 < e then s1.feedY k .lasPwr w.col (ratioY m 1 e) else s1
  if (s.pdIn k).role == .illum then s2.calAdd k w.col m e else s2

/-- The windows of an input whose values were not converted in time are discarded. In RESERVED the first of a Bell period is
held for the reserved slot, and the integrator takes no later one of the period (R391, R394). -/
def State.bgExpire (s : State) (k : Pd) (gone : BgWin → Bool) : State :=
  let q := s.pdIn k
  let old := q.bgs.filter gone
  let keep := if q.reserved && q.held.isNone then old.head? else none
  let s1 := s.modPd k (fun q => { q with
    bgs := if keep.isSome || (q.reserved && q.held.isSome) then [] else q.bgs.filter (fun w => !gone w)
    held := q.held.orElse (fun _ => keep) })
  let n := old.length - b2n keep.isSome
  if n = 0 then s1 else s1.tally 6 k.val 2 n

/-- A window's time has passed. -/
def BgWin.over (now : Time) (w : BgWin) : Bool := w.upTo < now

/-- A window of an input begins: the one before it is converted by its start at the latest (R391). -/
def State.bgOpen (s : State) (k : Pd) (w : BgWin) : State :=
  (s.bgExpire k (BgWin.over s.now)).modPd k (fun q => { q with
    winEnded := true
    wAll := upd q.wAll w.col (· + w.w)
    bgs := if q.reserved && q.held.isSome then [] else
      q.bgs.map (fun x => { x with upTo := min x.upTo w.starts }) ++ [{ w with dark := q.dark, upTo := w.ends + us 2 }] })

/-- The inputs of a role on a Chapel. -/
def State.inputs (s : State) (c : Chap) (r : PdRole) : List Pd :=
  (allFin 8).filter (fun k => (s.pdIn k).role == r && (s.pdIn k).chap == c)

/-- The background window of a slot that has just started. -/
def State.bgSlot (s : State) (c : Chap) : State :=
  match (s.chap c).frame, (s.chap c).rec' with
  | some f, some p =>
    if f.next = 0 || f.until' ≤ f.slotAt + us 1 then s
    else
      let w : BgWin := { col := Fin.ofNat 3 (p.slotPlane (f.next - 1)).1, starts := f.slotAt + us 1, ends := f.until',
                         w := bgUnits (f.until' - f.slotAt - us 1) }
      forEach (s.inputs c .illum) (fun k s => s.bgOpen k w) s
  | _, _ => s

/-- The pixels of a line that its background window covers: column, value, span in periods. -/
def State.bgPixels (s : State) (c : Chap) (p : ChapRec) (f : FrameSt) (n : Nat) : List (Nat × Nat × Nat) :=
  (List.range p.w).filterMap (fun x =>
    let v := s.shownPx s.shown c p f x n
    let cn := n % 3
    if (s.shown.at' c x n).isNone && chan3 v cn != 0 && ([0, 1, 2].filter (fun k => chan3 v k != 0)).length = 1 then
      some (x, chan3 v cn, f.off p (x + 1) - f.off p x)
    else none)

/-- The background window of a line that has just started. -/
def State.bgLine (s : State) (c : Chap) : State :=
  match (s.chap c).frame, (s.chap c).rec' with
  | some f, some p =>
    if f.next = 0 then s
    else
      let n := f.next - 1
      let px := s.bgPixels c p f n
      let m := f.off p 0 + f.off p p.w
      let t := fun k => f.slotAt + cdiv (k * 400) (max p.pixclk 1)
      let spans := px.map (fun e =>
        if f.rightward n then (f.off p e.1, f.off p (e.1 + 1)) else (m - f.off p (e.1 + 1), m - f.off p e.1))
      let unit := fun k => k * 5120 / max p.pixclk 1
      match (spans.map (·.1)).min?, (spans.map (·.2)).max? with
      | some a, some b =>
        let w : BgWin := { col := Fin.ofNat 3 n, starts := t a, ends := t b, w := unit ((px.map (·.2.2)).sum),
                           e := (px.map (fun e => e.2.1 * 2 ^ (14 - p.depth) * unit e.2.2)).sum }
        forEach (s.inputs c .beam) (fun k s => s.bgOpen k w) s
      | _, _ => s
  | _, _ => s

/-- A window waits to be converted: it has ended, and its time has not passed. -/
def BgWin.ready (now : Time) (w : BgWin) : Bool := w.ends ≤ now && now ≤ w.upTo

/-- The input that has such a window, the lowest first, and the window. -/
def State.bgNext (s : State) : Option (Pd × BgWin) :=
  ((allFin 8).filterMap (fun k => ((s.pdIn k).bgs.find? (BgWin.ready s.now)).map (fun w => (k, w)))).head?

/-! ### ADC slots (R382, R384, R386, R394) -/

/-- The number of the 50 ns step after an instant that now is, where it is one of the first `n`. -/
def stepOf (now a n : Nat) : Option Nat :=
  if a ≤ now && (now - a) % 20 = 0 && (now - a) / 20 < n then some ((now - a) / 20) else none

/-- A dark sample. -/
def State.darkSample (s : State) (k : Pd) (v : Nat) : State :=
  s.modPd k (fun q =>
    let xs := q.darkAcc ++ [v]
    if 16 ≤ xs.length then
      { q with darkAcc := [], darkNext := some (rhu (((xs.drop (xs.length - 16)).sum : Nat) : Int) 4).toNat }
    else { q with darkAcc := xs })

/-- The reserved conversion of an input. -/
def State.reservedConvert (s : State) (k : Pd) (v : Nat) : State :=
  match (s.pdIn k).held with
  | none => s
  | some w => ((s.modPd k (fun q => { q with held := none })).bgConvert k w v).tally 6 k.val 3 1

/-- A conversion of no reserved use: foreground, else background. -/
def State.plainSlot (s : State) (v : Nat) : State :=
  match s.fgNext with
  | some w => s.fgGrant w v
  | none =>
    match s.bgNext with
    | none => s
    | some (k, w) =>
      ((s.modPd k (fun q => { q with bgs := q.bgs.erase w, converted := true })).bgConvert k w v).tally 6 k.val 1 1

/-- The first instant at or after `a` that lies on the 50 ns steps from `b`. -/
def stepAt (a b : Time) : Time := if a ≤ b then b else b + cdiv (a - b) 20 * 20

/-- The first of some 50 ns steps at which a foreground or background window can be granted. -/
def State.slotSearch : Nat → State → State
  | 0, s => s
  | n + 1, s => if s.fgNext.isSome || s.bgNext.isSome then s else State.slotSearch n { s with now := s.now + 20 }

/-- Time passes up to the next conversion that has a use; where none of the next 640 has one, to the next slot. -/
def State.slotWait (s : State) : State :=
  let a := if s.witness.slotAt == some s.now then s.now + 1 else s.now
  let plain := stepAt a s.tB
  let fixed := s.bell.ann.elim [] (fun x =>
    let b := x + us 1500
    [(b - us 216, 128), (b - us 200, 8)].filterMap (fun e =>
      let t := stepAt a e.1
      if t < e.1 + 20 * e.2 then some t else none))
  let found := if s.shown.maps.any (·.wit.isSome) || s.witness.pds.toList.any (fun q => !q.bgs.isEmpty) then
      (State.slotSearch 640 { s with now := plain }).now else plain + 20 * 640
  let next := (found :: fixed).foldl min (plain + 20 * 640)
  if next = plain + 20 * 640 && fixed.isEmpty then s.passTo plain else s.passTo next

/-- WITNESS_ADC_SLOT. -/
def State.adcSlot (s0 : State) (v : Nat) : State :=
  let s := if s0.live then s0.slotWait else s0
  if !s.live then s
  else
    let s0 := forEach (allFin 8) (fun k s => s.bgExpire k (BgWin.over s.now)) s
    let s1 : State := { s0 with witness := { s0.witness with slotAt := some s.now } }
    let b := s.bell.ann.map (fun a => a + us 1500)
    match b.bind (fun b => stepOf s.now (b - us 216) 128), b.bind (fun b => stepOf s.now (b - us 200) 8) with
    | some i, _ => s1.darkSample (Fin.ofNat 8 (i / 16)) v
    | none, some i => s1.reservedConvert (Fin.ofNat 8 i) v
    | none, none => if (s.now - s.tB) % 20 = 0 then s1.plainSlot v else s
def execWitnessAdcSlot (v : BitVec 14) (s : State) : Host.Outcome State Fault Refusal := .next (s.adcSlot v.toNat)

/-! ### The Bell (R392 to R394) -/

/-- KW_RESERVED to the owners of the slots that an input feeds. -/
def State.reservedPost (s : State) (k : Pd) (what : Nat) : State :=
  let own := (s.fedSlots k .lasPwr ++ s.fedSlots k .white).map (fun i => (s.slot i).cfg.owner)
  s.postTo (s.bound.filter (fun t => own.contains t)) 0x00C1 (0x50 + k.val) none
    [w32 what, w32 (s.pdIn k).deferral, s.bn32]

/-- The WHITE samples of an input at a t_B, from the Bell period of length `period`. -/
def State.whiteFeed (s : State) (k : Pd) (period : Time) : State :=
  let q := s.pdIn k
  forEach (allFin 3) (fun c s =>
    let e := at' q.eSum c
    if e = 0 then s
    else match q.role with
    | .beam => s.feedY k .white c (ratioY (at' q.mSum c) 1 e)
    | .illum => s.feedY k .white c (ratioY (at' q.mSum c) (at' q.wAll c) (e * max (bgUnits period) 1))
    | _ => s) s

/-- KV_RATIO_c of a finished measurement with E > 0 (R551). -/
def State.kvRatio (s : State) (c : Chap) (x : WitMeas) : State :=
  if x.eVal = 0 then s
  else
    let v := min 16383 (8192 * x.m.toNat / x.eVal)
    s.sample (0x14 + c.val) v (v / 512)

/-- The measurements of an input in the frame that ends, those without a granted sample too (R385, R410). -/
def State.measured (s : State) (k : Pd) : List WitMeas :=
  let q := s.pdIn k
  let get := fun (r : Option (Fin 16)) => (q.meas.find? (fun x => x.rect == r)).getD { rect := r }
  if (s.chap q.chap).frame.isNone then q.meas
  else match q.role with
  | .keyField => if (s.group k).isEmpty then [] else [get none]
  | .beam => ((s.group k).map (fun m => get (some m.rect)))
  | _ => []

/-- One input at a t_B: its measurements are those of the frame that ended, its dark level is that of the coming one, and its
deferral is judged. -/
def State.pdBell (s : State) (k : Pd) (period : Time) : State :=
  let s0 := forEach (s.pdIn k).meas (fun x s => s.kvRatio (s.pdIn k).chap x) s
  let s1 := (s0.bgExpire k (fun _ => true)).whiteFeed k period
  let q := s1.pdIn k
  let left := q.reserved && q.converted
  let s2 := s1.modPd k (fun q => { q with
    last := s.measured k
    meas := []
    dark := q.darkNext.getD q.dark
    darkNext := none
    deferral := if q.converted then 0 else if q.winEnded then q.deferral + 1 else q.deferral
    reserved := q.reserved && !q.converted
    winEnded := false
    converted := false
    held := none
    lastM := q.mSum.toList.sum
    lastE := q.eSum.toList.sum
    mSum := Vector.replicate 3 0
    eSum := Vector.replicate 3 0
    wAll := Vector.replicate 3 0 })
  if left then s2.reservedPost k 2 else s2

/-- The witness at a t_B, before the frames move on: every input, and the frames of a calibration. -/
def State.witBell (s : State) (period : Time) : State :=
  let shown := s.witness.cal.elim false (fun x => (s.chap (s.pdIn x.pd).chap).frame.isSome)
  let s1 := forEach (allFin 8) (fun k s => s.pdBell k period) s
  { s1 with witness := { s1.witness with cal := s1.witness.cal.map (fun x =>
      if x.frames < x.left then { x with left := x.frames } else if shown then { x with left := x.left - 1 } else x) } }

/-- KW_RESERVED: the 64th deferred Bell of an input. -/
def execKwReserved (k : Pd) (s : State) : Host.Outcome State Fault Refusal :=
  .next (if 64 ≤ (s.pdIn k).deferral && !(s.pdIn k).reserved then
    (s.modPd k (fun q => { q with reserved := true })).reservedPost k 1 else s)

/-! ### Requests (R410, R411) -/

/-- The code of a role. -/
def PdRole.code : PdRole → Nat
  | .unused => 0
  | .keyField => 1
  | .illum => 2
  | .beam => 3

/-- KW_QUERY; M and E take two words each, as accumulations of 64 bits (log entry 40). -/
def execKwQuery (t : Ten) (s : State) : Host.Outcome State Fault Refusal :=
  .next (match s.request t 0x0601 with
  | none => s
  | some a =>
    match fin? 8 (a.getD 0 0).toNat with
    | none => s.answer t ansRange []
    | some k =>
      let q := s.pdIn k
      s.answer t ansOk ([w32 q.role.code, w32 q.chap.val, w32 q.dark] ++ q.gain.toList.map w32 ++
        [q.gainGen, w32 q.deferral, w32 (b2n q.reserved)] ++
        q.last.flatMap (fun x => words2 (unsgn 64 x.m) ++ words2 x.eVal ++ [w32 x.n, w32 (b2n x.sat)])))

/-- KW_CAL. -/
def execKwCal (t : Ten) (s : State) : Host.Outcome State Fault Refusal :=
  .next (match s.request t 0x0602 with
  | none => s
  | some a =>
    if !s.isCls t .service then s.answer t ansClass []
    else
      let f := (a.getD 1 0).toNat
      match fin? 8 (a.getD 0 0).toNat with
      | none => s.answer t ansRange []
      | some k =>
        let q := s.pdIn k
        if f = 0 || 64 < f then s.answer t ansRange []
        else if q.role == .unused || (s.chap q.chap).state != .run || s.witness.cal.isSome then s.answer t ansState []
        else
          ({ s with witness := { s.witness with cal := some { pd := k, ten := t, left := f + 1, frames := f } } }).answer t
            ansOk [])

/-- The result of a colour's calibration, 0 UPDATED, 1 NO_LIGHT, 2 RANGE, and its gain (R411). -/
def calResult (gain : Nat) (m : Int) (e : Nat) : Nat × Nat :=
  if e < 2 ^ 20 then (1, gain)
  else
    let g := (gain * m / (e : Int)).toNat
    if 8192 * m < ((4096 * e : Nat) : Int) || ((16384 * e : Nat) : Int) ≤ 8192 * m || g < 1 || 16777215 < g then (2, gain)
    else (0, g)

/-- KW_CAL_DONE. -/
def State.kwCalDone (s : State) : State :=
  match s.witness.cal with
  | none => s
  | some x =>
    if x.left != 0 then s
    else
      let q := s.pdIn x.pd
      let sh := match q.role with
        | .keyField => 24
        | .beam => 38
        | _ => 0
      let rs := (allFin 3).map (fun c => calResult (at' q.gain c) (at' x.m c) (rhu ((at' x.e c : Nat) : Int) sh).toNat)
      let res := (rs.zipIdx.map (fun r => r.1.1 * 4 ^ r.2)).sum
      let s1 : State := { s with witness := { s.witness with cal := none } }
      if rs.any (fun r => r.1 = 0) then
        let ent : BankEnt := { type := 3, chan := x.pd.val, profile := (s.chap q.chap).profile,
                               data := rs.flatMap (fun r => leBytes 4 r.2) }
        { s1 with choir := { s1.choir with
            pending := s1.choir.pending ++ [{ who := .gains x.pd x.ten res x.frames, ent := ent }] } }
      else s1.post x.ten 0x00C2 (0x50 + x.pd.val) none [w32 res, 0, w32 x.frames]
def execKwCalDone (s : State) : Host.Outcome State Fault Refusal := .next s.kwCalDone

/-! ### Slots and lines start -/

/-- A change of a Chapel's frame, after which the background windows of a new slot or line open. -/
def State.thenOpen (s s1 : State) (c : Chap) (k : State → State) : State :=
  if (s1.chap c).frame.map (·.next) == (s.chap c).frame.map (·.next) then s1 else k s1

/-- ARRAY_SLOT_START. -/
def execArraySlotStart (x : SlotIn) (s : State) : Host.Outcome State Fault Refusal :=
  .next (s.thenOpen (s.arraySlot x.chap x.y) x.chap (fun s => s.bgSlot x.chap))

/-- SCAN_LINE_START. -/
def execScanLineStart (c : Chap) (left : Bool) (s : State) : Host.Outcome State Fault Refusal :=
  .next (s.thenOpen (s.scanLine c left) c (fun s => s.bgLine c))

end Sys2Proof.Machine
end

