-- ==== Sys2Proof/Machine/Bell.lean ====
section
/-!
DEFINITION. The Bell: the announcement with its freeze (02_bell R57 to R64, R71, R76 to R78, R86, R696; 05 R158, R697), the
latch step (R66, R67, R138), and the Bell itself (R66, R69).
-/

namespace Sys2Proof.Machine

/-! ### When a Bell is announced (R62, R76, R78, R585, R588) -/

/-- The participating tenants that are not faulted and have no commit for the coming Bell. -/
def State.uncommitted (s : State) : List Ten :=
  s.bound.filter (fun t => (s.ten t).part && !(s.ten t).faulted && (s.ten t).commit.isNone)

/-- A limit of the period at an edge: where a BWIN of that very instant has set one that has already passed, it holds
from the next edge, and the old one stands (R62). -/
def limitAt (b e w new old : Nat) : Nat := if e ≤ w && b + cyc new < e + us 1500 then max new old else new

/-- FLOOR_EFF and CEIL_EFF as they count at an edge of the period that began at `b`. -/
def State.floorAt (s : State) (b e : Time) : Nat :=
  s.bell.winAt.elim s.floorEff (fun x => limitAt b e x.1 s.floorEff x.2.1)
def State.ceilAt (s : State) (b e : Time) : Nat :=
  s.bell.winAt.elim s.ceilEff (fun x => limitAt b e x.1 s.ceilEff x.2.2)

/-- The announcement may be made at this instant; and whether it does not wait for the tenants without a commit, which
then receive LATE_COMMIT. Bells go on during an entry to Vigil or Crypt, up to its completion (R78, R416). -/
def State.announceDue (s : State) : Option Bool :=
  if !(s.live && s.bell.enabled && s.now % 16 = 0 && s.bell.ann.isNone) then none
  else if s.chain.following then (if s.chain.annAt.any (fun a => a ≤ s.now) then some true else none)
  else if s.chain.lost && s.now < s.chain.lossAt + 16 then none
  else match s.bell.lastAt with
  | none => some false
  | some b =>
    if s.now + us 1500 < b + cyc (s.floorAt b s.now) then none
    else if s.uncommitted.isEmpty then some false
    else if b + cyc (s.ceilAt b s.now) ≤ s.now + us 1500 then some true else none

/-- The instant of the announcement, on the 40 ns grid, as the conditions stand. -/
def State.announceAt (s : State) : Time :=
  let to' := cdiv s.now 16 * 16
  if s.chain.following then max to' (cdiv (s.chain.annAt.getD 0) 16 * 16)
  else if s.chain.lost && to' < s.chain.lossAt + 16 then cdiv (s.chain.lossAt + 16) 16 * 16
  else match s.bell.lastAt with
  | none => to'
  | some b =>
    let now := if s.uncommitted.isEmpty then s.floorAt b to' else s.ceilAt b to'
    let next := if s.uncommitted.isEmpty then s.floorEff else s.ceilEff
    if now = next then max to' (b + cyc next - us 1500) else to' + 16

/-- LATE_COMMIT (R88). -/
def State.lateCommits (s : State) : State :=
  forEach s.uncommitted (fun t s =>
    let q := s.ten t
    ((s.modTen t (fun q => { q with lateCnt := min 0xFFFF (q.lateCnt + 1) })).gfix 62 1).post t 0x0040 0x10 q.frozen
      [s.bn32 + 1, q.frozen.getD 0]) s

/-! ### The freeze (R60, R158, R697) -/

/-- The reason for which a layer's state fails its check: 3 NO_DEST, 2 NO_SOURCE, 1 SCALE; a video source is tested at
each selection (R236). -/
def LayerCfg.reject (v : LayerCfg) : Option Nat :=
  if !v.vis then none
  else if v.dw = 0 || v.dh = 0 then some 3
  else if v.sid.isNone && v.vc.isNone then some 2
  else if v.vc.isNone && !scaleOk v.sw v.sh v.dw v.dh then some 1 else none

/-- A layer's part of a tenant's commit is frozen. -/
def State.freezeLayer (s : State) (t : Ten) (lid : Nat) (seq : Word) : State :=
  let l := s.layer lid
  if l.holder != some t then s
  else match l.taken with
  | none => s
  | some none => s.modLayer lid (fun _ => {})
  | some (some v) =>
    let s1 := s.modLayer lid (fun l => { l with taken := none })
    if l.frozen = some v then s1.modLayer lid (fun l => { l with refused := none })
    else if l.refused = some v then s1
    else match v.reject with
    | none => s1.modLayer lid (fun l => { l with frozen := some v, refused := none })
    | some why =>
      (s1.modLayer lid (fun l => { l with refused := some v })).post t 0x0050 (s.ten t).cring (some seq)
        [seq, w32 lid, w32 why]

/-- The rectangles and Chapel-wide values of a Chapel in a tenant's commit. A rectangle claimed again after the release
that the commit carries stays claimed (R697). -/
def ChapSt.freeze (q : ChapSt) (t : Ten) : ChapSt :=
  let w := Machine.at' q.wideTaken t
  { q with
    rects := mapTab (fun (x : RectSt) =>
      if x.owner != .ten t then x
      else match x.taken with
      | none => x
      | some none => if x.work.isSome then { x with frozen := none, taken := none } else {}
      | some (some k) => { x with frozen := some k, taken := none }) q.rects
    wide := { r := (w.bg.map (·.1)).getD q.wide.r, g := (w.bg.map (·.2.1)).getD q.wide.g,
              b := (w.bg.map (·.2.2)).getD q.wide.b, dith := w.dith.getD q.wide.dith }
    wideTaken := upd q.wideTaken t (fun _ => {}) }

/-- A tenant's commit becomes its frozen commit; a faulted tenant's commits stop (R110), and one whose reset takes effect at the
coming Bell freezes no more (R112). -/
def State.freezeTen (s : State) (t : Ten) : State :=
  match (s.ten t).commit with
  | none => s
  | some seq =>
    if (s.ten t).faulted || s.clearing t then s
    else
      let s1 := forEach (List.range 128) (fun lid s => s.freezeLayer t lid seq) s
      let s2 : State := { s1 with chaps := mapTab (fun (q : ChapSt) => q.freeze t) s1.chaps }
      let s3 := s2.modSurfs t (fun xs => xs.map (fun e => (e.1, { e.2 with
        genFrozen := e.2.genTaken.getD e.2.genFrozen
        genTaken := none })))
      s3.modTen t (fun q => { q with commit := none, frozen := some seq, frozenBell := s.bn + 1 })

/-! ### The Chime groups at an announcement (R71, R72, R86, R696) -/

/-- The last Chime strictly before an instant, of a timetable from an anchor: its number, where there is one. -/
def lastChime (anchor n now : Nat) : Option Nat := if now ≤ anchor then none else some ((n * (2 * (now - anchor) - 1) - 1) / 1200000)

/-- The instant of Chime `k`. -/
def chimeAt (anchor n k : Nat) : Time := anchor + (2 * k * 600000 + n) / (2 * n)

/-- A group is re-phased: the number of its first Chime from t_A, 0 when one fires at t_A. A Chime that has fired at t_A
already is not doubled. -/
def State.firstK (s : State) (g : Fin 4) (nNew : Nat) : Nat :=
  let n := rateN (s.rate g)
  match at' s.bell.anchor g with
  | none => 0
  | some a =>
    match lastChime a n s.now with
    | none => 0
    | some m =>
      let d := s.now - chimeAt a n m
      if m + 1 < at' s.bell.k g then 1 else if 600000 ≤ 2 * d * nNew then 0 else 1

/-- Every group takes its new rate and its phase from t_A. -/
def State.rephase (s : State) : State :=
  forEach (allFin 4) (fun g s =>
    let code := (at' s.bell.pendRate g).getD (s.rate g)
    let k := s.firstK g (rateN code)
    let changed := code != s.rate g
    let s1 := s.modBell (fun b => { b with
      rate := upd b.rate g (fun _ => code)
      pendRate := upd b.pendRate g (fun _ => none)
      anchor := upd b.anchor g (fun _ => some s.now)
      k := upd b.k g (fun _ => k) })
    if changed then s1.rateChanged g else s1) s

/-! ### BELL_ANNOUNCE -/

/-- Node 0 tells the chain: its ANNOUNCE mark left 2 µs before, and the frame follows (R585). -/
def State.chainAnnounce (s : State) : State :=
  if s.chain.addr == some 0 && s.chain.d.up && !s.chain.following then
    (s.modChain (fun c => { c with marks := c.marks ++ [(1, s.now - us 2)] })).chSend true
      { type := 0x03, words := [s.bn32 + 1] }
  else s

/-- NAVE_LOAD (R551). -/
def State.navSample (s : State) : State :=
  if s.naveOn then
    let v := min 32767 (16384 * s.nave.load / max s.nave.cap 1)
    s.sample 0x22 v (v / 1024)
  else s

/-- An announcement. -/
def State.announce (s : State) (late : Bool) (x : AnnIn) : State :=
  let s1 := s.heldOut.powerAnnounce
  let s2 := if late then s1.lateCommits else s1
  let ahead := s2.aheadNow
  let s3 := forEach s2.bound (fun t s => s.freezeTen t) s2
  let s4 := (forEach (allFin 4) (fun c s => s.chapAnnounce c) s3).pauseAnnounce
  let s5 := (((s4.vidFreeze.flatFreeze.compose ahead (s4.bn + 1)).specSettle ahead).navSample).sentinelRun x.sentinel
  let s6 := (forEach (allFin 4) (fun c s => s.frameAnnounce c) s5).framesNew x
  let s7 := (s6.rephase.chainAnnounce.modBell (fun b => { b with ann := some s.now, latchDone := false })).modChain (fun c =>
    { c with annAt := none })
  (s7.traceMark 1 0xFF (s.bn + 1)).releaseWaits

/-- BELL_ANNOUNCE. -/
def execBellAnnounce (x : AnnIn) (s : State) : Host.Outcome State Fault Refusal :=
  .next (
    let s1 := s.passTo s.announceAt
    match s1.announceDue with
    | some late => s1.announce late x
    | none => s)

/-! ### KEYSTONE_LATCH -/

/-- The latch step: the due actions, then the overlay stage takes the store, which ends the injections on the Chapels it maps
(R138, R359). DESIGN CHOICE (log entry 92): the step does its work at the latch point, so that a KSET which retires in the
10 µs after it shows from the next frame. -/
def State.latch (s : State) : State :=
  let s1 := (s.latchActs (s.bn + 1)).keyLoaded
  let s2 := ({ s1 with ovl := s1.key }).injEnd.keyFree.kmLatched.verdictLatched
  (s2.modBell (fun b => { b with latchDone := true })).traceMark 2 0xFF (s.bn + 1)

/-- KEYSTONE_LATCH: the latch step 250 µs before the Bell; once more, its end 240 µs before the Bell, which releases the
waiting rings (R66). -/
def execKeystoneLatch (s : State) : Host.Outcome State Fault Refusal :=
  .next (match s.bell.ann with
  | some a => if s.bell.latchDone then (s.passTo (a + us 1260)).releaseWaits else (s.passTo (a + us 1250)).latch
  | none => s)

/-! ### BELL_FIRE -/

/-- BELLNO rises, and the Chime groups count from t_B (R69, R71). -/
def State.bellCount (s : State) (b : Time) : State :=
  let p := match s.bell.lastAt with
    | some l => usOf (b - l)
    | none => 0
  s.modBell (fun q => { q with
    bellno := q.bellno + 1
    lastAt := some b
    fired := q.fired + 1
    lastUs := if q.lastAt.isSome then p else 0
    ann := none
    latchDone := false
    afterVigil := false
    anchor := Vector.replicate 4 (some b)
    k := Vector.replicate 4 0
    idx := Vector.replicate 4 0 })

/-- Every ring's budget is its provisioned one again (R131). -/
def State.refill (s : State) : State := { s with rings := mapTab (fun (q : RingSt) => { q with budget := q.budgetB }) s.rings }

/-- The watchdogs start at Bell 1 and at the first Bell after a Vigil exit (R691). -/
def State.wdogStart (s : State) : State :=
  { s with tens := mapTab (fun (q : Tenant) =>
      if q.cfg.bound && q.cfg.wdogMs != 0 && !q.faulted then { q with wdogFrom := some s.tB } else q) s.tens }

/-- The frames move on: the overlay content latched for the announced frame is shown. -/
def State.framesBell (s : State) : State :=
  let s1 := { s with past := s.shown, shown := s.ovl }
  let s2 := forEach (allFin 4) (fun c s => s.frameBell c) s1
  { s2 with nave := { s2.nave with repeats := [] } }

/-- A frame with mapped segments is shown on a Chapel from this Bell. -/
def State.tells (s : State) (c : Chap) : Bool := (s.chap c).frame.isSome && s.shown.maps.any (fun m => m.chap == c)

/-- The tell-tale instant of a start (R426), and the Array Chapels that show their first frame after a Vigil exit, with a
notice for each that misses the exit time (13, Edges). -/
def State.firstLight (s : State) : State :=
  let t := s.tB + us 26
  let s1 := if s.power.tellAt.isNone && ((allFin 2).any (fun c => s.tells (Fin.castLE (by decide) c))) then
      s.modPower (fun p => { p with tellAt := some t }) else s
  forEach s1.power.exitRan (fun c s =>
    if (s.chap c).frame.isNone then s
    else
      let s2 := s.modPower (fun p => { p with exitRan := p.exitRan.filter (fun x => x != c) })
      if s.power.wakeAt + ms 120 < t then
        s2.notice 0x0185 (0x30 + c.val) false none [w32 c.val, w32 ((t - s.power.wakeAt) / ms 1)]
      else s2) s1

/-- A sweep of node 0 ends with the Bell of its last step (R598). -/
def State.sweepBell (s : State) : State :=
  s.modChain (fun c => { c with run := c.run.map (fun r =>
    if r.endAt.isNone && !precedes s.bn32 (r.start + w32 (r.steps * r.stepBells)) then { r with endAt := some s.tB } else r) })

/-- Node 0's BELL mark left 2 µs before t_B. -/
def State.chainBell (s : State) : State :=
  let s1 := if s.chain.addr == some 0 && s.chain.d.up && !s.chain.following then
      s.modChain (fun c => { c with marks := c.marks ++ [(2, s.tB - us 2)] }) else s
  (s1.modChain (fun c => { c with fireAt := none })).chFloorSend

/-- A SYNC packet at every t_B while the trace port runs (R613). -/
def State.traceSync (s : State) : State :=
  s.trace 0x01 (leBytes 4 s.bn ++ leBytes 2 (s.bn / 2 ^ 32) ++ [0, 0] ++
    (allFin 4).map (fun t => BitVec.ofNat 8 (32 * (at' s.gal.tens t).tren)))

/-- A change between Run and Idle takes effect, but for an entry that has begun, which completes (R416). -/
def State.idleBell (s : State) : State :=
  let to' := s.power.target
  if (to' == .run || to' == .idle) && to' != s.power.state && s.power.entering.isNone then
    (s.lpWake.modPower (fun p => { p with state := to' })).powerPost s.power.state to' 0 0
  else s

/-- POWER_STATE of a Vigil exit, at the first Bell after it. -/
def State.exitBell (s : State) : State :=
  if !s.power.postExit then s
  else
    ((s.modPower (fun p => { p with postExit := false, upAt := s.tB })).powerPost .vigil .run (s.power.wakeSrc.elim 0 WakeSrc.code)
      ((s.tB - s.power.wakeAt) / ms 1)).wdogStart

/-- RING_FAULT of the rings left without a Lectern (R115). -/
def State.lecternPosts (s : State) : State :=
  forEach s.power.lecPost (fun r s =>
    match (s.ring r).owner with
    | none => s
    | some t =>
      let s1 := (s.gfix (32 + r.val) 1).post t 0x0010 r.val none [w32 r.val, w32 fLECTERN, 0, 0]
      if (s.ring r).fatal then s1.tenFault t 3 r.val else s1) (s.modPower (fun p => { p with lecPost := [] }))

/-- The records that a start appends at Bell 1: GAP, BACKUP_INTERVAL, START (R568). -/
def State.startRecords (s : State) : State :=
  let p := s.power
  let q := s.reliq
  let gap := fun (why n t : Nat) (s : State) =>
    s.relAppend (s.relRec 7 0xA0 0 false ([BitVec.ofNat 8 why, 0, 0, 0] ++ leBytes 4 n ++ leBytes 6 t))
  let s1 := match p.cause with
    | .powerReturn => if q.flushLeft = 0 then s else gap 1 q.flushLeft q.failTime s
    | .cold => gap 2 0xFFFFFFFF 0 s
    | .cryptExit => s
  let s2 := match q.vbakMs with
    | some m => s1.notice 0x0186 0xA0 false none [w32 q.failTime, w32 (q.failTime / 2 ^ 32), w32 m]
    | none => s1
  let s3 := s2.modRel (fun q => { q with flushLeft := 0, vbakMs := none })
  s3.relAppend (s3.relRec 6 s.aisleSrc 0 false ([BitVec.ofNat 8 p.cause.code,
    BitVec.ofNat 8 (p.startSrc.elim 0 WakeSrc.code), 0, 0] ++ wordBytes (s.sinceWake p.bell1At) ++
    wordBytes (s.sinceWake p.tellAt) ++ wordBytes s.fwVerReg ++ wordBytes s.lifecycle ++
    wordBytes (if s.prime.manifestOk then s.prime.gen else 0)))

/-- LIFECYCLE_SET at Bell 1 of the start after a transition (R512). -/
def State.lifeBell (s : State) : State :=
  match s.cloister.lifePost with
  | some old =>
    let x := ({ s with cloister := { s.cloister with lifePost := none } }).ownerWord
    x.2.postAll 0x00F0 0x90 none [w32 old, w32 s.cloister.life, x.1]
  | none => s

/-- Bell 1 of a start: the watchdogs, the events of the start and its records; DEV_FAIL_N of a trip is released. -/
def State.startBell (s : State) : State :=
  if !s.power.postStart then s
  else
    let s1 := (s.modPower (fun p => { p with postStart := false, bell1At := some s.tB, upAt := s.tB, devFailN := true })).wdogStart
    let gen : Word := if s1.prime.manifestOk then s1.prime.gen else 0
    let s2 := s1.postAll 0x00D1 s1.aisleSrc none [w32 s1.power.cause.code, w32 (s1.power.startSrc.elim 0 WakeSrc.code),
      s1.sinceWake s1.power.bell1At, gen]
    let s3 := forEach s1.prime.postBad (fun x s => s.primeState x.1 x.2 0 0) s2
    let s4 : State := { s3 with prime := { s3.prime with postBad := [] } }
    let s5 := s4.lifeBell
    let s6 := match s5.update.postAt1 with
      | some (c, a, b, d, e) => (s5.modUpd (fun u => { u with postAt1 := none })).updPost c [a, b, d, e]
      | none => s5
    s6.lecternPosts.startRecords

/-- BELL_PERIOD (R551), from Bell 2. -/
def State.periodSample (s : State) (had : Bool) : State :=
  if had then s.sample 0x01 s.bell.lastUs (clampI (((s.bell.lastUs : Int) - 8192) / 512) 0 31).toNat else s

/-- The accumulators' close falls due when BELLNO[19:0] becomes 0 (R553). -/
def State.closeBell (s : State) : State :=
  if s.bn % 2 ^ 20 = 0 then s.modRel (fun q => { q with closeDue := true }) else s

/-- The Bell at `b`. -/
def State.bellFire (s : State) (b : Time) : State :=
  let had := s.bell.lastAt.isSome
  let first := s.power.postExit || s.power.postStart
  let period := b - s.bell.lastAt.getD b
  let s1 := (s.blankEnds.choirServe.bellCount b).refill.floorBell
  let s2 := { s1 with gal := { s1.gal with off := s1.gal.off && !first } }
  let s3 := (s2.gfix 15 1).galBell.traceSync
  let s4 := (s3.bellReload.dutyApplied).witBell period
  let s5 := (s4.loopBell.vidBell).thBell
  let s6 := s5.framesBell.flatBell.runAheadBell.firstLight
  let s7 := (s6.chainBell.sweepBell).idleBell
  let s8 := s7.exitBell.startBell
  ((s8.pauseBell.periodSample had).closeBell).releaseWaits

/-- BELL_FIRE, with the errors that the memories' cells have taken since the last Bell. -/
def execBellFire (x : CellIn) (s : State) : Host.Outcome State Fault Refusal :=
  .next (match s.fireDue with
  | some b => ((s.passTo b).cellsTurn x).bellFire b
  | none => s)

/-! ### The general-purpose balls (R668) and time -/

/-- GPIO0 is high: from each t_B to t_B + 10 µs; low in reset and outside Run and Idle. -/
def State.gpio0High (s : State) : Bool :=
  s.live && s.bell.lastAt.any (fun b => b ≤ s.now && s.now < b + us 10)

/-- GPIO1 is high: from each announcement to its t_B. -/
def State.gpio1High (s : State) : Bool := s.live && s.bell.ann.isSome

/-- GPIO2 and GPIO3 are low. -/
def State.gpio23High (_ : State) : Bool := false

/-- One step of the clock with no command waiting: the Choir serves its queue up to the new instant, a frame's last pulse or
line ends, and what the supplies were told to do completes (log entry 1). -/
def State.tick (s : State) : State :=
  let s1 := ({ s with now := s.now + 1 }.choirServe).powerTick.blankEnds
  if s1.bell.latchDone && s1.bell.ann == some (s1.now - us 1260) then s1.releaseWaits else s1

end Sys2Proof.Machine
end

