-- ==== Sys2Proof/Machine/Dispatch.lean ====
section
/-!
DEFINITION. The meaning of each command: one arm per constructor of Instr.
-/

namespace Sys2Proof.Machine

/-- The effect of a command on everything but the queue. -/
def exec (i : Instr) (s : State) : Host.Outcome State Fault Refusal :=
  match i with
  | .registerWrite p addr be v => Sys2Proof.Machine.execRegisterWrite p addr be v s
  | .bellnoLoRead p => Sys2Proof.Machine.execBellnoLoRead p s
  | .bellnoHiRead p => Sys2Proof.Machine.execBellnoHiRead p s
  | .bellAnnounce x => Sys2Proof.Machine.execBellAnnounce x s
  | .keystoneLatch => Sys2Proof.Machine.execKeystoneLatch s
  | .bellFire x => Sys2Proof.Machine.execBellFire x s
  | .chimeTick g x => Sys2Proof.Machine.execChimeTick g x s
  | .waitb r => Sys2Proof.Machine.execWaitb r s
  | .atq r => Sys2Proof.Machine.execAt r s
  | .fence r => Sys2Proof.Machine.execFence r s
  | .commit r => Sys2Proof.Machine.execCommit r s
  | .bpart r => Sys2Proof.Machine.execBpart r s
  | .bwin r => Sys2Proof.Machine.execBwin r s
  | .chime r => Sys2Proof.Machine.execChime r s
  | .aisleWatchdogExpiry ecc => Sys2Proof.Machine.execAisleWatchdogExpiry ecc s
  | .aisleTakeover => Sys2Proof.Machine.execAisleTakeover s
  | .doorbellProduce t r idx => Sys2Proof.Machine.execDoorbellProduce t r idx s
  | .doorbellRestart t r idx => Sys2Proof.Machine.execDoorbellRestart t r idx s
  | .doorbellRebind t r idx => Sys2Proof.Machine.execDoorbellRebind t r idx s
  | .ringRestarted => Sys2Proof.Machine.execRingRestarted s
  | .rebindDone => Sys2Proof.Machine.execRebindDone s
  | .tenantResetReq t v => Sys2Proof.Machine.execTenantResetReq t v s
  | .tenantResetEffect => Sys2Proof.Machine.execTenantResetEffect s
  | .tenKick t v => Sys2Proof.Machine.execTenKick t v s
  | .tenantWatchdogExpiry => Sys2Proof.Machine.execTenantWatchdogExpiry s
  | .hostLinkLost => Sys2Proof.Machine.execHostLinkLost s
  | .evqRdWrite t v => Sys2Proof.Machine.execEvqRdWrite t v s
  | .evqOverflow t => Sys2Proof.Machine.execEvqOverflow t s
  | .packetStart r => Sys2Proof.Machine.execPacketStart r s
  | .lecternFault r => Sys2Proof.Machine.execLecternFault r s
  | .nop r => Sys2Proof.Machine.execNop r s
  | .br r => Sys2Proof.Machine.execBr r s
  | .djnz r => Sys2Proof.Machine.execDjnz r s
  | .sig r => Sys2Proof.Machine.execSig r s
  | .add r => Sys2Proof.Machine.execAdd r s
  | .sub r => Sys2Proof.Machine.execSub r s
  | .mul r => Sys2Proof.Machine.execMul r s
  | .andd r => Sys2Proof.Machine.execAnd r s
  | .orr r => Sys2Proof.Machine.execOr r s
  | .xorr r => Sys2Proof.Machine.execXor r s
  | .shl r => Sys2Proof.Machine.execShl r s
  | .shr r => Sys2Proof.Machine.execShr r s
  | .sar r => Sys2Proof.Machine.execSar r s
  | .minu r => Sys2Proof.Machine.execMinu r s
  | .maxu r => Sys2Proof.Machine.execMaxu r s
  | .mins r => Sys2Proof.Machine.execMins r s
  | .maxs r => Sys2Proof.Machine.execMaxs r s
  | .addi r => Sys2Proof.Machine.execAddi r s
  | .muli r => Sys2Proof.Machine.execMuli r s
  | .andi r => Sys2Proof.Machine.execAndi r s
  | .ori r => Sys2Proof.Machine.execOri r s
  | .xori r => Sys2Proof.Machine.execXori r s
  | .shli r => Sys2Proof.Machine.execShli r s
  | .shri r => Sys2Proof.Machine.execShri r s
  | .sari r => Sys2Proof.Machine.execSari r s
  | .movi r => Sys2Proof.Machine.execMovi r s
  | .movhi r => Sys2Proof.Machine.execMovhi r s
  | .movw r => Sys2Proof.Machine.execMovw r s
  | .cmp r => Sys2Proof.Machine.execCmp r s
  | .cmpi r => Sys2Proof.Machine.execCmpi r s
  | .rds r => Sys2Proof.Machine.execRds r s
  | .sdef r => Sys2Proof.Machine.execSdef r s
  | .sref r => Sys2Proof.Machine.execSref r s
  | .sgen r => Sys2Proof.Machine.execSgen r s
  | .sfree r => Sys2Proof.Machine.execSfree r s
  | .sput r => Sys2Proof.Machine.execSput r s
  | .lnew r => Sys2Proof.Machine.execLnew r s
  | .ldel r => Sys2Proof.Machine.execLdel r s
  | .lsrc r => Sys2Proof.Machine.execLsrc r s
  | .ldst r => Sys2Proof.Machine.execLdst r s
  | .ldstr r => Sys2Proof.Machine.execLdstr r s
  | .lvis r => Sys2Proof.Machine.execLvis r s
  | .lfall r => Sys2Proof.Machine.execLfall r s
  | .lflat r => Sys2Proof.Machine.execLflat r s
  | .lvid r => Sys2Proof.Machine.execLvid r s
  | .bgcol r => Sys2Proof.Machine.execBgcol r s
  | .chkr r => Sys2Proof.Machine.execChkr r s
  | .chkv r => Sys2Proof.Machine.execChkv r s
  | .lblend r => Sys2Proof.Machine.execLblend r s
  | .lscale r => Sys2Proof.Machine.execLscale r s
  | .dith r => Sys2Proof.Machine.execDith r s
  | .lpri r => Sys2Proof.Machine.execLpri r s
  | .drvtgt r => Sys2Proof.Machine.execDrvtgt r s
  | .drvduty r => Sys2Proof.Machine.execDrvduty r s
  | .drvdim r => Sys2Proof.Machine.execDrvdim r s
  | .drvderate r => Sys2Proof.Machine.execDrvderate r s
  | .drvrail r => Sys2Proof.Machine.execDrvrail r s
  | .clset r => Sys2Proof.Machine.execClset r s
  | .clcoef r => Sys2Proof.Machine.execClcoef r s
  | .clmode r => Sys2Proof.Machine.execClmode r s
  | .cllim r => Sys2Proof.Machine.execCllim r s
  | .clrep r => Sys2Proof.Machine.execClrep r s
  | .clsave r => Sys2Proof.Machine.execClsave r s
  | .tinj r => Sys2Proof.Machine.execTinj r s
  | .tcap r => Sys2Proof.Machine.execTcap r s
  | .trel r => Sys2Proof.Machine.execTrel r s
  | .captureDone => Sys2Proof.Machine.execCaptureDone s
  | .kset r => Sys2Proof.Machine.execKset r s
  | .ksetm r => Sys2Proof.Machine.execKsetm r s
  | .kmap r => Sys2Proof.Machine.execKmap r s
  | .kload r => Sys2Proof.Machine.execKload r s
  | .kloadCopyComplete c q => Sys2Proof.Machine.execKloadCopyComplete c q s
  | .kwit r => Sys2Proof.Machine.execKwit r s
  | .kprime r => Sys2Proof.Machine.execKprime r s
  | .primeStored ok => Sys2Proof.Machine.execPrimeStored ok s
  | .rtag r => Sys2Proof.Machine.execRtag r s
  | .rval r => Sys2Proof.Machine.execRval r s
  | .rclk r => Sys2Proof.Machine.execRclk r s
  | .ptol r => Sys2Proof.Machine.execPtol r s
  | .hsend r => Sys2Proof.Machine.execHsend r s
  | .hrecv r => Sys2Proof.Machine.execHrecv r s
  | .hsweep r => Sys2Proof.Machine.execHsweep r s
  | .uact r => Sys2Proof.Machine.execUact r s
  | .uconf r => Sys2Proof.Machine.execUconf r s
  | .udisc r => Sys2Proof.Machine.execUdisc r s
  | .uallow r => Sys2Proof.Machine.execUallow r s
  | .mr4Read v => Sys2Proof.Machine.execMr4Read v s
  | .dqsDriftRead n => Sys2Proof.Machine.execDqsDriftRead n s
  | .selfRefreshEntry => Sys2Proof.Machine.execSelfRefreshEntry s
  | .selfRefreshExit x => Sys2Proof.Machine.execSelfRefreshExit x s
  | .scrubRead => Sys2Proof.Machine.execScrubRead s
  | .flattenEntryFree => Sys2Proof.Machine.execFlattenEntryFree s
  | .bayEccError b c x => Sys2Proof.Machine.execBayEccError b c x s
  | .bayRetire => Sys2Proof.Machine.execBayRetire s
  | .csiFrameEnd f => Sys2Proof.Machine.execCsiFrameEnd f s
  | .bandReadPoint c band x => Sys2Proof.Machine.execBandReadPoint c band x s
  | .fetchLate c n => Sys2Proof.Machine.execFetchLate c n s
  | .arraySlotStart x => Sys2Proof.Machine.execArraySlotStart x s
  | .scanLineStart c left => Sys2Proof.Machine.execScanLineStart c left s
  | .frameDone c x => Sys2Proof.Machine.execFrameDone c x s
  | .chStart t => Sys2Proof.Machine.execChStart t s
  | .chStop t => Sys2Proof.Machine.execChStop t s
  | .chReconf t => Sys2Proof.Machine.execChReconf t s
  | .chQuery t => Sys2Proof.Machine.execChQuery t s
  | .chapelStartSequence c x => Sys2Proof.Machine.execChapelStartSequence c x s
  | .chapelStartComplete c => Sys2Proof.Machine.execChapelStartComplete c s
  | .startTimeout => Sys2Proof.Machine.execStartTimeout s
  | .orderlyStop c => Sys2Proof.Machine.execOrderlyStop c s
  | .chapelParked c => Sys2Proof.Machine.execChapelParked c s
  | .interlockTrip c x => Sys2Proof.Machine.execInterlockTrip c x s
  | .engineReadyLoss c => Sys2Proof.Machine.execEngineReadyLoss c s
  | .fastAxisFreqFault c => Sys2Proof.Machine.execFastAxisFreqFault c s
  | .mirrorOverrunStop => Sys2Proof.Machine.execMirrorOverrunStop s
  | .loopHeld => Sys2Proof.Machine.execLoopHeld s
  | .dimPeriodReload o => Sys2Proof.Machine.execDimPeriodReload o s
  | .railStep r h => Sys2Proof.Machine.execRailStep r h s
  | .railFault r volt => Sys2Proof.Machine.execRailFault r volt s
  | .lampSensorRead x => Sys2Proof.Machine.execLampSensorRead x s
  | .matrixRowSlot x => Sys2Proof.Machine.execMatrixRowSlot x s
  | .drvQuery t => Sys2Proof.Machine.execDrvQuery t s
  | .kmQuery t => Sys2Proof.Machine.execKmQuery t s
  | .railRestart t => Sys2Proof.Machine.execRailRestart t s
  | .calBankWrite => Sys2Proof.Machine.execCalBankWrite s
  | .calBankWriteDone ok => Sys2Proof.Machine.execCalBankWriteDone ok s
  | .clQuery t => Sys2Proof.Machine.execClQuery t s
  | .capRead t => Sys2Proof.Machine.execCapRead t s
  | .calQuery t => Sys2Proof.Machine.execCalQuery t s
  | .kwReserved k => Sys2Proof.Machine.execKwReserved k s
  | .kwQuery t => Sys2Proof.Machine.execKwQuery t s
  | .kwCal t => Sys2Proof.Machine.execKwCal t s
  | .kwCalDone => Sys2Proof.Machine.execKwCalDone s
  | .vigilEntry => Sys2Proof.Machine.execVigilEntry s
  | .cryptEntry => Sys2Proof.Machine.execCryptEntry s
  | .wakeDetect w => Sys2Proof.Machine.execWakeDetect w s
  | .vigilExit => Sys2Proof.Machine.execVigilExit s
  | .startUp x => Sys2Proof.Machine.execStart x s
  | .powerFail => Sys2Proof.Machine.execPowerFail s
  | .reliquaryFlush => Sys2Proof.Machine.execReliquaryFlush s
  | .powerReturn => Sys2Proof.Machine.execPowerReturn s
  | .vbakLost => Sys2Proof.Machine.execVbakLost s
  | .pwrQuery t => Sys2Proof.Machine.execPwrQuery t s
  | .primeWrite t => Sys2Proof.Machine.execPrimeWrite t s
  | .primeSet t => Sys2Proof.Machine.execPrimeSet t s
  | .primeRead t => Sys2Proof.Machine.execPrimeRead t s
  | .thermalSample x => Sys2Proof.Machine.execThermalSample x s
  | .comparatorTrip m => Sys2Proof.Machine.execComparatorTrip m s
  | .tripHoldEnd cool => Sys2Proof.Machine.execTripHoldEnd cool s
  | .memoryHoldCheck v => Sys2Proof.Machine.execMemoryHoldCheck v s
  | .thQuery t => Sys2Proof.Machine.execThQuery t s
  | .cloQuery t => Sys2Proof.Machine.execCloQuery t s
  | .provision t => Sys2Proof.Machine.execProvision t s
  | .lock t => Sys2Proof.Machine.execLock t s
  | .cloChallenge t => Sys2Proof.Machine.execCloChallenge t s
  | .cloResponse t => Sys2Proof.Machine.execCloResponse t s
  | .cloAttest t => Sys2Proof.Machine.execCloAttest t s
  | .return t => Sys2Proof.Machine.execReturn t s
  | .ownerRotate t => Sys2Proof.Machine.execOwnerRotate t s
  | .rngRead t => Sys2Proof.Machine.execRngRead t s
  | .trngHealthFail prop => Sys2Proof.Machine.execTrngHealthFail prop s
  | .drbgReseed => Sys2Proof.Machine.execDrbgReseed s
  | .sessionEnd => Sys2Proof.Machine.execSessionEnd s
  | .challengeLockoutEnd => Sys2Proof.Machine.execChallengeLockoutEnd s
  | .glitchDetect supply => Sys2Proof.Machine.execGlitchDetect supply s
  | .updQuery t => Sys2Proof.Machine.execUpdQuery t s
  | .updBegin t => Sys2Proof.Machine.execUpdBegin t s
  | .updChunk t => Sys2Proof.Machine.execUpdChunk t s
  | .updCheck t => Sys2Proof.Machine.execUpdCheck t s
  | .updCheckDone => Sys2Proof.Machine.execUpdCheckDone s
  | .updArm t => Sys2Proof.Machine.execUpdArm t s
  | .updLoad t => Sys2Proof.Machine.execUpdLoad t s
  | .loadBreak => Sys2Proof.Machine.execLoadBreak s
  | .handoverBell => Sys2Proof.Machine.execHandoverBell s
  | .handoverAbandon => Sys2Proof.Machine.execHandoverAbandon s
  | .updatePauseBegin => Sys2Proof.Machine.execUpdatePauseBegin s
  | .updatePauseEnd => Sys2Proof.Machine.execUpdatePauseEnd s
  | .swapUnit => Sys2Proof.Machine.execSwapUnit s
  | .udsSessionControl m => Sys2Proof.Machine.execUdsSessionControl m s
  | .udsSessionTimeout => Sys2Proof.Machine.execUdsSessionTimeout s
  | .udsReadData m => Sys2Proof.Machine.execUdsReadData m s
  | .udsRequestSeed m => Sys2Proof.Machine.execUdsRequestSeed m s
  | .udsSendKey m => Sys2Proof.Machine.execUdsSendKey m s
  | .udsRoutineBegin m => Sys2Proof.Machine.execUdsRoutineBegin m s
  | .udsRoutineCheck m => Sys2Proof.Machine.execUdsRoutineCheck m s
  | .udsRoutineArm m => Sys2Proof.Machine.execUdsRoutineArm m s
  | .udsRoutineActivate m => Sys2Proof.Machine.execUdsRoutineActivate m s
  | .udsRoutineConfirm m => Sys2Proof.Machine.execUdsRoutineConfirm m s
  | .udsRoutineDiscard m => Sys2Proof.Machine.execUdsRoutineDiscard m s
  | .udsRoutineResults m => Sys2Proof.Machine.execUdsRoutineResults m s
  | .udsRequestDownload m => Sys2Proof.Machine.execUdsRequestDownload m s
  | .udsTransferData m => Sys2Proof.Machine.execUdsTransferData m s
  | .udsTransferExit m => Sys2Proof.Machine.execUdsTransferExit m s
  | .udsTesterPresent m => Sys2Proof.Machine.execUdsTesterPresent m s
  | .udsUnsupportedService m => Sys2Proof.Machine.execUdsUnsupportedService m s
  | .udsVigilFrame f => Sys2Proof.Machine.execUdsVigilFrame f s
  | .accumulatorClose => Sys2Proof.Machine.execAccumulatorClose s
  | .bufferLost => Sys2Proof.Machine.execBufferLost s
  | .relStatus t => Sys2Proof.Machine.execRelStatus t s
  | .relRead t => Sys2Proof.Machine.execRelRead t s
  | .relFreeze t => Sys2Proof.Machine.execRelFreeze t s
  | .relThaw t => Sys2Proof.Machine.execRelThaw t s
  | .freezeExpiry => Sys2Proof.Machine.execFreezeExpiry s
  | .relErase t => Sys2Proof.Machine.execRelErase t s
  | .relMetric t => Sys2Proof.Machine.execRelMetric t s
  | .linkUp d delay => Sys2Proof.Machine.execLinkUp d delay s
  | .linkDown d => Sys2Proof.Machine.execLinkDown d s
  | .enum v => Sys2Proof.Machine.execEnum v s
  | .enumTail d f => Sys2Proof.Machine.execEnumTail d f s
  | .announceMark => Sys2Proof.Machine.execAnnounceMark s
  | .bellMark => Sys2Proof.Machine.execBellMark s
  | .announceFrame d f => Sys2Proof.Machine.execAnnounceFrame d f s
  | .floorFrame d f => Sys2Proof.Machine.execFloorFrame d f s
  | .breakFrame d f => Sys2Proof.Machine.execBreakFrame d f s
  | .chainBellLoss => Sys2Proof.Machine.execChainBellLoss s
  | .msg d f => Sys2Proof.Machine.execMsg d f s
  | .ack d f => Sys2Proof.Machine.execAck d f s
  | .unreach d f => Sys2Proof.Machine.execUnreach d f s
  | .msgTimeout => Sys2Proof.Machine.execMsgTimeout s
  | .sweepStart d f => Sys2Proof.Machine.execSweepStart d f s
  | .sweepStepLatch => Sys2Proof.Machine.execSweepStepLatch s
  | .sweepDone d f => Sys2Proof.Machine.execSweepDone d f s
  | .sweepEndTimeout => Sys2Proof.Machine.execSweepEndTimeout s
  | .fetch d f => Sys2Proof.Machine.execFetch d f s
  | .data d f => Sys2Proof.Machine.execData d f s
  | .echo d rt => Sys2Proof.Machine.execEcho d rt s
  | .halQuery t => Sys2Proof.Machine.execHalQuery t s
  | .sweepFetch t => Sys2Proof.Machine.execSweepFetch t s
  | .sweepRelease t => Sys2Proof.Machine.execSweepRelease t s
  | .counterLowRead p v => Sys2Proof.Machine.execCounterLowRead p v s
  | .counterHighRead p v => Sys2Proof.Machine.execCounterHighRead p v s
  | .galQuery t => Sys2Proof.Machine.execGalQuery t s
  | .galAssign t => Sys2Proof.Machine.execGalAssign t s
  | .galTrace t => Sys2Proof.Machine.execGalTrace t s
  | .wr p q => Sys2Proof.Machine.execWr p q s
  | .rd p q => Sys2Proof.Machine.execRd p q s
  | .ring p q => Sys2Proof.Machine.execRing p q s
  | .mwr p q => Sys2Proof.Machine.execMwr p q s
  | .mrd p q => Sys2Proof.Machine.execMrd p q s
  | .evq p q => Sys2Proof.Machine.execEvq p q s
  | .framedNop p q => Sys2Proof.Machine.execFramedNop p q s
  | .load p q => Sys2Proof.Machine.execLoad p q s
  | .mbCmd t v => Sys2Proof.Machine.execMbCmd t v s
  | .mbData t w => Sys2Proof.Machine.execMbData t w s
  | .mbDone t v => Sys2Proof.Machine.execMbDone t v s
  | .hpQuery t => Sys2Proof.Machine.execHpQuery t s
  | .pcieFlr n => Sys2Proof.Machine.execPcieFlr n s
  | .pciePerst low => Sys2Proof.Machine.execPciePerst low s
  | .canBusOff n => Sys2Proof.Machine.execCanBusOff n s
  | .canBusoffRecovery n => Sys2Proof.Machine.execCanBusoffRecovery n s
  | .vaonLow => Sys2Proof.Machine.execVaonLow s
  | .aonPorEnd clk test => Sys2Proof.Machine.execAonPorEnd clk test s
  | .pwrGoodTimeout => Sys2Proof.Machine.execPwrGoodTimeout s
  | .refclkFault => Sys2Proof.Machine.execRefclkFault s
  | .lpddr4xTrainingDone ok => Sys2Proof.Machine.execLpddr4xTrainingDone ok s
  | .standbyAisleReady => Sys2Proof.Machine.execStandbyAisleReady s
  | .primeSetDone ok => Sys2Proof.Machine.execPrimeSetDone ok s
  | .witnessAdcSlot v => Sys2Proof.Machine.execWitnessAdcSlot v s
  | .vaonReturn => Sys2Proof.Machine.execVaonReturn s
  | .vbakMvSample mv => Sys2Proof.Machine.execVbakMvSample mv s
  | .pcieLinkDown hot => Sys2Proof.Machine.execPcieLinkDown hot s
  | .pcieLinkUp speed width => Sys2Proof.Machine.execPcieLinkUp speed width s
  | .pcieBar2Write n off bs => Sys2Proof.Machine.execPcieBar2Write n off bs s
  | .pcieBar2Read n off len => Sys2Proof.Machine.execPcieBar2Read n off len s
  | .vigilEntryComplete => Sys2Proof.Machine.execVigilEntryComplete s

end Sys2Proof.Machine
end

