-- ==== Sys2Proof/Machine/Step.lean ====
section
/-!
DEFINITION. One step of the block: the command at the front of the queue, or time (log entries 1 and 2).
-/

namespace Sys2Proof.Machine

/-- The state without the front of its queue. -/
def State.rest (s : State) : State := { s with pending := s.pending.tail }

/-- The command at the front of the queue runs on the state with the queue's rest. On an empty queue one step of
the clock passes. -/
def step (s : State) : Host.Outcome State Fault Refusal :=
  match s.pending with
  | [] => .next s.tick
  | c :: _ => exec c s.rest

/-- The state with the command that a table word spells put at the front of its queue. -/
def State.withFetchWord (s : State) (nbits w : Nat) : State :=
  match decodeTableWord nbits w with
  | none => s
  | some c => { s with pending := c :: s.pending }

end Sys2Proof.Machine
end

