-- ==== Sys2Proof/Safety.lean ====
section
/-!
DEFINITION. What a safe run is, in the terms the statements use: every step answers a next state; the memories stay in
their canonical form; time does not go back; no fuse of the OTP returns to 0.
-/

namespace Sys2Proof.Machine

/-- The step at this state answers a next state. -/
def Safe (s : State) : Prop := ∃ t, step s = .next t

/-- Every byte memory of the state is in canonical form: LPDDR4X, the Undercroft, the Moangex store, the OTP, and the
Undercroft bytes that a Vigil keeps. -/
abbrev State.memOk (s : State) : Prop :=
  Memory.wf s.lp = true ∧ Memory.wf s.under = true ∧ Memory.wf s.moa = true ∧ Memory.wf s.cloister.otp = true ∧
    ∀ v ∈ s.power.save, Memory.wf v.under = true

/-- Every fuse of the OTP that is 1 in `s` is 1 in `t`. -/
def State.fusesKept (s t : State) : Prop :=
  ∀ a, Memory.read s.cloister.otp a &&& Memory.read t.cloister.otp a = Memory.read s.cloister.otp a

end Sys2Proof.Machine
end

