-- ==== Sys2Proof/WellFormed.lean ====
section
/-!
DEFINITION. Which commands are well formed: an operand that the outside supplies lies in the range of the
converter, register or frame that carries it. `exec` is total on every command, well formed or not.
-/

namespace Sys2Proof

open Machine

/-- Each operand lies in the range its carrier has. -/
def Instr.wf : Instr → Bool
  | .doorbellProduce _ _ idx | .doorbellRestart _ _ idx | .doorbellRebind _ _ idx => idx < 2 ^ 20
  | .thermalSample xs => xs.all (fun x => x.2 ≤ 2 ^ 16)
  | .chimeTick _ x => x.fb.all (fun e => e.2 < 2 ^ 14)
  | .vbakMvSample mv => mv < 2 ^ 16
  | .mr4Read v | .memoryHoldCheck v => v < 8
  | .csiFrameEnd f => f.w ≤ 4096 && f.h ≤ 4096
  | .udsTransferData m => m.length ≤ 0x1012
  | _ => true

end Sys2Proof
end

