-- ==== Sys2Proof/Certificates/Slice0/Obligations.lean ====
section
/-!
DEFINITION. The statements for the provers, by family of commands. The small definitions beside them say in the manual's
terms what the statements share.
-/

open Sys2Proof Sys2Proof.Machine

/-! ### The whole machine -/

/-- A step with a command in front runs that command on the state with the queue's rest (log entry 1). -/
def Obligations.StepRunsFrontCommand : Prop :=
  ∀ (c : Instr) (rest : List Instr) (s : State),
    step { s with pending := c :: rest } = exec c { s with pending := rest }

/-- With an empty queue one step of the clock of 2.5 ns passes, and the queue stays empty (the model's choice, log entry
1). -/
def Obligations.IdleStepPassesOneClock : Prop :=
  ∀ s : State, s.pending = [] → ∃ t, step s = .next t ∧ t.pending = [] ∧ s.now + 1 ≤ t.now

/-- No command is refused and none faults: every step answers a next state. -/
def Obligations.EveryStepAnswersNext : Prop := ∀ s : State, Safe s

/-- No command adds to the queue or takes from it. -/
def Obligations.CommandsLeaveTheQueue : Prop :=
  ∀ (c : Instr) (s t : State), exec c s = .next t → t.pending = s.pending

/-- Every step keeps the canonical form of every byte memory: LPDDR4X, the Undercroft, the Moangex store, the OTP and the
bytes a Vigil keeps. -/
def Obligations.StepsKeepMemoryForm : Prop := ∀ s t : State, s.memOk → step s = .next t → t.memOk

/-- The memories of the reset state are in canonical form. -/
def Obligations.ResetMemoryForm : Prop := State.reset.memOk

/-- No step clears a fuse of the OTP, so that neither the rollback floor nor the lifecycle state falls. -/
def Obligations.FusesNeverClear : Prop :=
  ∀ s t : State, s.memOk → step s = .next t → s.fusesKept t ∧ s.rbFloor ≤ t.rbFloor ∧ s.lifeOf ≤ t.lifeOf

/-- Time does not go back. -/
def Obligations.TimeNeverGoesBack : Prop := ∀ s t : State, step s = .next t → s.now ≤ t.now

/-! ### Quagal: what every instruction shares -/

namespace Sys2Proof.Machine

/-- The instruction with context `c` stands at the PC of ring `r`, and its opcode is `op`: the ring runs, no wait holds
it, and the words of the instruction are fetched. -/
def Stands (s : State) (r : RingId) (op : Nat) (c : OpCtx) : Prop := (∃ ws, s.atPc r = .op c ws) ∧ opOf c.w = op

/-- The instruction at the PC of ring `r` may retire: no fault cause stands against it, it does not wait for words, and
its cost lies within the budget left (R126, R130, R132, R141). -/
def Retires (s : State) (r : RingId) (op : Nat) (o : OpSem) (c : OpCtx) : Prop :=
  Stands s r op c ∧ o.allCauses c s = [] ∧ o.stall c s = false ∧ o.cost c ≤ (s.ring r).budget

/-- The ring after an instruction of `words` words and a cost that writes nothing else of it: the cost is taken from the
budget, the words fetched stay in the burst buffer, and PC moves past the words, or the packet completes when PC reaches
LEN (R123, R131). -/
def RingSt.past (q : RingSt) (buf : Packet → List (Option Word)) (words cost : Nat) : RingSt :=
  match q.pkt with
  | none => { q with budget := q.budget - cost, pc := q.pc + words }
  | some p =>
    if q.pc + words = p.len then
      { q with budget := q.budget - cost, pc := 0, pkt := none, cseq := p.seq, rd := (q.rd + 2 + p.len) % q.words }
    else { q with budget := q.budget - cost, pc := q.pc + words, pkt := some { p with buf := buf p } }

/-- The Gallery `g` with what `h` has counted and traced. -/
abbrev Counted (g h : GallerySt) : GallerySt := { h with tens := g.tens, off := g.off }

/-- `t` is `s` with ring `r` changed to `q`, and nothing else but what the Gallery counts and traces. -/
abbrev OnlyRing (s t : State) (r : RingId) (q : RingSt) : Prop :=
  t = { s with rings := upd s.rings r (fun _ => q), gal := Counted s.gal t.gal }

/-- The instructions of the rings: the command, its opcode and its meaning's parts. -/
def ringOps : List ((RingId → Instr) × Nat × OpSem) := [
  (.nop, 0x00, semNop), (.br, 0x01, semBr), (.djnz, 0x02, semDjnz), (.sig, 0x03, semSig),
  (.add, 0x10, semAdd), (.sub, 0x11, semSub), (.mul, 0x12, semMul), (.andd, 0x13, semAnd), (.orr, 0x14, semOr),
  (.xorr, 0x15, semXor), (.shl, 0x16, semShl), (.shr, 0x17, semShr), (.sar, 0x18, semSar), (.minu, 0x19, semMinu),
  (.maxu, 0x1A, semMaxu), (.mins, 0x1B, semMins), (.maxs, 0x1C, semMaxs), (.addi, 0x20, semAddi),
  (.muli, 0x21, semMuli), (.andi, 0x22, semAndi), (.ori, 0x23, semOri), (.xori, 0x24, semXori),
  (.shli, 0x25, semShli), (.shri, 0x26, semShri), (.sari, 0x27, semSari), (.movi, 0x28, semMovi),
  (.movhi, 0x29, semMovhi), (.movw, 0x2A, semMovw), (.cmp, 0x2C, semCmp), (.cmpi, 0x2D, semCmpi),
  (.rds, 0x2E, semRds)] ++ [
  (.atq, 0x31, semAt), (.commit, 0x33, semCommit), (.bpart, 0x34, semBpart), (.bwin, 0x35, semBwin),
  (.chime, 0x36, semChime), (.sdef, 0x40, semSdef), (.sref, 0x41, semSref), (.sgen, 0x42, semSgen),
  (.sfree, 0x43, semSfree), (.sput, 0x44, semSput), (.lnew, 0x48, semLnew), (.ldel, 0x49, semLdel),
  (.lsrc, 0x4A, semLsrc), (.ldst, 0x4B, semLdst), (.ldstr, 0x4C, semLdstr), (.lvis, 0x4D, semLvis),
  (.lfall, 0x4E, semLfall), (.lflat, 0x4F, semLflat), (.lvid, 0x50, semLvid), (.bgcol, 0x51, semBgcol),
  (.chkr, 0x52, semChkr), (.chkv, 0x53, semChkv), (.lblend, 0x60, semLblend), (.lscale, 0x61, semLscale),
  (.dith, 0x62, semDith), (.lpri, 0x63, semLpri), (.drvtgt, 0x70, semDrvtgt), (.drvduty, 0x71, semDrvduty),
  (.drvdim, 0x72, semDrvdim), (.drvderate, 0x73, semDrvderate), (.drvrail, 0x74, semDrvrail),
  (.clset, 0x80, semClset), (.clcoef, 0x81, semClcoef), (.clmode, 0x82, semClmode), (.cllim, 0x83, semCllim),
  (.clrep, 0x84, semClrep), (.clsave, 0x85, semClsave), (.tinj, 0x90, semTinj), (.tcap, 0x91, semTcap),
  (.trel, 0x92, semTrel), (.kset, 0xA0, semKset), (.ksetm, 0xA1, semKsetm), (.kmap, 0xA2, semKmap),
  (.kload, 0xA3, semKload), (.kwit, 0xA4, semKwit), (.kprime, 0xA5, semKprime), (.rtag, 0xB0, semRtag),
  (.rval, 0xB1, semRval), (.rclk, 0xB2, semRclk), (.ptol, 0xB8, semPtol), (.hsend, 0xC0, semHsend),
  (.hrecv, 0xC1, semHrecv), (.hsweep, 0xC2, semHsweep), (.uact, 0xC8, semUact), (.uconf, 0xC9, semUconf),
  (.udisc, 0xCA, semUdisc), (.uallow, 0xCB, semUallow)]

end Sys2Proof.Machine

/-- An instruction with a cause against it, other than its own wait for words, faults its ring with the lowest cause, and
does nothing else; one whose cost exceeds the budget left faults it with cause BUDGET (R126, R130, R140 to R142). -/
def Obligations.LowestCauseFaultsTheRing : Prop :=
  ∀ e ∈ ringOps, ∀ (s : State) (r : RingId) (c : OpCtx), Stands s r e.2.1 c →
    (∀ f, f ∈ e.2.2.allCauses c s → (∀ g ∈ e.2.2.allCauses c s, f ≤ g) →
      (e.2.2.decodeCauses c s ≠ [] ∨ e.2.2.stall c s = false) →
      exec (e.1 r) s = .next (s.ringFault r f c.pos (some c.seq))) ∧
    (e.2.2.allCauses c s = [] → e.2.2.stall c s = false → (s.ring r).budget < e.2.2.cost c →
      exec (e.1 r) s = .next (s.ringFault r 15 c.pos (some c.seq)))

/-! ### Quagal: flow, arithmetic, compare and system reads -/

namespace Sys2Proof.Machine

/-- A general register of a ring by its field. -/
def gOf (s : State) (r : RingId) (i : Nat) : Word := at' (s.ring r).g (Fin.ofNat 16 i)

/-- IMM16 extended by sign and by zero. -/
def immSign (w : Word) : Word := (w.setWidth 16).signExtend 32
def immZero (w : Word) : Word := (w.setWidth 16).setWidth 32

/-- A row of R152's table: the command, its opcode, the bits that are RSV in its first word, and the value written from
A, B, the word (for IMM16) and the extension word. -/
structure AluRow where
  cmd : RingId → Instr
  op : Nat
  rsv : Word
  value : Word → Word → Word → Word → Word

/-- R152's table. -/
def aluRows : List AluRow := [
  ⟨.add, 0x10, 0xFFF#32, fun a b _ _ => a + b⟩,
  ⟨.sub, 0x11, 0xFFF#32, fun a b _ _ => a - b⟩,
  ⟨.mul, 0x12, 0xFFF#32, fun a b _ _ => a * b⟩,
  ⟨.andd, 0x13, 0xFFF#32, fun a b _ _ => a &&& b⟩,
  ⟨.orr, 0x14, 0xFFF#32, fun a b _ _ => a ||| b⟩,
  ⟨.xorr, 0x15, 0xFFF#32, fun a b _ _ => a ^^^ b⟩,
  ⟨.shl, 0x16, 0xFFF#32, fun a b _ _ => a <<< (b.toNat % 32)⟩,
  ⟨.shr, 0x17, 0xFFF#32, fun a b _ _ => a >>> (b.toNat % 32)⟩,
  ⟨.sar, 0x18, 0xFFF#32, fun a b _ _ => BitVec.ofInt 32 (asr a.toInt (b.toNat % 32))⟩,
  ⟨.minu, 0x19, 0xFFF#32, fun a b _ _ => if a.toNat ≤ b.toNat then a else b⟩,
  ⟨.maxu, 0x1A, 0xFFF#32, fun a b _ _ => if a.toNat ≤ b.toNat then b else a⟩,
  ⟨.mins, 0x1B, 0xFFF#32, fun a b _ _ => if a.toInt ≤ b.toInt then a else b⟩,
  ⟨.maxs, 0x1C, 0xFFF#32, fun a b _ _ => if a.toInt ≤ b.toInt then b else a⟩,
  ⟨.addi, 0x20, 0#32, fun a _ w _ => a + immSign w⟩,
  ⟨.muli, 0x21, 0#32, fun a _ w _ => a * immSign w⟩,
  ⟨.andi, 0x22, 0#32, fun a _ w _ => a &&& immZero w⟩,
  ⟨.ori, 0x23, 0#32, fun a _ w _ => a ||| immZero w⟩,
  ⟨.xori, 0x24, 0#32, fun a _ w _ => a ^^^ immZero w⟩,
  ⟨.shli, 0x25, 0#32, fun a _ w _ => a <<< (w.toNat % 32)⟩,
  ⟨.shri, 0x26, 0#32, fun a _ w _ => a >>> (w.toNat % 32)⟩,
  ⟨.sari, 0x27, 0#32, fun a _ w _ => BitVec.ofInt 32 (asr a.toInt (w.toNat % 32))⟩,
  ⟨.movi, 0x28, 0xF0000#32, fun _ _ w _ => immSign w⟩,
  ⟨.movhi, 0x29, 0#32, fun a _ w _ => (a &&& 0xFFFF#32) ||| (immZero w <<< 16)⟩,
  ⟨.movw, 0x2A, 0xFFFFF#32, fun _ _ _ e => e⟩]

/-- A condition of format C holds between two words. -/
def Cond : Nat → Word → Word → Bool
  | 0, a, b => a == b
  | 1, a, b => a != b
  | 2, a, b => a.toNat < b.toNat
  | 3, a, b => a.toNat ≤ b.toNat
  | 4, a, b => b.toNat < a.toNat
  | 5, a, b => b.toNat ≤ a.toNat
  | 6, a, b => a.toInt < b.toInt
  | 7, a, b => a.toInt ≤ b.toInt
  | 8, a, b => b.toInt < a.toInt
  | 9, a, b => b.toInt ≤ a.toInt
  | 10, a, b => (a &&& b) != 0
  | _, a, b => (a &&& b) == 0

/-- The words of a ring's packet fetched so far. -/
def kept (s : State) (r : RingId) : Packet → List (Option Word) := fun p => s.fetched (s.ring r) p

end Sys2Proof.Machine

/-- Each arithmetic instruction writes its value into gDST of its ring, whatever the registers hold, costs 1 and moves PC
past its words; nothing else changes (R128, R152). -/
def Obligations.ArithmeticWritesDst : Prop :=
  ∀ e ∈ aluRows, ∀ (s : State) (r : RingId) (c : OpCtx),
    Stands s r e.op c → c.w &&& e.rsv = 0 → 1 ≤ (s.ring r).budget →
    ∃ t, exec (e.cmd r) s = .next t ∧ OnlyRing s t r
      { (s.ring r).past (kept s r) (opWords c.w) 1 with
        g := upd (s.ring r).g (Fin.ofNat 16 (fld c.w 20 4)) (fun _ =>
          e.value (gOf s r (fld c.w 16 4)) (gOf s r (fld c.w 12 4)) c.w c.e1) }

/-- CMP and CMPI write the predicate PDST with their condition and nothing else of the ring but what a retirement moves
(R128, R152). -/
def Obligations.CompareWritesPredicate : Prop :=
  ∀ (s : State) (r : RingId) (c : OpCtx), fld c.w 20 4 < 12 → 1 ≤ (s.ring r).budget →
    (Stands s r 0x2C c → c.w &&& 0x3FF#32 = 0 →
      ∃ t, exec (.cmp r) s = .next t ∧ OnlyRing s t r
        { (s.ring r).past (kept s r) 1 1 with
          p := upd (s.ring r).p (Fin.ofNat 4 (fld c.w 14 2)) (fun _ =>
            Cond (fld c.w 20 4) (gOf s r (fld c.w 16 4)) (gOf s r (fld c.w 10 4))) }) ∧
    (Stands s r 0x2D c →
      ∃ t, exec (.cmpi r) s = .next t ∧ OnlyRing s t r
        { (s.ring r).past (kept s r) 1 1 with
          p := upd (s.ring r).p (Fin.ofNat 4 (fld c.w 14 2)) (fun _ =>
            Cond (fld c.w 20 4) (gOf s r (fld c.w 16 4))
              (if 6 ≤ fld c.w 20 4 ∧ fld c.w 20 4 ≤ 9 then (c.w.setWidth 14).signExtend 32
               else (c.w.setWidth 14).setWidth 32)) })

/-- NOP, BR and DJNZ: NOP does nothing; BR moves PC to its target when MODE's condition holds; DJNZ counts its register
down and moves PC to its target unless it reaches 0 (R123, R124, R151). -/
def Obligations.FlowInstructions : Prop :=
  ∀ (s : State) (r : RingId) (c : OpCtx), 1 ≤ (s.ring r).budget →
    (Stands s r 0x00 c → c.w &&& 0xFFFFFF#32 = 0 →
      ∃ t, exec (.nop r) s = .next t ∧ OnlyRing s t r ((s.ring r).past (kept s r) 1 1)) ∧
    (Stands s r 0x01 c → c.w &&& 0xFFF00#32 = 0 → fld c.w 22 2 ≠ 3 → s.target r (fld c.w 0 8) = some true →
      let pred := at' (s.ring r).p (Fin.ofNat 4 (fld c.w 20 2))
      let taken := fld c.w 22 2 = 0 ∨ (fld c.w 22 2 = 1 ∧ pred = true) ∨ (fld c.w 22 2 = 2 ∧ pred = false)
      ∃ t, exec (.br r) s = .next t ∧
        (taken → OnlyRing s t r ({ s.ring r with pc := fld c.w 0 8 }.past (kept s r) 0 1)) ∧
        (¬ taken → OnlyRing s t r ((s.ring r).past (kept s r) 1 1))) ∧
    (Stands s r 0x02 c → c.w &&& 0xFFF00#32 = 0 → s.target r (fld c.w 0 8) = some true →
      let v := gOf s r (fld c.w 20 4) - 1
      let q := { s.ring r with g := upd (s.ring r).g (Fin.ofNat 16 (fld c.w 20 4)) (fun _ => v) }
      ∃ t, exec (.djnz r) s = .next t ∧
        (v ≠ 0 → OnlyRing s t r ({ q with pc := fld c.w 0 8 }.past (kept s r) 0 1)) ∧
        (v = 0 → OnlyRing s t r (q.past (kept s r) 1 1)))

namespace Sys2Proof.Machine

/-- The value that RDS writes for the selectors 1 to 7 (R129). -/
def sysRead (s : State) (r : RingId) (c : OpCtx) : Nat → Word
  | 1 => w32 ((s.ring r).budget - 1)
  | 2 => w32 (s.ring r).budgetB
  | 3 => w32 ((s.ring r).pending)
  | 4 => mkWord [(r.val, 0, 4), (c.ten.val, 4, 2), ((s.ten c.ten).cfg.cls.code, 6, 2), ((s.ring r).lectern, 8, 5)]
  | 5 => c.seq
  | 6 => s.bellNow
  | _ => (s.ten c.ten).frozen.getD 0

end Sys2Proof.Machine

/-- RDS writes the system value of SEL into gDST; BELL writes the 48 bits of BELLNO into an even pair in one retirement
(R129). -/
def Obligations.SystemReads : Prop :=
  ∀ (s : State) (r : RingId) (c : OpCtx), 1 ≤ (s.ring r).budget → Stands s r 0x2E c → c.w &&& 0xFFFF#32 = 0 →
    (fld c.w 16 4 = 0 → fld c.w 20 4 % 2 = 0 →
      ∃ t, exec (.rds r) s = .next t ∧ OnlyRing s t r
        { (s.ring r).past (kept s r) 1 1 with
          g := upd (upd (s.ring r).g (Fin.ofNat 16 (fld c.w 20 4)) (fun _ => s.bell.bellno.setWidth 32))
            (Fin.ofNat 16 (fld c.w 20 4 + 1)) (fun _ => (s.bell.bellno >>> 32).setWidth 32) }) ∧
    (1 ≤ fld c.w 16 4 → fld c.w 16 4 < 8 →
      ∃ t, exec (.rds r) s = .next t ∧ OnlyRing s t r
        { (s.ring r).past (kept s r) 1 1 with
          g := upd (s.ring r).g (Fin.ofNat 16 (fld c.w 20 4)) (fun _ => sysRead s r c (fld c.w 16 4)) })


/-! ### Quagal: the instructions that act on the picture, the light, the loops and the services -/

namespace Sys2Proof.Machine

/-- `s` once ring `r` has moved past an instruction of `words` words and a cost. -/
def State.moved (s : State) (r : RingId) (words cost : Nat) : State :=
  { s with rings := upd s.rings r (fun q => q.past (kept s r) words cost) }

/-- `t` is `s` but for what the Gallery counts and traces. -/
abbrev Same (s t : State) : Prop := t = { s with gal := Counted s.gal t.gal }

/-- What an instruction does: the command, its opcode, its meaning's parts, its words and its cost, what else must hold,
and what it changes beside its ring's PC, budget and packet. -/
structure EffRow where
  cmd : RingId → Instr
  op : Nat
  sem : OpSem
  words : Nat
  cost : OpCtx → Nat
  pre : OpCtx → State → Prop := fun _ _ => True
  eff : OpCtx → State → State

/-- A row's instruction, where it may retire, completes with the row's effect. -/
def EffRow.Holds (e : EffRow) : Prop :=
  ∀ (s : State) (r : RingId) (c : OpCtx), Retires s r e.op e.sem c → e.pre c s →
    ∃ t, exec (e.cmd r) s = .next t ∧ Same (e.eff c (s.moved r e.words (e.cost c))) t

/-- `s` with the words of ring `r` kept, the instruction charged, and PC past it. -/
def State.paid (s : State) (r : RingId) (c : OpCtx) (words cost : Nat) : State :=
  ((s.keepFetched r).charge c cost).modRing r (fun q => { q with pc := c.pos + words })

/-- A row's instruction, where it may retire, is paid for, takes the row's effect, and completes its packet where PC
reaches LEN. -/
def EffRow.Runs (e : EffRow) : Prop :=
  ∀ (s : State) (r : RingId) (c : OpCtx), Retires s r e.op e.sem c → e.pre c s →
    exec (e.cmd r) s = .next ((e.eff c (s.paid r c e.words (e.cost c))).packetEnd r)

/-- Change the surfaces of the ring's tenant. -/
def onSurfs (c : OpCtx) (s : State) (f : List (Nat × Surface) → List (Nat × Surface)) : State :=
  { s with surfs := upd s.surfs c.ten f }

/-- Change the surface that SID [23:16] names. -/
def onSurf (c : OpCtx) (s : State) (f : Surface → Surface) : State :=
  onSurfs c s (fun xs => xs.map (fun e => if e.1 = fld c.w 16 8 then (e.1, f e.2) else e))

/-- The registers `gI` up to `gI + N - 1`, as bytes. -/
def regBytes (c : OpCtx) (i n : Nat) : List Byte :=
  wordsBytes ((List.range n).map (fun k => at' c.g (Fin.ofNat 16 (i + k))))

/-- SDEF, SREF, SGEN, SFREE and SPUT (R153 to R156, R203). -/
def surfRows : List EffRow := [
  { cmd := .sdef, op := 0x40, sem := semSdef, words := 3, cost := fun _ => 4
    eff := fun c s => onSurfs c s (putKey (fld c.w 16 8) {
      fmt := fld c.w 12 4, prime := fld c.w 10 2 == 1, base := c.e1.toNat, w := fld c.e2 16 14, h := fld c.e2 0 14 }) },
  { cmd := .sref, op := 0x41, sem := semSref, words := 2, cost := fun _ => 2
    eff := fun c s => onSurf c s (fun x => { x with bsid := fld c.w 8 8, refGen := c.e1, refSeq := some c.seq }) },
  { cmd := .sgen, op := 0x42, sem := semSgen, words := 1, cost := fun _ => 2
    eff := fun c s => onSurf c s (fun x => { x with gen := gOf s c.ring (fld c.w 12 4) }) },
  { cmd := .sfree, op := 0x43, sem := semSfree, words := 1, cost := fun _ => 1
    eff := fun c s => onSurfs c s (dropKey (fld c.w 16 8)) },
  { cmd := .sput, op := 0x44, sem := semSput, words := 2, cost := fun c => fld c.w 8 4
    pre := fun c s => s.memc.selfRef = false ∧ ∀ x, (at' s.surfs c.ten).lookup (fld c.w 16 8) = some x →
      (s.ten c.ten).cfg.regBase ≤ 64 * x.base + c.e1.toNat ∧
      64 * x.base + c.e1.toNat + 4 * fld c.w 8 4 ≤ (s.ten c.ten).cfg.regBase + (s.ten c.ten).cfg.regSize
    eff := fun c s => match (at' s.surfs c.ten).lookup (fld c.w 16 8) with
      | some x =>
        let a := 64 * x.base + c.e1.toNat
        let n := fld c.w 8 4
        { s with
          lp := Memory.writeN s.lp a (regBytes c (fld c.w 12 4) n)
          memc := { s.memc with ueLp := s.memc.ueLp.filter (fun w => !(a ≤ 8 * w && 8 * w + 8 ≤ a + 4 * n)) } }
      | none => s }]

/-- An SPUT whose surface a Tessera SIZE takes over the end of the tenant's region, or that wakes LPDDR4X: the words inside
are written, those outside are blocked and counted (R26, R189, R194). -/
def sputEdge : EffRow :=
  { cmd := .sput, op := 0x44, sem := semSput, words := 2, cost := fun c => fld c.w 8 4
    eff := fun c s => match s.surf c.ten (fld c.w 16 8) with
      | some x =>
        let q := (s.ten c.ten).cfg
        let a := 64 * x.base + c.e1.toNat
        let n := fld c.w 8 4
        let inside := if a < q.regBase then 0 else min n ((q.regBase + q.regSize - a) / 4)
        let s1 := if inside = 0 then s else
          s.lpRequest.lpWrite a (wordsBytes (((List.range n).map (fun k => at' c.g (Fin.ofNat 16 (fld c.w 12 4 + k)))).take
            inside))
        if n - inside = 0 then s1 else (s1.outside c.ten (n - inside)).blocked
      | none => s }

/-- Change the layer that LID [23:17] names: Chapel [23:22], Z [21:17]. -/
def onLayer (c : OpCtx) (s : State) (f : Layer → Layer) : State :=
  { s with chaps := upd s.chaps (Fin.ofNat 4 (fld c.w 22 2)) (fun q => { q with
    layers := upd q.layers (Fin.ofNat 32 (fld c.w 17 5)) f }) }

/-- Change the layer's settings as last written. -/
def onWork (c : OpCtx) (s : State) (f : LayerCfg → LayerCfg) : State :=
  onLayer c s (fun l => { l with work := l.work.map f })

/-- The destination that two words give. -/
def dstOf (a b : Word) (v : LayerCfg) : LayerCfg :=
  { v with
    dx := (a >>> 16 |>.setWidth 16).toInt
    dy := (a.setWidth 16).toInt
    dw := fld b 16 16
    dh := fld b 0 16 }

/-- The layer instructions but LNEW (R153, R157, R161, R162, R697). -/
def layerRows : List EffRow := [
  { cmd := .ldel, op := 0x49, sem := semLdel, words := 1, cost := fun _ => 1
    eff := fun c s => onLayer c s (fun l => if l.frozen.isNone then {} else { l with work := none }) },
  { cmd := .lsrc, op := 0x4A, sem := semLsrc, words := 3, cost := fun _ => 3
    eff := fun c s => onWork c s (fun v => { v with
      sid := some (fld c.w 8 8)
      sx := fld c.e1 16 16
      sy := fld c.e1 0 16
      sw := fld c.e2 16 16
      sh := fld c.e2 0 16 }) },
  { cmd := .ldst, op := 0x4B, sem := semLdst, words := 3, cost := fun _ => 3
    eff := fun c s => onWork c s (dstOf c.e1 c.e2) },
  { cmd := .ldstr, op := 0x4C, sem := semLdstr, words := 1, cost := fun _ => 3
    eff := fun c s => onWork c s (dstOf (gOf s c.ring (fld c.w 12 4)) (gOf s c.ring (fld c.w 12 4 + 1))) },
  { cmd := .lvis, op := 0x4D, sem := semLvis, words := 1, cost := fun _ => 1
    eff := fun c s => onWork c s (fun v => { v with vis := c.w.getLsbD 16 }) },
  { cmd := .lfall, op := 0x4E, sem := semLfall, words := 1, cost := fun _ => 1
    eff := fun c s => onWork c s (fun v => { v with fall := match fld c.w 15 2 with
      | 0 => .transparent
      | 1 => .hold
      | _ => .background }) },
  { cmd := .lflat, op := 0x4F, sem := semLflat, words := 1, cost := fun _ => 1
    eff := fun c s => onWork c s (fun v => { v with static := c.w.getLsbD 16 }) },
  { cmd := .lvid, op := 0x50, sem := semLvid, words := 1, cost := fun _ => 2
    eff := fun c s => onWork c s (fun v => { v with
      vc := if c.w.getLsbD 16 then some (Fin.ofNat 4 (fld c.w 14 2)) else none }) },
  { cmd := .lblend, op := 0x60, sem := semLblend, words := 1, cost := fun _ => 1
    eff := fun c s => onWork c s (fun v => { v with mode := fld c.w 14 3, galpha := fld c.w 0 14 }) },
  { cmd := .lscale, op := 0x61, sem := semLscale, words := 1, cost := fun _ => 1
    eff := fun c s => onWork c s (fun v => { v with edgeZero := fld c.w 15 2 == 1 }) },
  { cmd := .lpri, op := 0x63, sem := semLpri, words := 1, cost := fun _ => 1
    eff := fun c s => onWork c s (fun v => { v with pri := fld c.w 12 5 }) }]

/-- LNEW claims a free layer at the defaults with its PRI, and the claim's own ring is kept beside it; it also takes a layer
that the ring of a higher tenant number claimed on the same edge, which then faults with STATE (R148, R153). -/
def LnewHolds : Prop :=
  ∀ (s : State) (r : RingId) (c : OpCtx), Retires s r 0x48 semLnew c →
    let l := s.layer (fld c.w 17 7)
    (l.holder = none → ∃ t k, exec (.lnew r) s = .next t ∧ k.at' = s.now ∧ k.ring = r ∧
      Same (onLayer c (s.moved r 1 2) (fun _ =>
        { holder := some c.ten, claim := some k, work := some { pri := fld c.w 12 5 } })) t) ∧
    (∀ k, l.holder ≠ none → s.claimTie (fld c.w 17 7) = some k → k.ring ≠ r → k.before.owner ≠ none →
      ∃ t, exec (.lnew r) s = .next t ∧ (t.layer (fld c.w 17 7)).holder = some c.ten ∧
        (t.layer (fld c.w 17 7)).work = some { pri := fld c.w 12 5 } ∧ (t.ring k.ring).state = .fault ∧
        (t.ring k.ring).cause = 12 ∧ t.ring r = (s.ring r).past (kept s r) 1 2)

/-- Change what the tenant has pending for a Chapel [23:22] as a whole. -/
def onWide (c : OpCtx) (s : State) (f : ChapWideChg → ChapWideChg) : State :=
  { s with chaps := upd s.chaps (Fin.ofNat 4 (fld c.w 22 2)) (fun q => { q with wideWork := upd q.wideWork c.ten f }) }

/-- Change the check rectangle [21:18] of Chapel [23:22]. -/
def onRect (c : OpCtx) (s : State) (f : RectSt → RectSt) : State :=
  { s with chaps := upd s.chaps (Fin.ofNat 4 (fld c.w 22 2)) (fun q => { q with
    rects := upd q.rects (Fin.ofNat 16 (fld c.w 18 4)) f }) }

/-- BGCOL, DITH, CHKR and CHKV (R153, R159, R160, R162). -/
def chapelRows : List EffRow := [
  { cmd := .bgcol, op := 0x51, sem := semBgcol, words := 3, cost := fun _ => 2
    eff := fun c s => onWide c s (fun x => { x with bg := some (fld c.e1 16 14, fld c.e1 0 14, fld c.e2 0 14) }) },
  { cmd := .dith, op := 0x62, sem := semDith, words := 1, cost := fun _ => 1
    eff := fun c s => onWide c s (fun x => { x with dith := some (fld c.w 20 2) }) },
  { cmd := .chkr, op := 0x52, sem := semChkr, words := 3, cost := fun _ => 4
    eff := fun c s => onRect c s (fun x =>
      if c.w.getLsbD 17 then { x with
        owner := .ten c.ten
        work := some { x := fld c.e1 16 16, y := fld c.e1 0 16, w := fld c.e2 16 16, h := fld c.e2 0 16 } }
      else if x.frozen.isNone then {} else { x with work := none }) },
  { cmd := .chkv, op := 0x53, sem := semChkv, words := 1, cost := fun _ => 1
    eff := fun c s => onRect c s (fun x => { x with
      work := x.work.map (fun k => { k with crc := some (gOf s c.ring (fld c.w 14 4)), seq := none }) }) }]

/-- Change the light output that OUT [23:20] names. -/
def onOut (c : OpCtx) (s : State) (f : OutSt → OutSt) : State :=
  { s with light := { s.light with outs := upd s.light.outs (Fin.ofNat 14 (fld c.w 20 4)) f } }

/-- A light-target write outside the reload window goes into the shadow copy; inside it is kept aside until the reload
has passed (R314). -/
def putOut (c : OpCtx) (s : State) (w : OutWrite) : State :=
  let late : Bool := match s.nextReload (Fin.ofNat 14 (fld c.w 20 4)) with
    | some x => x ≤ s.now + 4 && s.now < x
    | none => false
  onOut c s (fun q =>
    if late then { q with aside := q.aside ++ [w], deferred := true }
    else { q with
      shadow := {
        code := w.code.getD q.shadow.code
        duty := w.duty.getD q.shadow.duty
        period := (w.dim.map (·.1)).getD q.shadow.period
        scramble := (w.dim.map (·.2)).getD q.shadow.scramble }
      pend := q.pend ++ [w] })

/-- The light-target instructions (R163, R164, R307, R314, R337). -/
def lightRows : List EffRow := [
  { cmd := .drvtgt, op := 0x70, sem := semDrvtgt, words := 1, cost := fun _ => 2
    eff := fun c s => putOut c s { code := some (fld c.w 0 14), seq := c.seq } },
  { cmd := .drvduty, op := 0x71, sem := semDrvduty, words := 1, cost := fun _ => 2
    eff := fun c s => putOut c s { duty := some (fld c.w 0 14), seq := c.seq } },
  { cmd := .drvdim, op := 0x72, sem := semDrvdim, words := 1, cost := fun _ => 2
    eff := fun c s => putOut c s { dim := some (fld c.w 16 4, c.w.getLsbD 15), seq := c.seq } },
  { cmd := .drvderate, op := 0x73, sem := semDrvderate, words := 2, cost := fun _ => 4
    eff := fun c s => onOut c s (fun q => { q with
      pendDerate := some ((c.e1 >>> 24 |>.setWidth 8).toInt, fld c.e1 16 8, fld c.e1 0 14) }) },
  { cmd := .drvrail, op := 0x74, sem := semDrvrail, words := 1, cost := fun _ => 2
    eff := fun c s => { s with light := { s.light with
      rails := upd s.light.rails (Fin.ofNat 2 (fld c.w 22 2)) (fun q => { q with pendHead := some (fld c.w 0 12) }) } } }]

/-- Change the loop slot that SLOT [23:20] names. -/
def onSlot (c : OpCtx) (s : State) (f : LoopSt → LoopSt) : State :=
  { s with choir := { s.choir with slots := upd s.choir.slots (Fin.ofNat 16 (fld c.w 20 4)) f } }

/-- A loop setting waits for the next Chime of the slot's group, behind those that wait already. Where a setting of an
action waits for the coming Bell, it stands behind that one too (R73, R149; log entry 36). -/
def queueEdit (c : OpCtx) (s : State) (e : LoopEdit) : State :=
  let i : Slot := Fin.ofNat 16 (fld c.w 20 4)
  let b := some (s.bell.bellno.toNat + 1)
  let behind := if ∃ x ∈ s.choir.late, x.1 = i ∧ x.2.2.2 = b then [(i, e, c.seq, b)] else []
  { s with choir := { s.choir with late := s.choir.late ++ [(i, e, c.seq, none)] ++ behind } }

/-- The loop and test instructions (R165 to R170, R374). -/
def loopRows : List EffRow := [
  { cmd := .clset, op := 0x80, sem := semClset, words := 1, cost := fun _ => 1
    eff := fun c s =>
      let v := gOf s c.ring (fld c.w 16 4)
      queueEdit c s (.set
        (if (s.slot (Fin.ofNat 16 (fld c.w 20 4))).cfg.kind.three then
          if fld v 30 2 = 3 then none else some (Fin.ofNat 3 (fld v 30 2))
         else some 0) (fld v 0 14)) },
  { cmd := .clcoef, op := 0x81, sem := semClcoef, words := 2, cost := fun _ => 2
    eff := fun c s => queueEdit c s (.coef (Fin.ofNat 9 (fld c.w 16 4)) (c.e1.setWidth 20).toInt) },
  { cmd := .clmode, op := 0x82, sem := semClmode, words := 1, cost := fun _ => 2
    eff := fun c s => queueEdit c s (.mode (match fld c.w 18 2 with
      | 1 => .run
      | 2 => .hold
      | _ => .off) (Fin.ofNat 4 (fld c.w 16 2)) (c.w.getLsbD 15) (c.w.getLsbD 14) (c.w.getLsbD 13)) },
  { cmd := .cllim, op := 0x83, sem := semCllim, words := 2, cost := fun _ => 2
    eff := fun c s => queueEdit c s (.lim (fld c.e1 0 14) (fld c.e1 16 14)) },
  { cmd := .clrep, op := 0x84, sem := semClrep, words := 2, cost := fun _ => 2
    eff := fun c s => queueEdit c s (.rep (fld c.w 12 4) (fld c.w 8 4) (fld c.e1 0 13)) },
  { cmd := .clsave, op := 0x85, sem := semClsave, words := 1, cost := fun _ => 4
    eff := fun c s => onSlot c s (fun q => { q with save := some { ten := c.ten, seq := c.seq } }) },
  { cmd := .tinj, op := 0x90, sem := semTinj, words := 3, cost := fun _ => 8
    eff := fun c s =>
      let amp := fld c.w 0 14
      let dur := c.e2.toNat
      onSlot c s (fun q => { q with inj := match fld c.w 18 2 with
        | 0 => some { kind := .sine, amp := amp, f0 := c.e1.toNat, dur := dur }
        | 1 => some { kind := .chirp, amp := amp, f0 := 1000 * fld c.e1 16 16, f1 := 1000 * fld c.e1 0 16, dur := dur }
        | 2 => if dur = 0 then none else some {
            kind := .prbs, amp := amp, q := fld c.e1 16 16 % 2 ^ fld c.e1 0 5, order := fld c.e1 0 5, dur := dur }
        | _ => none }) },
  { cmd := .tcap, op := 0x91, sem := semTcap, words := 2, cost := fun _ => 4
    eff := fun c s =>
      let cap : Capture := {
        ten := c.ten, seq := c.seq, mask := fld c.w 16 4, decim := fld c.e1 16 16, samples := fld c.e1 0 16, first := 0,
        units := 0 }
      let n := cdiv cap.bytes 1024
      match poolFit s.poolUsed n with
      | some u => onSlot c s (fun q => { q with cap := some { cap with first := u, units := n } })
      | none => s },
  { cmd := .trel, op := 0x92, sem := semTrel, words := 1, cost := fun _ => 2
    eff := fun c s => onSlot c s (fun q => { q with cap := none }) }]

/-- Change the owner of a Chapel's check rectangle. -/
def ownRect (s : State) (c : Chap) (r : Fin 16) (o : RectOwner) : State :=
  { s with chaps := upd s.chaps c (fun q => { q with rects := upd q.rects r (fun x => { x with owner := o }) }) }

/-- The Keystone instructions that change the store as last written (R171, R172, R175). -/
def keyRows : List EffRow := [
  { cmd := .kmap, op := 0xA2, sem := semKmap, words := 3, cost := fun _ => 4
    eff := fun c s =>
      let seg : Seg := Fin.ofNat 96 (fld c.w 16 7)
      let chap : Chap := Fin.ofNat 4 (fld c.w 14 2)
      let rect : Fin 16 := Fin.ofNat 16 (fld c.w 10 4)
      let old := s.key.maps.find? (fun m => m.seg == seg && m.chap == chap)
      let rest := s.key.maps.filter (fun m => !(m.seg == seg && m.chap == chap))
      if c.w.getLsbD 9 then
        let m : KMap := { seg := seg, chap := chap, rect := rect, x := fld c.e1 16 16, y := fld c.e1 0 16,
                          w := fld c.e2 16 16, h := fld c.e2 0 16, wit := old.bind (·.wit) }
        let a := keyEntry chap rect
        let s1 := ownRect (old.elim s (fun o => ownRect s chap o.rect .free)) chap rect (.key seg)
        { s1 with
          key := { s.key with maps := m :: rest }
          memc := { s.memc with ueUnder := s.memc.ueUnder.filter (fun w => !(a ≤ 8 * w && 8 * w + 8 ≤ a + 16)) } }
      else
        old.elim s (fun o => { ownRect s chap o.rect (.keyFreed seg) with key := { s.key with maps := rest } }) },
  { cmd := .kset, op := 0xA0, sem := semKset, words := 1, cost := fun _ => 1
    eff := fun c s => { s with key := { s.key with
      on := upd s.key.on (Fin.ofNat 96 (fld c.w 16 7)) (fun _ => c.w.getLsbD 23) } } },
  { cmd := .ksetm, op := 0xA1, sem := semKsetm, words := 1, cost := fun _ => 2
    eff := fun c s => { s with key := { s.key with
      on := Vector.ofFn (fun g =>
        let v := gOf s c.ring (fld c.w 16 4)
        let m := gOf s c.ring (fld c.w 12 4)
        if g.val / 32 = fld c.w 22 2 ∧ m.getLsbD (g.val % 32) then v.getLsbD (g.val % 32) else at' s.key.on g) } } },
  { cmd := .kwit, op := 0xA4, sem := semKwit, words := 2, cost := fun _ => 2
    eff := fun c s =>
      let chap := Fin.ofNat 4 (fld c.w 22 2)
      let rect := Fin.ofNat 16 (fld c.w 18 4)
      match s.key.maps.find? (fun m => m.chap == chap && m.rect == rect) with
      | some m => { s with key := { s.key with
          maps := { m with
              wit := if c.w.getLsbD 14 then
                some { pd := Fin.ofNat 8 (fld c.w 15 3), minv := fld c.e1 16 14, maxv := fld c.e1 0 14 } else none } ::
            s.key.maps.filter (fun x => !(x.seg == m.seg && x.chap == m.chap)) } }
      | none => s },
  { cmd := .kprime, op := 0xA5, sem := semKprime, words := 1, cost := fun _ => 4
    eff := fun c s => { s with
      moa := Memory.writeN s.moa 0x1700006 [0]
      memc := { s.memc with ueMoa := s.memc.ueMoa.filter (fun w =>
        !(0x1700006 ≤ 8 * w && 8 * w + 8 ≤ 0x1700006 + 1)) }
      prime := { s.prime with kprime := some (c.seq, c.ring, s.keyWritten) } } }]

/-- Participation, the Bell requests, wake tolerance and consent (R84 to R86, R178, R182). -/
def tenantRows : List EffRow := [
  { cmd := .bpart, op := 0x34, sem := semBpart, words := 1, cost := fun _ => 1
    eff := fun c s => { s with tens := upd s.tens c.ten (fun q =>
      if c.w.getLsbD 23 then { q with part := true, cring := fld c.w 16 4 } else { q with part := false }) } },
  { cmd := .bwin, op := 0x35, sem := semBwin, words := 1, cost := fun _ => 1
    eff := fun c s => { s with
      tens := upd s.tens c.ten (fun q => { q with
        floorReq := if fld c.w 11 11 = 0 then 208334 else 250 * fld c.w 11 11
        ceilReq := 250 * fld c.w 0 11 })
      bell := { s.bell with
        winAt := if s.bell.winAt.any (fun x => x.1 == s.now) then s.bell.winAt
          else some (s.now, s.floorEff, s.ceilEff) } } },
  { cmd := .chime, op := 0x36, sem := semChime, words := 1, cost := fun _ => 1
    eff := fun c s => { s with bell := { s.bell with
      pendRate := upd s.bell.pendRate (Fin.ofNat 4 (fld c.w 22 2)) (fun x =>
        some (max (x.getD 0) (fld c.w 18 4))) } } },
  { cmd := .ptol, op := 0xB8, sem := semPtol, words := 1, cost := fun _ => 1
    eff := fun c s => { s with tens := upd s.tens c.ten (fun q => { q with ptol := fld c.w 0 16 }) } },
  { cmd := .uallow, op := 0xCB, sem := semUallow, words := 1, cost := fun _ => 2
    eff := fun c s => { s with tens := upd s.tens c.ten (fun q => { q with
      allowTo := if fld c.w 0 16 = 0 then none else some (s.bell.bellno.toNat + fld c.w 0 16) }) } }]

/-- UACT puts its activation in progress; RVAL adds a sample to its accumulator; HRECV takes the tenant's oldest
message into the registers from DST, header first, with its predicate at 1, or writes 0 into the predicate where none
waits (R84, R176, R177, R179, R552). -/
def serviceRows : List EffRow := [
  { cmd := .uact, op := 0xC8, sem := semUact, words := 2, cost := fun _ => 16
    eff := fun c s => { s with
      update := { s.update with act := some { handover := c.w.getLsbD 23, start := s.now, uds := false } }
      power := { s.power with standbyReady := false } } },
  { cmd := .rval, op := 0xB1, sem := semRval, words := 1, cost := fun _ => 1
    eff := fun c s =>
      let v := (gOf s c.ring (fld c.w 16 4)).toNat
      let code := 0x100 + 4 * c.ten.val + fld c.w 22 2
      let a := (s.reliq.accs.find? (fun a => a.code == code)).getD { code := code }
      if s.aisleRuns then { s with reliq := { s.reliq with
        accs := accPut s.reliq.accs (a.add v (if v = 0 then 0 else min 31 (Nat.log2 v + 1)) s.cal) } }
      else s },
  { cmd := .hrecv, op := 0xC1, sem := semHrecv, words := 1, cost := fun c => 3 + fld c.w 15 3
    eff := fun c s =>
      let pred : Fin 4 := Fin.ofNat 4 (fld c.w 18 2)
      match at' s.chain.rx c.ten with
      | [] => { s with rings := upd s.rings c.ring (fun q => { q with p := upd q.p pred (fun _ => false) }) }
      | m :: rest =>
        let ws := mkWord [(m.src, 16, 12), (m.words.length, 0, 8)] :: m.words
        let n := min (fld c.w 15 3 + 1) ws.length
        let i := fld c.w 20 4
        { s with
          chain := { s.chain with rx := upd s.chain.rx c.ten (fun _ => rest) }
          rings := upd s.rings c.ring (fun q => { q with
            p := upd q.p pred (fun _ => true)
            g := Vector.ofFn (fun k =>
              if i ≤ k.val ∧ k.val < i + n then ws.getD (k.val - i) 0 else at' q.g k) }) } }]

/-- `t` is `s` but for what was posted, recorded and counted: the event queues, the Reliquary, the Gallery, the ports'
notifications and the bytes of the memories that hold queues. -/
abbrev Told (s t : State) : Prop :=
  t = { s with
    free := t.free
    tens := t.tens
    gal := Counted s.gal t.gal
    reliq := t.reliq
    ports := t.ports
    memc := t.memc
    lp := t.lp
    under := t.under } ∧
  ∀ n, t.ten n = { s.ten n with evq := (t.ten n).evq }

/-- The event queue of tenant `n` takes a record: it stands at EVQ_WR of before, in the memory of the queue, and EVQ_WR and
EVSEQ move on (R101, R103, R104). -/
def QueueTakes (s t : State) (n : Ten) (code src : Nat) (p : List Word) : Prop :=
  let q := s.ten n
  let a := q.cfg.evqBase + 32 * q.evq.wr
  let rec' := evBytes q.evq.next code src (if q.evq.droppedBefore then 4 else 0) (s.bell.bellno.setWidth 32) 0 p
  (t.ten n).evq = { q.evq with wr := (q.evq.wr + 1) % (16 * 2 ^ q.cfg.evqSize), next := q.evq.next + 1, droppedBefore := false } ∧
  (q.cfg.evqUnder = true → t.under = Memory.writeN s.under a rec' ∧ t.lp = s.lp) ∧
  (q.cfg.evqUnder = false → t.lp = Memory.writeN s.lp a rec' ∧ t.under = s.under)

/-- What an instruction does beside what it posts and records: the state but for that, which may name the state after for
what `post` says of it. -/
structure UnitRow where
  cmd : RingId → Instr
  op : Nat
  sem : OpSem
  words : Nat
  cost : OpCtx → Nat
  eff : OpCtx → State → State → State := fun _ s _ => s
  post : OpCtx → State → State → Prop

/-- A row's instruction, where it may retire, completes with the row's effect. -/
def UnitRow.Holds (e : UnitRow) : Prop :=
  ∀ (s : State) (r : RingId) (c : OpCtx), Retires s r e.op e.sem c →
    ∃ t, exec (e.cmd r) s = .next t ∧ Told (e.eff c (s.moved r e.words (e.cost c)) t) t ∧ e.post c s t

/-- Events, the recorder's tag, calendar time, glyph copies, messages, sweeps and updates (R151, R173, R175 to R182). -/
def unitRows : List UnitRow := [
  { cmd := .sig, op := 0x03, sem := semSig, words := 1, cost := fun _ => 1
    post := fun c s t => (s.ten c.ten).cfg.bound = true → (s.ten c.ten).resetAt = none → (s.ten c.ten).evq.drop = 0 →
      (s.evqShut c.ten = false →
        QueueTakes s t c.ten 0x0018 c.ring.val [w32 (fld c.w 0 16), gOf s c.ring (fld c.w 20 4)]) ∧
      (s.evqShut c.ten = true → (t.ten c.ten).evq.drop = 1 ∧ (t.ten c.ten).evq.ovf = true) },
  { cmd := .rtag, op := 0xB0, sem := semRtag, words := 1, cost := fun _ => 2
    post := fun c s t => t.reliq.tags = upd s.reliq.tags c.ten (fun _ => c.w.setWidth 16) ∧
      t.reliq.accs = s.reliq.accs.filter (fun a => metricTen a.code != some c.ten) },
  { cmd := .rclk, op := 0xB2, sem := semRclk, words := 1, cost := fun _ => 2
    eff := fun c s _ => { s with
      calMs := (gOf s c.ring (fld c.w 20 4 + 1)).toNat * 2 ^ 32 + (gOf s c.ring (fld c.w 20 4)).toNat
      calAt := s.now
      calSet := true }
    post := fun c s t => t.cal = ((gOf s c.ring (fld c.w 20 4 + 1)).toNat * 2 ^ 32 +
      (gOf s c.ring (fld c.w 20 4)).toNat) % 2 ^ 48 },
  { cmd := .kload, op := 0xA3, sem := semKload, words := 2, cost := fun _ => 4
    eff := fun _ s t => { s with kloads := t.kloads }
    post := fun c s t =>
      ∃ m ∈ s.key.maps, ∃ g, m.seg = Fin.ofNat 96 (fld c.w 16 7) ∧ m.chap = Fin.ofNat 4 (fld c.w 14 2) ∧
        t.kloads = s.kloads.filter (fun k => !(k.chap == m.chap && k.rect == m.rect)) ++ [{
          seg := m.seg, chap := m.chap, rect := m.rect, seq := c.seq, glyph := g, w := m.w, h := m.h, start := s.now }] },
  { cmd := .hsend, op := 0xC0, sem := semHsend, words := 1, cost := fun c => 3 + fld c.w 8 3
    eff := fun _ s t => { s with chain := t.chain }
    post := fun c s t =>
      let ws := (List.range (fld c.w 8 3 + 1)).map (fun k => gOf s c.ring (fld c.w 4 4 + k))
      let dest := fld c.w 12 12
      let m := at' s.chain.mseq c.ten
      t.chain.mseq = upd s.chain.mseq c.ten (· + 1) ∧
      (c.w.getLsbD 11 = true → ∀ a, s.chain.addr = some a → t.chain.stSent = s.chain.stSent + 1 ∧
        (s.chain.d.up = true → t.chain.outD = s.chain.outD ++
          [{ type := 0x10, bc := true, src := a, tnt := c.ten, words := m :: ws }]) ∧
        (s.chain.u.up = true → t.chain.outU = s.chain.outU ++
          [{ type := 0x10, bc := true, up := true, src := a, tnt := c.ten, words := m :: ws }])) ∧
      (c.w.getLsbD 11 = false → s.chain.addr = some dest →
        s.isCls c.ten .safety = true ∨ s.isCls c.ten .service = true → (at' s.chain.rx c.ten).length < 32 →
        at' t.chain.rx c.ten = at' s.chain.rx c.ten ++ [{ src := dest, words := ws }] ∧
        t.chain.stSent = s.chain.stSent + 1 ∧ t.chain.stDeliv = s.chain.stDeliv + 1) ∧
      (c.w.getLsbD 11 = false → s.chain.addr = none ∨ (s.chain.addr ≠ some dest ∧ s.linkUp (s.toward dest) = true) →
        (∀ y ∈ at' s.chain.tx c.ten, y.mseq ≠ m) → ∃ x ∈ at' t.chain.tx c.ten, x.mseq = m ∧ x.seq = c.seq ∧ x.dest = dest ∧ x.words = ws) },
  { cmd := .hsweep, op := 0xC2, sem := semHsweep, words := 3, cost := fun _ => 16
    eff := fun _ s t => { s with chain := t.chain }
    post := fun c s t => ∃ x, t.chain.run = some x ∧ x.ten = c.ten ∧ x.id = fld c.w 16 8 ∧ x.first = fld c.e1 16 12 ∧
      x.last = fld c.e1 0 12 ∧ x.steps = fld c.e2 0 16 ∧ x.start = s.bell.bellno.setWidth 32 + 3 ∧
      x.stepBells = s.chain.cfg.stepBells },
  { cmd := .uconf, op := 0xC9, sem := semUconf, words := 2, cost := fun _ => 16
    eff := fun _ s t => { s with update := t.update, cloister := t.cloister, moa := t.moa }
    post := fun _ s t =>
      let j := s.update.jrec
      let step := min 128 (hdrFloor (s.imgHdr false))
      t.update.jrec = { j with
        state := .idle
        content := 0
        trials := 0
        area := if j.trialArea < 2 then j.trialArea else j.area
        trialArea := 3
        jseq := j.jseq + 1 } ∧
      (step ≤ s.rbFloor → t.cloister = s.cloister) ∧
      (s.rbFloor < step → t.cloister.otp = ((s.otpSet 0x30 (thermo step)).otpSet 0x40 (thermo step)).cloister.otp) },
  { cmd := .udisc, op := 0xCA, sem := semUdisc, words := 1, cost := fun _ => 8
    eff := fun _ s t => { s with update := t.update, cloister := t.cloister, moa := t.moa }
    post := fun _ s t => t.update.jrec.state = .idle ∧
      (s.update.jrec.state = .idle → t.update.jrec = { s.update.jrec with verOther := 0, jseq := s.update.jrec.jseq + 1 }) ∧
      (s.update.jrec.state ≠ .idle → t.update.jrec.content = 0 ∧ t.update.jrec.trials = 0 ∧ t.cloister.cek = none) }]

/-- COMMIT takes its tenant's pending settings as the state of the coming frame: every layer's and check rectangle's,
and the generation of every surface (R145, R155, R697). -/
def CommitHolds : Prop :=
  ∀ (s : State) (r : RingId) (c : OpCtx), Retires s r 0x33 semCommit c →
    ∃ t, exec (.commit r) s = .next t ∧ t.rings = upd s.rings r (fun q => q.past (kept s r) 1 2) ∧
      (t.ten c.ten).commit = some c.seq ∧ (∀ n, n ≠ c.ten → t.ten n = s.ten n) ∧
      (∀ (k : Chap) (z : Fin 32), at' (t.chap k).layers z =
        if (at' (s.chap k).layers z).holder = some c.ten then
          { at' (s.chap k).layers z with taken := some (at' (s.chap k).layers z).work }
        else at' (s.chap k).layers z) ∧
      (∀ k : Chap, at' (t.chap k).wideWork c.ten = {}) ∧
      at' t.surfs c.ten = (at' s.surfs c.ten).map (fun x => (x.1, { x.2 with genTaken := some x.2.gen }))

end Sys2Proof.Machine

/-- The surface instructions complete with what R153 to R156 give them. -/
def Obligations.SurfaceInstructions : Prop := (∀ e ∈ surfRows, e.Holds) ∧ sputEdge.Runs

/-- The layer instructions change the pending settings of the layer they name and of no other. -/
def Obligations.LayerInstructions : Prop := (∀ e ∈ layerRows, e.Holds) ∧ LnewHolds

/-- Chapel-wide settings and check rectangles. -/
def Obligations.ChapelWideInstructions : Prop := ∀ e ∈ chapelRows, e.Holds

/-- Light-target instructions write the shadow copy, or wait aside within the reload window. -/
def Obligations.LightTargetInstructions : Prop := ∀ e ∈ lightRows, e.Holds

/-- The loop settings wait for the Chime of their slot's group; the others change their slot at once. -/
def Obligations.LoopInstructions : Prop := ∀ e ∈ loopRows, e.Holds

/-- The Keystone instructions that write the store. -/
def Obligations.KeystoneInstructions : Prop := ∀ e ∈ keyRows, e.Holds

/-- The instructions that act on their own tenant. -/
def Obligations.TenantInstructions : Prop := ∀ e ∈ tenantRows, e.Holds

/-- COMMIT takes its tenant's settings; SIG, RTAG, RVAL, RCLK, KLOAD, HSEND, HRECV, HSWEEP, UACT, UCONF and UDISC
have the effect of their rows, each with what it leaves as it was. -/
def Obligations.UnitInstructions : Prop :=
  CommitHolds ∧ (∀ e ∈ serviceRows, e.Holds) ∧ ∀ e ∈ unitRows, e.Holds

/-! ### Quagal: packets, waits and actions -/

namespace Sys2Proof.Machine

/-- The latch point, the announcement or the firing of Bell `b` has passed: BELLNO has reached `b`, or `b` is the next
Bell, announced, and its latch step is done where the point asks for it (R66, R79). -/
abbrev Passed (s : State) (pt : BellPoint) (b : Nat) : Prop :=
  b ≤ s.bell.bellno.toNat ∨
    (b = s.bell.bellno.toNat + 1 ∧ s.bell.ann ≠ none ∧
      (pt = .announce ∨ (pt = .latch ∧ s.bell.latchDone = true)))

/-- A wait for a point goes on: the point has passed, and a LATCH has been released, 240 µs before its Bell (R66, R79). -/
abbrev LetGo (s : State) (pt : BellPoint) (b : Nat) : Prop :=
  Passed s pt b ∧ (pt = .latch → b ≤ s.bell.bellno.toNat ∨ ∃ a, s.bell.ann = some a ∧ a + us 1260 ≤ s.now)

/-- POINT of a WAITB. -/
def pointOf (c : OpCtx) : BellPoint :=
  match fld c.w 22 2 with
  | 0 => .fire
  | 1 => .announce
  | _ => .latch

/-- The 48-bit Bell in two extension words. -/
def bellOf (c : OpCtx) : Nat := c.e1.toNat + 2 ^ 32 * (c.e2.toNat % 65536)

/-- Ring `r` of `s` waits, and nothing else has changed: the instruction stays at the PC, its words kept. -/
def Waits (s : State) (r : RingId) (w : Wait) : State :=
  { s with rings := upd s.rings r (fun q => { q with
    wait := some w
    pkt := q.pkt.map (fun p => { p with buf := kept s r p }) }) }

end Sys2Proof.Machine

/-- PACKET_START fetches a header and its SEQ, from a ring in LPDDR4X once that has left self-refresh (R194): a
well-formed header with a later SEQ starts the packet at PC 0, a malformed header faults the ring with HDR, a SEQ that
is not later faults it with SEQ (R94, R96, R140). -/
def Obligations.PacketStartChecksHeader : Prop :=
  ∀ (s : State) (r : RingId) (h q : Word), s.ringReady r = true → (s.ring r).pkt = none → 2 ≤ (s.ring r).avail →
    s.ringWord (s.ring r) (s.ring r).rd = some h → s.ringWord (s.ring r) ((s.ring r).rd + 1) = some q →
    let ok := h &&& 0xFFFFFF00#32 = 0xA0000000#32 ∧ 1 ≤ fld h 0 8 ∧ fld h 0 8 ≤ 252
    let later := ∀ l, (s.ring r).lastSeq = some l → precedes l q = true
    let s0 := if (s.ring r).under then s else s.lpRequest
    (¬ ok → exec (.packetStart r) s = .next (s0.ringFault r 3 0 none)) ∧
    (ok → ¬ later → exec (.packetStart r) s = .next (s0.ringFault r 4 0 (some q))) ∧
    (ok → later → exec (.packetStart r) s = .next { s0 with rings := upd s.rings r (fun x => { x with
      pkt := some { len := fld h 0 8, seq := q, buf := kept s r { len := fld h 0 8, seq := q, buf := [] } }
      pc := 0
      lastSeq := some q }) })

/-- A Lectern's fault puts its ring into the fault state with cause LECTERN, drops its packet, its wait, its queued actions
and a RESTART that waits, and leaves every other ring as it was; a ring whose REBIND waits stays in that state; a FATAL
ring's fault is its tenant's. A Lectern that is retired already, and one of no tenant, faults nothing (R107, R108, R114,
R142). -/
def Obligations.RingFaultState : Prop :=
  ∀ (s : State) (r : RingId),
    (∀ n, (s.ring r).owner = some n → (s.ring r).cause ≠ 2 → ∃ t, exec (.lecternFault r) s = .next t ∧
      t.rings = upd s.rings r (fun q => { q with
        state := if q.state = .rebindPend then .rebindPend else .fault
        cause := 2
        ats := []
        wait := none
        pkt := none
        pend := match q.pend with
          | some (false, _, _) => none
          | x => x }) ∧
      ((s.ring r).fatal = true → (s.ten n).cfg.bound = true → (s.ten n).faulted = false →
        (t.ten n).faulted = true ∧ (t.ten n).faultCause = 3 ∧ (t.ten n).faultRing = r.val) ∧
      ((s.ring r).fatal = false → ∀ k, (t.ten k).faulted = (s.ten k).faulted)) ∧
    ((s.ring r).owner = none ∨ (s.ring r).cause = 2 → exec (.lecternFault r) s = .next s)

/-- WAITB whose ABS target has passed goes on at once with its predicate at 0; every other WAITB waits for its point: the
Bell that the extension words name, or the COUNT-th Bell from now whose point has not passed (R79, R80). -/
def Obligations.WaitbWaits : Prop :=
  ∀ (s : State) (r : RingId) (c : OpCtx), Retires s r 0x30 semWaitb c →
    let pt := pointOf c
    let pred : Fin 4 := Fin.ofNat 4 (fld c.w 19 2)
    (c.w.getLsbD 21 = true → Passed s pt (bellOf c) → ∃ t, exec (.waitb r) s = .next t ∧
      OnlyRing s t r { (s.ring r).past (kept s r) 3 1 with p := upd (s.ring r).p pred (fun _ => false) }) ∧
    (c.w.getLsbD 21 = true → ¬ Passed s pt (bellOf c) →
      exec (.waitb r) s = .next (Waits s r (.bell pt (bellOf c) pred))) ∧
    (c.w.getLsbD 21 = false → ∃ b, exec (.waitb r) s = .next (Waits s r (.bell pt b pred)) ∧
      (∀ x, Passed s pt x → x + fld c.w 0 16 ≤ b) ∧ Passed s pt (b - fld c.w 0 16))

/-- A WAITB that waits goes on when its point has passed, on LATCH from 240 µs before the Bell on, with its predicate
at 1, and pays for itself then (R79). -/
def Obligations.WaitbEnds : Prop :=
  ∀ (s : State) (r : RingId) (c : OpCtx) (pt : BellPoint) (b : Nat) (pred : Fin 4),
    (s.ring r).wait = some (.bell pt b pred) →
    Stands { s with rings := upd s.rings r (fun q => { q with wait := none }) } r 0x30 c →
    1 ≤ (s.ring r).budget →
    (¬ LetGo s pt b → exec (.waitb r) s = .next s) ∧
    (LetGo s pt b → ∃ t, exec (.waitb r) s = .next t ∧
      OnlyRing s t r { (s.ring r).past (kept s r) (opWords c.w) 1 with
        wait := none
        p := upd (s.ring r).p pred (fun _ => true) })

/-- FENCE: RETIRE goes on at once; FROZEN and SHOWN wait for the announcement and the firing of the Bell of the tenant's
latest COMMIT, ATQ until no action of the ring is queued (R79). -/
def Obligations.FenceWaits : Prop :=
  ∀ (s : State) (r : RingId) (c : OpCtx), Retires s r 0x32 semFence c →
    let b := if (s.ten c.ten).commit = none then (s.ten c.ten).frozenBell
      else if Passed s .announce (s.bell.bellno.toNat + 1) then s.bell.bellno.toNat + 2 else s.bell.bellno.toNat + 1
    let scope := fld c.w 22 2
    let open' := scope = 0 ∨ (scope = 1 ∧ Passed s .announce b) ∨ (scope = 2 ∧ Passed s .fire b) ∨
      (scope = 3 ∧ (s.ring r).ats = [])
    (open' → ∃ t, exec (.fence r) s = .next t ∧ OnlyRing s t r ((s.ring r).past (kept s r) 1 1)) ∧
    (¬ open' → exec (.fence r) s = .next (Waits s r (.fence scope b)))

/-- AT queues its action words with the registers of its retirement, for the latch step of its target, or for the next
latch step where that has passed; a late AT with STRICT queues nothing (R73, R75, R136). -/
def Obligations.AtQueuesItsAction : Prop :=
  ∀ (s : State) (r : RingId) (c : OpCtx), Retires s r 0x31 semAt c →
    let target := if c.w.getLsbD 22 then bellOf c else s.bell.bellno.toNat + fld c.w 0 16
    let words := if c.w.getLsbD 22 then c.acts.drop 2 else c.acts
    (¬ Passed s .latch target → ∃ t, exec (.atq r) s = .next t ∧
      OnlyRing s t r { (s.ring r).past (kept s r) (opWords c.w) (2 + fld c.w 16 6) with
        ats := (s.ring r).ats ++ [AtAct.mk target target (c.w.getLsbD 23) c.seq words c.g] }) ∧
    (Passed s .latch target → c.w.getLsbD 23 = false → ∃ t b, exec (.atq r) s = .next t ∧ ¬ Passed s .latch b ∧
      Passed s .latch (b - 1) ∧
      OnlyRing s t r { (s.ring r).past (kept s r) (opWords c.w) (2 + fld c.w 16 6) with
        ats := (s.ring r).ats ++ [AtAct.mk target b false c.seq words c.g] }) ∧
    (Passed s .latch target → c.w.getLsbD 23 = true → ∃ t, exec (.atq r) s = .next t ∧ t.rings = upd s.rings r (fun q =>
      q.past (kept s r) (opWords c.w) (2 + fld c.w 16 6)))

/-! ### Registers, ports and mailboxes -/

namespace Sys2Proof.Machine

/-- Tenant `t`'s port is powered and awake, and its window answers (R42, R640). -/
abbrev Opened (s : State) (t : Ten) : Prop :=
  s.portsOn = true ∧ s.asleep = false ∧ (s.ten t).cfg.bound = true ∧ s.dead = false

/-- Port `p` is `t`'s. -/
abbrev OpenAt (s : State) (p : HostPort) (t : Ten) : Prop := Opened s t ∧ s.portTen p = some t

/-- The address of a word of `t`'s window. -/
def winAt (t : Ten) (off : Nat) : Nat := 4096 * (t.val + 1) + off

/-- The bytes of `n` words of a memory from an address, none of them uncorrectable. -/
abbrev Clean (ue : List Nat) (a n : Nat) : Prop := ∀ i, i < n → ¬ (a + 4 * i) / 8 ∈ ue

/-- The spare Lecterns that no REBIND holds (R114). -/
def freeSpares (s : State) : List Nat := s.spares.filter (fun l => !(s.rings.toList.any (fun q => q.spare == some l)))

/-- The last response of a framed port. -/
def respOf (s : State) (p : HostPort) : Option FResp := (s.portSt p).bind (·.resp)

/-- A request that a framed port can take: intact, and answered. -/
abbrev Sent (s : State) (p : HostPort) (q : FReq) : Prop :=
  q.crcOk = true ∧ q.classical = false ∧ q.skip = false ∧ (∀ n, p ≠ .pf n) ∧
    (∀ c, p.can? = some c → (at' s.ports.canSt c).busOff = false)

end Sys2Proof.Machine

/-- A register write to a page that is not the port's own window, or of less than a word, changes nothing but what is
counted and the idle time of the session (R21, R42, R43, R505). -/
def Obligations.ForeignWindowsAreInert : Prop :=
  ∀ (s : State) (p : HostPort) (t : Ten) (addr : Nat) (be : BitVec 4) (v : Word), s.portsOn = true → s.asleep = false →
    s.portTen p = some t → addr < 0x5000 → (addr / 4096 ≠ t.val + 1 ∨ be ≠ 0xF#4 ∨ addr % 4 ≠ 0) →
    ∃ u, exec (.registerWrite p addr be v) s = .next u ∧ Same (s.touch t) u

/-- Writes of words of a tenant's own window: EVQ_NOTIFY, EVQ_STAT.OVF, CH_EVEN, MB_LEN and MB_IDX (R22, R116, R277,
R645). -/
def Obligations.WindowWrites : Prop :=
  ∀ (s : State) (p : HostPort) (t : Ten) (v : Word), OpenAt s p t →
    let w := fun off => exec (.registerWrite p (winAt t off) 0xF#4 v) s
    let s1 := s.touch t
    w 0x218 = .next (s1.modTen t (fun q => { q with evq := { q.evq with notify := v.getLsbD 0 } })) ∧
    w 0x210 = .next (if v.getLsbD 30 then s1.modTen t (fun q => { q with evq := { q.evq with ovf := false } }) else s1) ∧
    (∀ c : Chap, w (0x310 + 4 * c.val) = .next (s1.modChap c (fun q => { q with
      even := upd q.even t (fun _ => v &&& 0xE0000FFF#32) }))) ∧
    w 0x800 = .next (s1.modBox t (fun b => { b with len := fld v 0 11 })) ∧
    w 0x80C = .next (s1.modBox t (fun b => { b with idx := fld v 0 11 }))

/-- A BELLNO_LO read returns the low word and holds the high part for the same reader; the BELLNO_HI read that follows
returns what was held, and one without it the live value with STALE (R50). -/
def Obligations.BellnoReadsAreAtomic : Prop :=
  ∀ (s : State) (p : HostPort) (t : Ten), s.portsOn = true → s.portTen p = some t →
    (∃ u, exec (.bellnoLoRead p) s = .next u ∧ at' u.ports.rdata t = s.bell.bellno.setWidth 32 ∧
      (u.ten t).hiHold = some ((s.bell.bellno >>> 32).setWidth 16)) ∧
    (∀ h, (s.ten t).hiHold = some h → ∃ u, exec (.bellnoHiRead p) s = .next u ∧
      at' u.ports.rdata t = h.setWidth 32 ∧ (u.ten t).hiHold = none) ∧
    ((s.ten t).hiHold = none → ∃ u, exec (.bellnoHiRead p) s = .next u ∧
      at' u.ports.rdata t = 0x80000000#32 ||| ((s.bell.bellno >>> 32).setWidth 16).setWidth 32 ∧
      (u.ten t).hiHold = none)

/-- A counter's low half read loads the holding register with the high half and the counter's number; the high half read
of the same counter returns it, and of another the live value with HSTALE (R610, R611). -/
def Obligations.CounterReadsAreAtomic : Prop :=
  ∀ (s : State) (p : HostPort) (t : Ten) (v : Fin 112), OpenAt s p t →
    let x := s.galView t v.val
    let n := galNumber t v.val
    (∃ u, exec (.counterLowRead p v) s = .next u ∧ at' u.ports.rdata t = x.setWidth 32 ∧
      (at' u.gal.tens t).holding = some (n, (x >>> 32).setWidth 32)) ∧
    (∀ h, (at' s.gal.tens t).holding = some (n, h) → ∃ u, exec (.counterHighRead p v) s = .next u ∧
      at' u.ports.rdata t = h ∧ (at' u.gal.tens t).holding = none ∧ (at' u.gal.tens t).hstale = false) ∧
    ((∀ h, (at' s.gal.tens t).holding ≠ some (n, h)) → ∃ u, exec (.counterHighRead p v) s = .next u ∧
      at' u.ports.rdata t = (x >>> 32).setWidth 32 ∧ (at' u.gal.tens t).hstale = true)

/-- MB_CMD submits a request with its code, token and arguments while the mailbox is neither busy nor ready, and does
nothing otherwise; a code that names no request is answered UNKNOWN; MB_DONE releases an answer; MB_DATA writes and reads
the word at IDX and moves IDX on (R645 to R649). -/
def Obligations.MailboxCommands : Prop :=
  ∀ (s : State) (t : Ten) (v : Word), Opened s t →
    let b := s.box t
    let s1 := s.touch t
    (b.busy = false → b.ready = false → fld v 16 16 ∈ requestCodes → s.needsSession t = false → b.len ≤ 1040 →
      exec (.mbCmd t v) s = .next (s1.modBox t (fun b => { b with
        busy := true
        pend := some (fld v 16 16, fld v 8 8, padTo (min b.len 1040) 0 b.buf, s.now) }))) ∧
    (b.busy = true ∨ b.ready = true → ∃ u, exec (.mbCmd t v) s = .next u ∧ Same s1 u) ∧
    (b.busy = false → b.ready = false → ¬ fld v 16 16 ∈ requestCodes → s.aisleRuns = true →
      ∃ u, exec (.mbCmd t v) s = .next u ∧ (u.box t).ready = true ∧ (u.box t).busy = false ∧ (u.box t).answer = 13 ∧
        (u.box t).token = fld v 8 8) ∧
    exec (.mbDone t v) s = .next (if v.getLsbD 0 then s1.modBox t (fun b => { b with ready := false }) else s1) ∧
    (b.idx < 1040 →
      (∃ u, exec (.mbData t none) s = .next u ∧ at' u.ports.rdata t = b.buf.getD b.idx 0 ∧
        (u.box t).idx = (b.idx + 1) % 1040) ∧
      (∃ u, exec (.mbData t (some v)) s = .next u ∧ (u.box t).buf.getD b.idx 0 = v ∧
        (∀ k, k ≠ b.idx → (u.box t).buf.getD k 0 = b.buf.getD k 0) ∧ (u.box t).idx = (b.idx + 1) % 1040))

/-- An accepted doorbell: PRODUCE moves the producer index; RESTART of a faulted ring and REBIND with a spare left wait
for the next Bell (R118, R119). -/
def Obligations.DoorbellsTaken : Prop :=
  ∀ (s : State) (t : Ten) (r : RingId) (idx : Nat), Opened s t → (s.ring r).owner = some t → (s.ten t).faulted = false →
    (s.ten t).resetAt = none → s.needsSession t = false → idx < 256 * 2 ^ (s.ring r).size → idx < 2 ^ 20 →
    (∃ u, exec (.doorbellProduce t r idx) s = .next u ∧ Same ((s.touch t).modRing r (fun q => { q with
      doorbell := w32 idx, prod := idx })) u) ∧
    ((s.ring r).state = .fault → (s.ring r).cause ≠ 2 → ∃ u, exec (.doorbellRestart t r idx) s = .next u ∧
      Same ((s.touch t).modRing r (fun q => { q with
        doorbell := w32 (2 ^ 30 + idx), pend := some (false, idx, s.bell.bellno.toNat + 1) })) u) ∧
    (∀ l, (s.ring r).state = .fault → (freeSpares s).min? = some l →
      ∃ u, exec (.doorbellRebind t r idx) s = .next u ∧ Same ((s.touch t).modRing r (fun q => { q with
        doorbell := w32 (2 ^ 31 + idx), state := .rebindPend, pend := some (true, idx, s.bell.bellno.toNat + 1)
        spare := some l })) u)

/-- A refused doorbell posts DOORBELL_REFUSED with the lowest reason that applies, and leaves the ring as it was
(R119). -/
def Obligations.DoorbellsRefused : Prop :=
  ∀ (s : State) (t : Ten) (r : RingId) (idx : Nat), Opened s t → (s.ring r).owner = some t → idx < 2 ^ 20 →
    let refused := fun (op why : Nat) => .next ((s.touch t).post t 0x0015 r.val none [w32 r.val, w32 op, w32 why])
    ((s.ten t).faulted = true → exec (.doorbellProduce t r idx) s = refused 0 6) ∧
    ((s.ten t).faulted = false → (s.ten t).resetAt = none → s.needsSession t = false →
      (256 * 2 ^ (s.ring r).size ≤ idx → exec (.doorbellProduce t r idx) s = refused 0 4) ∧
      (idx < 256 * 2 ^ (s.ring r).size →
        ((s.ring r).state ≠ .fault → exec (.doorbellRestart t r idx) s = refused 1 1 ∧
          exec (.doorbellRebind t r idx) s = refused 2 1) ∧
        ((s.ring r).state = .fault → (s.ring r).cause = 2 → exec (.doorbellRestart t r idx) s = refused 1 3) ∧
        ((s.ring r).state = .fault → freeSpares s = [] →
          exec (.doorbellRebind t r idx) s = refused 2 2)))

/-- At its Bell a RESTART resumes its ring at IDX with the registers kept; a REBIND moves it to the spare Lectern
that it holds, with the registers at 0 (R114, R118, R122). -/
def Obligations.RestartAndRebind : Prop :=
  ∀ (s : State) (t : Ten) (r : RingId) (idx b : Nat), (s.ring r).owner = some t → b ≤ s.bell.bellno.toNat →
    ((s.ring r).pend = some (false, idx, b) → ∃ u, exec .ringRestarted s = .next u ∧ u.ring r = { s.ring r with
      state := .run, cause := 0, rd := idx, prod := idx, lastSeq := none, pkt := none, pc := 0, pend := none }) ∧
    (∀ l, (s.ring r).pend = some (true, idx, b) → (s.ring r).spare = some l →
      (∀ r', r' ≠ r → ∀ i b', (s.ring r').pend ≠ some (true, i, b')) → ∃ u, exec .rebindDone s = .next u ∧
      u.ring r = { s.ring r with
        state := .run, cause := 0, rd := idx, prod := idx, lastSeq := none, pkt := none, pc := 0, pend := none
        spare := none, lectern := l, g := Vector.replicate 16 0, p := Vector.replicate 4 false } ∧
      (∀ x, x ∈ u.spares ↔ (x ∈ s.spares ∧ x ≠ l) ∨ (x = (s.ring r).lectern ∧ (s.ring r).cause ≠ 2)))

/-- TENANT_RESET requests a reset at the first Bell whose announcement follows; TEN_KICK restarts a running watchdog
period; EVQ_RD takes an index between EVQ_RD and EVQ_WR and no other (R90, R117, R120, R691). -/
def Obligations.TenantRegisterWrites : Prop :=
  ∀ (s : State) (t : Ten) (v : Word), Opened s t →
    let s1 := s.touch t
    let q := s.ten t
    (v.getLsbD 0 = true → q.resetAt = none → exec (.tenantResetReq t v) s = .next (s1.modTen t (fun q => { q with
      resetAt := some (s.bell.bellno.toNat + (if s.bell.ann = none then 1 else 2)) }))) ∧
    (v.getLsbD 0 = false ∨ q.resetAt ≠ none → exec (.tenantResetReq t v) s = .next s1) ∧
    (v.getLsbD 0 = true → q.faulted = false → q.resetAt = none → q.wdogFrom ≠ none →
      exec (.tenKick t v) s = .next (s1.modTen t (fun q => { q with wdogFrom := some s.now }))) ∧
    (q.faulted = true ∨ q.resetAt ≠ none ∨ q.wdogFrom = none ∨ v.getLsbD 0 = false → exec (.tenKick t v) s = .next s1) ∧
    (let c := 16 * 2 ^ q.cfg.evqSize
     let n := fld v 0 12
     (n < c → (n + c - q.evq.rd) % c ≤ (q.evq.wr + c - q.evq.rd) % c →
       ∃ u, exec (.evqRdWrite t v) s = .next u ∧ u.tens = upd s1.tens t (fun q => { q with evq := { q.evq with rd := n } })) ∧
     (c ≤ n ∨ (q.evq.wr + c - q.evq.rd) % c < (n + c - q.evq.rd) % c → exec (.evqRdWrite t v) s = .next s1))

/-- A watchdog period without a kick, a lost host link, a Function Level Reset, PCIE_PERST, a hot reset and bus-off put
their tenant into the fault state, with the cause of each (R108, R109, R638, R691). -/
def Obligations.TenantFaults : Prop :=
  ∀ (s : State) (t : Ten), (s.ten t).cfg.bound = true → (s.ten t).faulted = false →
    let faults := fun (c : Instr) (why : Nat) => ∃ u, exec c s = .next u ∧ (u.ten t).faulted = true ∧
      (u.ten t).faultCause = why
    (∀ f, s.live = true → (∀ x, s.power.entering ≠ some (.vigil, x)) → (s.ten t).wdogFrom = some f →
      (s.ten t).cfg.wdogMs ≠ 0 → f + ms (s.ten t).cfg.wdogMs ≤ s.now →
      faults .tenantWatchdogExpiry 2) ∧
    (s.live = true → s.linkGone (s.portOf t) = true → faults .hostLinkLost 1) ∧
    ((s.ten t).cfg.port = .pcie →
      faults (.pcieFlr t) 1 ∧ faults (.pciePerst true) 1 ∧ faults (.pcieLinkDown true) 1) ∧
    (∀ n : Fin 2, s.portTen (if n = 0 then .can0 else .can1) = some t → faults (.canBusOff n) 1)

/-- A Function Level Reset clears the function's memory enable and MSI-X state; a link that is up again has its links
back; the end of bus-off clears the channel's error counters (R629, R635, R638; log entry 25). -/
def Obligations.LinkState : Prop :=
  ∀ s : State,
    (∀ n : Ten, (∀ t, s.isCls n t = false) → ∃ u, exec (.pcieFlr n) s = .next u ∧
      (at' u.ports.pf n).mse = false ∧ at' (at' u.ports.pf n).msix 0 = (0, 0, true)) ∧
    (∃ u, exec (.pciePerst false) s = .next u ∧ u = { s with ports := { s.ports with perst := false } }) ∧
    (∃ u, exec (.pcieLinkDown false) s = .next u ∧ u.ports.dllUp = false ∧ u.tens = s.tens) ∧
    (∀ speed width : Nat, s.portsOn = true → s.ports.perst = false →
      ∃ u, exec (.pcieLinkUp speed width) s = .next u ∧ u.ports.dllUp = true ∧
        u.ports.speed = min speed s.ports.cfg.speed ∧ u.ports.width = min width s.ports.cfg.lanes ∧
        ∀ n : Ten, (at' u.ports.pf n).mse = true ∧ (at' u.ports.pf n).lost = false) ∧
    (∀ n : Fin 2, (at' s.ports.canSt n).busOff = true → ∃ u, exec (.canBusoffRecovery n) s = .next u ∧
      at' u.ports.canSt n = {} ∧ u.tens = s.tens)

/-- Framed requests that are in order are served and answered with status 0 and the data they read: WR, RD, RING, MWR, MRD,
EVQ and NOP (R622 to R625). -/
def Obligations.FramedRequests : Prop :=
  ∀ (s : State) (p : HostPort) (t : Ten) (q : FReq), OpenAt s p t → Sent s p q →
    let c := (s.ten t).cfg
    let n := q.nwm1.toNat + 1
    let a := q.addr.toNat
    let answered := fun (u : State) (data : List Word) => ∃ f, respOf u p = some ⟨q.op, q.tag, 0, f, data⟩
    n ≤ p.nwMax →
    (q.op = 0x01#8 → n = 1 → q.data.length = 1 → a = winAt t 0x800 →
      ∃ u, exec (.wr p q) s = .next u ∧ answered u [] ∧ (u.box t).len = fld (q.data.getD 0 0) 0 11) ∧
    (q.op = 0x02#8 → n = 1 → q.data = [] → a = 0 →
      ∃ u, exec (.rd p q) s = .next u ∧ answered u [0x07150003#32]) ∧
    (∀ r : RingId, q.op = 0x03#8 → q.data.length = n → fld q.addr 28 4 = r.val → fld q.addr 20 8 = 0 →
      (s.ring r).owner = some t → (s.ring r).under = true → fld q.addr 0 20 + n ≤ 256 * 2 ^ (s.ring r).size →
      ∃ u, exec (.ring p q) s = .next u ∧ answered u [] ∧
        u.under = Memory.writeN s.under (1024 * (s.ring r).base + 4 * fld q.addr 0 20) (wordsBytes q.data)) ∧
    (q.op = 0x04#8 → q.data.length = n → a % 4 = 0 → a + 4 * n ≤ c.regSize → s.lpUsable = true →
      ∃ u, exec (.mwr p q) s = .next u ∧ answered u [] ∧ u.lp = Memory.writeN s.lp (c.regBase + a) (wordsBytes q.data)) ∧
    (q.op = 0x05#8 → q.data = [] → a % 4 = 0 → a + 4 * n ≤ c.regSize → s.lpUsable = true →
      Clean s.memc.ueLp (c.regBase + a) n →
      ∃ u, exec (.mrd p q) s = .next u ∧ answered u (Memory.readWs s.lp (c.regBase + a) n)) ∧
    (q.op = 0x06#8 → q.data = [] → n = 8 → a < 16 * 2 ^ c.evqSize → c.evqUnder = true →
      Clean s.memc.ueUnder (c.evqBase + 32 * a) 8 →
      ∃ u, exec (.evq p q) s = .next u ∧ answered u (Memory.readWs s.under (c.evqBase + 32 * a) 8)) ∧
    (q.op = 0x07#8 → n = 1 → q.data = [] → a = 0 → ∃ u, exec (.framedNop p q) s = .next u ∧ answered u [])

/-- LOAD on the service port hands the next bytes of the stream in progress to the update service (R623, R633). -/
def Obligations.FramedLoad : Prop :=
  ∀ (s : State) (t : Ten) (q : FReq) (l : LoadJob), OpenAt s .svc t → Sent s .svc q → q.op = 0x08#8 →
    q.data.length = q.nwm1.toNat + 1 → q.data.length ≤ 1040 → s.update.load = some l → l.ten = t →
    l.got = q.addr.toNat →
    ∃ s1 u f, exec (.load .svc q) s = .next u ∧ Same { s with ports := s1.ports, cloister := (s.touch t).cloister } s1 ∧
      u = ((s1.loadStream (wordsBytes q.data)).modPort .svc (fun x => { x with
        resp := some ⟨q.op, q.tag, 0, f, []⟩, errSince := false })).svcAnswer .svc q

/-- A framed request whose check sequence is wrong is answered with status 1, and one of more words than its port takes
with status 2; neither has another effect (R624, R625). -/
def Obligations.FramedErrors : Prop :=
  ∀ (s : State) (p : HostPort) (q : FReq) (c : HostPort → FReq → Instr),
    c ∈ [Instr.wr, Instr.rd, Instr.ring, Instr.mwr, Instr.mrd, Instr.evq, Instr.framedNop, Instr.load] →
    s.portsOn = true → q.classical = false → q.skip = false → (∀ n, p ≠ .pf n) →
    (∀ n, p.can? = some n → (at' s.ports.canSt n).busOff = false) →
    (q.crcOk = false → ∃ u f, exec (c p q) s = .next u ∧ respOf u p = some ⟨q.op, q.tag, 1, f, []⟩ ∧
      Same { s with ports := u.ports, free := u.free } u) ∧
    (q.crcOk = true → q.nwm1.toNat + 1 > p.nwMax → ∃ u f, exec (c p q) s = .next u ∧
      respOf u p = some ⟨q.op, q.tag, 2, f, []⟩ ∧ Same { s with ports := u.ports, free := u.free } u)

/-- A PCIe function writes and reads its tenant's region through BAR2 (R189, R635, R636). -/
def Obligations.PcieRegionAccess : Prop :=
  ∀ (s : State) (t : Ten) (off : Nat), OpenAt s (.pf t) t → s.lpUsable = true →
    (∀ bs : List Byte, off + bs.length ≤ (s.ten t).cfg.regSize →
      ∃ u, exec (.pcieBar2Write t off (bs.map some)) s = .next u ∧
        u.lp = Memory.writeN s.lp ((s.ten t).cfg.regBase + off) bs) ∧
    (∀ n : Nat, off + 4 * n ≤ (s.ten t).cfg.regSize → Clean s.memc.ueLp ((s.ten t).cfg.regBase + off) n →
      ∃ u, exec (.pcieBar2Read t off (4 * n)) s = .next u ∧
        (at' u.ports.pf t).rdata = Memory.readWs s.lp ((s.ten t).cfg.regBase + off) n)

/-! ### Management requests -/

namespace Sys2Proof.Machine

/-- The command answers tenant `t`'s request on `s'` with a code and data: the answer stands in its mailbox (R645, R646). -/
def Answered (c : Instr) (s s' : State) (t : Ten) (code : Nat) (data : List Word) : Prop :=
  ∃ u, exec c s = .next u ∧ u = s'.answer t code data ∧ (u.box t).ready = true ∧ (u.box t).busy = false ∧
    (u.box t).pend = none ∧ (u.box t).answer = code ∧ (u.box t).alen = data.length ∧
    (u.box t).buf.take data.length = data

/-- Tenant `t` waits for the answer to a request of a code, which is served, with these arguments. -/
abbrev Asks (s : State) (t : Ten) (code : Nat) (args : List Word) : Prop := s.request t code = some args

/-- The Cloister serves a request of `t` (R509, R510). -/
abbrev AsksClo (s : State) (t : Ten) (code : Nat) (args : List Word) : Prop :=
  Asks s t code args ∧ s.cloister.glitches.length < 8

/-- An update request of a SERVICE tenant (R549): in Locked its session has the UPDATE flag. -/
abbrev AsksUpd (s : State) (t : Ten) (code : Nat) (args : List Word) : Prop :=
  Asks s t code args ∧ s.isCls t .service = true ∧
    (s.cloister.life = 2 → (at' s.cloister.reqs (tenReq t)).session.any (fun x => x.flags.getLsbD 1) = true)

/-- A bit of a Bool as a word. -/
def boolW (b : Bool) : Word := if b then 1 else 0

end Sys2Proof.Machine

/-- Queries of the Chapels, the light and the Choir are answered OK with what the spec lists for each (R305, R333, R378). -/
def Obligations.PictureQueriesAnswer : Prop :=
  ∀ (s : State) (t : Ten) (a : List Word),
    (∀ c : Chap, Asks s t 0x0304 a → (a.getD 0 0).toNat = c.val → s.mayChapel t = true →
      let q := s.chap c
      Answered (.chQuery t) s s t 0 [w32 q.state.query, w32 q.profile, w32 q.ht, boolW q.armed ||| boolW q.tripped <<< 1,
        w32 q.trips, w32 q.lastRefusal]) ∧
    (Asks s t 0x0304 a → s.mayChapel t = false → Answered (.chQuery t) s s t 1 []) ∧
    (∀ o : OutId, Asks s t 0x0401 a → outOf (a.getD 0 0).toNat = some o → (a.getD 0 0).toNat ≠ 14 →
      (a.getD 0 0).toNat ≠ 15 → let q := s.out o
      let r := s.rail (Fin.ofNat 2 q.cfg.rail)
      ∃ m, Answered (.drvQuery t) s s t 0 [m, w32 q.active.code, w32 q.active.duty, w32 q.active.period,
        boolW q.active.scramble, w32 (s.fOut o), w32 (s.ceilD o), q.appliedSeq, i32 q.t16, w32 r.vSet, w32 r.hMin]) ∧
    (Asks s t 0x0402 a → Answered (.kmQuery t) s s t 0 (segWords s.light.matrix.taken ++
      segWords (at' s.light.matrix.lit) ++ segWords (at' s.light.matrix.open') ++ [w32 s.kmOn])) ∧
    (∀ i : Slot, Asks s t 0x0501 a → (a.getD 0 0).toNat = i.val → ∃ s1 d, Answered (.clQuery t) s s1 t 0 d ∧
      s1.choir = s.choir ∧ d.length = 21 ∧
      let q := s.slot i
      d.take 7 = [w32 (if q.cfg.en then q.cfg.kind.code else 0), w32 q.cfg.target, w32 q.cfg.owner.val, w32 q.state.code,
        w32 q.group.val, boolW q.order, boolW q.rep] ∧
      (d.drop 10).take 6 = q.chan.toList.map (fun h => w32 h.u) ++ q.chan.toList.map (fun h => i32 h.x0) ∧
      d.drop 17 = [w32 q.overruns, w32 q.consec, boolW (q.shadow != q.active), q.tableGen]) ∧
    (Asks s t 0x0501 a → 16 ≤ (a.getD 0 0).toNat → Answered (.clQuery t) s s t 5 []) ∧
    (Asks s t 0x0503 a → s.activeBank.elim (∃ s1 v, Answered (.calQuery t) s s1 t 0 [v, 0, 0])
      (fun b => Answered (.calQuery t) s s t 0 ([w32 b.val, s.bankGen b, w32 (s.bankNent b)] ++
        Memory.readWs s.moa (bankAddr b + 64) (4 * s.bankNent b)))) ∧
    (∀ k : Fin 8, Asks s t 0x0601 a → (a.getD 0 0).toNat = k.val → let q := s.pdIn k
      Answered (.kwQuery t) s s t 0 ([w32 q.role.code, w32 q.chap.val, w32 q.dark] ++ q.gain.toList.map w32 ++
        [q.gainGen, w32 q.deferral, boolW q.reserved] ++
        q.last.flatMap (fun x => words2 (unsgn 64 x.m) ++ words2 x.eVal ++ [w32 x.n, boolW x.sat])))

/-- Queries of power, temperature, the recorder, the chain, the Gallery and the ports are answered OK with what the spec
lists for each (R443, R467, R574, R602, R618, R640). -/
def Obligations.SystemQueriesAnswer : Prop :=
  ∀ (s : State) (t : Ten) (a : List Word),
    (Asks s t 0x0701 a → ∃ m, Answered (.pwrQuery t) s s t 0 ([w32 s.power.state.code, w32 s.targetOf.code, w32 s.tTol.1,
      w32 s.tTol.2, w32 (s.ten 0).ptol, w32 (s.ten 1).ptol, w32 (s.ten 2).ptol, w32 (s.ten 3).ptol, m,
      w32 s.power.cause.code, w32 (s.power.startSrc.elim 0 WakeSrc.code), s.sinceWake s.power.bell1At,
      s.sinceWake s.power.tellAt, w32 s.power.vbakMv])) ∧
    (∀ k : Fin 10, Asks s t 0x0801 a → (a.getD 0 0).toNat = k.val → let q := s.th k
      ∃ m, Answered (.thQuery t) s s t 0 [w32 q.cfg.mode.code, w32 q.cfg.scope, w32 q.state.code, boolW q.fast, i32 q.t16,
        i32 q.act, m, w32 q.level, w32 q.f]) ∧
    (Asks s t 0x0801 a → (a.getD 0 0).toNat = 0xFF → ∃ d, Answered (.thQuery t) s s t 0 (d ++ [boolW s.thermal.hold,
      boolW (at' s.thermal.cmp 0), boolW (at' s.thermal.cmp 1)]) ∧ d.length = 18 ∧
      ∀ k : Fin 9, d.getD (2 * k.val) 0 = w32 (at' s.thermal.level k) ∧
        d.getD (2 * k.val + 1) 0 = w32 (at' s.thermal.f k)) ∧
    (Asks s t 0x0B01 a → s.notApp t = true → ∃ d, Answered (.relStatus t) s s t 0 ([w32 s.reliq.era, w32 s.reliq.next,
      w32 ((s.reliq.newest.map (·.rep)).getD 0), boolW s.reliq.full, w32 s.reliq.drops, w32 s.reliq.buf.length] ++ d ++
      [boolW s.calSet, w32 s.cal, w32 (s.cal / 2 ^ 32)]) ∧
      d = s.reliq.freeze.elim [0, 0, 0] (fun f => [1, w32 f.ten.val, w32 (f.ms - (s.now - f.start) / ms 1)])) ∧
    (∀ k n : Nat, Asks s t 0x0B02 a → (a.getD 0 0).toNat = k → (a.getD 1 0).toNat = n → s.notApp t = true → 1 ≤ n →
      n ≤ 16 → k + n ≤ 65536 → Answered (.relRead t) s s t 0 (bytesWords ((List.range n).flatMap (fun i =>
        s.relView (k + i))))) ∧
    (∀ c : Nat, Asks s t 0x0B06 a → (a.getD 0 0).toNat = c → metricCode c = true →
      (s.notApp t = true ∨ metricTen c = some t) → ∀ m, s.reliq.accs.find? (fun x => x.code == c) = some m →
      Answered (.relMetric t) s s t 0 (m.bins.map w32 ++ [w32 m.shift, w32 m.samples] ++ words2 m.sum ++ [w32 m.minV] ++
        words2 m.minT ++ [w32 m.maxV] ++ words2 m.maxT ++ words2 m.first ++ words2 m.last)) ∧
    (∀ n : Nat, Asks s t 0x0C01 a → s.chain.addr = some n → let c := s.chain
      Answered (.halQuery t) s s t 0 [w32 n, w32 c.length, boolW c.u.up, w32 c.u.delay, boolW c.d.up, w32 c.d.delay,
        boolW c.following, c.cbOff, i32 c.skew, w32 c.stSent, w32 c.stDeliv, w32 c.stFail, w32 c.stDup]) ∧
    (Asks s t 0x0D01 a → ∃ x, Answered (.galQuery t) s s t 0 ([w32 (s.ten t).cfg.obs.toNat, w32 (at' s.gal.tens t).tren] ++
      (at' s.gal.tens t).codes.toList.map w32 ++ [boolW s.gal.tron] ++ x) ∧ x.length = 2) ∧
    (Asks s t 0x0E01 a → ∃ s1, Answered (.hpQuery t) s s1 t 0 (s1.hpData t) ∧ s1.tens = s.tens ∧ s1.chaps = s.chaps)

/-- Requests to a Chapel wait for the next announcement, a STOP where the Chapel starts or runs, a START where it is off or
stopped, a RECONF where it runs or is stopped; in another state they are answered STATE at once (R300, R305). -/
def Obligations.ChapelRequestsWait : Prop :=
  ∀ (s : State) (t : Ten) (a : List Word) (c : Chap) (n : Nat), s.mayChapel t = true → (a.getD 0 0).toNat = c.val →
    (a.getD 1 0).toNat = n →
    let st := (s.chap c).state
    let hot := s.chapHot c
    let waits := fun (i : Instr) (k : ChReqKind) (m : Nat) => ∃ u, exec i s = .next u ∧
      u = s.modChap c (fun q => { q with reqs := (q.reqs.filter (fun y => y.ten != t || y.kind != k || y.profile != m)) ++
        [{ kind := k, profile := m, ten := t }] })
    let fresh := fun (k : ChReqKind) => ∀ x ∈ (s.chap c).reqs, x.ten = t → x.kind ≠ k
    let sound := ∃ bs p, s.profile c n = some bs ∧ s.chapCheck c bs = .ok p
    (Asks s t 0x0302 a → fresh .stop →
      (st = .starting ∨ st = .run → waits (.chStop t) .stop 0) ∧
      (st = .off ∨ st = .stopping ∨ st = .stopped → Answered (.chStop t) s s t 2 [])) ∧
    (Asks s t 0x0301 a → fresh .start → n < 4 →
      ((st = .off ∨ st = .stopped) → hot = false → sound → waits (.chStart t) .start n) ∧
      (st = .starting ∨ st = .run ∨ st = .stopping ∨ hot = true → Answered (.chStart t) s s t 2 [])) ∧
    (Asks s t 0x0303 a → fresh .reconf → n < 4 →
      ((st = .run ∨ st = .stopped) → hot = false → sound → waits (.chReconf t) .reconf n) ∧
      (st = .off ∨ st = .starting ∨ st = .stopping ∨ hot = true → Answered (.chReconf t) s s t 2 []))

/-- The requests that change the light, the Witness, the prime area, the recorder and the Gallery have the effect that the
spec gives each, and are answered (R329, R397, R439, R440, R571, R572, R574, R615, R618, R599). -/
def Obligations.ControlRequests : Prop :=
  ∀ (s : State) (t : Ten) (a : List Word),
    (∀ r : Fin 2, Asks s t 0x0403 a → (a.getD 0 0).toNat = r.val → (s.rail r).en = true → (s.rail r).owner = t →
      (s.rail r).stopped = true → at' s.thermal.level (Fin.ofNat 9 (5 + r.val)) < 2 →
      ∃ s1, Answered (.railRestart t) s s1 t 0 [] ∧ (s1.rail r).stopped = false ∧ (s1.rail r).vSet = (s.rail r).vMin ∧
        ∀ o ∈ s.railSinks r, (s1.out o).stopped = false) ∧
    (∀ (i : Slot) (c : Capture), Asks s t 0x0502 a → (a.getD 0 0).toNat = i.val → (s.slot i).cap = some c → c.ten = t →
      c.done = true → 2 ≤ (a.getD 2 0).toNat → (a.getD 2 0).toNat ≤ 1024 → (a.getD 2 0).toNat % 2 = 0 →
      (a.getD 1 0).toNat + (a.getD 2 0).toNat ≤ c.bytes →
      Answered (.capRead t) s s t 0 (bytesWords (Memory.readN s.under (poolAddr c.first + (a.getD 1 0).toNat)
        (a.getD 2 0).toNat))) ∧
    (∀ k : Fin 8, Asks s t 0x0602 a → s.isCls t .service = true → (a.getD 0 0).toNat = k.val → 1 ≤ (a.getD 1 0).toNat →
      (a.getD 1 0).toNat ≤ 64 → (s.pdIn k).role ≠ .unused → (s.chap (s.pdIn k).chap).state = .run → s.witness.cal = none →
      ∃ s1, Answered (.kwCal t) s s1 t 0 [] ∧ s1.witness.cal =
        some { pd := k, ten := t, left := (a.getD 1 0).toNat + 1, frames := (a.getD 1 0).toNat }) ∧
    (Asks s t 0x0702 a → s.isCls t .safety = true → 4 ≤ (a.getD 1 0).toNat → (a.getD 1 0).toNat ≤ 1024 →
      (a.getD 1 0).toNat % 4 = 0 → (a.getD 0 0).toNat + (a.getD 1 0).toNat ≤ primeSize - primeArea →
      ∃ s1, Answered (.primeWrite t) s s1 t 0 [] ∧ s1.moa = Memory.writeN s.moa (primeBase + primeArea + (a.getD 0 0).toNat)
        (padTo (a.getD 1 0).toNat 0 (wordsBytes (a.drop 2)))) ∧
    (Asks s t 0x0703 a → s.isCls t .safety = true → s.prime.setBusy = none → ∃ s1, Answered (.primeSet t) s s1 t 0 [] ∧
      ∃ x, s1.prime.setBusy = some x ∧ x.1 = s.manGen + 1) ∧
    (Asks s t 0x0704 a → s.isCls t .safety = true ∨ s.isCls t .service = true → 4 ≤ (a.getD 1 0).toNat →
      (a.getD 1 0).toNat ≤ 1024 → (a.getD 0 0).toNat + (a.getD 1 0).toNat ≤ primeSize →
      Answered (.primeRead t) s s t 0 (bytesWords (Memory.readN s.moa (primeBase + (a.getD 0 0).toNat)
        (a.getD 1 0).toNat))) ∧
    (∀ n : Nat, Asks s t 0x0B03 a → (a.getD 0 0).toNat = n → s.notApp t = true → 1 ≤ n → n ≤ 10000 →
      s.reliq.freeze = none → (∀ x, s.reliq.thawAt = some x → x + ms 1000 ≤ s.now) →
      ∃ s1, Answered (.relFreeze t) s s1 t 0 [w32 n] ∧
        s1.reliq.freeze = some { ten := t, ms := n, start := s.now, startT := s.cal }) ∧
    (∀ f, Asks s t 0x0B04 a → s.notApp t = true → s.reliq.freeze = some f → f.ten = t →
      ∃ s1, Answered (.relThaw t) s s1 t 0 [] ∧ s1.reliq.freeze = none ∧ s1.reliq.hold = []) ∧
    (Asks s t 0x0B05 a → s.isCls t .service = true → s.cloister.life ≠ 3 →
      (s.cloister.life = 2 → s.inSession (tenReq t) = true) → s.reliq.freeze = none →
      ∃ s1, Answered (.relErase t) s s1 t 0 [w32 s1.reliq.era] ∧ s1.reliq.era = (s.reliq.era + 1) % 65536 ∧
        s1.reliq.next = 1 ∧ s1.reliq.buf = [] ∧ s1.reliq.accs = []) ∧
    (∀ k : Fin 48, Asks s t 0x0D02 a → s.needsSession t = false → (a.getD 0 0).toNat = k.val →
      selValid (a.getD 1 0).toNat = true → s.selAllowed t (a.getD 1 0).toNat = true →
      ∃ s1, Answered (.galAssign t) s s1 t 0 [] ∧
        (k, (a.getD 1 0).toNat) ∈ (at' s1.gal.tens t).pend ∧ at' (at' s1.gal.tens t).codes k = 0) ∧
    (Asks s t 0x0D03 a → s.needsSession t = false → (a.getD 0 0).toNat < 8 →
      (∀ i, i < 3 → (a.getD 0 0).getLsbD i = true → (s.ten t).cfg.obs.getLsbD (5 + i) = true) →
      ∃ s1, Answered (.galTrace t) s s1 t 0 [] ∧ (at' s1.gal.tens t).trenPend = some (a.getD 0 0).toNat) ∧
    (∀ n id : Nat, Asks s t 0x0C02 a → s.chain.addr = some n → (a.getD 0 0).toNat = n → (a.getD 1 0).toNat = id →
      (s.isCls t .safety = true ∨ s.isCls t .service = true) → 1 ≤ (a.getD 3 0).toNat → (a.getD 3 0).toNat ≤ 64 →
      let h := s.sweepHeld id
      ∃ u, exec (.sweepFetch t) s = .next u ∧ u = s.fetchAnswer t h.1 h.2.length
        ((h.2.drop (a.getD 2 0).toNat).take (a.getD 3 0).toNat) (a.getD 3 0).toNat) ∧
    (∀ w, Asks s t 0x0C03 a → s.isCls t .service = true → (a.getD 0 0).toNat = 0xFFFF → s.chain.length ≤ 1 →
      s.chain.sweep = some w → w.complete = true → ∃ s1, Answered (.sweepRelease t) s s1 t 0 [1] ∧ s1.chain.sweep = none)

/-- The Cloister's requests (R477 to R483, R489, R501 to R506, R510). A challenge draws a nonce; a nonce serves one request;
a good signature of the owner key opens a session, locks the unit or rotates the key; one of the maker's returns it. A
record that PROVISION accepts while the on-die sensors lie outside -40 to 125 degrees is answered STATE (R686). -/
def Obligations.CloisterRequests : Prop :=
  ∀ (s : State) (t : Ten) (a : List Word) (q : Fin 5), q = tenReq t → s.memOk →
    let sig := wordsBytes (padTo 16 0 a)
    let noSig := fun (c : Instr) (s1 : State) => Answered c s s1 t 7 []
    (AsksClo s t 0x0901 a → ∃ d, Answered (.cloQuery t) s s.ownerWord.2 t 0 d ∧ d.getD 0 0 = s.lifecycle) ∧
    (AsksClo s t 0x0902 a → t ≠ 3 → Answered (.provision t) s s t 1 []) ∧
    (AsksClo s t 0x0902 a → t = 3 → s.cloister.life = 0 → s.power.restart = false → s.cloister.trngError = false →
      s.provValid 0 = false → s.provValid 1 = false → s.provFree 0 = true →
      (provCheck ((wordsBytes (padTo 144 0 a)).take 512) s.lpU).elim
        (if s.otpReady = true then
          ∃ d s1, d = s.reseed.drawScalar.1 ∧ 0 < d ∧ d < ecN ∧ Answered (.provision t) s s1 t 0 (bytesWords (ecPub d)) ∧
            s1.power.restart = true ∧ s1.lifeStep 0 = true
         else Answered (.provision t) s s t 2 [])
        (fun o => Answered (.provision t) s s t 5 [w32 o])) ∧
    (∀ n, AsksClo s t 0x0903 a → s.isCls t .service = true → s.cloister.life = 1 → s.power.restart = false →
      s.otpReady = true → s.nonce q = some n → ∃ s1, s1.nonce q = none ∧
      if s.ownerSigned (s.lifeMsg [0x4C, 0x4F, 0x43, 0x4B] n) sig = true then ∃ s2, Answered (.lock t) s s2 t 0 [] ∧
        s2.nonce q = none ∧ s2.power.restart = true ∧ s2.lifeStep 1 = true
      else noSig (.lock t) s1) ∧
    (AsksClo s t 0x0904 a → (∀ b, (at' s.cloister.reqs q).busyUntil = some b → b ≤ s.now) →
      s.cloister.trngError = false → ∃ s1 n, Answered (.cloChallenge t) s s1 t 0 (bytesWords n) ∧ s1.nonce q = some n ∧
        n.length = 32) ∧
    (∀ b, AsksClo s t 0x0904 a → (at' s.cloister.reqs q).busyUntil = some b → s.now < b →
      Answered (.cloChallenge t) s s t 10 []) ∧
    (∀ n, AsksClo s t 0x0905 a → s.isCls t .service = true → s.nonce q = some n →
      if s.ownerSigned (s.sessMsg n (a.getD 0 0)) (wordsBytes (padTo 16 0 (a.drop 1))) = true then
        ∃ s1, Answered (.cloResponse t) s s1 t 0 [3600] ∧ s1.inSession q = true ∧ s1.nonce q = none
      else ∃ s1, Answered (.cloResponse t) s s1 t 7 [] ∧ s1.nonce q = none ∧
        (at' s1.cloister.reqs q).fails = (at' s.cloister.reqs q).fails + 1) ∧
    (AsksClo s t 0x0906 a → s.duk ≠ 0 → ∃ s1 x k, Answered (.cloAttest t) s s1 t 0 (bytesWords
      (s.statement t (wordsBytes (padTo 8 0 a)) x ++ ecdsaSign s.duk k (s.statement t (wordsBytes (padTo 8 0 a)) x)))) ∧
    (∀ n, AsksClo s t 0x0907 a → s.isCls t .service = true → s.cloister.life = 1 ∨ s.cloister.life = 2 →
      s.power.restart = false → s.otpReady = true → s.nonce q = some n → ∃ s1, s1.nonce q = none ∧
      if signedBy (s.otpB 0 32) (s.lifeMsg [0x52, 0x45, 0x54, 0x4E] n) sig = true then
        ∃ s2, Answered (.return t) s s2 t 0 [] ∧ s2.power.restart = true ∧ s2.lifeStep 2 = true
      else noSig (.return t) s1) ∧
    (∀ n k, AsksClo s t 0x0908 a → s.isCls t .service = true → s.cloister.life ≠ 0 → s.otpReady = true → s.nonce q = some n →
      s.ownerSlot = some k → ∃ s1, s1.nonce q = none ∧
      let key := (wordsBytes (padTo 32 0 a)).take 64
      if signedBy (s.ownerHash k) ([0x52, 0x4F, 0x54, 0x4B] ++ s.devUid ++ n ++ key)
        ((wordsBytes (padTo 32 0 a)).drop 64) = true then
        if (List.range 4).all s.ownerUsed = true then Answered (.ownerRotate t) s s1 t 11 []
        else ∃ s2 v, Answered (.ownerRotate t) s s2 t 0 [v] ∧ s2.ownerRevoked k = true
      else noSig (.ownerRotate t) s1) ∧
    (∀ n : Nat, AsksClo s t 0x0909 a → (a.getD 0 0).toNat = n → 1 ≤ n → n ≤ 64 → s.cloister.trngError = false →
      ∃ s1 bs, Answered (.rngRead t) s s1 t 0 (bytesWords bs) ∧ bs.length = n)

/-- The update requests (R524 to R526, R533, R536, R549): a header begins a transfer or is refused with the first failing
check, a chunk is stored, CHECK runs over a complete transfer, its end stages or ends it, ARM arms, LOAD opens. -/
def Obligations.UpdateRequests : Prop :=
  ∀ (s : State) (t : Ten) (a : List Word),
    let h := wordsBytes (padTo 128 0 a)
    (Asks s t 0x0A01 a → ∃ d, Answered (.updQuery t) s s t 0 d ∧ d.getLast? = some (w32 s.rbFloor)) ∧
    (AsksUpd s t 0x0A02 a → s.updStep = false →
      (s.update.jrec.state = .receiving → sha256 h = s.update.jrec.hdrHash →
        Answered (.updBegin t) s s t 0 [w32 (hdrChunks h), w32 (s.stored h)]) ∧
      (s.update.jrec.state ≠ .receiving → (s.hdrCheck .mailbox h).elim
        (∃ s1, Answered (.updBegin t) s s1 t 0 [w32 (hdrChunks h), w32 (s1.stored h)] ∧
          s1.update.jrec.state = .receiving ∧ s1.update.jrec.hdrHash = sha256 h)
        (fun r => ∃ s1, Answered (.updBegin t) s s1 t 12 [w32 r] ∧ s1.update = s.update ∧ s1.moa = s.moa))) ∧
    (AsksUpd s t 0x0A03 a → s.updStep = false → s.update.jrec.state = .receiving →
      let i := (a.getD 0 0).toNat
      let bs := wordsBytes (a.drop 1)
      (hdrChunks s.xferHdr ≤ i ∨ bs.length ≠ wireLen s.xferHdr i → Answered (.updChunk t) s s t 5 []) ∧
      (i < hdrChunks s.xferHdr → bs.length = wireLen s.xferHdr i → s.destLocked s.xferHdr = true →
        Answered (.updChunk t) s s t 2 []) ∧
      (i < hdrChunks s.xferHdr → bs.length = wireLen s.xferHdr i → s.destLocked s.xferHdr = false → (s.chunkOpen s.xferHdr i bs).elim
        (Answered (.updChunk t) s s t 7 [])
        (fun p => ∃ s1, Answered (.updChunk t) s s1 t 0 [] ∧ s1.moa = if s.mapAt i = true then s.moa else
          Memory.writeN (Memory.writeN s.moa (s.destOf s.xferHdr + 0x1000 + 4096 * i) p) (jMapAddr + i) [0xA5]))) ∧
    (AsksUpd s t 0x0A04 a →
      (s.updStep = false → s.complete = true → ∃ s1, Answered (.updCheck t) s s1 t 0 [] ∧
        s1.update.check = some { route := .mailbox, ten := some t, start := s.now }) ∧
      (s.updStep = true ∨ s.complete = false → Answered (.updCheck t) s s t 2 [])) ∧
    (∀ j, s.update.check = some j → ∃ u, exec .updCheckDone s = .next u ∧ u.update.check = none ∧
      u.update.jrec.state = (if sha256 (Memory.readN s.moa (s.destOf s.xferHdr + 0x1000) (hdrSize s.xferHdr)) ==
        hdrDigest s.xferHdr then .staged else .idle)) ∧
    (AsksUpd s t 0x0A05 a →
      (s.canArm (some t) = true → a.getD 0 0 = hdrVersion s.xferHdr → ∃ s1, Answered (.updArm t) s s1 t 0 [] ∧
        s1.update.jrec.state = .armed) ∧
      (s.canArm (some t) = false ∨ a.getD 0 0 ≠ hdrVersion s.xferHdr → Answered (.updArm t) s s t 2 [])) ∧
    (AsksUpd s t 0x0A06 a → (s.ten t).cfg.port = .svc → s.updStep = false → ∃ s1, Answered (.updLoad t) s s1 t 0 [] ∧
      s1.update.load = some { ten := t, last := s.now })

/-! ### The Bell, tenants, the Cloister and updates: events of the block's own -/

/-- An announcement falls where R62 and R63 put it, and freezes each tenant's commit; the latch takes the Keystone
store over; the Bell raises BELLNO by one; a Chime moves its group on; the aisles take over from each other (R53, R60,
R62, R63, R66, R69, R71, R138; log entry 2). -/
def Obligations.BellCommands : Prop :=
  ∀ s : State,
    (∀ (x : AnnIn) (b : Time), s.live = true → s.bell.enabled = true → s.bell.ann = none →
      s.chain.following = false → s.chain.lost = false → s.bell.lastAt = some b → s.bell.winAt = none →
      let d := b + cyc (if s.uncommitted.isEmpty then s.floorEff else s.ceilEff) - us 1500
      s.now ≤ d → d % 16 = 0 →
      ∃ u, exec (.bellAnnounce x) s = .next u ∧ u = ({ s with now := d } : State).announce (!s.uncommitted.isEmpty) x ∧
        u.bell.ann ≠ none ∧ u.bell.latchDone = false) ∧
    (∀ (x : AnnIn), s.bell.ann ≠ none → exec (.bellAnnounce x) s = .next s) ∧
    (∀ (t : Ten) (q : Word), (s.ten t).commit = some q →
      ((s.ten t).faulted = false → s.clearing t = false → ((s.freezeTen t).ten t).frozen = some q ∧
        ((s.freezeTen t).ten t).frozenBell = s.bell.bellno.toNat + 1 ∧ ((s.freezeTen t).ten t).commit = none) ∧
      ((s.ten t).faulted = true ∨ s.clearing t = true → s.freezeTen t = s)) ∧
    (∀ a, s.bell.ann = some a → s.bell.latchDone = false → ∃ s1 u, exec .keystoneLatch s = .next u ∧
      s1 = ((s.passTo (a + us 1250)).latchActs (s.bell.bellno.toNat + 1)).keyLoaded ∧ u.ovl = s1.key ∧
      u.bell.latchDone = true) ∧
    (∀ a, s.bell.ann = some a → s.bell.latchDone = true → ∃ u, exec .keystoneLatch s = .next u ∧ u.ovl = s.ovl ∧
      u.bell = s.bell ∧ a + us 1260 ≤ u.now) ∧
    (∀ (x : CellIn) (a : Time), s.bell.ann = some a → s.chain.following = false →
      ∃ u, exec (.bellFire x) s = .next u ∧ u.bell.bellno = s.bell.bellno + 1 ∧ u.bell.ann = none ∧
        u.bell.lastAt = some (a + us 1500) ∧ a + us 1500 ≤ u.now) ∧
    (∀ (g : Fin 4) (x : ChimeIn) (d : Time), s.nextChime g = some d → s.live = true →
      ∃ u, exec (.chimeTick g x) s = .next u ∧ at' u.bell.k g = at' s.bell.k g + 1 ∧ d ≤ u.now) ∧
    (∀ ecc : Bool, s.live = true → s.power.takeover = none →
      ∃ u, exec (.aisleWatchdogExpiry ecc) s = .next u ∧ u.power.takeover = some s.now) ∧
    (∀ a, s.power.takeover = some a → s.live = true → s.power.standbyReady = false → ∃ u, exec .aisleTakeover s = .next u ∧
      u.power.takeover = none ∧ u.power.south = !s.power.south) ∧
    (s.live = true → s.power.takeover = none → s.update.act = none → s.imgOk s.update.runOther = true →
      ∃ u, exec .standbyAisleReady s = .next u ∧
      Same { s with power := u.power } u ∧ u.power.standbyReady = true)

/-- A tenant reset ends the tenant's fault, its surfaces, its mailbox request and its session, and empties its rings;
EVQ_OVERFLOW follows drops once there is space; three TRNG failures in a second are an error; the DRBG is reseeded;
sessions and lockouts end; a glitch is counted and answers the request served (R106, R112, R113, R501, R502, R505,
R506, R509; log entry 2). -/
def Obligations.TenantAndCloisterEvents : Prop :=
  ∀ s : State,
    (∀ (t : Ten) (b : Nat), (s.ten t).resetAt = some b → b ≤ s.bell.bellno.toNat → ∃ u, exec .tenantResetEffect s = .next u ∧
      (u.ten t).faulted = false ∧ (u.ten t).resetAt = none ∧ at' u.surfs t = [] ∧ (u.box t).busy = false ∧
      (u.box t).ready = false ∧ u.inSession (tenReq t) = false ∧
      ∀ r : RingId, (s.ring r).owner = some t → (u.ring r).rd = 0 ∧ (u.ring r).prod = 0 ∧
        (u.ring r).g = Vector.replicate 16 0) ∧
    (∀ t : Ten, (s.ten t).cfg.bound = true → (s.ten t).evq.drop ≠ 0 → s.evqShut t = false →
      ∃ u, exec (.evqOverflow t) s = .next u ∧ (u.ten t).evq.drop = 0 ∧ (u.ten t).evq.droppedBefore = true) ∧
    (∀ prop : Bool, ∃ u, exec (.trngHealthFail prop) s = .next u ∧ u.cloister.trngError = (s.cloister.trngError ||
      decide (2 ≤ (s.cloister.trngFails.filter (fun x => s.now < x + ms 1000)).length))) ∧
    (s.cloister.trngError = false → ∃ u, exec .drbgReseed s = .next u ∧ u.cloister.drbgReqs = 0 ∧
      u.cloister.drbgAt = u.now ∧ (s.cloister.drbgReqs < 2 ^ 20 → s.cloister.drbgAt + ms 10000 ≤ u.now)) ∧
    (∃ u, exec .sessionEnd s = .next u ∧ ∀ (q : Fin 5) (y : Session), (at' s.cloister.reqs q).session = some y →
      (at' u.cloister.reqs q).session = (if y.opened + ms 3600000 ≤ u.now ∨ y.last + ms 60000 ≤ u.now then none
        else some y)) ∧
    (∃ u, exec .challengeLockoutEnd s = .next u ∧ ∀ (q : Fin 5) (b : Time), (at' s.cloister.reqs q).busyUntil = some b →
      (at' u.cloister.reqs q).busyUntil = (if b ≤ u.now then none else some b)) ∧
    (∀ supply : Bool, s.power.boot = .up → ∃ u, exec (.glitchDetect supply) s = .next u ∧
      u.cloister.glitches = s.cloister.glitches ++ [s.now] ∧
      ∀ t c, s.cloServed = some (t, c) → (u.box t).ready = true ∧ (u.box t).busy = false ∧ (u.box t).answer = 9)

/-- A broken load ends in IDLE; a handover makes the staged image the trial one at its Bell, or is abandoned; the
pause of an ACTIVATE is announced once the image is verified, and ends once the programs are loaded; the exchange of
slots goes unit by unit, each unit changing places (R533, R537 to R544; log entry 2). -/
def Obligations.UpdateEvents : Prop :=
  ∀ s : State,
    (∀ l, s.update.load = some l → ∃ u, exec .loadBreak s = .next u ∧ u.update.load = none ∧ u.update.jrec.state = .idle ∧
      l.last + ms 1000 < u.now) ∧
    (∀ a, s.update.act = some a → a.handover = true →
      (s.live = true → s.now = s.tB → a.start + us 37100 + us 1500 ≤ s.tB →
        if s.imgOk true = true then ∃ u, exec .handoverBell s = .next u ∧ u.update.act = none ∧
          u.update.jrec.state = .trial ∧ u.power.south = !s.power.south ∧ u.fwVer = hdrVersion (s.imgHdr true)
        else exec .handoverBell s = .next s) ∧
      (∃ u, exec .handoverAbandon s = .next u ∧ u.update.act = none ∧ u.update.jrec = s.update.jrec)) ∧
    (∀ a x, s.update.act = some a → s.bell.ann = some x → a.handover = false → a.phase = .verify → a.start + us 35100 ≤ x →
      ∃ u, exec .updatePauseBegin s = .next u ∧
        u.update.act =
          if s.imgOk true = true then some { a with phase := .pause, dark := s.bell.bellno.toNat + 2 } else none) ∧
    (∀ a, s.update.act = some a → a.phase = .pause → a.dark ≤ s.bell.bellno.toNat → ∃ u, exec .updatePauseEnd s = .next u ∧
      u.update.act = some { a with phase := .loaded } ∧ a.darkAt + us 41500 ≤ u.now) ∧
    (∀ tt, s.power.tellAt = some tt → s.update.swapOn = true → s.update.jrec.boot = 1 → s.live = true → s.updStep = false →
      Memory.wf s.moa = true → s.update.jpos < 1024 →
      let k := s.update.jrec.unit
      k ≤ 127 → ∃ u, exec .swapUnit s = .next u ∧
        (k < 127 → u.update.jrec.unit = k + 1 ∧ u.update.jrec.phase = 0 ∧ u.update.jrec.boot = 1) ∧
        (k = 127 → u.update.jrec.boot = 0 ∧ u.update.jrec.unit = 0 ∧ u.update.swapOn = false) ∧
        (s.update.jrec.phase = 0 →
          Memory.readN u.moa (65536 * k) 65536 = Memory.readN s.moa (0x800000 + 65536 * k) 65536 ∧
          Memory.readN u.moa (0x800000 + 65536 * k) 65536 = Memory.readN s.moa (65536 * k) 65536))

namespace Sys2Proof.Machine

/-- The UDS server takes a request (R529, R651). -/
abbrev UdsOn (s : State) : Prop := s.live = true ∧ s.aisleRuns = true ∧ s.udsOn = true

/-- The UDS server takes a request of the programming session, and in Locked with its update session open (R530). -/
abbrev UdsProg (s : State) : Prop := UdsOn s ∧ s.update.uds.mode = .programming ∧ s.udsOpen = true

/-- A command is answered on the UDS channel. -/
def UdsSays (c : Instr) (s : State) (bs : List Byte) (p : State → Prop) : Prop :=
  ∃ u, exec c s = .next u ∧ u.update.uds.answer = bs ∧ p u

end Sys2Proof.Machine

/-- The UDS services: their sessions, identifiers, routines and transfers, with their answers (R529 to R532). -/
def Obligations.UdsCommands : Prop :=
  ∀ (s : State) (m : List Byte), UdsOn s →
    (UdsSays (.udsSessionControl [0x10, 1]) s [0x50, 1, 0x00, 0x32, 0x00, 0xC8] (fun u => u.update.uds.mode = .default) ∧
      UdsSays (.udsSessionControl [0x10, 2]) s [0x50, 2, 0x00, 0x32, 0x00, 0xC8] (fun u =>
        u.update.uds.mode = .programming) ∧
      UdsSays (.udsSessionControl [0x10, 3]) s [0x50, 3, 0x00, 0x32, 0x00, 0xC8] (fun u => u.update.uds.mode = .extended)) ∧
    (s.update.uds.mode ≠ .default → ∃ u, exec .udsSessionTimeout s = .next u ∧ u.update.uds.mode = .default ∧
      s.update.uds.lastReq + ms 5000 ≤ u.now) ∧
    (UdsSays (.udsReadData [0x22, 0xFD, 0x00]) s ([0x62, 0xFD, 0x00] ++ s.update.jrec.bytes) (fun u => u.moa = s.moa) ∧
      UdsSays (.udsReadData [0x22, 0xFD, 0x01]) s ([0x62, 0xFD, 0x01] ++ s.mapBits) (fun u => u.moa = s.moa) ∧
      UdsSays (.udsReadData [0x22, 0xFD, 0x02]) s ([0x62, 0xFD, 0x02] ++ wordBytes (hdrVersion (s.moaHeader 0)) ++
        wordBytes (hdrVersion (s.moaHeader 0x800000)) ++ wordBytes (if s.xfer = true then hdrVersion s.xferHdr else 0))
        (fun u => u.moa = s.moa)) ∧
    (UdsSays (.udsTesterPresent [0x3E, 0x00]) s [0x7E, 0x00] (fun u => u.update.uds.lastReq = s.now) ∧
      UdsSays (.udsTesterPresent [0x3E, 0x80]) s s.update.uds.answer (fun u => u.update.uds.lastReq = s.now)) ∧
    (∀ sid : Byte, sid ∉ [0x10#8, 0x22#8, 0x27#8, 0x31#8, 0x34#8, 0x36#8, 0x37#8, 0x3E#8] →
      UdsSays (.udsUnsupportedService (sid :: m)) s [0x7F, sid, 0x11] (fun u => u.moa = s.moa)) ∧
    (s.update.uds.mode ≠ .programming → UdsSays (.udsTransferExit [0x37]) s [0x7F, 0x37, 0x7F] (fun u =>
      u.update.uds.next = s.update.uds.next)) ∧
    (s.update.uds.mode = .programming → (∀ b, (at' s.cloister.reqs udsReq).busyUntil = some b → b ≤ s.now) →
      s.cloister.trngError = false → s.cloister.glitches.length < 8 →
      ∃ v, v.length = 32 ∧ UdsSays (.udsRequestSeed [0x27, 0x11]) s ([0x67, 0x11] ++ v) (fun u =>
        u.nonce udsReq = some v)) ∧
    (∀ n, s.update.uds.mode = .programming → s.nonce udsReq = some n → m.length = 68 →
      let flags := w32 (getLe m 0 4)
      if s.ownerSigned (s.sessMsg n flags) (m.drop 4) = true then flags.getLsbD 1 = true →
        UdsSays (.udsSendKey ([0x27, 0x12] ++ m)) s [0x67, 0x12] (fun u => u.inSession udsReq = true ∧
          u.nonce udsReq = none)
      else ∃ nrc : Byte, (nrc = 0x35 ∨ nrc = 0x36) ∧
        UdsSays (.udsSendKey ([0x27, 0x12] ++ m)) s [0x7F, 0x27, nrc] (fun u => u.nonce udsReq = none)) ∧
    (UdsProg s → s.updStep = false →
      (m.length = 512 → s.update.jrec.state ≠ .receiving → (s.hdrCheck .uds m).elim
        (UdsSays (.udsRoutineBegin ([0x31, 0x01, 0xFD, 0x10] ++ m)) s [0x71, 0x01, 0xFD, 0x10]
          (fun u => u.update.jrec.state = .receiving))
        (fun _ => UdsSays (.udsRoutineBegin ([0x31, 0x01, 0xFD, 0x10] ++ m)) s [0x7F, 0x31, 0x22]
          (fun u => u.update.jrec = s.update.jrec))) ∧
      (s.complete = true → UdsSays (.udsRoutineCheck [0x31, 0x01, 0xFD, 0x11]) s [0x7F, 0x31, 0x78] (fun u =>
        u.update.check = some { route := .uds, ten := none, start := s.now })) ∧
      (s.canArm none = true → UdsSays (.udsRoutineArm [0x31, 0x01, 0xFD, 0x12]) s [0x71, 0x01, 0xFD, 0x12] (fun u =>
        u.update.jrec.state = .armed)) ∧
      (∀ k : Fin 2, m.length = 4 → s.canAct none (k == 1) (w32 (getLe m 0 4)) = true →
        UdsSays (.udsRoutineActivate ([0x31, 0x01, 0xFD, 0x13, BitVec.ofNat 8 k.val] ++ m)) s [0x7F, 0x31, 0x78] (fun u =>
          u.update.act = some { handover := k == 1, start := s.now, uds := true } ∧ u.power.standbyReady = false)) ∧
      (m.length = 4 → s.canConfirm none (w32 (getLe m 0 4)) = true →
        UdsSays (.udsRoutineConfirm ([0x31, 0x01, 0xFD, 0x14] ++ m)) s [0x71, 0x01, 0xFD, 0x14] (fun u =>
          u.update.jrec.state = .idle)) ∧
      (s.canDiscard none = true → UdsSays (.udsRoutineDiscard [0x31, 0x01, 0xFD, 0x15]) s [0x71, 0x01, 0xFD, 0x15] (fun u =>
        u.update.jrec.state = .idle)) ∧
      (∀ bs, s.update.uds.results.lookup 0xFD11 = some bs →
        UdsSays (.udsRoutineResults [0x31, 0x03, 0xFD, 0x11]) s ([0x71, 0x03, 0xFD, 0x11] ++ bs) (fun u => u.moa = s.moa)) ∧
      (s.update.jrec.state = .receiving → m.length = 8 → ofBe (m.take 4) % 4096 = 0 → ofBe (m.take 4) < hdrSize s.xferHdr →
        ofBe (m.drop 4) = hdrSize s.xferHdr - ofBe (m.take 4) →
        UdsSays (.udsRequestDownload ([0x34, 0x00, 0x44] ++ m)) s [0x74, 0x20, 0x10, 0x12] (fun u =>
          u.update.uds.next = some (ofBe (m.take 4) / 4096) ∧ u.update.uds.ctr = 1)) ∧
      (∀ i, s.update.jrec.state = .receiving → s.update.uds.next = some i → s.update.uds.ctr < 256 →
        i < hdrChunks s.xferHdr → m.length = wireLen s.xferHdr i → s.destLocked s.xferHdr = false →
        let c := .udsTransferData ([0x36, BitVec.ofNat 8 s.update.uds.ctr] ++ m)
        (s.chunkOpen s.xferHdr i m).elim (UdsSays c s [0x7F, 0x36, 0x72] (fun u => u.moa = s.moa))
          (fun _ => UdsSays c s [0x76, BitVec.ofNat 8 s.update.uds.ctr] (fun u => u.update.uds.next = some (i + 1) ∧
            u.update.uds.ctr = (s.update.uds.ctr + 1) % 256))) ∧
      (s.update.uds.next ≠ none → UdsSays (.udsTransferExit [0x37]) s [0x77] (fun u => u.update.uds.next = none))) ∧
    (∀ s' : State, s'.asleep = true → s'.udsOn = true →
      UdsSays (.udsVigilFrame (.single m)) s' [0x7F, m.getD 0 0, 0x78] (fun u => u.update.uds.held = some m ∧
        u.power.waking = (s'.wake .uds).power.waking) ∧
      exec (.udsVigilFrame .multi) s' = .next (s'.wake .uds))

/-! ### The Chapels, the picture, the light and the loops: events of the block's own -/

/-- The Chapels start, run, stop and park by their sequences, and a condition of safety stops one that starts or runs:
an armed interlock trips and latches (R279, R291 to R297, R365; log entry 2). -/
def Obligations.ChapelEvents : Prop :=
  ∀ (s : State) (c : Chap),
    let q := s.chap c
    let stops := fun (i : Instr) => ∃ u, exec i s = .next u ∧ (u.chap c).state = .stopping ∧ (u.chap c).emits = false ∧
      (u.chap c).lasEn = false
    let active := q.state = .run ∨ q.state = .starting
    (∀ (x : TripIn) (p : ChapRec), q.rec' = some p →
      (q.armed = true → active → (s.tripCond c p x ≠ none ∨ x = .lock ∨ ∃ v, x = .peak v ∧ v.toNat < p.aMin) →
        ∃ u, exec (.interlockTrip c x) s = .next u ∧ (u.chap c).state = .stopping ∧ (u.chap c).armed = false ∧
          (u.chap c).tripped = true ∧ (u.chap c).lasEn = false ∧ (u.chap c).trips = q.trips + 1) ∧
      (q.armed = false ∨ s.tripCond c p x = none → exec (.interlockTrip c x) s = .next s)) ∧
    (active → c.val < 2 → stops (.engineReadyLoss c)) ∧
    (active → 2 ≤ c.val → stops (.fastAxisFreqFault c)) ∧
    (∀ i : Slot, active → (s.slot i).chap = some c → (s.slot i).cfg.kind.mirror = true → 3 ≤ (s.slot i).consec →
      stops .mirrorOverrunStop) ∧
    (∀ p, q.state = .starting → q.rec' = some p → q.startedAt + p.startLimit ≤ s.now → stops .startTimeout) ∧
    (∀ b, active → q.stopBell = some b → b ≤ s.bell.bellno.toNat → stops (.orderlyStop c)) ∧
    (q.state = .stopping → (s.passTo (s.parkedAt c)).parked c = true → ∃ u, exec (.chapelParked c) s = .next u ∧
      (u.chap c).state = .stopped ∧ ∀ i : Slot, (s.slot i).cfg.kind.mirror = true → (s.slot i).chap = some c →
        (u.slot i).state = .off) ∧
    (∀ p, q.state = .stopping → q.rec' = some p → p.scan = false → (s.passTo (s.parkedAt c)).parked c = true) ∧
    (∀ (x : ChStart) (y : StartSeqIn), q.startDue = some x → q.state = .off ∨ q.state = .stopped →
      x.ten ≠ none ∨ s.chapHot c = false →
      (∀ p, s.startCheck c x.profile y.lock = .ok p → ∃ u, exec (.chapelStartSequence c y) s = .next u ∧
        (u.chap c).state = .starting ∧ (u.chap c).seqPhase = .check ∧ (u.chap c).rec' = some p ∧ (u.chap c).startedAt = s.now ∧
        (u.chap c).profile = x.profile) ∧
      (∀ r o, s.startCheck c x.profile y.lock = .error (r, o) → ∃ u, exec (.chapelStartSequence c y) s = .next u ∧
        (u.chap c).state = q.state ∧ (u.chap c).lastRefusal = r ∧ (u.chap c).startDue = none)) ∧
    (∀ (p : ChapRec) (y : StartSeqIn), q.state = .starting → q.rec' = some p →
      (p.scan = false → q.seqPhase = .check → ∃ u, exec (.chapelStartSequence c y) s = .next u ∧
        (u.chap c).seqPhase = .train ∧ (u.chap c).acEn = true ∧ q.checkEnd ≤ u.now) ∧
      (q.seqPhase = .sweep → p.fMin ≤ y.freq → y.freq ≤ p.fMax → ∃ u, exec (.chapelStartSequence c y) s = .next u ∧
        (u.chap c).seqPhase = .raise ∧ (u.chap c).resonance = y.freq ∧ q.startedAt + ms 1 ≤ u.now) ∧
      (q.seqPhase = .raise → 16 ≤ y.periods → ∃ u, exec (.chapelStartSequence c y) s = .next u ∧
        (u.chap c).seqPhase = .locked ∧ q.startedAt + ms 20 ≤ u.now)) ∧
    (∀ p, q.state = .starting → q.rec' = some p → q.stopBell = none → (p.scan = true → s.choir.valid = true) →
      q.seqPhase = (if p.scan then .locked else .zeros) → ∃ u, exec (.chapelStartComplete c) s = .next u ∧ (u.chap c).state = .run ∧ (u.chap c).armed = p.scan ∧
        (u.chap c).lasEn = p.scan ∧ (u.chap c).tripped = false ∧ q.startedAt + p.startMin ≤ u.now)

/-- A band that is not complete at its read point and a fetch that is late are replaced, and the pixels counted; slots and
lines start in their order; a frame is done once (R256, R258, R261, R268, R270, R275, R285; log entry 2). -/
def Obligations.ScanOutEvents : Prop :=
  ∀ (s : State) (c : Chap) (p : ChapRec), (s.chap c).state = .run → (s.chap c).rec' = some p →
    let q := s.chap c
    (∀ (k : Fin 25) (lead : Nat), k.val < bandCount p.h →
      exec (.bandReadPoint c k { done := true, lead := lead }) s = .next s ∧
      (s.memc.selfRef = true → exec (.bandReadPoint c k { done := false, lead := lead }) s = .next s.lpRequest) ∧
      (∀ f a, p.scan = false ∨ k.val = 0 → q.coming = some f → s.bell.ann = some a → s.chain.following = false →
        s.memc.selfRef = false →
        let g := if k.val = 0 then f.foresee p lead else f
        ∃ u, exec (.bandReadPoint c k { done := false, lead := lead }) s = .next u ∧ (u.chap c).coming = some (g.bandLate p k.val).1 ∧
          (u.chap c).underPix = min 0xFFFFFFFF (q.underPix + (g.bandLate p k.val).2) ∧ a + us 1276 + g.lead ≤ u.now) ∧
      (∀ f, p.scan = true → k.val ≠ 0 → q.frame = some f → f.next ≠ 0 → s.memc.selfRef = false →
        ∃ u, exec (.bandReadPoint c k { done := false, lead := lead }) s = .next u ∧ (u.chap c).frame = some (f.bandLate p k.val).1 ∧
          (u.chap c).underPix = min 0xFFFFFFFF (q.underPix + (f.bandLate p k.val).2) ∧
          f.lineStart p (32 * k.val) - us 250 ≤ u.now)) ∧
    (∀ (f : FrameSt) (n : Nat), q.frame = some f → f.stored = true → n = f.nextSlot → n < p.count →
      q.coming = none ∨ n ≠ 0 → s.memc.selfRef = false → s.lpUsable = true → ∃ u, exec (.fetchLate c n) s = .next u ∧
        (u.chap c).frame = some (f.fetchLate p n).1 ∧
        (u.chap c).underPix = min 0xFFFFFFFF (q.underPix + (f.fetchLate p n).2)) ∧
    (∀ (f : FrameSt) (a : Time) (y : BitVec 14), p.scan = false → q.frame = some f →
      f.slotStart p f.nextSlot = some a → f.nextSlot < p.count →
      ∃ u, exec (.arraySlotStart { chap := c, y := y }) s = .next u ∧ a ≤ u.now ∧ (u.chap c).frame = some { f with
        next := f.nextSlot + 1
        slotAt := a
        until' := a + p.pulse f.nextSlot }) ∧
    (∀ (f : FrameSt) (left : Bool), p.scan = true → q.frame = some f → f.next < p.h →
      ∃ u g, exec (.scanLineStart c left) s = .next u ∧ (u.chap c).frame = some g ∧ g.next = f.next + 1 ∧
        (f.next = 0 → f.tB + us 26 ≤ u.now ∧ g.tl0 = u.now ∧ g.leftFirst = left) ∧
        (f.next ≠ 0 → f.lineStart p f.next ≤ u.now ∧ g.tl0 = f.tl0)) ∧
    (∀ x : DoneIn, q.prev = none → exec (.frameDone c x) s = .next s) ∧
    (∀ (f : FrameSt) (x : DoneIn), q.prev = some f → ∃ u, exec (.frameDone c x) s = .next u ∧ (u.chap c).prev = none ∧
      (u.chap c).doneBell = f.bell % 2 ^ 32 ∧ s.tB + us 26 ≤ u.now)

/-- A dimming period's start reloads its output; a rail takes a step toward its headroom and stays between its bounds, and a
fault stops it with its sinks; a sensor's reading derates its sinks; a row slot lights its row (R313 to R325, R327 to
R333; log entry 2). -/
def Obligations.LightEvents : Prop :=
  ∀ s : State, s.live = true →
    (∀ o : OutId, isSink o = true → (s.out o).cfg.en = true → s.pulseChap o = none → (s.out o).pulseEnd = false →
      (s.out o).active.duty ≠ 0 → s.outLoop o = none → ∃ u, exec (.dimPeriodReload o) s = .next u ∧
      (u.out o).active = (s.out o).shadow ∧ (u.out o).periodFrom = (s.out o).periodFrom + (s.out o).active.period' ∧
      (u.out o).periodFrom ≤ u.now) ∧
    (∀ (r : Fin 2) (h : List (OutId × List Nat)), (s.rail r).en = true → (s.rail r).stopped = false →
      let q := s.rail r
      let own := s.railSamples r h q.lastStep (q.lastStep + ms 1)
      let head := q.pendHead.getD q.head
      ∃ u, exec (.railStep r h) s = .next u ∧ (u.rail r).head = head ∧ (u.rail r).lastStep = q.lastStep + ms 1 ∧
        (own = [] → (u.rail r).vSet = q.vSet) ∧
        (∀ m, (own.map (·.2)).min? = some m → (u.rail r).hMin = m ∧
          (u.rail r).vSet = (clampI (q.vSet + (if m < 100 then min ((head : Int) - m) 500
            else clampI ((head : Int) - m) (-50) 200).tdiv 10) q.vMin q.vMax).toNat ∧
          (q.vMin ≤ q.vMax → q.vMin ≤ (u.rail r).vSet ∧ (u.rail r).vSet ≤ q.vMax))) ∧
    (∀ (r : Fin 2) (volt : Bool), (s.rail r).en = true → (s.rail r).stopped = false →
      ∃ u, exec (.railFault r volt) s = .next u ∧ (u.rail r).stopped = true ∧
        ∀ o : OutId, isSink o = true → (s.out o).cfg.en = true → (s.out o).cfg.rail = r.val → (u.out o).stopped = true) ∧
    (∀ (o : OutId) (x : List (Nat × Option (Byte × Byte))), isSink o = true → (s.out o).cfg.en = true → (s.out o).cfg.sensor ≠ 0 →
      (s.out o).pendDerate = none → ∃ u, exec (.lampSensorRead x) s = .next u ∧
        (∀ v, x.lookup (s.out o).cfg.sensor = some (some v) → (u.out o).t16 = asr (sensorVal v) 4 ∧ (u.out o).missed = 0 ∧
          (u.out o).f = derate (asr (sensorVal v) 4) (s.out o).knee (s.out o).slope (s.out o).floor) ∧
        (x.lookup (s.out o).cfg.sensor = some none → (u.out o).missed = (s.out o).missed + 1 ∧
          (u.out o).f = if 2 ≤ (s.out o).missed then (s.out o).floor else (s.out o).f)) ∧
    (∀ x : List (Fin 12 × Nat), s.light.matrix.on = true → ∃ u, exec (.matrixRowSlot x) s = .next u ∧
      u.light.matrix.row = s.light.matrix.row + 1 ∧ u.light.matrix.slotFrom = s.light.matrix.slotFrom + us 250 ∧
      (∀ g : Seg, at' u.light.matrix.lit g = if g.val / 12 = s.light.matrix.row.val then s.kmLit g
        else at' s.light.matrix.lit g) ∧
      (∀ (col : Fin 12) (d : Nat), x.lookup col = some d → 2000 < d → s.kmLit (segAt s.light.matrix.row col) = true →
        at' u.light.matrix.open' (segAt s.light.matrix.row col) = true))

/-- A full capture is done; 64 overruns in a row hold a loop; pending tables and gains are written into the next bank;
an input deferred for 64 Bells reserves its slot; a conversion has its one use; a calibration ends; a glyph copy and a
stored prime complete (R173, R175, R365, R369, R370, R374, R386, R393, R411, R436; log entry 2). -/
def Obligations.LoopEvents : Prop :=
  ∀ s : State,
    (∀ (i : Slot) (c : Capture), (s.slot i).cap = some c → c.done = false → c.taken = c.samples →
      ∃ u, exec .captureDone s = .next u ∧ (u.slot i).cap = some { c with done := true }) ∧
    (∀ i : Slot, (s.slot i).cfg.en = true → (s.slot i).cfg.kind.mirror = false → (s.slot i).state = .run →
      64 ≤ (s.slot i).consec → ∃ u, exec .loopHeld s = .next u ∧ (u.slot i).state = .hold) ∧
    (s.live = true → s.choir.writeFrom = none → s.choir.pending ≠ [] → ∃ u, exec .calBankWrite s = .next u ∧
      u.choir.pending = [] ∧ u.choir.writing = s.choir.pending ∧ u.choir.writeFrom = some s.now) ∧
    (∀ ok : Bool, s.choir.writeFrom ≠ none →
      let es := s.choir.writing.foldl (fun xs r => addEnt xs r.ent) s.bankEnts
      let img := bankImage es s.nextBank.2
      ∃ u, exec (.calBankWriteDone ok) s = .next u ∧ u.choir.writeFrom = none ∧ u.choir.writing = [] ∧
        u.moa = if ok = true ∧ es.length ≤ 64 ∧ img.length ≤ bankSize then
          Memory.writeN s.moa (bankAddr s.nextBank.1) img else s.moa) ∧
    (∀ k : Pd, 64 ≤ (s.pdIn k).deferral → (s.pdIn k).reserved = false → ∃ u, exec (.kwReserved k) s = .next u ∧
      (u.pdIn k).reserved = true) ∧
    (∀ x, s.witness.cal = some x → x.left = 0 → ∃ u, exec .kwCalDone s = .next u ∧ u.witness.cal = none) ∧
    (∀ v : BitVec 14, s.live = true →
      let s1 := s.slotWait
      let s2 := forEach (allFin 8) (fun k z => z.bgExpire k (BgWin.over z.now)) s1
      (∀ a i, s.bell.ann = some a → stepOf s1.now (a + us 1500 - us 216) 128 = some i →
        let k : Pd := Fin.ofNat 8 (i / 16)
        (s.pdIn k).darkAcc.length < 15 → ∃ u, exec (.witnessAdcSlot v) s = .next u ∧
          (u.pdIn k).darkAcc = (s.pdIn k).darkAcc ++ [v.toNat]) ∧
      (∀ k w, s.bell.ann = none → (s1.now - s.tB) % 20 = 0 → s2.fgNext = none → s2.bgNext = some (k, w) →
        ∃ u, exec (.witnessAdcSlot v) s = .next u ∧ (u.pdIn k).bgs = (s2.pdIn k).bgs.erase w ∧
          (u.pdIn k).converted = true ∧ u.witness.slotAt = some u.now ∧ u.now = s1.now)) ∧
    (∀ (c : Chap) (q : Fin 16), ∃ u, exec (.kloadCopyComplete c q) s = .next u ∧ Same { s with
      kloads := s.kloads.map (fun k => if k.chap = c ∧ k.rect = q then { k with done := true } else k)
      memc := u.memc } u) ∧
    (∀ (ok : Bool) (x : Word × RingId × KStore), s.prime.kprime = some x → ∃ u, exec (.primeStored ok) s = .next u ∧
      u.prime.kprime = none ∧ u.prime.patternOk = ok ∧ (ok = false → u.moa = s.moa) ∧
      (ok = true → let bytes := x.2.2.pattern ++ x.2.2.glyphArea
        u.moa = Memory.writeN (Memory.writeN (Memory.writeN s.moa ksPattern bytes) (primeBase + 12)
          (wordBytes (crc32 bytes))) (primeBase + 6) [1]))

/-! ### Power, temperature, memory, the recorder and the chain: events of the block's own -/

/-- Power states: an entry begins at an announcement, and that to Vigil ends once the Chapels are still; a wake leaves
Vigil or Crypt; a failing supply, a comparator and a lost reference clock put every light out at once; a start ends
with the device up, dead or in test (R416 to R421, R425, R438 to R441, R459 to R461, R662 to R671; log entry 2). -/
def Obligations.PowerEvents : Prop :=
  ∀ s : State,
    let dark := fun (u : State) => ∀ c : Chap, (u.chap c).state = .off ∧ (u.chap c).lasEn = false ∧
      (u.chap c).acEn = false ∧ (u.chap c).emits = false
    (∀ to' : PowerState, s.entryDue to' = true →
      (to' = .vigil → ∃ u, exec .vigilEntry s = .next u ∧ u.power.entering = some (.vigil, s.now) ∧
        u.power.save = some { ran := s.inRun } ∧ ∀ c : Chap, (s.chap c).state = .run → (u.chap c).stopWhy = 4 ∧
          (u.chap c).stopBell = some (s.bell.bellno.toNat + 1)) ∧
      (to' = .crypt → ∃ u, exec .cryptEntry s = .next u ∧ u.power.entering = some (.crypt, s.now) ∧
        u.reliq.flush = true)) ∧
    (∀ x, s.power.entering = some (.vigil, x) → s.chapsStill = true → ∃ u, exec .vigilEntryComplete s = .next u ∧
      u.power.state = .vigil ∧ u.power.entering = none ∧ u.under = [] ∧ u.memc.selfRef = true ∧
      (∀ v, s.power.save = some v → u.power.save = some { v with under := ringRegion s.under })) ∧
    (∀ w v, s.power.state = .vigil → s.power.waking = some w → s.power.save = some v → s.chain.held = [] →
      s.update.uds.held = none → ∃ u, exec .vigilExit s = .next u ∧ u.power.state = .run ∧ u.power.wakeSrc = some w ∧
        u.under = v.under ∧ u.bell.lastAt = none ∧ u.power.postExit = true) ∧
    (∀ w : WakeSrc, s.power.state = .vigil → s.power.entering = none → s.power.aonUp = true → s.power.boot ≠ .supplies →
      w ≠ .tolerance → s.power.waking = none → ∃ u, exec (.wakeDetect w) s = .next u ∧ u.power.waking = some w ∧
        u.power.wakeAt = s.now) ∧
    (∀ w : WakeSrc, s.mayStart = true → s.power.entering = none → w.deep = true → s.power.waking = none →
      ∃ u, exec (.wakeDetect w) s = .next u ∧ u.power.waking = some w ∧ u.power.boot = .supplies ∧ u.power.pwrEn = true ∧
        u.power.pwrEnAt = s.now) ∧
    (∀ x : StartIn, s.power.entering = none → s.power.boot = .ready → s.power.testEn = false → s.power.cause ≠ .cold →
      ∃ u, exec (.startUp x) s = .next u ∧ (x.testEn = true → u.power.boot = .test) ∧
        (x.testEn = false → (u.power.boot = .up ∧ u.bell.enabled = true) ∨ u.power.boot = .dead)) ∧
    (s.power.failAt = none → s.power.boot = .up → s.powered = true → ∃ u, exec .powerFail s = .next u ∧ dark u ∧
      u.power.state = .crypt ∧ u.power.boot = .none ∧ u.power.failAt = some s.now ∧ u.power.onVbak = true) ∧
    (∀ a, s.power.failAt = some a → s.power.aonUp = true → s.reliq.flush = false → ∃ u, exec .powerReturn s = .next u ∧
      u.power.failAt = none ∧ u.power.boot = (if s.power.tripAt = none then .ready else .none) ∧ u.power.onVbak = false ∧
      a + ms 2 ≤ u.now ∧ u.power.devFailN = s.power.tripAt.isNone) ∧
    (s.power.onVbak = true → s.power.aonUp = true → ∃ u, exec .vbakLost s = .next u ∧ u.moa = s.moa ∧
      u.cloister.otp = s.cloister.otp ∧ u.power.aonUp = false ∧ u.lp = [] ∧ u.under = []) ∧
    (∀ mv : Nat, ∃ u, exec (.vbakMvSample mv) s = .next u ∧ u.power.vbakMv = mv ∧ u.power.state = s.power.state) ∧
    (s.power.aonUp = true → s.power.onVbak = false → ∃ u, exec .vaonLow s = .next u ∧ u.power.onVbak = true ∧
      u.reliq.failTime = s.cal) ∧
    (s.power.onVbak = true → s.power.pwrEn = false → ∃ u, exec .vaonReturn s = .next u ∧ u.power.onVbak = false) ∧
    (∀ clk test : Bool, s.power.aonUp = false → ∃ u, exec (.aonPorEnd clk test) s = .next u ∧ u.power.aonUp = true ∧
      u.power.boot = (if test then .test else .ready) ∧ u.calSet = false ∧ u.cal = 0 ∧ u.power.devFailN = !test ∧
      s.power.pwrEnAt + ms 2 ≤ u.now) ∧
    (s.power.aonUp = false ∨ s.power.boot = .supplies → ∃ u, exec .pwrGoodTimeout s = .next u ∧ u.power.state = .crypt ∧
      u.power.boot = .none ∧ u.power.aonUp = true ∧ u.power.pwrEn = false) ∧
    (s.powered = true → ∃ u, exec .refclkFault s = .next u ∧ dark u ∧ u.power.entering = some (.crypt, s.now)) ∧
    (∀ m : Fin 4, s.powered = true → m ≠ 0 → ∃ u, exec (.comparatorTrip m) s = .next u ∧ dark u ∧
      u.power.tripAt = some s.now ∧ u.power.devFailN = false ∧
      ∀ i : Fin 2, at' u.thermal.cmp i = (at' s.thermal.cmp i || m.val.testBit i.val)) ∧
    (∀ a, s.power.tripAt = some a → s.power.state = .crypt → s.power.entering = none →
      ∃ u, exec (.tripHoldEnd true) s = .next u ∧ u.power.tripAt = none ∧ a + ms 10000 ≤ u.now ∧
        u.thermal.cmp = Vector.replicate 2 false)

/-- Channels convert when due; MR4 and the memory hold; training, the drift read, self-refresh and the scrub; a prime set
ends (R186, R190, R191, R194, R217, R221, R440, R446 to R450, R457; log entry 2). -/
def Obligations.SensorsAndMemory : Prop :=
  ∀ s : State,
    (∀ (k : Fin 10) (v : Nat) (t : Int), s.thEnabled k = true → (s.th k).dueAt ≤ s.now → (s.th k).cfg.convert v = some t →
      ∃ u, exec (.thermalSample [(k, v)]) s = .next u ∧ (u.th k).t16 = t ∧ (u.th k).validAt = some s.now ∧
        (u.th k).badRun = 0 ∧ ∀ j : Fin 10, j ≠ k → u.th j = s.th j) ∧
    (∀ (k : Fin 10) (v : Nat), s.thEnabled k = true → (s.th k).dueAt ≤ s.now → (s.th k).cfg.convert v = none →
      ∃ u, exec (.thermalSample [(k, v)]) s = .next u ∧ (u.th k).t16 = (s.th k).t16 ∧
        (u.th k).badRun = (s.th k).badRun + 1 ∧ (2 ≤ (s.th k).badRun → (u.th k).state = .invalid)) ∧
    (∀ v : Nat, s.live = true → s.lpUsable = true → ∃ u, exec (.mr4Read v) s = .next u ∧ u.memc.mr4 = v ∧
      s.memc.mr4At + ms 16 ≤ u.now ∧ u.thermal.mr4Hot = if 6 ≤ v % 8 then s.thermal.mr4Hot + 1 else 0) ∧
    (∀ v : Nat, s.live = true → s.thermal.hold = true → ∃ u, exec (.memoryHoldCheck v) s = .next u ∧ u.memc.mr4 = v ∧
      (6 ≤ v % 8 → u.thermal.hold = true ∧ u.memc.selfRef = true) ∧ s.thermal.holdRead + ms 1000 ≤ u.now) ∧
    (∀ n : Vector (BitVec 16) 4, s.live = true → s.power.state = .run → s.lpUsable = true →
      ∃ u, exec (.dqsDriftRead n) s = .next u ∧ s.memc.dqsAt + ms 100 ≤ u.now ∧ ∀ k : Fin 4,
        at' u.memc.dqsAdj k = if s.memc.fitted k = true then ((at' n k).toNat : Int) - s.memc.osc k else 0) ∧
    (s.live = true → s.power.state = .idle → s.lpUsable = true → s.memc.selfRef = false →
      ∃ u, exec .selfRefreshEntry s = .next u ∧ (u.memc.selfRef = true ↔ us 20 ≤ s.tol) ∧
        (us 20 ≤ s.tol → u.memc.selfRefAt = s.now)) ∧
    (∀ x : TolIn, s.live = true → s.memc.selfRef = true → s.thermal.hold = false →
      (x.req = true → ∃ u, exec (.selfRefreshExit x) s = .next u ∧ u.memc.selfRef = false ∧
        s.memc.selfRefAt + us 1 ≤ u.now) ∧
      (∀ n, x.req = false → (s.tolTake x).needs.min? = some n → ∃ u, exec (.selfRefreshExit x) s = .next u ∧
        u.memc.selfRef = false ∧ s.memc.selfRefAt + us 1 ≤ u.now ∧ n - us 8 ≤ u.now)) ∧
    (∀ x : TolIn, s.memc.selfRef = false → exec (.selfRefreshExit x) s = .next (s.tolTake x)) ∧
    (s.live = true → s.moaWriting = false → ∃ u, exec .scrubRead s = .next u ∧
      u.memc.scrub = (s.memc.scrub + 1) % 4194304 ∧ u.moa = s.moa) ∧
    (∀ ok : Bool, ∃ u, exec (.lpddr4xTrainingDone ok) s = .next u ∧
      (s.memc.train = .verify → u.memc.train = if ok then .trained else .full) ∧
      (s.memc.train = .reverify → u.memc.train = if ok then .trained else .failed) ∧
      (s.memc.train = .full → u.memc.train = if ok then .trained else .failed)) ∧
    (∀ (ok : Bool) (x : Word × Word × Nat × Nat), s.prime.setBusy = some x → ∃ u, exec (.primeSetDone ok) s = .next u ∧
      u.prime.setBusy = none ∧ (ok = true → u.prime.gen = x.1 ∧ u.prime.manifestOk = true ∧
        u.moa = Memory.writeN s.moa (primeBase + 1088) (wordBytes x.2.1)) ∧
      (ok = false → u.prime.gen = s.prime.gen ∧ u.moa = s.moa))

/-- The recorder closes its accumulators, tells its losses, writes its buffer oldest first and ends a freeze; flatten
entries are freed, bays leave service, and a camera frame is stored (R214, R235, R245 to R248, R553, R565 to R567,
R571, R572; log entry 2). -/
def Obligations.RecorderAndNaveEvents : Prop :=
  ∀ s : State,
    (s.reliq.closeDue = true → ∃ u, exec .accumulatorClose s = .next u ∧ u.reliq.accs = [] ∧ u.reliq.closeDue = false) ∧
    (s.reliq.occLost ≠ 0 ∨ s.reliq.bufLost ≠ 0 → s.reliq.buf.length < 1024 → s.reliq.occ.length < 64 →
      s.aisleRuns = true → ∃ u, exec .bufferLost s = .next u ∧ u.reliq.occLost = 0 ∧ u.reliq.bufLost = 0) ∧
    (∀ k r rest, s.reliq.flush = true → s.power.flushStopped = false → s.reliq.newestDirty = false →
      s.reliq.buf = (k, r) :: rest → ∃ u, exec .reliquaryFlush s = .next u ∧ u.reliq.buf = rest ∧
        u.moa = Memory.writeN s.moa (0x1300000 + 64 * k) (r.bytes s.reliq.era k)) ∧
    (∀ f, s.reliq.freeze = some f → ∃ u, exec .freezeExpiry s = .next u ∧ u.reliq.freeze = none ∧ u.reliq.hold = [] ∧
      f.start + ms f.ms ≤ u.now) ∧
    (∃ u, exec .flattenEntryFree s = .next u ∧ Same { s with nave := u.nave } u ∧
      u.nave.flat = s.nave.flat.filter (fun e => s.bell.bellno.toNat < e.named + 2)) ∧
    (∀ (b : Fin 4) (c : Chap) (x : BlkIn), s.live = true → b ∈ s.nave.alive → (∀ l ∈ s.nave.leaving, l.bay ≠ b) →
      ∃ u l, exec (.bayEccError b c x) s = .next u ∧ u.nave.alive = s.nave.alive ∧ u.nave.leaving = s.nave.leaving ++ [l] ∧
        l.bay = b ∧ l.due = s.bell.bellno.toNat + 1) ∧
    (∃ u, exec .bayRetire s = .next u ∧ (∀ b, b ∈ u.nave.alive ↔ b ∈ s.nave.alive ∧
      ∀ l ∈ s.nave.leaving, l.bay = b → s.bell.bellno.toNat < l.due) ∧
      u.nave.leaving = s.nave.leaving.filter (fun l => s.bell.bellno.toNat < l.due)) ∧
    (∀ (f : CsiFrame) (b : VidBind), s.live = true → s.lpUsable = true →
      s.nave.video.find? (fun b => b.vc = f.vc && !b.ending && b.group.isSome) = some b →
      ∃ u, exec (.csiFrameEnd f) s = .next u ∧ u.lp = if f.ok then
        Memory.writeN s.lp (s.vidSlot (b.group.getD 0) b.slot) f.bytes else s.lp)

namespace Sys2Proof.Machine

/-- The node, addressed and running, hears frames on a port: true the D port, false the U port (R580). -/
abbrev Heard (s : State) (d : Bool) (a : Nat) : Prop :=
  s.live = true ∧ (if d then s.chain.d.up else s.chain.u.up) = true ∧ s.chain.addr = some a

/-- What was sent on a port. -/
def sentOn (s : State) (d : Bool) : List ChFrame := if d then s.chain.outD else s.chain.outU

end Sys2Proof.Machine

/-- The chain: links, addresses, marks and frames. A frame for another node goes on through the other port, and one
for this node has its effect; one with a wrong CRC goes on ended by K30.7 and has none (R578 to R593, R596 to R600,
R603; log entry 2). -/
def Obligations.ChainCommands : Prop :=
  ∀ (s : State) (d : Bool) (a : Nat) (f : ChFrame),
    let w := fun (i : Nat) => f.words.getD i 0
    let port := fun (u : State) => if d then u.chain.d else u.chain.u
    (∀ delay : Nat, s.chain.cfg.en = true → (port s).up = false →
      (delay ≤ 100 → ∃ u, exec (.linkUp d delay) s = .next u ∧ port u = { up := true, delay := delay }) ∧
      (100 < delay → exec (.linkUp d delay) s = .next s)) ∧
    ((port s).up = true → ∃ u, exec (.linkDown d) s = .next u ∧ port u = {} ∧
      (d = false → u.chain.addr = some 0 ∧ u.chain.following = false)) ∧
    (∀ rt : Nat, ∃ u, exec (.echo d rt) s = .next u ∧ (port u).delay = rt / 2 ∧ (port u).up = (port s).up) ∧
    (∀ v : Nat, s.chain.u.up = true → ∃ u, exec (.enum v) s = .next u ∧
      u.chain.addr = if v < 4096 then some v else none) ∧
    (s.chain.u.up = true → s.chain.cfg.follow = true → s.chain.addr = some a → a ≠ 0 → s.bell.ann = none →
      s.bell.lastAt = none → ∃ u, exec .announceMark s = .next u ∧ u.chain.following = true ∧
        u.chain.annAt = some (grid (s.markDep + us 2)) ∧ u.chain.expect = some (s.now + us 1500)) ∧
    (s.chain.u.up = true → s.chain.following = true → ∃ u, exec .bellMark s = .next u ∧
      u.chain.fireAt = some (grid (s.markDep + us 2)) ∧ u.chain.lastMark = some s.now ∧ u.chain.expect = none) ∧
    (s.chain.following = true → s.chain.u.up = false ∨ s.chain.expect ≠ none → ∃ u, exec .chainBellLoss s = .next u ∧
      u.chain.following = false ∧ u.chain.lost = true ∧ u.chain.annAt = none ∧ u.chain.fireAt = none) ∧
    (Heard s d a → f.ending ≠ .good →
      ∀ c ∈ [Instr.msg d f, .ack d f, .unreach d f, .fetch d f, .data d f, .sweepDone d f, .floorFrame d f, .breakFrame d f],
        f.bc = false → ∃ u, exec c s = .next u ∧
          (f.dest ≠ a → a ≠ 0 → s.linkUp (!d) = true → sentOn u (!d) = sentOn s (!d) ++ [{ f with ending := .k30 }]) ∧
          (f.dest = a → a = 0 → u.chain = s.chain)) ∧
    (Heard s d a → f.ending = .good →
      (∀ c ∈ [Instr.msg d f, .ack d f, .unreach d f, .fetch d f, .data d f, .sweepDone d f, .floorFrame d f, .breakFrame d f],
        f.bc = false → f.dest ≠ a → a ≠ 0 → s.linkUp (!d) = true →
        ∃ u, exec c s = .next u ∧ sentOn u (!d) = sentOn s (!d) ++ [f] ∧ sentOn u d = sentOn s d) ∧
      (∃ u, exec (.enumTail d f) s = .next u ∧ u.chain.length = (w 0).toNat) ∧
      (∃ u, exec (.announceFrame d f) s = .next u ∧ u.chain.cbOff = w 0 - (s.bell.bellno.setWidth 32 + 1)) ∧
      (a = 0 → ∃ u, exec (.floorFrame d f) s = .next u ∧
        u.chain.floors.lookup f.src = if w 0 = 0 then none else some (w 0).toNat) ∧
      (∀ r, a = 0 → s.chain.run = some r → r.first ≤ (w 0).toNat → (w 0).toNat ≤ r.last →
        ∃ u, exec (.breakFrame d f) s = .next u ∧
          u.chain.run = some { r with break' := some (min (w 0).toNat (r.break'.getD (w 0).toNat)) }) ∧
      (f.bc = false → f.dest = a →
        let k := (f.src, f.tnt.val)
        let q := at' s.chain.rx f.tnt
        (s.isCls f.tnt .safety = true ∨ s.isCls f.tnt .service = true → q.length < 32 →
          s.chain.seen.find? (fun e => e.1 == k) = none → ∃ u, exec (.msg d f) s = .next u ∧
            at' u.chain.rx f.tnt = q ++ [{ src := f.src, words := f.words.tail }] ∧ u.chain.stDeliv = s.chain.stDeliv + 1 ∧
            u.chain.seen.lookup k = some (w 0)) ∧
        (∀ e, s.chain.seen.find? (fun e => e.1 == k) = some e → e.2 = w 0 → ∃ u, exec (.msg d f) s = .next u ∧
          at' u.chain.rx f.tnt = q ∧ u.chain.stDup = s.chain.stDup + 1) ∧
        (∀ m, s.msgOf f = some m →
          (w 1 = 0 → ∃ u, exec (.ack d f) s = .next u ∧ u.chain.stDeliv = s.chain.stDeliv + 1 ∧
            ∀ x ∈ at' u.chain.tx f.tnt, x.mseq ≠ m.mseq) ∧
          (∃ u, exec (.unreach d f) s = .next u ∧ s.chain.stFail < u.chain.stFail ∧
            ∀ x ∈ at' u.chain.tx f.tnt, x.mseq ≠ m.mseq)) ∧
        (∃ u g, exec (.fetch d f) s = .next u ∧ sentOn u d = sentOn s d ++ [g] ∧ g.type = 0x23 ∧ g.dest = f.src ∧
          g.words = [w32 (w 0).toNat, w32 (w 1).toNat, w32 (s.sweepHeld (w 0).toNat).1] ++
            (((s.sweepHeld (w 0).toNat).2.drop (w 1).toNat).take (w 2).toNat).flatten) ∧
        (∀ (t : Ten) (id first : Nat) (st x0 x1 x2 x3 : Word), s.chain.fetchFor = some (t, f.src, id, first, 1) →
          first < 2 ^ 32 → f.words = [w32 id, w32 first, st, x0, x1, x2, x3] → (s.box t).pend ≠ none →
          ∃ u, exec (.data d f) s = .next u ∧ u.chain.fetchFor = none ∧ (u.box t).ready = true ∧ (u.box t).answer = 0 ∧
            (u.box t).buf.take 6 = [st, 1, x0, x1, x2, x3])) ∧
      (∀ n, s.chain.sweep = none → (a = 0 ∨ s.chain.following = true) → fld (w 1) 16 12 ≤ a → a ≤ fld (w 1) 0 12 →
        poolFit s.poolUsed (cdiv (16 * fld (w 0) 0 16) 1024) = some n → ∃ u x, exec (.sweepStart d f) s = .next u ∧
          u.chain.sweep = some x ∧ x.id = fld (w 0) 24 8 ∧ x.steps = fld (w 0) 0 16 ∧ x.start = w 2 ∧ x.first = n) ∧
      (∀ r, a = 0 → s.chain.run = some r → r.id = (w 0).toNat → r.posted = false → ∃ u x, exec (.sweepDone d f) s = .next u ∧
        u.chain.run = some x ∧ x.reports = putKey f.src (if w 2 = 1 then 1 else 2) r.reports)) ∧
    (∀ (t : Ten) (m : ChMsg) (x : Time), m ∈ at' s.chain.tx t → m.sent = some x → x + ms 250 ≤ s.now → 3 ≤ m.tries →
      ∃ u, exec .msgTimeout s = .next u ∧ s.chain.stFail < u.chain.stFail ∧ ∀ y ∈ at' u.chain.tx t, y.mseq ≠ m.mseq) ∧
    (∀ x, s.chain.sweep = some x → x.complete = false → x.held = false → x.lostStep = false →
      precedes (s.bell.bellno.setWidth 32 + s.chain.cbOff) (x.start + w32 ((x.done.length + 1) * x.stepBells)) = false →
      ∃ u y, exec .sweepStepLatch s = .next u ∧ u.chain.sweep = some y ∧
        y.done = x.done ++ [s.chain.cfg.probes.map s.probe] ∧ y.complete = decide (x.done.length + 1 = x.steps) ∧
        (x.done.length + 1 ≠ x.steps → u.under = Memory.writeN s.under (poolAddr x.first + 16 * x.done.length)
          (wordsBytes (s.chain.cfg.probes.map s.probe)))) ∧
    (∀ r e, s.chain.run = some r → r.endAt = some e → ∃ u x, exec .sweepEndTimeout s = .next u ∧ u.chain.run = some x ∧
      x.posted = true ∧ e + ms 100 ≤ u.now)
end

