-- ==== Sys2Proof/Laws/Memory.lean ====
section
/-!
SUPPORT. The laws of the byte memories: every operation keeps the canonical form, a read after a write, and what a
write leaves alone.
-/

namespace Sys2Proof.Machine

theorem Memory.wf_cons {a : Nat} {b : Byte} {m : Mem} :
    Memory.wf ((a, b) :: m) = true ↔ b ≠ Memory.rest ∧ Memory.wf m = true ∧ ∀ c ∈ m.head?, a < c.1 := by
  cases m with
  | nil => simp [Memory.wf]
  | cons c m => simp [Memory.wf, and_assoc]

@[simp] theorem Memory.wf_nil : Memory.wf [] = true := rfl

/-- In canonical form the first entry lies below all the others. -/
theorem Memory.wf_head_lt {a : Nat} {b : Byte} {m : Mem} (h : Memory.wf ((a, b) :: m) = true) :
    ∀ c ∈ m, a < c.1 := by
  induction m generalizing a b with
  | nil => simp
  | cons c m ih =>
    obtain ⟨x, y⟩ := c
    have h1 := Memory.wf_cons.1 h
    have hx : a < x := h1.2.2 (x, y) (by simp)
    intro d hd
    rcases List.mem_cons.1 hd with rfl | hd
    · exact hx
    · exact Nat.lt_trans hx (ih h1.2.1 d hd)

/-- Below its first entry a memory reads as the unlisted value. -/
theorem Memory.read_lt {m : Mem} {a : Nat} (h : ∀ c ∈ m, a < c.1) : Memory.read m a = Memory.rest := by
  induction m with
  | nil => rfl
  | cons c m ih =>
    obtain ⟨x, y⟩ := c
    have hx : a < x := h (x, y) (by simp)
    simp only [Memory.read]
    rw [if_neg (by omega)]
    exact ih (fun d hd => h d (by simp [hd]))

/-- The first entry after a write is the written byte's or the one before. -/
theorem Memory.write_mem {m : Mem} {a : Nat} {v : Byte} : ∀ c ∈ Memory.write m a v, c.1 = a ∨ c ∈ m := by
  induction m with
  | nil =>
    intro c hc
    simp only [Memory.write] at hc
    split at hc <;> simp_all
  | cons d m ih =>
    obtain ⟨x, y⟩ := d
    intro c hc
    simp only [Memory.write] at hc
    split at hc
    · split at hc <;> simp_all
      rcases hc with rfl | rfl | hc <;> simp_all
    · split at hc
      · split at hc <;> simp_all
        rcases hc with rfl | hc <;> simp_all
      · rcases List.mem_cons.1 hc with rfl | hc
        · simp
        · rcases ih c hc with h | h <;> simp [h]

/-- A list whose entries all lie above `a` may follow `a`. -/
theorem Memory.wf_cons_of {a : Nat} {b : Byte} {m : Mem} (hb : b ≠ Memory.rest) (hm : Memory.wf m = true)
    (h : ∀ c ∈ m, a < c.1) : Memory.wf ((a, b) :: m) = true := by
  refine Memory.wf_cons.2 ⟨hb, hm, ?_⟩
  intro c hc
  exact h c (List.mem_of_mem_head? hc)

/-- A write keeps the canonical form. -/
theorem Memory.write_wf {m : Mem} (h : Memory.wf m = true) (a : Nat) (v : Byte) :
    Memory.wf (Memory.write m a v) = true := by
  induction m with
  | nil =>
    simp only [Memory.write]
    split
    · rfl
    · simp [Memory.wf, *]
  | cons c m ih =>
    obtain ⟨x, y⟩ := c
    have h1 := Memory.wf_cons.1 h
    have hl := Memory.wf_head_lt h
    simp only [Memory.write]
    split
    · split
      · exact h
      · refine Memory.wf_cons_of ‹_› h ?_
        intro d hd
        rcases List.mem_cons.1 hd with rfl | hd
        · assumption
        · exact Nat.lt_trans ‹_› (hl d hd)
    · split
      · split
        · exact h1.2.1
        · subst_vars
          exact Memory.wf_cons_of ‹_› h1.2.1 hl
      · refine Memory.wf_cons_of h1.1 (ih h1.2.1) ?_
        intro d hd
        rcases Memory.write_mem d hd with e | e
        · omega
        · exact hl d e

theorem Memory.writeN_wf {m : Mem} (h : Memory.wf m = true) (a : Nat) (bs : List Byte) :
    Memory.wf (Memory.writeN m a bs) = true := by
  induction bs generalizing m a with
  | nil => exact h
  | cons b bs ih => exact ih (Memory.write_wf h a b) (a + 1)

/-- Dropping entries keeps the canonical form. -/
theorem Memory.filter_wf {m : Mem} (h : Memory.wf m = true) (p : Host.Cell → Bool) :
    Memory.wf (m.filter p) = true := by
  induction m with
  | nil => rfl
  | cons c m ih =>
    obtain ⟨x, y⟩ := c
    have h1 := Memory.wf_cons.1 h
    rw [List.filter_cons]
    split
    · exact Memory.wf_cons_of h1.1 (ih h1.2.1) (fun d hd => Memory.wf_head_lt h d (List.mem_filter.1 hd).1)
    · exact ih h1.2.1

theorem Memory.clear_wf {m : Mem} (h : Memory.wf m = true) (a n : Nat) : Memory.wf (Memory.clear m a n) = true :=
  Memory.filter_wf h _

theorem Memory.writeW_wf {m : Mem} (h : Memory.wf m = true) (a : Nat) (w : Word) :
    Memory.wf (Memory.writeW m a w) = true := Memory.writeN_wf h a _

theorem Memory.copy_wf {dst : Mem} (h : Memory.wf dst = true) (src : Mem) (a b n : Nat) :
    Memory.wf (Memory.copy src a dst b n) = true := Memory.writeN_wf h b _

/-- A read after a write: the byte written, and every other byte as before. -/
theorem Memory.read_write {m : Mem} (h : Memory.wf m = true) (a : Nat) (v : Byte) (x : Nat) :
    Memory.read (Memory.write m a v) x = if x = a then v else Memory.read m x := by
  induction m with
  | nil =>
    simp only [Memory.write]
    by_cases hv : v = Memory.rest
    · simp [hv, Memory.read]
    · rw [if_neg hv]
      simp only [Memory.read]
      by_cases hx : x = a
      · simp [hx]
      · rw [if_neg (fun e => hx e.symm), if_neg hx]
  | cons c m ih =>
    obtain ⟨k, y⟩ := c
    have h1 := Memory.wf_cons.1 h
    have hl := Memory.wf_head_lt h
    have hbelow : ∀ z, z < k → Memory.read ((k, y) :: m) z = Memory.rest := fun z hz =>
      Memory.read_lt (fun d hd => by
        rcases List.mem_cons.1 hd with rfl | hd
        · exact hz
        · exact Nat.lt_trans hz (hl d hd))
    have hrest : Memory.read m k = Memory.rest := Memory.read_lt hl
    simp only [Memory.write]
    split
    · rename_i hlt
      split
      · rename_i hv
        by_cases hx : x = a
        · rw [if_pos hx, hx, hbelow a hlt, hv]
        · rw [if_neg hx]
      · by_cases hx : x = a
        · simp [Memory.read, hx]
        · rw [if_neg hx]
          exact if_neg (fun e => hx e.symm)
    · split
      · rename_i hak
        subst hak
        split
        · rename_i hv
          by_cases hx : x = a
          · rw [if_pos hx, hx, hrest, hv]
          · rw [if_neg hx]
            simp only [Memory.read]
            rw [if_neg (fun e => hx e.symm)]
        · by_cases hx : x = a
          · simp [Memory.read, hx]
          · simp only [Memory.read]
            rw [if_neg (fun e => hx e.symm), if_neg hx, if_neg (fun e => hx e.symm)]
      · rename_i h2 h3
        simp only [Memory.read]
        by_cases hk : k = x
        · rw [if_pos hk, if_pos hk, if_neg (by omega)]
        · rw [if_neg hk, if_neg hk]
          exact ih h1.2.1

/-- A read after a write of bytes: the byte written at its place, and every byte outside as before. -/
theorem Memory.read_writeN {m : Mem} (h : Memory.wf m = true) (a : Nat) (bs : List Byte) (x : Nat) :
    Memory.read (Memory.writeN m a bs) x =
      if a ≤ x ∧ x < a + bs.length then bs.getD (x - a) 0 else Memory.read m x := by
  induction bs generalizing m a with
  | nil => exact (if_neg (by simp only [List.length_nil]; omega)).symm
  | cons b bs ih =>
    simp only [Memory.writeN, List.length_cons]
    rw [ih (Memory.write_wf h a b) (a + 1), Memory.read_write h]
    by_cases h1 : x = a
    · subst h1
      rw [if_neg (by omega), if_pos rfl, if_pos (by omega)]
      simp
    · by_cases h2 : a ≤ x ∧ x < a + (bs.length + 1)
      · rw [if_pos h2, if_pos (by omega)]
        have e : x - a = (x - (a + 1)) + 1 := by omega
        rw [e]
        simp
      · rw [if_neg h2, if_neg (by omega), if_neg h1]

theorem Memory.readN_length (m : Mem) (a n : Nat) : (Memory.readN m a n).length = n := by
  induction n generalizing a with
  | zero => rfl
  | succ n ih => simp [Memory.readN, ih]

theorem Memory.readN_getD (m : Mem) (a n k : Nat) (h : k < n) : (Memory.readN m a n).getD k 0 = Memory.read m
    (a + k) := by
  induction n generalizing a k with
  | zero => omega
  | succ n ih =>
    cases k with
    | zero => simp [Memory.readN]
    | succ k =>
      have := ih (a + 1) k (by omega)
      simp only [Memory.readN, List.getD_cons_succ]
      rw [this]
      congr 1
      omega

/-- Bytes ored into a memory leave every bit that was 1 at 1. -/
theorem Memory.read_or {m : Mem} (h : Memory.wf m = true) (a : Nat) (bs : List Byte) (x : Nat) :
    Memory.read m x &&& Memory.read (Memory.writeN m a (List.zipWith (fun (x y : Byte) => x ||| y)
      (Memory.readN m a bs.length) bs)) x = Memory.read m x := by
  rw [Memory.read_writeN h]
  split
  · rename_i hx
    have hl : x - a < bs.length := by
      have := hx.2
      simp only [List.length_zipWith, Memory.readN_length, Nat.min_self] at this
      omega
    have e1 := Memory.readN_getD m a bs.length (x - a) hl
    have e2 : a + (x - a) = x := by omega
    rw [e2] at e1
    have hl1 : x - a < (Memory.readN m a bs.length).length := by rw [Memory.readN_length]; exact hl
    have e3 : (Memory.readN m a bs.length)[x - a] = Memory.read m x := by
      rw [← e1]
      simp [List.getD, hl1]
    have e4 : (List.zipWith (fun (x y : Byte) => x ||| y) (Memory.readN m a bs.length) bs).getD (x - a) 0 =
        Memory.read m x ||| bs[x - a] := by
      rw [← e3]
      have hz : x - a < (List.zipWith (fun (x y : Byte) => x ||| y) (Memory.readN m a bs.length) bs).length := by
        rw [List.length_zipWith, Memory.readN_length, Nat.min_self]
        exact hl
      rw [List.getD, List.getElem?_eq_getElem hz, Option.getD_some, List.getElem_zipWith]
    rw [e4]
    ext i hi
    simp
    intro h
    simp [h]
  · exact BitVec.and_self

end Sys2Proof.Machine
end

