-- ==== Sys2Proof/Laws/Keeps.lean ====
section
/-!
SUPPORT. What every operation keeps, said once: the queue, the canonical form of the memories, the direction of time, and
the fuses of the OTP. One lemma per operation in the files Laws/Keeps<Family>.lean carries it through.
-/

namespace Sys2Proof.Machine

/-- `t` comes from `s` by an operation of the block. -/
structure Keeps (s t : State) : Prop where
  pending : t.pending = s.pending
  mem : s.memOk → t.memOk
  time : s.now ≤ t.now
  fuses : s.memOk → s.fusesKept t

theorem Keeps.refl (s : State) : Keeps s s :=
  ⟨rfl, id, Nat.le_refl _, fun _ _ => BitVec.and_self⟩

theorem Keeps.trans {s t u : State} (h : Keeps s t) (k : Keeps t u) : Keeps s u := by
  refine ⟨k.pending.trans h.pending, fun m => k.mem (h.mem m), Nat.le_trans h.time k.time, fun m a => ?_⟩
  have h1 := h.fuses m a
  have h2 := k.fuses (h.mem m) a
  rw [← h1, BitVec.and_assoc, ← h2]
  ext i hi
  have h1' := congrArg (fun x => x[i]) h1
  have h2' := congrArg (fun x => x[i]) h2
  simp only [BitVec.getElem_and] at *
  revert h1' h2'
  cases (Memory.read s.cloister.otp a)[i] <;> cases (Memory.read t.cloister.otp a)[i] <;>
    cases (Memory.read u.cloister.otp a)[i] <;> simp

/-- A change of none of the queue, the memories, the OTP and the Vigil save area, with time not going back. -/
theorem Keeps.of_eq {s t : State} (h1 : t.pending = s.pending) (h2 : t.lp = s.lp) (h3 : t.under = s.under)
    (h4 : t.moa = s.moa) (h5 : t.cloister.otp = s.cloister.otp) (h6 : t.power.save = s.power.save)
    (h7 : s.now ≤ t.now) : Keeps s t := by
  refine ⟨h1, fun m => ?_, h7, fun _ a => ?_⟩
  · simpa only [State.memOk, h2, h3, h4, h5, h6] using m
  · rw [h5]
    exact BitVec.and_self

/-- A record update that changes none of the queue, the memories, the OTP and the Vigil save area. -/
theorem Keeps.mk_keeps {s0 s : State} {xnow : Time} {xfree : Nat} {xcalMs : Nat} {xcalAt : Time} {xcalSet : Bool}
    {xbell : BellGen} {xtens : Vector Tenant 4} {xrings : Vector RingSt 16} {xspares : List Nat}
    {xsurfs : Vector (List (Nat × Surface)) 4} {xchaps : Vector ChapSt 4} {xnave : NaveSt} {xkey : KStore}
    {xovl : KStore} {xshown : KStore} {xpast : KStore} {xkloads : List KLoad} {xlight : LightSt}
    {xchoir : ChoirSt} {xwitness : WitnessSt} {xpower : PowerSt} {xprime : PrimeSt} {xthermal : ThermalSt}
    {xcloister : CloisterSt} {xupdate : UpdateSt} {xreliq : ReliqSt} {xchain : ChainSt} {xgal : GallerySt}
    {xports : PortsSt} {xmemc : MemCtl} {xprofiles : List (Nat × List Byte)} {xfwVer : Word} {xdead : Bool}
    (h : Keeps s0 s) (hc : xcloister.otp = s.cloister.otp) (hp : xpower.save = s.power.save) (hn : s.now ≤ xnow) :
    Keeps s0 (State.mk s.pending xnow xfree xcalMs xcalAt xcalSet xbell xtens xrings xspares xsurfs xchaps xnave
    xkey xovl xshown xpast xkloads xlight xchoir xwitness xpower xprime xthermal xcloister xupdate xreliq xchain
    xgal xports xmemc s.lp s.under s.moa xprofiles xfwVer xdead) :=
  h.trans (Keeps.of_eq rfl rfl rfl rfl hc hp hn)

/-- The same as an equivalence, where time stands still. -/
theorem Keeps.mk_iff {s0 s : State}  {xfree : Nat} {xcalMs : Nat} {xcalAt : Time} {xcalSet : Bool}
    {xbell : BellGen} {xtens : Vector Tenant 4} {xrings : Vector RingSt 16} {xspares : List Nat}
    {xsurfs : Vector (List (Nat × Surface)) 4} {xchaps : Vector ChapSt 4} {xnave : NaveSt} {xkey : KStore}
    {xovl : KStore} {xshown : KStore} {xpast : KStore} {xkloads : List KLoad} {xlight : LightSt}
    {xchoir : ChoirSt} {xwitness : WitnessSt} {xpower : PowerSt} {xprime : PrimeSt} {xthermal : ThermalSt}
    {xcloister : CloisterSt} {xupdate : UpdateSt} {xreliq : ReliqSt} {xchain : ChainSt} {xgal : GallerySt}
    {xports : PortsSt} {xmemc : MemCtl} {xprofiles : List (Nat × List Byte)} {xfwVer : Word} {xdead : Bool}
    (hc : xcloister.otp = s.cloister.otp) (hp : xpower.save = s.power.save) :
    Keeps s0 (State.mk s.pending s.now xfree xcalMs xcalAt xcalSet xbell xtens xrings xspares xsurfs xchaps xnave
    xkey xovl xshown xpast xkloads xlight xchoir xwitness xpower xprime xthermal xcloister xupdate xreliq xchain
    xgal xports xmemc s.lp s.under s.moa xprofiles xfwVer xdead) ↔ Keeps s0 s :=
  ⟨fun h => h.trans (Keeps.of_eq rfl rfl rfl rfl hc.symm hp.symm (Nat.le_refl _)), fun h => h.trans (Keeps.of_eq rfl rfl rfl rfl hc hp (Nat.le_refl _))⟩

theorem Keeps.ite {s0 a b : State} {c : Prop} [Decidable c] (ha : c → Keeps s0 a) (hb : ¬ c → Keeps s0 b) :
    Keeps s0 (if c then a else b) := by
  split <;> simp_all

/-- A change of the power block that puts no ill-formed memory into the Vigil save area. -/
theorem State.modPower_saves {s0 : State} (s : State) (f : PowerSt → PowerSt) (h : Keeps s0 s)
    (hf : ∀ p, (∀ v, p.save = some v → Memory.wf v.under = true) →
      ∀ v, (f p).save = some v → Memory.wf v.under = true) : Keeps s0 (s.modPower f) :=
  h.trans ⟨rfl, fun m => ⟨m.1, m.2.1, m.2.2.1, m.2.2.2.1, hf _ m.2.2.2.2⟩, Nat.le_refl _, fun _ _ => BitVec.and_self⟩

/-- The same, where what goes into the save area is well formed by what the start state holds. -/
theorem State.modPower_saved {s0 s : State} (f : PowerSt → PowerSt) (h : Keeps s0 s)
    (hf : s0.memOk → ∀ v, (f s.power).save = some v → Memory.wf v.under = true) : Keeps s0 (s.modPower f) := by
  refine ⟨h.pending, fun m => ?_, h.time, h.fuses⟩
  have m' := h.mem m
  exact ⟨m'.1, m'.2.1, m'.2.2.1, m'.2.2.2.1, hf m⟩

theorem Keeps.elim {α : Type} {s0 a : State} {f : α → State} {o : Option α} (ha : Keeps s0 a)
    (hf : ∀ x, Keeps s0 (f x)) : Keeps s0 (o.elim a f) := by
  cases o with
  | none => exact ha
  | some x => exact hf x

theorem Keeps.ite_snd {α : Type} {s0 : State} {a b : α × State} {c : Prop} [Decidable c] (ha : c → Keeps s0 a.2)
    (hb : ¬ c → Keeps s0 b.2) : Keeps s0 (if c then a else b).2 := by
  split <;> simp_all

theorem foldl_keeps {α β : Type} {s0 : State} {f : α × State → β → α × State} (xs : List β) (a : α × State)
    (h : Keeps s0 a.2) (hf : ∀ y x, Keeps s0 y.2 → Keeps s0 (f y x).2) : Keeps s0 (xs.foldl f a).2 := by
  induction xs generalizing a with
  | nil => exact h
  | cons x xs ih => exact ih (f a x) (hf a x h)

theorem Keeps.of_snd {α : Type} {s0 b : State} {p : α × State} {a : α} (e : p = (a, b)) (h : Keeps s0 p.2) :
    Keeps s0 b := by
  rw [e] at h
  exact h

theorem Keeps.of_fst {α : Type} {s0 b : State} {p : State × α} {a : α} (e : p = (b, a)) (h : Keeps s0 p.1) :
    Keeps s0 b := by
  rw [e] at h
  exact h

theorem forEach_keeps {α : Type} {s0 s : State} {f : α → State → State} (xs : List α) (h : Keeps s0 s)
    (hf : ∀ x s', Keeps s0 s' → Keeps s0 (f x s')) : Keeps s0 (forEach xs f s) := by
  unfold forEach
  induction xs generalizing s with
  | nil => exact h
  | cons x xs ih => exact ih (hf x s h)

end Sys2Proof.Machine
end

