-- ==== Sys2Proof/Laws/KeepsOps.lean ====
section
/-!
SUPPORT. What the operations of Machine/Ops.lean keep.
-/

namespace Sys2Proof.Machine

set_option simprocs false

@[simp] theorem State.modTen_keeps {z : State} (s : State) (t : Ten) (f : Tenant → Tenant) (hk : Keeps z s) :
    Keeps z (State.modTen s t f) := by
  unfold State.modTen
  with_reducible repeat' (first | assumption | simp only [Keeps.mk_iff])

@[simp] theorem State.modRing_keeps {z : State} (s : State) (r : RingId) (f : RingSt → RingSt) (hk : Keeps z s) :
    Keeps z (State.modRing s r f) := by
  unfold State.modRing
  with_reducible repeat' (first | assumption | simp only [Keeps.mk_iff])

@[simp] theorem State.modChap_keeps {z : State} (s : State) (c : Chap) (f : ChapSt → ChapSt) (hk : Keeps z s) :
    Keeps z (State.modChap s c f) := by
  unfold State.modChap
  with_reducible repeat' (first | assumption | simp only [Keeps.mk_iff])

@[simp] theorem State.modOut_keeps {z : State} (s : State) (o : OutId) (f : OutSt → OutSt) (hk : Keeps z s) :
    Keeps z (State.modOut s o f) := by
  unfold State.modOut
  with_reducible repeat' (first | assumption | simp only [Keeps.mk_iff])

@[simp] theorem State.modRail_keeps {z : State} (s : State) (r : Fin 2) (f : RailSt → RailSt) (hk : Keeps z s) :
    Keeps z (State.modRail s r f) := by
  unfold State.modRail
  with_reducible repeat' (first | assumption | simp only [Keeps.mk_iff])

@[simp] theorem State.modMatrix_keeps {z : State} (s : State) (f : MatrixSt → MatrixSt) (hk : Keeps z s) :
    Keeps z (State.modMatrix s f) := by
  unfold State.modMatrix
  with_reducible repeat' (first | assumption | simp only [Keeps.mk_iff])

@[simp] theorem State.modSlot_keeps {z : State} (s : State) (i : Slot) (f : LoopSt → LoopSt) (hk : Keeps z s) :
    Keeps z (State.modSlot s i f) := by
  unfold State.modSlot
  with_reducible repeat' (first | assumption | simp only [Keeps.mk_iff])

@[simp] theorem State.modPd_keeps {z : State} (s : State) (i : Pd) (f : PdSt → PdSt) (hk : Keeps z s) :
    Keeps z (State.modPd s i f) := by
  unfold State.modPd
  with_reducible repeat' (first | assumption | simp only [Keeps.mk_iff])

@[simp] theorem State.modTh_keeps {z : State} (s : State) (i : Fin 10) (f : ThChan → ThChan) (hk : Keeps z s) :
    Keeps z (State.modTh s i f) := by
  unfold State.modTh
  with_reducible repeat' (first | assumption | simp only [Keeps.mk_iff])

@[simp] theorem State.modClo_keeps {z : State} (s : State) (q : Fin 5) (f : CloReq → CloReq) (hk : Keeps z s) :
    Keeps z (State.modClo s q f) := by
  unfold State.modClo
  with_reducible repeat' (first | assumption | simp only [Keeps.mk_iff])

@[simp] theorem State.modBox_keeps {z : State} (s : State) (t : Ten) (f : Mailbox → Mailbox) (hk : Keeps z s) :
    Keeps z (State.modBox s t f) := by
  unfold State.modBox
  with_reducible repeat' (first | assumption | simp only [Keeps.mk_iff])

@[simp] theorem State.modSurfs_keeps {z : State} (s : State) (t : Ten) (f : List (Nat × Surface) → List
    (Nat × Surface)) (hk : Keeps z s) :
    Keeps z (State.modSurfs s t f) := by
  unfold State.modSurfs
  with_reducible repeat' (first | assumption | simp only [Keeps.mk_iff])

@[simp] theorem State.modPower_keeps {z : State} (s : State) (f : PowerSt → PowerSt) (hk : Keeps z s)
    (hf : ∀ p, (f p).save = p.save) : Keeps z (s.modPower f) := by
  exact Keeps.mk_keeps hk rfl (hf _) (Nat.le_refl _)

@[simp] theorem State.modBell_keeps {z : State} (s : State) (f : BellGen → BellGen) (hk : Keeps z s) :
    Keeps z (State.modBell s f) := by
  unfold State.modBell
  with_reducible repeat' (first | assumption | simp only [Keeps.mk_iff])

@[simp] theorem State.modRel_keeps {z : State} (s : State) (f : ReliqSt → ReliqSt) (hk : Keeps z s) :
    Keeps z (State.modRel s f) := by
  unfold State.modRel
  with_reducible repeat' (first | assumption | simp only [Keeps.mk_iff])

@[simp] theorem State.modChain_keeps {z : State} (s : State) (f : ChainSt → ChainSt) (hk : Keeps z s) :
    Keeps z (State.modChain s f) := by
  unfold State.modChain
  with_reducible repeat' (first | assumption | simp only [Keeps.mk_iff])

@[simp] theorem State.modUpd_keeps {z : State} (s : State) (f : UpdateSt → UpdateSt) (hk : Keeps z s) :
    Keeps z (State.modUpd s f) := by
  unfold State.modUpd
  with_reducible repeat' (first | assumption | simp only [Keeps.mk_iff])

@[simp] theorem State.modUds_keeps {z : State} (s : State) (f : UdsSt → UdsSt) (hk : Keeps z s) :
    Keeps z (State.modUds s f) := by
  unfold State.modUds
  with_reducible repeat' (first | assumption | apply State.modUpd_keeps)

@[simp] theorem State.passTo_keeps {z : State} (s : State) (d : Time) (hk : Keeps z s) :
    Keeps z (State.passTo s d) := by
  unfold State.passTo
  split
  · exact Keeps.mk_keeps hk rfl rfl (Nat.le_of_lt ‹_›)
  · exact hk

@[simp] theorem State.passFirst_keeps {z : State} (s : State) (ds : List Time) (hk : Keeps z s) :
    Keeps z (State.passFirst s ds) := by
  unfold State.passFirst
  cases ds.min? with
  | none => exact hk
  | some d => exact State.passTo_keeps s d hk

@[simp] theorem State.fresh_keeps {z : State} (s : State) (w : Nat) (hk : Keeps z s) :
    Keeps z (State.fresh s w).2 := by
  unfold State.fresh
  with_reducible repeat' (first | assumption | simp only [Keeps.mk_iff])

@[simp] theorem State.lpWrite_keeps {z : State} (s : State) (a : Nat) (bs : List Byte) (hk : Keeps z s) :
    Keeps z (State.lpWrite s a bs) := by
  exact hk.trans ⟨rfl, fun m => ⟨Memory.writeN_wf m.1 a bs, m.2⟩, Nat.le_refl _, fun _ _ => BitVec.and_self⟩

@[simp] theorem State.underWrite_keeps {z : State} (s : State) (a : Nat) (bs : List Byte) (hk : Keeps z s) :
    Keeps z (State.underWrite s a bs) := by
  exact hk.trans ⟨rfl, fun m => ⟨m.1, Memory.writeN_wf m.2.1 a bs, m.2.2⟩, Nat.le_refl _, fun _ _ => BitVec.and_self⟩

@[simp] theorem State.moaWrite_keeps {z : State} (s : State) (a : Nat) (bs : List Byte) (hk : Keeps z s) :
    Keeps z (State.moaWrite s a bs) := by
  exact hk.trans ⟨rfl, fun m => ⟨m.1, m.2.1, Memory.writeN_wf m.2.2.1 a bs, m.2.2.2⟩, Nat.le_refl _, fun _ _ => BitVec.and_self⟩

@[simp] theorem State.memWrite_keeps {z : State} (s : State) (under : Bool) (a : Nat) (bs : List Byte)
    (hk : Keeps z s) :
    Keeps z (State.memWrite s under a bs) := by
  unfold State.memWrite
  with_reducible repeat' (first | assumption | intro _ | apply State.underWrite_keeps
                                | apply State.lpWrite_keeps | apply Keeps.ite)

@[simp] theorem State.gfix_keeps {z : State} (s : State) (i : Nat) (n : Nat) (hk : Keeps z s) :
    Keeps z (State.gfix s i n) := by
  unfold State.gfix
  with_reducible repeat' (first | assumption | split | simp only [Keeps.mk_iff])

@[simp] theorem State.tally_keeps {z : State} (s : State) (block unit event n : Nat) (hk : Keeps z s) :
    Keeps z (State.tally s block unit event n) := by
  unfold State.tally
  with_reducible repeat' (first | assumption | intro _ | apply Keeps.ite | simp only [Keeps.mk_iff])

@[simp] theorem State.trace_keeps {z : State} (s : State) (type : Nat) (p : List Byte) (hk : Keeps z s) :
    Keeps z (State.trace s type p) := by
  unfold State.trace
  with_reducible repeat' (first | assumption | intro _ | apply State.gfix_keeps | apply Keeps.ite
                                | simp only [Keeps.mk_iff])

@[simp] theorem State.refBegin_keeps {z : State} (s : State) (hk : Keeps z s) :
    Keeps z (State.refBegin s) := by
  unfold State.refBegin
  with_reducible repeat' (first | assumption | intro _ | apply State.tally_keeps | apply Keeps.ite | split
                                | dsimp only | simp only [Keeps.mk_iff])

@[simp] theorem State.refEnd_keeps {z : State} (s : State) (hk : Keeps z s) :
    Keeps z (State.refEnd s) := by
  unfold State.refEnd
  with_reducible repeat' (first | assumption | intro _ | apply State.tally_keeps | apply Keeps.ite | split
                                | dsimp only | simp only [Keeps.mk_iff])

@[simp] theorem State.lpWake_keeps {z : State} (s : State) (hk : Keeps z s) :
    Keeps z (State.lpWake s) := by
  unfold State.lpWake
  with_reducible repeat' (first | assumption | intro _ | apply State.refEnd_keeps | apply Keeps.ite | split
                                | dsimp only | simp only [Keeps.mk_iff])

@[simp] theorem State.lpRequest_keeps {z : State} (s : State) (hk : Keeps z s) :
    Keeps z (State.lpRequest s) := by
  unfold State.lpRequest
  with_reducible repeat' (first | assumption | intro _ | apply State.lpWake_keeps | apply State.passTo_keeps
                                | apply Keeps.ite | split | dsimp only | simp only [Keeps.mk_iff])

@[simp] theorem State.traceMark_keeps {z : State} (s : State) (point unit bell : Nat) (hk : Keeps z s) :
    Keeps z (State.traceMark s point unit bell) := by
  unfold State.traceMark
  with_reducible repeat' (first | assumption | intro _ | apply State.trace_keeps | apply Keeps.ite)

@[simp] theorem State.modPort_keeps {z : State} (s : State) (p : HostPort) (f : PortSt → PortSt) (hk : Keeps z s) :
    Keeps z (State.modPort s p f) := by
  unfold State.modPort
  with_reducible repeat' (first | assumption | split | simp only [Keeps.mk_iff])

@[simp] theorem State.modPf_keeps {z : State} (s : State) (n : Ten) (f : PfSt → PfSt) (hk : Keeps z s) :
    Keeps z (State.modPf s n f) := by
  unfold State.modPf
  with_reducible repeat' (first | assumption | simp only [Keeps.mk_iff])

@[simp] theorem State.notify_keeps {z : State} (s : State) (t : Ten) (v : Fin 2) (hk : Keeps z s) :
    Keeps z (State.notify s t v) := by
  unfold State.notify
  with_reducible repeat' (first | assumption | apply State.tally_keeps | apply State.modPf_keeps
                                | apply State.modPort_keeps | split | dsimp only)

@[simp] theorem State.evqPut_keeps {z : State} (s : State) (t : Ten) (rec' : List Byte) (hk : Keeps z s) :
    Keeps z (State.evqPut s t rec') := by
  unfold State.evqPut
  with_reducible repeat' (first | assumption | intro _ | apply State.lpWake_keeps | apply State.memWrite_keeps
                                | apply State.modTen_keeps | apply State.notify_keeps | apply Keeps.ite | split
                                | dsimp only | simp only [Keeps.mk_iff])

@[simp] theorem State.evqSeq_keeps {z : State} (s : State) (t : Ten) (hk : Keeps z s) :
    Keeps z (State.evqSeq s t) := by
  unfold State.evqSeq
  with_reducible repeat' (first | assumption | apply State.modTen_keeps)

@[simp] theorem State.traceEvent_keeps {z : State} (s : State) (t : Ten) (rec' : List Byte) (hk : Keeps z s) :
    Keeps z (State.traceEvent s t rec') := by
  unfold State.traceEvent
  with_reducible repeat' (first | assumption | intro _ | apply State.trace_keeps | apply Keeps.ite)

@[simp] theorem State.evqOverflow_keeps {z : State} (s : State) (t : Ten) (hk : Keeps z s) :
    Keeps z (State.evqOverflow s t) := by
  unfold State.evqOverflow
  with_reducible repeat' (first | assumption | intro _ | apply State.evqSeq_keeps | apply State.modTen_keeps
                                | apply State.evqPut_keeps | apply State.traceEvent_keeps | apply Keeps.ite)

@[simp] theorem State.postNow_keeps {z : State} (s0 : State) (t : Ten) (code src : Nat) (all : Bool)
    (cseq : Option Word) (p : List Word) (hk : Keeps z s0) :
    Keeps z (State.postNow s0 t code src all cseq p) := by
  unfold State.postNow
  with_reducible repeat' (first | assumption | intro _ | apply State.evqOverflow_keeps
                                | apply State.evqSeq_keeps | apply State.traceEvent_keeps
                                | apply State.modTen_keeps | apply State.evqPut_keeps | apply Keeps.ite)

@[simp] theorem State.postRaw_keeps {z : State} (s : State) (t : Ten) (code src : Nat) (all : Bool)
    (cseq : Option Word) (p : List Word) (hk : Keeps z s) :
    Keeps z (State.postRaw s t code src all cseq p) := by
  unfold State.postRaw
  exact Keeps.ite (fun _ => State.modTen_keeps s t _ hk) (fun _ => State.postNow_keeps s t code src all cseq p hk)

@[simp] theorem State.postList_keeps {z : State} (s : State) (ts : List Ten) (code src : Nat) (all : Bool)
    (cseq : Option Word) (p : List Word) (hk : Keeps z s) :
    Keeps z (State.postList s ts code src all cseq p) := by
  unfold State.postList
  with_reducible repeat' (first | assumption | apply forEach_keeps | intro _ s' h'
                                | apply State.postRaw_keeps)

@[simp] theorem State.relAppendView_keeps {z : State} (s : State) (r : RelRec) (hk : Keeps z s) :
    Keeps z (State.relAppendView s r) := by
  unfold State.relAppendView
  with_reducible repeat' (first | assumption | intro _ | apply State.modRel_keeps | apply State.tally_keeps
                                | apply State.postList_keeps | apply Keeps.ite)

@[simp] theorem State.relAppend_keeps {z : State} (s : State) (r : RelRec) (hk : Keeps z s) :
    Keeps z (State.relAppend s r) := by
  unfold State.relAppend
  with_reducible repeat' (first | assumption | apply State.modRel_keeps | apply State.tally_keeps
                                | apply State.relAppendView_keeps | split)

@[simp] theorem State.notice_keeps {z : State} (s : State) (code src : Nat) (fault : Bool) (ten : Option Ten)
    (p : List Word) (hk : Keeps z s) :
    Keeps z (State.notice s code src fault ten p) := by
  unfold State.notice
  with_reducible repeat' (first | assumption | apply State.relAppend_keeps)

@[simp] theorem State.noticeEv_keeps {z : State} (s : State) (code src : Nat) (ten : Option Ten) (p : List Word)
    (hk : Keeps z s) :
    Keeps z (State.noticeEv s code src ten p) := by
  unfold State.noticeEv
  with_reducible repeat' (first | assumption | apply State.notice_keeps | split)

@[simp] theorem State.post_keeps {z : State} (s : State) (t : Ten) (code src : Nat) (cseq : Option Word)
    (p : List Word) (hk : Keeps z s) :
    Keeps z (State.post s t code src cseq p) := by
  unfold State.post
  with_reducible repeat' (first | assumption | apply State.postRaw_keeps | apply State.noticeEv_keeps)

@[simp] theorem State.postTo_keeps {z : State} (s : State) (ts : List Ten) (code src : Nat) (cseq : Option Word)
    (p : List Word) (hk : Keeps z s) :
    Keeps z (State.postTo s ts code src cseq p) := by
  unfold State.postTo
  with_reducible repeat' (first | assumption | apply State.postList_keeps | apply State.noticeEv_keeps)

@[simp] theorem State.postAll_keeps {z : State} (s : State) (code src : Nat) (cseq : Option Word) (p : List Word)
    (hk : Keeps z s) :
    Keeps z (State.postAll s code src cseq p) := by
  unfold State.postAll
  with_reducible repeat' (first | assumption | apply State.postList_keeps | apply State.noticeEv_keeps)

@[simp] theorem State.blocked_keeps {z : State} (s : State) (hk : Keeps z s) :
    Keeps z (State.blocked s) := by
  unfold State.blocked
  with_reducible repeat' (first | assumption | intro _ | apply State.fresh_keeps | apply State.notice_keeps
                                | apply State.gfix_keeps | apply Keeps.ite | split | dsimp only
                                | simp only [Keeps.mk_iff])

@[simp] theorem State.outside_keeps {z : State} (s : State) (t : Ten) (n : Nat) (hk : Keeps z s) :
    Keeps z (State.outside s t n) := by
  unfold State.outside
  with_reducible repeat' (first | assumption | intro _ | apply State.gfix_keeps | apply State.tally_keeps
                                | apply Keeps.ite)

@[simp] theorem State.outsideWrite_keeps {z : State} (s : State) (t : Ten) (n : Nat) (hk : Keeps z s) :
    Keeps z (State.outsideWrite s t n) := by
  unfold State.outsideWrite State.blocked
  exact Keeps.ite (fun _ => hk) (fun _ => by
    with_reducible repeat' (first | assumption | apply State.notice_keeps | apply State.gfix_keeps
                                  | apply State.outside_keeps | apply State.fresh_keeps))

@[simp] theorem State.sample_keeps {z : State} (s : State) (code v bin : Nat) (hk : Keeps z s) :
    Keeps z (State.sample s code v bin) := by
  unfold State.sample
  with_reducible repeat' (first | assumption | intro _ | apply State.modRel_keeps | apply Keeps.ite)

@[simp] theorem State.accClose_keeps {z : State} (s : State) (p : Nat → Bool) (hk : Keeps z s) :
    Keeps z (State.accClose s p) := by
  unfold State.accClose
  with_reducible repeat' (first | assumption | apply forEach_keeps | intro _ s' h'
                                | apply State.modRel_keeps | apply State.relAppend_keeps)

@[simp] theorem State.freezeEnd_keeps {z : State} (s : State) (why : Nat) (hk : Keeps z s) :
    Keeps z (State.freezeEnd s why) := by
  unfold State.freezeEnd
  with_reducible repeat' (first | assumption | apply forEach_keeps | intro _ s' h'
                                | apply State.modRel_keeps | apply State.relAppend_keeps
                                | apply State.post_keeps | split)

@[simp] theorem State.freezeEndOf_keeps {z : State} (s : State) (t : Ten) (why : Nat) (hk : Keeps z s) :
    Keeps z (State.freezeEndOf s t why) := by
  unfold State.freezeEndOf
  with_reducible repeat' (first | assumption | apply State.freezeEnd_keeps | split)

@[simp] theorem State.tenFault_keeps {z : State} (s : State) (t : Ten) (cause : Nat) (ring : Nat) (hk : Keeps z s) :
    Keeps z (State.tenFault s t cause ring) := by
  unfold State.tenFault
  with_reducible repeat' (first | assumption | intro _ | apply State.modTen_keeps | apply State.post_keeps
                                | apply State.freezeEndOf_keeps | apply Keeps.ite)

@[simp] theorem State.underFresh_keeps {z : State} (s : State) (rs : List (Nat × Nat)) (hk : Keeps z s) :
    Keeps z (State.underFresh s rs) := by
  unfold State.underFresh
  with_reducible repeat' (first | assumption | intro _ | apply Keeps.ite | split | dsimp only
                                | simp only [Keeps.mk_iff])

@[simp] theorem State.answer_keeps {z : State} (s : State) (t : Ten) (code : Nat) (data : List Word)
    (hk : Keeps z s) :
    Keeps z (State.answer s t code data) := by
  unfold State.answer
  with_reducible repeat' (first | assumption | apply State.modBox_keeps | apply State.notify_keeps | split)

@[simp] theorem State.cellsTurn_keeps {z : State} (s : State) (x : CellIn) (hk : Keeps z s) :
    Keeps z (State.cellsTurn s x) := by
  unfold State.cellsTurn
  with_reducible repeat' (first | assumption | apply forEach_keeps | intro _ | apply State.tally_keeps
                                | apply State.gfix_keeps | apply Keeps.ite | split | dsimp only
                                | simp only [Keeps.mk_iff])

end Sys2Proof.Machine
end

