-- ==== Sys2Proof/Laws/KeepsBanks.lean ====
section
/-!
SUPPORT. What the operations of Machine/Banks.lean keep.
-/

namespace Sys2Proof.Machine

set_option simprocs false

@[simp] theorem State.bankDone_keeps {z : State} (s : State) (b : Fin 2) (gen : Word) (ok : Bool) (r : BankReq)
    (hk : Keeps z s) :
    Keeps z (State.bankDone s b gen ok r) := by
  unfold State.bankDone
  with_reducible repeat' (first | assumption | apply State.modSlot_keeps | apply State.post_keeps | split)

@[simp] theorem State.bankWritten_keeps {z : State} (s : State) (ok : Bool) (hk : Keeps z s) :
    Keeps z (State.bankWritten s ok) := by
  unfold State.bankWritten
  with_reducible repeat' (first | assumption | apply forEach_keeps | intro _ | apply State.moaWrite_keeps
                                | apply State.tally_keeps | apply State.bankDone_keeps | apply Keeps.ite
                                | simp only [Keeps.mk_iff])

end Sys2Proof.Machine
end

