-- ==== Sys2Proof/Laws/KeepsLight.lean ====
section
/-!
SUPPORT. What the operations of Machine/Light.lean keep.
-/

namespace Sys2Proof.Machine

set_option simprocs false

@[simp] theorem State.dimCut_keeps {z : State} (s : State) (o : OutId) (hk : Keeps z s) :
    Keeps z (State.dimCut s o) := by
  unfold State.dimCut
  with_reducible repeat' (first | assumption | intro _ | apply State.modOut_keeps | apply Keeps.ite | split
                                | dsimp only | simp only [Keeps.mk_iff])

@[simp] theorem State.outWrite_keeps {z : State} (s : State) (o : OutId) (w : OutWrite) (hk : Keeps z s) :
    Keeps z (State.outWrite s o w) := by
  unfold State.outWrite
  with_reducible repeat' (first | assumption | intro _ | apply State.modOut_keeps | apply State.tally_keeps
                                | apply Keeps.ite)

@[simp] theorem State.reload_keeps {z : State} (s : State) (o : OutId) (hk : Keeps z s) :
    Keeps z (State.reload s o) := by
  unfold State.reload
  with_reducible repeat' (first | assumption | apply State.modOut_keeps | apply State.tally_keeps)

@[simp] theorem State.dimReload_keeps {z : State} (s : State) (o : OutId) (hk : Keeps z s) :
    Keeps z (State.dimReload s o) := by
  unfold State.dimReload
  with_reducible repeat' (first | assumption | intro _ | apply State.passTo_keeps | apply State.modOut_keeps
                                | apply State.reload_keeps | apply Keeps.ite)

@[simp] theorem State.dutyApplied_keeps {z : State} (s : State) (hk : Keeps z s) :
    Keeps z (State.dutyApplied s) := by
  unfold State.dutyApplied
  with_reducible repeat' (first | assumption | apply forEach_keeps | intro _ | apply State.post_keeps
                                | apply State.modOut_keeps | apply Keeps.ite)

@[simp] theorem State.bellReload_keeps {z : State} (s : State) (hk : Keeps z s) :
    Keeps z (State.bellReload s) := by
  unfold State.bellReload
  with_reducible repeat' (first | assumption | apply forEach_keeps | intro _ | apply State.reload_keeps
                                | apply State.modOut_keeps | apply Keeps.ite)

@[simp] theorem State.loopOut_keeps {z : State} (s : State) (o : OutId) (u : Nat) (hk : Keeps z s) :
    Keeps z (State.loopOut s o u) := by
  unfold State.loopOut
  with_reducible repeat' (first | assumption | apply State.modOut_keeps)

@[simp] theorem State.loopLeaves_keeps {z : State} (s : State) (o : OutId) (u : Nat) (seq : Option Word)
    (hk : Keeps z s) :
    Keeps z (State.loopLeaves s o u seq) := by
  unfold State.loopLeaves
  with_reducible repeat' (first | assumption | apply State.modOut_keeps)

@[simp] theorem State.kmPost_keeps {z : State} (s : State) (code : Nat) (p : List Word) (hk : Keeps z s) :
    Keeps z (State.kmPost s code p) := by
  unfold State.kmPost
  with_reducible repeat' (first | assumption | apply State.postTo_keeps)

@[simp] theorem State.kmJoin_keeps {z : State} (s : State) (r : Reason) (chap : Option Chap) (f : Seg → Bool)
    (hk : Keeps z s) :
    Keeps z (State.kmJoin s r chap f) := by
  unfold State.kmJoin
  with_reducible repeat' (first | assumption | intro _ | apply State.modMatrix_keeps
                                | apply State.gfix_keeps | apply State.kmPost_keeps | apply Keeps.ite)

@[simp] theorem State.kmLeave_keeps {z : State} (s : State) (r : Reason) (f : Seg → Bool) (hk : Keeps z s) :
    Keeps z (State.kmLeave s r f) := by
  unfold State.kmLeave
  with_reducible repeat' (first | assumption | intro _ | apply State.modMatrix_keeps
                                | apply State.kmPost_keeps | apply Keeps.ite)

@[simp] theorem State.kmChapelLost_keeps {z : State} (s : State) (c : Chap) (hk : Keeps z s) :
    Keeps z (State.kmChapelLost s c) := by
  unfold State.kmChapelLost
  with_reducible repeat' (first | assumption | apply State.kmJoin_keeps)

@[simp] theorem State.kmDark_keeps {z : State} (s : State) (c : Chap) (hk : Keeps z s) :
    Keeps z (State.kmDark s c) := by
  unfold State.kmDark
  with_reducible repeat' (first | assumption | intro _ | apply State.kmJoin_keeps | apply Keeps.ite | split
                                | dsimp only | simp only [Keeps.mk_iff])

@[simp] theorem State.kmPause_keeps {z : State} (s : State) (hk : Keeps z s) :
    Keeps z (State.kmPause s) := by
  unfold State.kmPause
  with_reducible repeat' (first | assumption | intro _ | apply State.kmJoin_keeps | apply Keeps.ite | split
                                | dsimp only | simp only [Keeps.mk_iff])

@[simp] theorem State.kmLatched_keeps {z : State} (s : State) (hk : Keeps z s) :
    Keeps z (State.kmLatched s) := by
  unfold State.kmLatched
  with_reducible repeat' (first | assumption | apply forEach_keeps | intro _ | apply State.kmJoin_keeps
                                | apply State.kmDark_keeps | apply State.kmPause_keeps | apply State.kmLeave_keeps
                                | apply Keeps.ite | split | dsimp only | simp only [Keeps.mk_iff])

@[simp] theorem State.kmShown_keeps {z : State} (s : State) (c : Chap) (tB : Time) (hk : Keeps z s) :
    Keeps z (State.kmShown s c tB) := by
  unfold State.kmShown
  with_reducible repeat' (first | assumption | apply State.kmLeave_keeps)

@[simp] theorem State.railStep_keeps {z : State} (s : State) (r : Fin 2) (h : List (OutId × List Nat))
    (hk : Keeps z s) :
    Keeps z (State.railStep s r h) := by
  unfold State.railStep
  with_reducible repeat' (first | assumption | apply forEach_keeps | intro _ | apply State.passTo_keeps
                                | apply State.modOut_keeps | apply State.tally_keeps | apply State.modRail_keeps
                                | apply State.post_keeps | apply Keeps.ite | split | dsimp only
                                | simp only [Keeps.mk_iff])

@[simp] theorem State.railStop_keeps {z : State} (s : State) (r : Fin 2) (cause : Nat) (hk : Keeps z s) :
    Keeps z (State.railStop s r cause) := by
  unfold State.railStop
  with_reducible repeat' (first | assumption | apply forEach_keeps | intro _ | apply State.modRail_keeps
                                | apply State.modOut_keeps | apply State.postAll_keeps
                                | apply State.kmJoin_keeps | apply Keeps.ite)

@[simp] theorem State.deratePost_keeps {z : State} (s : State) (o : OutId) (reason : Nat) (hk : Keeps z s) :
    Keeps z (State.deratePost s o reason) := by
  unfold State.deratePost
  with_reducible repeat' (first | assumption | apply State.post_keeps)

@[simp] theorem State.derateTurn_keeps {z : State} (s : State) (o : OutId) (old new : Nat) (hk : Keeps z s) :
    Keeps z (State.derateTurn s o old new) := by
  unfold State.derateTurn
  with_reducible repeat' (first | assumption | intro _ | apply State.deratePost_keeps | apply Keeps.ite | split
                                | dsimp only | simp only [Keeps.mk_iff])

@[simp] theorem State.sensorRead_keeps {z : State} (s : State) (o : OutId) (raw : Option (Byte × Byte))
    (hk : Keeps z s) :
    Keeps z (State.sensorRead s o raw) := by
  unfold State.sensorRead
  with_reducible repeat' (first | assumption | intro _ | apply State.modOut_keeps | apply State.derateTurn_keeps
                                | apply State.deratePost_keeps | apply Keeps.ite | split | dsimp only
                                | simp only [Keeps.mk_iff])

@[simp] theorem State.lampSensors_keeps {z : State} (s : State) (x : List (Nat × Option (Byte × Byte)))
    (hk : Keeps z s) :
    Keeps z (State.lampSensors s x) := by
  unfold State.lampSensors
  with_reducible repeat' (first | assumption | apply forEach_keeps | intro _ | apply State.passTo_keeps
                                | apply State.modOut_keeps | apply State.sensorRead_keeps | apply Keeps.ite | split
                                | dsimp only | simp only [Keeps.mk_iff])

@[simp] theorem State.kmColumn_keeps {z : State} (s : State) (row : Fin 8) (col : Fin 12) (d : Nat) (hk : Keeps z s) :
    Keeps z (State.kmColumn s row col d) := by
  unfold State.kmColumn
  with_reducible repeat' (first | assumption | intro _ | apply State.modMatrix_keeps
                                | apply State.gfix_keeps | apply State.tally_keeps
                                | apply State.kmPost_keeps | apply Keeps.ite)

@[simp] theorem State.rowSlot_keeps {z : State} (s : State) (x : List (Fin 12 × Nat)) (hk : Keeps z s) :
    Keeps z (State.rowSlot s x) := by
  unfold State.rowSlot
  with_reducible repeat' (first | assumption | apply forEach_keeps | intro _ | apply State.passTo_keeps
                                | apply State.kmColumn_keeps | apply State.tally_keeps
                                | apply State.modMatrix_keeps | apply State.gfix_keeps | apply Keeps.ite)

end Sys2Proof.Machine
end

