-- ==== Sys2Proof/Laws/KeepsBellRead.lean ====
section
/-!
SUPPORT. What the operations of Machine/BellRead.lean keep.
-/

namespace Sys2Proof.Machine

set_option simprocs false

@[simp] theorem State.floorBell_keeps {z : State} (s : State) (hk : Keeps z s) :
    Keeps z (State.floorBell s) := by
  unfold State.floorBell
  with_reducible repeat' (first | assumption | intro _ | apply Keeps.ite | split | dsimp only
                                | simp only [Keeps.mk_iff])

end Sys2Proof.Machine
end

