-- ==== Sys2Proof/Laws/KeepsQuagal.lean ====
section
/-!
SUPPORT. What the operations of Machine/Quagal.lean keep.
-/

namespace Sys2Proof.Machine

set_option simprocs false

@[simp] theorem State.ringFault_keeps {z : State} (s : State) (r : RingId) (cause pos : Nat) (seq : Option Word)
    (hk : Keeps z s) :
    Keeps z (State.ringFault s r cause pos seq) := by
  unfold State.ringFault
  with_reducible repeat' (first | assumption | apply State.modRing_keeps | apply State.gfix_keeps
                                | apply State.post_keeps | apply State.tenFault_keeps | split | dsimp only)

@[simp] theorem State.packetStart_keeps {z : State} (s : State) (r : RingId) (hk : Keeps z s) :
    Keeps z (State.packetStart s r) := by
  unfold State.packetStart
  with_reducible repeat' (first | assumption | intro _ | apply State.lpRequest_keeps | apply State.ringFault_keeps
                                | apply State.modRing_keeps | apply Keeps.ite | split | dsimp only
                                | simp only [Keeps.mk_iff])

@[simp] theorem State.charge_keeps {z : State} (s : State) (c : OpCtx) (cost : Nat) (hk : Keeps z s) :
    Keeps z (State.charge s c cost) := by
  unfold State.charge
  with_reducible repeat' (first | assumption | intro _ | apply State.modRing_keeps | apply State.gfix_keeps
                                | apply State.tally_keeps | apply State.trace_keeps | apply Keeps.ite)

@[simp] theorem State.packetEnd_keeps {z : State} (s : State) (r : RingId) (hk : Keeps z s) :
    Keeps z (State.packetEnd s r) := by
  unfold State.packetEnd
  with_reducible repeat' (first | assumption | apply State.modRing_keeps | apply State.tally_keeps | split
                                | dsimp only)

@[simp] theorem State.retire_keeps {z : State} (s : State) (o : OpSem) (c : OpCtx) (hk : Keeps z s)
    (hko : ∀ c x, Keeps z x → Keeps z (o.run c x)) : Keeps z (s.retire o c) := by
  unfold State.retire
  exact State.packetEnd_keeps _ _ (hko _ _ (State.modRing_keeps _ _ _ (State.charge_keeps s c _ hk)))

@[simp] theorem State.keepFetched_keeps {z : State} (s : State) (r : RingId) (hk : Keeps z s) :
    Keeps z (State.keepFetched s r) := by
  unfold State.keepFetched
  with_reducible repeat' (first | assumption | apply State.modRing_keeps)

@[simp] theorem State.runOp_keeps {z : State} (s : State) (r : RingId) (op : Nat) (o : OpSem) (hk : Keeps z s)
    (hko : ∀ c x, Keeps z x → Keeps z (o.run c x)) : Keeps z (s.runOp r op o) := by
  unfold State.runOp
  split
  · exact hk
  · exact State.ringFault_keeps s r _ _ _ hk
  · split
    · exact hk
    · split
      · exact State.ringFault_keeps s r _ _ _ hk
      · split
        · exact State.ringFault_keeps s r _ _ _ hk
        · exact State.retire_keeps _ o _ (State.keepFetched_keeps s r hk) hko

@[simp] theorem State.lecternFault_keeps {z : State} (s : State) (r : RingId) (hk : Keeps z s) :
    Keeps z (State.lecternFault s r) := by
  unfold State.lecternFault
  with_reducible repeat' (first | assumption | intro _ | apply State.ringFault_keeps | apply State.modRing_keeps
                                | apply Keeps.ite | split | dsimp only | simp only [Keeps.mk_iff])

end Sys2Proof.Machine
end

