-- ==== Sys2Proof/Laws/KeepsQuagalFlow.lean ====
section
/-!
SUPPORT. What the operations of Machine/QuagalFlow.lean keep.
-/

namespace Sys2Proof.Machine

set_option simprocs false

@[simp] theorem State.setReg_keeps {z : State} (s : State) (r : RingId) (i : Nat) (v : Word) (hk : Keeps z s) :
    Keeps z (State.setReg s r i v) := by
  unfold State.setReg
  with_reducible repeat' (first | assumption | apply State.modRing_keeps | split)

@[simp] theorem State.setPred_keeps {z : State} (s : State) (r : RingId) (i : Nat) (b : Bool) (hk : Keeps z s) :
    Keeps z (State.setPred s r i b) := by
  unfold State.setPred
  with_reducible repeat' (first | assumption | apply State.modRing_keeps | split)

@[simp] theorem semNop_keeps {z : State}  (c0 : OpCtx) (s : State) (hk : Keeps z s) :
    Keeps z (semNop.run c0 s) := by
  unfold semNop
  with_reducible repeat' (assumption)

@[simp] theorem semBr_keeps {z : State}  (c0 : OpCtx) (s : State) (hk : Keeps z s) :
    Keeps z (semBr.run c0 s) := by
  unfold semBr
  with_reducible repeat' (first | assumption | intro _ | apply State.modRing_keeps | apply Keeps.ite)

@[simp] theorem semDjnz_keeps {z : State}  (c0 : OpCtx) (s : State) (hk : Keeps z s) :
    Keeps z (semDjnz.run c0 s) := by
  unfold semDjnz
  with_reducible repeat' (first | assumption | intro _ | apply State.setReg_keeps
                                | apply State.modRing_keeps | apply Keeps.ite)

@[simp] theorem semSig_keeps {z : State}  (c0 : OpCtx) (s : State) (hk : Keeps z s) :
    Keeps z (semSig.run c0 s) := by
  unfold semSig
  with_reducible repeat' (first | assumption | apply State.post_keeps)

@[simp] theorem semAlu_keeps {z : State} (m0 m1 : Word) (f : OpCtx → Word) (c0 : OpCtx) (s : State) (hk : Keeps z s) :
    Keeps z ((semAlu m0 m1 f).run c0 s) := by
  unfold semAlu
  with_reducible repeat' (first | assumption | apply State.setReg_keeps)

@[simp] theorem semAdd_keeps {z : State}  (c0 : OpCtx) (s : State) (hk : Keeps z s) :
    Keeps z (semAdd.run c0 s) := by
  unfold semAdd
  with_reducible repeat' (first | assumption | apply semAlu_keeps)

@[simp] theorem semSub_keeps {z : State}  (c0 : OpCtx) (s : State) (hk : Keeps z s) :
    Keeps z (semSub.run c0 s) := by
  unfold semSub
  with_reducible repeat' (first | assumption | apply semAlu_keeps)

@[simp] theorem semMul_keeps {z : State}  (c0 : OpCtx) (s : State) (hk : Keeps z s) :
    Keeps z (semMul.run c0 s) := by
  unfold semMul
  with_reducible repeat' (first | assumption | apply semAlu_keeps)

@[simp] theorem semAnd_keeps {z : State}  (c0 : OpCtx) (s : State) (hk : Keeps z s) :
    Keeps z (semAnd.run c0 s) := by
  unfold semAnd
  with_reducible repeat' (first | assumption | apply semAlu_keeps)

@[simp] theorem semOr_keeps {z : State}  (c0 : OpCtx) (s : State) (hk : Keeps z s) :
    Keeps z (semOr.run c0 s) := by
  unfold semOr
  with_reducible repeat' (first | assumption | apply semAlu_keeps)

@[simp] theorem semXor_keeps {z : State}  (c0 : OpCtx) (s : State) (hk : Keeps z s) :
    Keeps z (semXor.run c0 s) := by
  unfold semXor
  with_reducible repeat' (first | assumption | apply semAlu_keeps)

@[simp] theorem semShl_keeps {z : State}  (c0 : OpCtx) (s : State) (hk : Keeps z s) :
    Keeps z (semShl.run c0 s) := by
  unfold semShl
  with_reducible repeat' (first | assumption | apply semAlu_keeps)

@[simp] theorem semShr_keeps {z : State}  (c0 : OpCtx) (s : State) (hk : Keeps z s) :
    Keeps z (semShr.run c0 s) := by
  unfold semShr
  with_reducible repeat' (first | assumption | apply semAlu_keeps)

@[simp] theorem semSar_keeps {z : State}  (c0 : OpCtx) (s : State) (hk : Keeps z s) :
    Keeps z (semSar.run c0 s) := by
  unfold semSar
  with_reducible repeat' (first | assumption | apply semAlu_keeps)

@[simp] theorem semMinu_keeps {z : State}  (c0 : OpCtx) (s : State) (hk : Keeps z s) :
    Keeps z (semMinu.run c0 s) := by
  unfold semMinu
  with_reducible repeat' (first | assumption | apply semAlu_keeps)

@[simp] theorem semMaxu_keeps {z : State}  (c0 : OpCtx) (s : State) (hk : Keeps z s) :
    Keeps z (semMaxu.run c0 s) := by
  unfold semMaxu
  with_reducible repeat' (first | assumption | apply semAlu_keeps)

@[simp] theorem semMins_keeps {z : State}  (c0 : OpCtx) (s : State) (hk : Keeps z s) :
    Keeps z (semMins.run c0 s) := by
  unfold semMins
  with_reducible repeat' (first | assumption | apply semAlu_keeps)

@[simp] theorem semMaxs_keeps {z : State}  (c0 : OpCtx) (s : State) (hk : Keeps z s) :
    Keeps z (semMaxs.run c0 s) := by
  unfold semMaxs
  with_reducible repeat' (first | assumption | apply semAlu_keeps)

@[simp] theorem semAddi_keeps {z : State}  (c0 : OpCtx) (s : State) (hk : Keeps z s) :
    Keeps z (semAddi.run c0 s) := by
  unfold semAddi
  with_reducible repeat' (first | assumption | apply semAlu_keeps)

@[simp] theorem semMuli_keeps {z : State}  (c0 : OpCtx) (s : State) (hk : Keeps z s) :
    Keeps z (semMuli.run c0 s) := by
  unfold semMuli
  with_reducible repeat' (first | assumption | apply semAlu_keeps)

@[simp] theorem semAndi_keeps {z : State}  (c0 : OpCtx) (s : State) (hk : Keeps z s) :
    Keeps z (semAndi.run c0 s) := by
  unfold semAndi
  with_reducible repeat' (first | assumption | apply semAlu_keeps)

@[simp] theorem semOri_keeps {z : State}  (c0 : OpCtx) (s : State) (hk : Keeps z s) :
    Keeps z (semOri.run c0 s) := by
  unfold semOri
  with_reducible repeat' (first | assumption | apply semAlu_keeps)

@[simp] theorem semXori_keeps {z : State}  (c0 : OpCtx) (s : State) (hk : Keeps z s) :
    Keeps z (semXori.run c0 s) := by
  unfold semXori
  with_reducible repeat' (first | assumption | apply semAlu_keeps)

@[simp] theorem semShli_keeps {z : State}  (c0 : OpCtx) (s : State) (hk : Keeps z s) :
    Keeps z (semShli.run c0 s) := by
  unfold semShli
  with_reducible repeat' (first | assumption | apply semAlu_keeps)

@[simp] theorem semShri_keeps {z : State}  (c0 : OpCtx) (s : State) (hk : Keeps z s) :
    Keeps z (semShri.run c0 s) := by
  unfold semShri
  with_reducible repeat' (first | assumption | apply semAlu_keeps)

@[simp] theorem semSari_keeps {z : State}  (c0 : OpCtx) (s : State) (hk : Keeps z s) :
    Keeps z (semSari.run c0 s) := by
  unfold semSari
  with_reducible repeat' (first | assumption | apply semAlu_keeps)

@[simp] theorem semMovi_keeps {z : State}  (c0 : OpCtx) (s : State) (hk : Keeps z s) :
    Keeps z (semMovi.run c0 s) := by
  unfold semMovi
  with_reducible repeat' (first | assumption | apply semAlu_keeps)

@[simp] theorem semMovhi_keeps {z : State}  (c0 : OpCtx) (s : State) (hk : Keeps z s) :
    Keeps z (semMovhi.run c0 s) := by
  unfold semMovhi
  with_reducible repeat' (first | assumption | apply semAlu_keeps)

@[simp] theorem semMovw_keeps {z : State}  (c0 : OpCtx) (s : State) (hk : Keeps z s) :
    Keeps z (semMovw.run c0 s) := by
  unfold semMovw
  with_reducible repeat' (first | assumption | apply semAlu_keeps)

@[simp] theorem semCmp_keeps {z : State}  (c0 : OpCtx) (s : State) (hk : Keeps z s) :
    Keeps z (semCmp.run c0 s) := by
  unfold semCmp
  with_reducible repeat' (first | assumption | apply State.setPred_keeps)

@[simp] theorem semCmpi_keeps {z : State}  (c0 : OpCtx) (s : State) (hk : Keeps z s) :
    Keeps z (semCmpi.run c0 s) := by
  unfold semCmpi
  with_reducible repeat' (first | assumption | apply State.setPred_keeps)

@[simp] theorem semRds_keeps {z : State}  (c0 : OpCtx) (s : State) (hk : Keeps z s) :
    Keeps z (semRds.run c0 s) := by
  unfold semRds
  with_reducible repeat' (first | assumption | intro _ | apply State.setReg_keeps | apply Keeps.ite)

end Sys2Proof.Machine
end

