-- ==== Sys2Proof/Laws/KeepsQuagalSurface.lean ====
section
/-!
SUPPORT. What the operations of Machine/QuagalSurface.lean keep.
-/

namespace Sys2Proof.Machine

set_option simprocs false

@[simp] theorem State.modLayer_keeps {z : State} (s : State) (lid : Nat) (f : Layer → Layer) (hk : Keeps z s) :
    Keeps z (State.modLayer s lid f) := by
  unfold State.modLayer
  with_reducible repeat' (first | assumption | apply State.modChap_keeps)

@[simp] theorem State.modRect_keeps {z : State} (s : State) (c : Chap) (r : Fin 16) (f : RectSt → RectSt)
    (hk : Keeps z s) :
    Keeps z (State.modRect s c r f) := by
  unfold State.modRect
  with_reducible repeat' (first | assumption | apply State.modChap_keeps)

@[simp] theorem State.editLayer_keeps {z : State} (s : State) (lid : Nat) (f : LayerCfg → LayerCfg) (hk : Keeps z s) :
    Keeps z (State.editLayer s lid f) := by
  unfold State.editLayer
  with_reducible repeat' (first | assumption | apply State.modLayer_keeps)

@[simp] theorem State.editSurf_keeps {z : State} (s : State) (t : Ten) (sid : Nat) (f : Surface → Surface)
    (hk : Keeps z s) :
    Keeps z (State.editSurf s t sid f) := by
  unfold State.editSurf
  with_reducible repeat' (first | assumption | apply State.modSurfs_keeps)

@[simp] theorem semSdef_keeps {z : State}  (c0 : OpCtx) (s : State) (hk : Keeps z s) :
    Keeps z (semSdef.run c0 s) := by
  unfold semSdef
  with_reducible repeat' (first | assumption | apply State.modSurfs_keeps)

@[simp] theorem semSref_keeps {z : State}  (c0 : OpCtx) (s : State) (hk : Keeps z s) :
    Keeps z (semSref.run c0 s) := by
  unfold semSref
  with_reducible repeat' (first | assumption | apply State.editSurf_keeps)

@[simp] theorem semSgen_keeps {z : State}  (c0 : OpCtx) (s : State) (hk : Keeps z s) :
    Keeps z (semSgen.run c0 s) := by
  unfold semSgen
  with_reducible repeat' (first | assumption | apply State.editSurf_keeps)

@[simp] theorem semSfree_keeps {z : State}  (c0 : OpCtx) (s : State) (hk : Keeps z s) :
    Keeps z (semSfree.run c0 s) := by
  unfold semSfree
  with_reducible repeat' (first | assumption | apply State.modSurfs_keeps)

@[simp] theorem State.sputWords_keeps {z : State} (s : State) (t : Ten) (a : Nat) (ws : List Word) (hk : Keeps z s) :
    Keeps z (State.sputWords s t a ws) := by
  unfold State.sputWords
  with_reducible repeat' (first | assumption | intro _ | apply State.outsideWrite_keeps | apply State.lpWrite_keeps
                                | apply State.lpRequest_keeps | apply Keeps.ite | split | dsimp only
                                | simp only [Keeps.mk_iff])

@[simp] theorem semSput_keeps {z : State} (c0 : OpCtx) (s : State) (hk : Keeps z s) :
    Keeps z (semSput.run c0 s) := by
  unfold semSput
  with_reducible repeat' (first | assumption | apply State.sputWords_keeps | dsimp only | split)

@[simp] theorem State.claimLost_keeps {z : State} (s : State) (lid : Nat) (hk : Keeps z s) :
    Keeps z (State.claimLost s lid) := by
  unfold State.claimLost
  with_reducible repeat' (first | assumption | intro _ | apply State.ringFault_keeps | apply State.modRing_keeps
                                | apply Keeps.ite | split | dsimp only | simp only [Keeps.mk_iff])

@[simp] theorem semLnew_keeps {z : State} (c0 : OpCtx) (s : State) (hk : Keeps z s) :
    Keeps z (semLnew.run c0 s) := by
  unfold semLnew
  with_reducible repeat' (first | assumption | apply State.modLayer_keeps | apply State.claimLost_keeps)

@[simp] theorem semLdel_keeps {z : State}  (c0 : OpCtx) (s : State) (hk : Keeps z s) :
    Keeps z (semLdel.run c0 s) := by
  unfold semLdel
  with_reducible repeat' (first | assumption | apply State.modLayer_keeps)

@[simp] theorem semLsrc_keeps {z : State}  (c0 : OpCtx) (s : State) (hk : Keeps z s) :
    Keeps z (semLsrc.run c0 s) := by
  unfold semLsrc
  with_reducible repeat' (first | assumption | apply State.editLayer_keeps)

@[simp] theorem semLdst_keeps {z : State}  (c0 : OpCtx) (s : State) (hk : Keeps z s) :
    Keeps z (semLdst.run c0 s) := by
  unfold semLdst
  with_reducible repeat' (first | assumption | apply State.editLayer_keeps)

@[simp] theorem semLdstr_keeps {z : State}  (c0 : OpCtx) (s : State) (hk : Keeps z s) :
    Keeps z (semLdstr.run c0 s) := by
  unfold semLdstr
  with_reducible repeat' (first | assumption | apply State.editLayer_keeps)

@[simp] theorem semEdit_keeps {z : State} (m0 : Word) (illegal : OpCtx → Bool) (f : OpCtx → LayerCfg → LayerCfg)
    (c0 : OpCtx) (s : State) (hk : Keeps z s) :
    Keeps z ((semEdit m0 illegal f).run c0 s) := by
  unfold semEdit
  with_reducible repeat' (first | assumption | apply State.editLayer_keeps)

@[simp] theorem semLvis_keeps {z : State}  (c0 : OpCtx) (s : State) (hk : Keeps z s) :
    Keeps z (semLvis.run c0 s) := by
  unfold semLvis
  with_reducible repeat' (first | assumption | apply semEdit_keeps)

@[simp] theorem semLfall_keeps {z : State}  (c0 : OpCtx) (s : State) (hk : Keeps z s) :
    Keeps z (semLfall.run c0 s) := by
  unfold semLfall
  with_reducible repeat' (first | assumption | apply semEdit_keeps)

@[simp] theorem semLflat_keeps {z : State}  (c0 : OpCtx) (s : State) (hk : Keeps z s) :
    Keeps z (semLflat.run c0 s) := by
  unfold semLflat
  with_reducible repeat' (first | assumption | apply semEdit_keeps)

@[simp] theorem semLvid_keeps {z : State}  (c0 : OpCtx) (s : State) (hk : Keeps z s) :
    Keeps z (semLvid.run c0 s) := by
  unfold semLvid
  with_reducible repeat' (first | assumption | apply State.editLayer_keeps)

@[simp] theorem State.editWide_keeps {z : State} (s : State) (c : Chap) (t : Ten) (f : ChapWideChg → ChapWideChg)
    (hk : Keeps z s) :
    Keeps z (State.editWide s c t f) := by
  unfold State.editWide
  with_reducible repeat' (first | assumption | apply State.modChap_keeps)

@[simp] theorem semBgcol_keeps {z : State}  (c0 : OpCtx) (s : State) (hk : Keeps z s) :
    Keeps z (semBgcol.run c0 s) := by
  unfold semBgcol
  with_reducible repeat' (first | assumption | apply State.editWide_keeps)

@[simp] theorem semChkr_keeps {z : State}  (c0 : OpCtx) (s : State) (hk : Keeps z s) :
    Keeps z (semChkr.run c0 s) := by
  unfold semChkr
  with_reducible repeat' (first | assumption | apply State.modRect_keeps)

@[simp] theorem semChkv_keeps {z : State}  (c0 : OpCtx) (s : State) (hk : Keeps z s) :
    Keeps z (semChkv.run c0 s) := by
  unfold semChkv
  with_reducible repeat' (first | assumption | apply State.modRect_keeps)

@[simp] theorem semLblend_keeps {z : State}  (c0 : OpCtx) (s : State) (hk : Keeps z s) :
    Keeps z (semLblend.run c0 s) := by
  unfold semLblend
  with_reducible repeat' (first | assumption | apply semEdit_keeps)

@[simp] theorem semLscale_keeps {z : State}  (c0 : OpCtx) (s : State) (hk : Keeps z s) :
    Keeps z (semLscale.run c0 s) := by
  unfold semLscale
  with_reducible repeat' (first | assumption | apply semEdit_keeps)

@[simp] theorem semDith_keeps {z : State}  (c0 : OpCtx) (s : State) (hk : Keeps z s) :
    Keeps z (semDith.run c0 s) := by
  unfold semDith
  with_reducible repeat' (first | assumption | apply State.editWide_keeps)

@[simp] theorem semLpri_keeps {z : State}  (c0 : OpCtx) (s : State) (hk : Keeps z s) :
    Keeps z (semLpri.run c0 s) := by
  unfold semLpri
  with_reducible repeat' (first | assumption | apply semEdit_keeps)

end Sys2Proof.Machine
end

