-- ==== Sys2Proof/Laws/KeepsCompose.lean ====
section
/-!
SUPPORT. What the operations of Machine/Compose.lean keep.
-/

namespace Sys2Proof.Machine

set_option simprocs false

@[simp] theorem State.flatWrite_keeps {z : State} (s : State) (e : FlatEnt) (dw dh : Nat) (f : Nat → Nat → Px)
    (hk : Keeps z s) :
    Keeps z (State.flatWrite s e dw dh f) := by
  unfold State.flatWrite
  with_reducible repeat' (first | assumption | apply State.lpWrite_keeps)

@[simp] theorem State.flatNew_keeps {z : State} (s : State) (k : FlatKey) (f : Nat → Nat → Px) (hk : Keeps z s) :
    Keeps z (State.flatNew s k f) := by
  unfold State.flatNew
  with_reducible repeat' (first | assumption | apply State.tally_keeps | apply State.flatWrite_keeps | split
                                | simp only [Keeps.mk_iff])

@[simp] theorem State.keepHeld_keeps {z : State} (s : State) (lid : Nat) (im : Unit → Img) (hk : Keeps z s) :
    Keeps z (State.keepHeld s lid im) := by
  unfold State.keepHeld
  with_reducible repeat' (first | assumption | intro _ | apply State.modLayer_keeps | apply Keeps.ite | split
                                | dsimp only | simp only [Keeps.mk_iff])

@[simp] theorem State.refMissing_keeps {z : State} (s : State) (t : Ten) (lid : Nat) (v : LayerCfg) (f : Surface)
    (why : Nat) (found : Word) (hk : Keeps z s) :
    Keeps z (State.refMissing s t lid v f why found) := by
  unfold State.refMissing
  with_reducible repeat' (first | assumption | intro _ | apply State.modLayer_keeps | apply State.post_keeps
                                | apply Keeps.ite)

@[simp] theorem State.tesFault_keeps {z : State} (s : State) (t : Ten) (sid level n : Nat) (hk : Keeps z s) :
    Keeps z (State.tesFault s t sid level n) := by
  unfold State.tesFault
  with_reducible repeat' (first | assumption | apply State.post_keeps)

@[simp] theorem State.resolve_keeps {z : State} (s : State) (w : LayerView) (hk : Keeps z s) :
    Keeps z (State.resolve s w) := by
  unfold State.resolve
  with_reducible repeat' (first | assumption | intro _ | apply State.keepHeld_keeps | apply State.tesFault_keeps
                                | apply State.refMissing_keeps | apply State.tally_keeps | apply State.flatNew_keeps
                                | apply Keeps.ite | split | dsimp only | simp only [Keeps.mk_iff])

@[simp] theorem State.shedMark_keeps {z : State} (s : State) (load cap after : Nat) (out : List LayerView)
    (hk : Keeps z s) :
    Keeps z (State.shedMark s load cap after out) := by
  unfold State.shedMark
  with_reducible repeat' (first | assumption | apply forEach_keeps | intro _ | apply State.modLayer_keeps
                                | apply State.tally_keeps | apply State.post_keeps | apply Keeps.ite
                                | split)

@[simp] theorem State.storeRows_keeps {z : State} (s : State) (c : Chap) (p : ChapRec) (bell y0 y1 : Nat)
    (f : Nat → Nat → Nat × Nat × Nat) (hk : Keeps z s) :
    Keeps z (State.storeRows s c p bell y0 y1 f) := by
  unfold State.storeRows
  with_reducible repeat' (first | assumption | apply forEach_keeps | intro _ | apply State.lpWrite_keeps
                                | apply Keeps.ite)

@[simp] theorem State.repeatBand_keeps {z : State} (s : State) (c : Chap) (bell k : Nat) (hk : Keeps z s) :
    Keeps z (State.repeatBand s c bell k) := by
  unfold State.repeatBand
  with_reducible repeat' (first | assumption | apply State.storeRows_keeps | split)

@[simp] theorem State.composeChap_keeps {z : State} (s : State) (a : Option Ahead) (vs : List LayerView) (c : Chap)
    (bell : Nat) (hk : Keeps z s) :
    Keeps z (State.composeChap s a vs c bell) := by
  unfold State.composeChap
  with_reducible repeat' (first | assumption | apply forEach_keeps | intro _ | apply State.tally_keeps
                                | apply State.storeRows_keeps | apply State.modChap_keeps | apply Keeps.ite | split
                                | dsimp only | simp only [Keeps.mk_iff])

@[simp] theorem State.ueCount_keeps {z : State} (s : State) (m n : Nat) (hk : Keeps z s) :
    Keeps z (State.ueCount s m n) := by
  unfold State.ueCount
  with_reducible repeat' (first | assumption | intro _ | apply State.tally_keeps | apply State.gfix_keeps
                                | apply Keeps.ite | split | dsimp only | simp only [Keeps.mk_iff])

@[simp] theorem State.surfUeCheck_keeps {z : State} (s : State) (t : Ten) (sid : Nat) (f : Surface)
    (reads : List (Nat × Nat)) (hk : Keeps z s) :
    Keeps z (State.surfUeCheck s t sid f reads) := by
  unfold State.surfUeCheck
  with_reducible repeat' (first | assumption | intro _ | apply State.ueCount_keeps | apply State.post_keeps
                                | apply State.editSurf_keeps | apply Keeps.ite | split | dsimp only
                                | simp only [Keeps.mk_iff])

@[simp] theorem State.readCheck_keeps {z : State} (s : State) (rs : List SurfRead) (hk : Keeps z s) :
    Keeps z (State.readCheck s rs) := by
  unfold State.readCheck
  with_reducible repeat' (first | assumption | apply forEach_keeps | intro _ | apply State.tesFault_keeps
                                | apply State.surfUeCheck_keeps | apply Keeps.ite | split | dsimp only
                                | simp only [Keeps.mk_iff])

@[simp] theorem State.flatUe_keeps {z : State} (s : State) (vs seen : List LayerView) (hk : Keeps z s) :
    Keeps z (State.flatUe s vs seen) := by
  unfold State.flatUe
  with_reducible repeat' (first | assumption | intro _ | apply State.postAll_keeps | apply State.ueCount_keeps
                                | apply Keeps.ite | split | dsimp only | simp only [Keeps.mk_iff])

@[simp] theorem State.vidUe_keeps {z : State} (s : State) (vs seen : List LayerView) (hk : Keeps z s) :
    Keeps z (State.vidUe s vs seen) := by
  unfold State.vidUe
  with_reducible repeat' (first | assumption | intro _ | apply State.postAll_keeps | apply State.ueCount_keeps
                                | apply Keeps.ite | split | dsimp only | simp only [Keeps.mk_iff])

@[simp] theorem State.compose_keeps {z : State} (s : State) (a : Option Ahead) (bell : Nat) (hk : Keeps z s) :
    Keeps z (State.compose s a bell) := by
  unfold State.compose
  with_reducible repeat' (first | assumption | apply forEach_keeps | intro _ | apply State.lpRequest_keeps
                                | apply State.resolve_keeps | apply State.shedMark_keeps
                                | apply State.composeChap_keeps | apply State.readCheck_keeps
                                | apply State.vidUe_keeps | apply State.flatUe_keeps | apply Keeps.ite | split
                                | dsimp only | simp only [Keeps.mk_iff])

end Sys2Proof.Machine
end

