-- ==== Sys2Proof/Laws/KeepsNave.lean ====
section
/-!
SUPPORT. What the operations of Machine/Nave.lean keep.
-/

namespace Sys2Proof.Machine

set_option simprocs false

@[simp] theorem State.modFlat_keeps {z : State} (s : State) (first : Nat) (f : FlatEnt → FlatEnt) (hk : Keeps z s) :
    Keeps z (State.modFlat s first f) := by
  unfold State.modFlat
  with_reducible repeat' (first | assumption | simp only [Keeps.mk_iff])

@[simp] theorem State.bandAgain_keeps {z : State} (s : State) (vs : List LayerView) (c : Chap) (p : ChapRec)
    (f : FrameSt) (k first lid : Nat) (hk : Keeps z s) :
    Keeps z (State.bandAgain s vs c p f k first lid) := by
  unfold State.bandAgain
  with_reducible repeat' (first | assumption | intro _ | apply State.storeRows_keeps | apply State.modFlat_keeps
                                | apply Keeps.ite | split | dsimp only | simp only [Keeps.mk_iff])

@[simp] theorem State.shownInPlace_keeps {z : State} (s : State) (c0 : Chap) (first : Nat) (hk : Keeps z s) :
    Keeps z (State.shownInPlace s c0 first) := by
  unfold State.shownInPlace
  with_reducible repeat' (first | assumption | apply forEach_keeps | intro _ | apply State.fresh_keeps
                                | apply State.bandAgain_keeps | apply Keeps.ite | split | dsimp only
                                | simp only [Keeps.mk_iff])

@[simp] theorem State.aheadLayer_keeps {z : State} (s : State) (t : Ten) (seq : Word) (lid : Nat) (v : LayerCfg)
    (hk : Keeps z s) :
    Keeps z (State.aheadLayer s t seq lid v) := by
  unfold State.aheadLayer
  with_reducible repeat' (first | assumption | intro _ | apply State.flatNew_keeps | apply State.shownInPlace_keeps
                                | apply State.flatWrite_keeps | apply State.modFlat_keeps | apply Keeps.ite | split
                                | dsimp only | simp only [Keeps.mk_iff])

@[simp] theorem State.runAhead_keeps {z : State} (s : State) (t : Ten) (seq : Word) (hk : Keeps z s) :
    Keeps z (State.runAhead s t seq) := by
  unfold State.runAhead
  with_reducible repeat' (first | assumption | apply forEach_keeps | intro _ | apply State.aheadLayer_keeps
                                | apply Keeps.ite | split | dsimp only | simp only [Keeps.mk_iff])

@[simp] theorem State.runAheadBell_keeps {z : State} (s : State) (hk : Keeps z s) :
    Keeps z (State.runAheadBell s) := by
  unfold State.runAheadBell
  with_reducible repeat' (first | assumption | apply forEach_keeps | intro _ | apply State.runAhead_keeps
                                | apply Keeps.ite | split | dsimp only | simp only [Keeps.mk_iff])

@[simp] theorem State.flatFreeze_keeps {z : State} (s : State) (hk : Keeps z s) :
    Keeps z (State.flatFreeze s) := by
  unfold State.flatFreeze
  with_reducible repeat' (first | assumption | apply forEach_keeps | intro _ s' h'
                                | apply State.modFlat_keeps | apply State.post_keeps
                                | apply State.flatWrite_keeps | split | simp only [Keeps.mk_iff])

@[simp] theorem State.flatPost_keeps {z : State} (s : State) (e : FlatEnt) (p : FlatSpec) (why : Nat)
    (hk : Keeps z s) :
    Keeps z (State.flatPost s e p why) := by
  unfold State.flatPost
  with_reducible repeat' (first | assumption | intro _ | apply State.post_keeps | apply Keeps.ite | split | dsimp only
                                | simp only [Keeps.mk_iff])

@[simp] theorem State.reflatten_keeps {z : State} (s : State) (e : FlatEnt) (p : FlatSpec) (hk : Keeps z s) :
    Keeps z (State.reflatten s e p) := by
  unfold State.reflatten
  with_reducible repeat' (first | assumption | intro _ | apply State.flatWrite_keeps | apply State.modFlat_keeps
                                | apply Keeps.ite | split | dsimp only | simp only [Keeps.mk_iff])

@[simp] theorem State.flatBell_keeps {z : State} (s : State) (hk : Keeps z s) :
    Keeps z (State.flatBell s) := by
  unfold State.flatBell
  with_reducible repeat' (first | assumption | apply forEach_keeps | intro _ | apply State.flatPost_keeps
                                | apply State.modFlat_keeps | apply State.reflatten_keeps | apply Keeps.ite | split
                                | dsimp only | simp only [Keeps.mk_iff])

@[simp] theorem State.bayFail_keeps {z : State} (s : State) (b : Fin 4) (reason frame : Nat) (hk : Keeps z s) :
    Keeps z (State.bayFail s b reason frame) := by
  unfold State.bayFail
  with_reducible repeat' (first | assumption | intro _ | apply Keeps.ite | simp only [Keeps.mk_iff])

@[simp] theorem State.bandFail_keeps {z : State} (s : State) (c : Chap) (k : Nat) (hk : Keeps z s) :
    Keeps z (State.bandFail s c k) := by
  unfold State.bandFail
  with_reducible repeat' (first | assumption | apply State.repeatBand_keeps | simp only [Keeps.mk_iff])

@[simp] theorem State.specSettle_keeps {z : State} (s : State) (a : Option Ahead) (hk : Keeps z s) :
    Keeps z (State.specSettle s a) := by
  unfold State.specSettle
  with_reducible repeat' (first | assumption | apply forEach_keeps | intro _ | apply State.bandFail_keeps
                                | apply Keeps.ite | split | dsimp only | simp only [Keeps.mk_iff])

@[simp] theorem State.bayRetire_keeps {z : State} (s : State) (hk : Keeps z s) :
    Keeps z (State.bayRetire s) := by
  unfold State.bayRetire
  with_reducible repeat' (first | assumption | apply forEach_keeps | intro _ s' h' | apply State.gfix_keeps
                                | apply State.postAll_keeps | simp only [Keeps.mk_iff])

@[simp] theorem State.sentinelRun_keeps {z : State} (s : State) (r : SentRes) (hk : Keeps z s) :
    Keeps z (State.sentinelRun s r) := by
  unfold State.sentinelRun
  with_reducible repeat' (first | assumption | apply forEach_keeps | intro _ s' h' | apply State.gfix_keeps
                                | apply State.tally_keeps | apply State.bayFail_keeps
                                | apply State.bandFail_keeps | split | simp only [Keeps.mk_iff])

@[simp] theorem State.csiEnd_keeps {z : State} (s : State) (f : CsiFrame) (hk : Keeps z s) :
    Keeps z (State.csiEnd s f) := by
  unfold State.csiEnd
  with_reducible repeat' (first | assumption | intro _ | apply State.tally_keeps | apply State.lpWrite_keeps
                                | apply State.lpRequest_keeps | apply Keeps.ite | split | dsimp only
                                | simp only [Keeps.mk_iff])

@[simp] theorem State.vidPost_keeps {z : State} (s : State) (b : VidBind) (why w h : Nat) (hk : Keeps z s) :
    Keeps z (State.vidPost s b why w h) := by
  unfold State.vidPost
  with_reducible repeat' (first | assumption | apply State.post_keeps)

@[simp] theorem State.modVid_keeps {z : State} (s : State) (b : VidBind) (f : VidBind → VidBind) (hk : Keeps z s) :
    Keeps z (State.modVid s b f) := by
  unfold State.modVid
  with_reducible repeat' (first | assumption | simp only [Keeps.mk_iff])

@[simp] theorem State.vidBell_keeps {z : State} (s : State) (hk : Keeps z s) :
    Keeps z (State.vidBell s) := by
  unfold State.vidBell
  with_reducible repeat' (first | assumption | apply forEach_keeps | intro _ s' h'
                                | apply State.modVid_keeps | apply State.vidPost_keeps | split
                                | simp only [Keeps.mk_iff])

@[simp] theorem State.vidFreeze_keeps {z : State} (s : State) (hk : Keeps z s) :
    Keeps z (State.vidFreeze s) := by
  unfold State.vidFreeze
  with_reducible repeat' (first | assumption | apply forEach_keeps | intro _ s' h' | split
                                | simp only [Keeps.mk_iff])

end Sys2Proof.Machine
end

