-- ==== Sys2Proof/Laws/KeepsQuagalKey.lean ====
section
/-!
SUPPORT. What the operations of Machine/QuagalKey.lean keep.
-/

namespace Sys2Proof.Machine

set_option simprocs false

@[simp] theorem State.modKey_keeps {z : State} (s : State) (f : KStore → KStore) (hk : Keeps z s) :
    Keeps z (State.modKey s f) := by
  unfold State.modKey
  with_reducible repeat' (first | assumption | simp only [Keeps.mk_iff])

@[simp] theorem semKset_keeps {z : State}  (c0 : OpCtx) (s : State) (hk : Keeps z s) :
    Keeps z (semKset.run c0 s) := by
  unfold semKset
  with_reducible repeat' (first | assumption | apply State.modKey_keeps)

@[simp] theorem semKsetm_keeps {z : State}  (c0 : OpCtx) (s : State) (hk : Keeps z s) :
    Keeps z (semKsetm.run c0 s) := by
  unfold semKsetm
  with_reducible repeat' (first | assumption | apply State.modKey_keeps)

@[simp] theorem State.keyPlace_keeps {z : State} (s : State) (m : KMap) (hk : Keeps z s) :
    Keeps z (State.keyPlace s m) := by
  unfold State.keyPlace
  with_reducible repeat' (first | assumption | intro _ | apply State.modRect_keeps | apply State.underFresh_keeps
                                | apply State.modKey_keeps | apply Keeps.ite | split | dsimp only
                                | simp only [Keeps.mk_iff])

@[simp] theorem State.keyRemove_keeps {z : State} (s : State) (g : Seg) (c : Chap) (hk : Keeps z s) :
    Keeps z (State.keyRemove s g c) := by
  unfold State.keyRemove
  with_reducible repeat' (first | assumption | apply State.modRect_keeps | apply State.modKey_keeps | split)

@[simp] theorem semKmap_keeps {z : State}  (c0 : OpCtx) (s : State) (hk : Keeps z s) :
    Keeps z (semKmap.run c0 s) := by
  unfold semKmap
  with_reducible repeat' (first | assumption | intro _ | apply State.keyPlace_keeps
                                | apply State.keyRemove_keeps | apply Keeps.ite)

@[simp] theorem State.keyFree_keeps {z : State} (s : State) (hk : Keeps z s) :
    Keeps z (State.keyFree s) := by
  unfold State.keyFree
  with_reducible repeat' (first | assumption | simp only [Keeps.mk_iff])

@[simp] theorem State.glyphOf_keeps {z : State} (s : State) (t : Ten) (f : Surface) (sx sy w h : Nat)
    (hk : Keeps z s) :
    Keeps z (State.glyphOf s t f sx sy w h).2 := by
  unfold State.glyphOf
  with_reducible repeat' (first | assumption | intro _ | apply Keeps.ite | simp only [Keeps.mk_iff])

@[simp] theorem semKload_keeps {z : State}  (c0 : OpCtx) (s : State) (hk : Keeps z s) :
    Keeps z (semKload.run c0 s) := by
  unfold semKload
  with_reducible repeat' (first | assumption | apply State.glyphOf_keeps | split | simp only [Keeps.mk_iff])

@[simp] theorem State.kloadDone_keeps {z : State} (s : State) (c : Chap) (q : Fin 16) (hk : Keeps z s) :
    Keeps z (State.kloadDone s c q) := by
  unfold State.kloadDone
  with_reducible repeat' (first | assumption | intro _ | apply State.underFresh_keeps | apply Keeps.ite | split
                                | dsimp only | simp only [Keeps.mk_iff])

@[simp] theorem State.keyLoaded_keeps {z : State} (s : State) (hk : Keeps z s) :
    Keeps z (State.keyLoaded s) := by
  unfold State.keyLoaded
  with_reducible repeat' (first | assumption | apply forEach_keeps | intro _ s' h'
                                | apply State.modKey_keeps | apply State.postTo_keeps
                                | simp only [Keeps.mk_iff])

@[simp] theorem semKwit_keeps {z : State}  (c0 : OpCtx) (s : State) (hk : Keeps z s) :
    Keeps z (semKwit.run c0 s) := by
  unfold semKwit
  with_reducible repeat' (first | assumption | apply State.modKey_keeps | split | dsimp only)

@[simp] theorem State.keyInstall_keeps {z : State} (s : State) (k : KStore) (hk : Keeps z s) :
    Keeps z (State.keyInstall s k) := by
  unfold State.keyInstall
  with_reducible repeat' (first | assumption | intro _ | apply State.underFresh_keeps | apply Keeps.ite | split
                                | dsimp only | simp only [Keeps.mk_iff])

@[simp] theorem semKprime_keeps {z : State}  (c0 : OpCtx) (s : State) (hk : Keeps z s) :
    Keeps z (semKprime.run c0 s) := by
  unfold semKprime
  with_reducible repeat' (first | assumption | apply State.moaWrite_keeps | simp only [Keeps.mk_iff])

@[simp] theorem State.primeStored_keeps {z : State} (s : State) (ok : Bool) (hk : Keeps z s) :
    Keeps z (State.primeStored s ok) := by
  unfold State.primeStored
  with_reducible repeat' (first | assumption | apply State.moaWrite_keeps | apply State.postTo_keeps | split
                                | simp only [Keeps.mk_iff])

end Sys2Proof.Machine
end

