-- ==== Sys2Proof/Laws/KeepsQuagalLight.lean ====
section
/-!
SUPPORT. What the operations of Machine/QuagalLight.lean keep.
-/

namespace Sys2Proof.Machine

set_option simprocs false

@[simp] theorem OpCtx.onOut_keeps {z : State} (c : OpCtx) (s : State) (f : OutId → State) (hkf : ∀ y0, Keeps z
    (f y0)) (hk : Keeps z s) :
    Keeps z (OpCtx.onOut c s f) := by
  unfold OpCtx.onOut
  with_reducible repeat' (first | assumption | apply hkf | split)

@[simp] theorem semDrvtgt_keeps {z : State}  (c0 : OpCtx) (s : State) (hk : Keeps z s) :
    Keeps z (semDrvtgt.run c0 s) := by
  unfold semDrvtgt
  with_reducible repeat' (first | assumption | intro _ | apply OpCtx.onOut_keeps | apply State.outWrite_keeps)

@[simp] theorem semDrvduty_keeps {z : State}  (c0 : OpCtx) (s : State) (hk : Keeps z s) :
    Keeps z (semDrvduty.run c0 s) := by
  unfold semDrvduty
  with_reducible repeat' (first | assumption | intro _ | apply OpCtx.onOut_keeps | apply State.outWrite_keeps)

@[simp] theorem semDrvdim_keeps {z : State}  (c0 : OpCtx) (s : State) (hk : Keeps z s) :
    Keeps z (semDrvdim.run c0 s) := by
  unfold semDrvdim
  with_reducible repeat' (first | assumption | intro _ | apply OpCtx.onOut_keeps | apply State.outWrite_keeps)

@[simp] theorem semDrvderate_keeps {z : State}  (c0 : OpCtx) (s : State) (hk : Keeps z s) :
    Keeps z (semDrvderate.run c0 s) := by
  unfold semDrvderate
  with_reducible repeat' (first | assumption | intro _ | apply OpCtx.onOut_keeps | apply State.modOut_keeps)

@[simp] theorem semDrvrail_keeps {z : State}  (c0 : OpCtx) (s : State) (hk : Keeps z s) :
    Keeps z (semDrvrail.run c0 s) := by
  unfold semDrvrail
  with_reducible repeat' (first | assumption | intro _ | apply State.modRail_keeps | apply Keeps.elim)

end Sys2Proof.Machine
end

