-- ==== Sys2Proof/Laws/KeepsChoir.lean ====
section
/-!
SUPPORT. What the operations of Machine/Choir.lean keep.
-/

namespace Sys2Proof.Machine

set_option simprocs false

@[simp] theorem State.repTable_keeps {z : State} (s : State) (i : Slot) (res : Nat) (gen : Word) (hk : Keeps z s) :
    Keeps z (State.repTable s i res gen) := by
  unfold State.repTable
  with_reducible repeat' (first | assumption | apply State.post_keeps)

@[simp] theorem State.loadTable_keeps {z : State} (s : State) (i : Slot) (hk : Keeps z s) :
    Keeps z (State.loadTable s i) := by
  unfold State.loadTable
  with_reducible repeat' (first | assumption | apply State.modSlot_keeps | apply State.repTable_keeps
                                | split | dsimp only)

@[simp] theorem State.loopEdit_keeps {z : State} (s : State) (i : Slot) (e : LoopEdit) (seq : Word) (hk : Keeps z s) :
    Keeps z (State.loopEdit s i e seq) := by
  unfold State.loopEdit
  with_reducible repeat' (first | assumption | apply forEach_keeps | intro _ | apply State.modSlot_keeps
                                | apply State.loopLeaves_keeps | apply State.loadTable_keeps
                                | apply State.repTable_keeps | apply Keeps.ite | split)

@[simp] theorem State.chimeEdits_keeps {z : State} (s : State) (g : Fin 4) (hk : Keeps z s) :
    Keeps z (State.chimeEdits s g) := by
  unfold State.chimeEdits
  with_reducible repeat' (first | assumption | apply forEach_keeps | intro _ | apply State.loopEdit_keeps
                                | apply Keeps.ite | split | dsimp only | simp only [Keeps.mk_iff])

@[simp] theorem State.slotInit_keeps {z : State} (s : State) (i : Slot) (hk : Keeps z s) :
    Keeps z (State.slotInit s i) := by
  unfold State.slotInit
  with_reducible repeat' (first | assumption | apply State.modSlot_keeps | apply State.loadTable_keeps)

@[simp] theorem State.capTake_keeps {z : State} (s : State) (i : Slot) (inj : Int) (hk : Keeps z s) :
    Keeps z (State.capTake s i inj) := by
  unfold State.capTake
  with_reducible repeat' (first | assumption | apply State.underWrite_keeps | apply State.modSlot_keeps
                                | split | dsimp only)

@[simp] theorem State.captureDone_keeps {z : State} (s : State) (i : Slot) (hk : Keeps z s) :
    Keeps z (State.captureDone s i) := by
  unfold State.captureDone
  with_reducible repeat' (first | assumption | apply State.modSlot_keeps | apply State.post_keeps | split)

@[simp] theorem State.overrun_keeps {z : State} (s : State) (i : Slot) (cause idx : Nat) (hk : Keeps z s) :
    Keeps z (State.overrun s i cause idx) := by
  unfold State.overrun
  with_reducible repeat' (first | assumption | intro _ | apply State.modSlot_keeps | apply State.tally_keeps
                                | apply State.post_keeps | apply Keeps.ite)

@[simp] theorem State.loopHeld_keeps {z : State} (s : State) (i : Slot) (hk : Keeps z s) :
    Keeps z (State.loopHeld s i) := by
  unfold State.loopHeld
  with_reducible repeat' (first | assumption | apply forEach_keeps | intro _ | apply State.loopLeaves_keeps
                                | apply State.modSlot_keeps | apply State.post_keeps | apply Keeps.ite)

@[simp] theorem State.satPost_keeps {z : State} (s : State) (i : Slot) (c : Fin 3) (hk : Keeps z s) :
    Keeps z (State.satPost s i c) := by
  unfold State.satPost
  with_reducible repeat' (first | assumption | intro _ | apply State.modSlot_keeps | apply State.post_keeps
                                | apply Keeps.ite)

@[simp] theorem State.loopBell_keeps {z : State} (s : State) (hk : Keeps z s) :
    Keeps z (State.loopBell s) := by
  unfold State.loopBell
  with_reducible repeat' (first | assumption | apply forEach_keeps | intro _ s' h'
                                | apply State.modSlot_keeps | apply State.satPost_keeps)

@[simp] theorem State.stepWrite_keeps {z : State} (s : State) (i : Slot) (c : Fin 3) (u : Nat) (hk : Keeps z s) :
    Keeps z (State.stepWrite s i c u) := by
  unfold State.stepWrite
  with_reducible repeat' (first | assumption | apply State.modSlot_keeps | apply State.loopOut_keeps | split
                                | dsimp only)

@[simp] theorem State.stepChan_keeps {z : State} (s : State) (j : StepJob) (s' : Nat) (c : Fin 3) (hk : Keeps z s) :
    Keeps z (State.stepChan s j s' c) := by
  unfold State.stepChan
  with_reducible repeat' (first | assumption | intro _ | apply State.modSlot_keeps
                                | apply State.stepWrite_keeps | apply State.tally_keeps
                                | apply State.satPost_keeps | apply Keeps.ite | split)

@[simp] theorem State.saveTake_keeps {z : State} (s : State) (i : Slot) (hk : Keeps z s) :
    Keeps z (State.saveTake s i) := by
  unfold State.saveTake
  with_reducible repeat' (first | assumption | apply State.modSlot_keeps | split | simp only [Keeps.mk_iff])

@[simp] theorem State.chimeEnd_keeps {z : State} (s : State) (i : Slot) (take save : Bool) (inj : Int)
    (hk : Keeps z s) :
    Keeps z (State.chimeEnd s i take save inj) := by
  unfold State.chimeEnd
  with_reducible repeat' (first | assumption | intro _ | apply State.capTake_keeps | apply State.saveTake_keeps
                                | apply Keeps.ite | split | dsimp only | simp only [Keeps.mk_iff])

@[simp] theorem State.stepDone_keeps {z : State} (s : State) (j : StepJob) (hk : Keeps z s) :
    Keeps z (State.stepDone s j) := by
  unfold State.stepDone
  with_reducible repeat' (first | assumption | apply forEach_keeps | intro _ | apply State.stepChan_keeps
                                | apply State.tally_keeps | apply State.modSlot_keeps | apply State.chimeEnd_keeps
                                | apply Keeps.ite | split | dsimp only | simp only [Keeps.mk_iff])

@[simp] theorem State.serve_keeps {z : State}  (x0 : Nat) (x1 : Nat) (s : State) (hk : Keeps z s) :
    Keeps z (State.serve x0 x1 s) := by
  induction x0 generalizing x1 s with
  | zero => exact hk
  | succ n ih =>
    unfold State.serve
    (repeat' (first | with_reducible assumption | with_reducible apply forEach_keeps | (intro _ s' h')
                    | intro _ | (with_reducible refine Keeps.of_snd (by assumption) ?_)
                    | (with_reducible refine Keeps.of_fst (by assumption) ?_) | with_reducible apply ih
                    | with_reducible apply State.stepDone_keeps | with_reducible apply Keeps.ite
                    | with_reducible apply Keeps.ite_snd | with_reducible apply Keeps.elim
                    | with_reducible apply foldl_keeps | split | with_reducible rfl
                    | with_reducible exact Nat.le_refl _ | (dsimp only) | simp only [Keeps.mk_iff]))

@[simp] theorem State.choirServe_keeps {z : State} (s : State) (hk : Keeps z s) :
    Keeps z (State.choirServe s) := by
  unfold State.choirServe
  with_reducible repeat' (first | assumption | intro _ | apply State.serve_keeps | apply Keeps.ite
                                | simp only [Keeps.mk_iff])

@[simp] theorem State.choirDrain_keeps {z : State} (s : State) (there : State → Bool) (hk : Keeps z s) :
    Keeps z (State.choirDrain s there) := by
  unfold State.choirDrain
  with_reducible repeat' (first | assumption | intro _ | apply State.passTo_keeps
                                | apply State.choirServe_keeps | apply Keeps.ite)

@[simp] theorem State.setpoints_keeps {z : State} (s : State) (q : LoopSt) (hk : Keeps z s) :
    Keeps z (State.setpoints s q).2 := by
  unfold State.setpoints
  with_reducible repeat' (first | assumption | intro _ | apply State.fresh_keeps | apply Keeps.ite_snd
                                | split)

@[simp] theorem State.slotLate_keeps {z : State} (s : State) (i : Slot) (idx : Nat) (hk : Keeps z s) :
    Keeps z (State.slotLate s i idx) := by
  unfold State.slotLate
  split
  · exact hk
  · apply State.chimeEnd_keeps
    apply State.overrun_keeps
    exact (Keeps.mk_iff rfl rfl).2 hk

@[simp] theorem State.slotChime_keeps {z : State} (s : State) (i : Slot) (idx : Nat) (x : ChimeIn) (hk : Keeps z s) :
    Keeps z (State.slotChime s i idx x) := by
  unfold State.slotChime
  with_reducible repeat' (first | assumption | intro _ | apply State.modSlot_keeps | apply State.chimeEnd_keeps
                                | apply State.overrun_keeps | apply State.setpoints_keeps | apply Keeps.ite | split
                                | dsimp only | simp only [Keeps.mk_iff])

@[simp] theorem State.chime_keeps {z : State} (s : State) (g : Fin 4) (x : ChimeIn) (hk : Keeps z s) :
    Keeps z (State.chime s g x) := by
  unfold State.chime
  with_reducible repeat' (first | assumption | apply forEach_keeps | intro _ | apply State.slotLate_keeps
                                | apply State.choirServe_keeps | apply State.slotChime_keeps
                                | apply State.chimeEdits_keeps | apply State.modBell_keeps | apply Keeps.ite | split
                                | dsimp only | simp only [Keeps.mk_iff])

@[simp] theorem State.rateChanged_keeps {z : State} (s : State) (g : Fin 4) (hk : Keeps z s) :
    Keeps z (State.rateChanged s g) := by
  unfold State.rateChanged
  with_reducible repeat' (first | assumption | apply forEach_keeps | intro _ | apply State.loadTable_keeps
                                | apply Keeps.ite)

@[simp] theorem State.choirWake_keeps {z : State} (s : State) (hk : Keeps z s) :
    Keeps z (State.choirWake s) := by
  unfold State.choirWake
  with_reducible repeat' (first | assumption | apply forEach_keeps | intro _ s' h'
                                | apply State.modSlot_keeps | apply State.loadTable_keeps
                                | simp only [Keeps.mk_iff])

end Sys2Proof.Machine
end

