-- ==== Sys2Proof/Laws/KeepsQuagalLoop.lean ====
section
/-!
SUPPORT. What the operations of Machine/QuagalLoop.lean keep.
-/

namespace Sys2Proof.Machine

set_option simprocs false

@[simp] theorem loopChange_keeps {z : State} (c : OpCtx) (s : State) (i : Slot) (e : LoopEdit) (hk : Keeps z s) :
    Keeps z (loopChange c s i e) := by
  unfold loopChange
  with_reducible repeat' (first | assumption | intro _ | apply State.loopEdit_keeps | apply Keeps.ite
                                | simp only [Keeps.mk_iff])

@[simp] theorem State.injEnd_keeps {z : State} (s : State) (hk : Keeps z s) :
    Keeps z (State.injEnd s) := by
  unfold State.injEnd
  with_reducible repeat' (first | assumption | intro _ | apply Keeps.ite | split | dsimp only
                                | simp only [Keeps.mk_iff])

@[simp] theorem semClset_keeps {z : State}  (c0 : OpCtx) (s : State) (hk : Keeps z s) :
    Keeps z (semClset.run c0 s) := by
  unfold semClset
  with_reducible repeat' (first | assumption | apply loopChange_keeps | split | dsimp only)

@[simp] theorem semClcoef_keeps {z : State}  (c0 : OpCtx) (s : State) (hk : Keeps z s) :
    Keeps z (semClcoef.run c0 s) := by
  unfold semClcoef
  with_reducible repeat' (first | assumption | apply loopChange_keeps | split | dsimp only)

@[simp] theorem semClmode_keeps {z : State}  (c0 : OpCtx) (s : State) (hk : Keeps z s) :
    Keeps z (semClmode.run c0 s) := by
  unfold semClmode
  with_reducible repeat' (first | assumption | apply loopChange_keeps)

@[simp] theorem semCllim_keeps {z : State}  (c0 : OpCtx) (s : State) (hk : Keeps z s) :
    Keeps z (semCllim.run c0 s) := by
  unfold semCllim
  with_reducible repeat' (first | assumption | apply loopChange_keeps)

@[simp] theorem semClrep_keeps {z : State}  (c0 : OpCtx) (s : State) (hk : Keeps z s) :
    Keeps z (semClrep.run c0 s) := by
  unfold semClrep
  with_reducible repeat' (first | assumption | apply loopChange_keeps)

@[simp] theorem semClsave_keeps {z : State}  (c0 : OpCtx) (s : State) (hk : Keeps z s) :
    Keeps z (semClsave.run c0 s) := by
  unfold semClsave
  with_reducible repeat' (first | assumption | apply State.modSlot_keeps)

@[simp] theorem semTinj_keeps {z : State}  (c0 : OpCtx) (s : State) (hk : Keeps z s) :
    Keeps z (semTinj.run c0 s) := by
  unfold semTinj
  with_reducible repeat' (first | assumption | apply State.modSlot_keeps)

@[simp] theorem semTcap_keeps {z : State}  (c0 : OpCtx) (s : State) (hk : Keeps z s) :
    Keeps z (semTcap.run c0 s) := by
  unfold semTcap
  with_reducible repeat' (first | assumption | apply State.modSlot_keeps | split | dsimp only)

@[simp] theorem semTrel_keeps {z : State}  (c0 : OpCtx) (s : State) (hk : Keeps z s) :
    Keeps z (semTrel.run c0 s) := by
  unfold semTrel
  with_reducible repeat' (first | assumption | apply State.modSlot_keeps)

end Sys2Proof.Machine
end

