-- ==== Sys2Proof/Laws/KeepsReliquary.lean ====
section
/-!
SUPPORT. What the operations of Machine/Reliquary.lean keep.
-/

namespace Sys2Proof.Machine

set_option simprocs false

@[simp] theorem State.accumulatorClose_keeps {z : State} (s : State) (hk : Keeps z s) :
    Keeps z (State.accumulatorClose s) := by
  unfold State.accumulatorClose
  with_reducible repeat' (first | assumption | intro _ | apply State.modRel_keeps
                                | apply State.accClose_keeps | apply Keeps.ite)

@[simp] theorem State.bufferLost_keeps {z : State} (s : State) (hk : Keeps z s) :
    Keeps z (State.bufferLost s) := by
  unfold State.bufferLost
  with_reducible repeat' (first | assumption | intro _ | apply State.modRel_keeps | apply State.notice_keeps
                                | apply Keeps.ite)

@[simp] theorem State.relWrite_keeps {z : State} (s : State) (k : Nat) (r : RelRec) (hk : Keeps z s) :
    Keeps z (State.relWrite s k r) := by
  unfold State.relWrite
  with_reducible repeat' (first | assumption | apply State.moaWrite_keeps | apply State.tally_keeps)

@[simp] theorem State.flushUnit_keeps {z : State} (s : State) (hk : Keeps z s) :
    Keeps z (State.flushUnit s) := by
  unfold State.flushUnit
  with_reducible repeat' (first | assumption | intro _ | apply State.relWrite_keeps
                                | apply State.modRel_keeps | apply Keeps.ite | split)

@[simp] theorem State.flushStart_keeps {z : State} (s : State) (hk : Keeps z s) :
    Keeps z (State.flushStart s) := by
  unfold State.flushStart
  with_reducible repeat' (first | assumption | apply State.modRel_keeps | apply State.tally_keeps)

@[simp] theorem State.freezeExpiry_keeps {z : State} (s : State) (hk : Keeps z s) :
    Keeps z (State.freezeExpiry s) := by
  unfold State.freezeExpiry
  with_reducible repeat' (first | assumption | apply State.passTo_keeps | apply State.freezeEnd_keeps | split)

@[simp] theorem State.relErase_keeps {z : State} (s : State) (t : Ten) (hk : Keeps z s) :
    Keeps z (State.relErase s t) := by
  unfold State.relErase
  with_reducible repeat' (first | assumption | apply State.modRel_keeps | apply State.relWrite_keeps)

@[simp] theorem State.setTag_keeps {z : State} (s : State) (t : Ten) (tag : Nat) (seq : Word) (hk : Keeps z s) :
    Keeps z (State.setTag s t tag seq) := by
  unfold State.setTag
  with_reducible repeat' (first | assumption | apply State.accClose_keeps | apply State.relAppend_keeps
                                | apply State.modRel_keeps)

@[simp] theorem semRtag_keeps {z : State}  (c0 : OpCtx) (s : State) (hk : Keeps z s) :
    Keeps z (semRtag.run c0 s) := by
  unfold semRtag
  with_reducible repeat' (first | assumption | apply State.setTag_keeps)

@[simp] theorem semRval_keeps {z : State}  (c0 : OpCtx) (s : State) (hk : Keeps z s) :
    Keeps z (semRval.run c0 s) := by
  unfold semRval
  with_reducible repeat' (first | assumption | apply State.sample_keeps)

@[simp] theorem State.setClock_keeps {z : State} (s : State) (t : Ten) (ring : Nat) (v : Nat) (seq : Word)
    (hk : Keeps z s) :
    Keeps z (State.setClock s t ring v seq) := by
  unfold State.setClock
  with_reducible repeat' (first | assumption | apply State.relAppend_keeps | apply State.postAll_keeps
                                | simp only [Keeps.mk_iff])

@[simp] theorem semRclk_keeps {z : State}  (c0 : OpCtx) (s : State) (hk : Keeps z s) :
    Keeps z (semRclk.run c0 s) := by
  unfold semRclk
  with_reducible repeat' (first | assumption | apply State.setClock_keeps)

@[simp] theorem semPtol_keeps {z : State}  (c0 : OpCtx) (s : State) (hk : Keeps z s) :
    Keeps z (semPtol.run c0 s) := by
  unfold semPtol
  with_reducible repeat' (first | assumption | apply State.modTen_keeps)

end Sys2Proof.Machine
end

