-- ==== Sys2Proof/Laws/KeepsQuagalBell.lean ====
section
/-!
SUPPORT. What the operations of Machine/QuagalBell.lean keep.
-/

namespace Sys2Proof.Machine

set_option simprocs false

@[simp] theorem semEndWait_keeps {z : State} (w : Wait) (c0 : OpCtx) (s : State) (hk : Keeps z s) :
    Keeps z ((semEndWait w).run c0 s) := by
  unfold semEndWait
  with_reducible repeat' (first | assumption | apply State.setPred_keeps | split)

@[simp] theorem State.endWait_keeps {z : State} (s : State) (r : RingId) (hk : Keeps z s) :
    Keeps z (State.endWait s r) := by
  unfold State.endWait
  with_reducible repeat' (first | assumption | apply State.modRing_keeps | apply State.runOp_keeps
                                | apply semEndWait_keeps | split | dsimp only)

@[simp] theorem State.releaseWaits_keeps {z : State} (s : State) (hk : Keeps z s) :
    Keeps z (State.releaseWaits s) := by
  unfold State.releaseWaits
  with_reducible repeat' (first | assumption | apply forEach_keeps | intro _ s' h'
                                | apply State.endWait_keeps)

@[simp] theorem State.runWait_keeps {z : State} (s : State) (r : RingId) (op : Nat) (o : OpSem)
    (wait : OpCtx → State → Wait) (hko : ∀ c x, Keeps z x → Keeps z (o.run c x)) (hk : Keeps z s) :
    Keeps z (State.runWait s r op o wait) := by
  unfold State.runWait
  with_reducible repeat' (first | assumption | apply State.endWait_keeps | apply State.runOp_keeps
                                | apply State.keepFetched_keeps | apply State.modRing_keeps | split)

@[simp] theorem semWaitb_keeps {z : State}  (c0 : OpCtx) (s : State) (hk : Keeps z s) :
    Keeps z (semWaitb.run c0 s) := by
  unfold semWaitb
  with_reducible repeat' (first | assumption | apply State.setPred_keeps)

@[simp] theorem semFence_keeps {z : State}  (c0 : OpCtx) (s : State) (hk : Keeps z s) :
    Keeps z (semFence.run c0 s) := by
  unfold semFence
  with_reducible repeat' (assumption)

@[simp] theorem State.takeCommit_keeps {z : State} (s : State) (t : Ten) (seq : Word) (hk : Keeps z s) :
    Keeps z (State.takeCommit s t seq) := by
  unfold State.takeCommit
  with_reducible repeat' (first | assumption | apply State.modSurfs_keeps | apply State.modTen_keeps
                                | apply State.runAhead_keeps | simp only [Keeps.mk_iff])

@[simp] theorem semCommit_keeps {z : State}  (c0 : OpCtx) (s : State) (hk : Keeps z s) :
    Keeps z (semCommit.run c0 s) := by
  unfold semCommit
  with_reducible repeat' (first | assumption | apply State.takeCommit_keeps)

@[simp] theorem semBpart_keeps {z : State}  (c0 : OpCtx) (s : State) (hk : Keeps z s) :
    Keeps z (semBpart.run c0 s) := by
  unfold semBpart
  with_reducible repeat' (first | assumption | apply State.modTen_keeps)

@[simp] theorem semBwin_keeps {z : State}  (c0 : OpCtx) (s : State) (hk : Keeps z s) :
    Keeps z (semBwin.run c0 s) := by
  unfold semBwin
  with_reducible repeat' (first | assumption | intro _ | apply State.modBell_keeps | apply State.modTen_keeps
                                | apply Keeps.ite | split | dsimp only | simp only [Keeps.mk_iff])

@[simp] theorem semChime_keeps {z : State}  (c0 : OpCtx) (s : State) (hk : Keeps z s) :
    Keeps z (semChime.run c0 s) := by
  unfold semChime
  with_reducible repeat' (first | assumption | apply State.modBell_keeps)

theorem semOf_keeps {z : State} {op : Nat} {o : OpSem} (e : semOf op = some o) (c : OpCtx) (s : State)
    (hk : Keeps z s) : Keeps z (o.run c s) := by
  unfold semOf at e
  split at e <;> cases e
  · exact semSdef_keeps c s hk
  · exact semSref_keeps c s hk
  · exact semSgen_keeps c s hk
  · exact semSfree_keeps c s hk
  · exact semSput_keeps c s hk
  · exact semLnew_keeps c s hk
  · exact semLdel_keeps c s hk
  · exact semLsrc_keeps c s hk
  · exact semLdst_keeps c s hk
  · exact semLdstr_keeps c s hk
  · exact semLvis_keeps c s hk
  · exact semLfall_keeps c s hk
  · exact semLflat_keeps c s hk
  · exact semLvid_keeps c s hk
  · exact semBgcol_keeps c s hk
  · exact semChkr_keeps c s hk
  · exact semChkv_keeps c s hk
  · exact semLblend_keeps c s hk
  · exact semLscale_keeps c s hk
  · exact semDith_keeps c s hk
  · exact semLpri_keeps c s hk
  · exact semDrvtgt_keeps c s hk
  · exact semDrvduty_keeps c s hk
  · exact semDrvdim_keeps c s hk
  · exact semDrvderate_keeps c s hk
  · exact semDrvrail_keeps c s hk
  · exact semClset_keeps c s hk
  · exact semClcoef_keeps c s hk
  · exact semClmode_keeps c s hk
  · exact semCllim_keeps c s hk
  · exact semClrep_keeps c s hk
  · exact semClsave_keeps c s hk
  · exact semKset_keeps c s hk
  · exact semKsetm_keeps c s hk
  · exact semKmap_keeps c s hk
  · exact semKload_keeps c s hk
  · exact semKwit_keeps c s hk
  · exact semKprime_keeps c s hk
  · exact semRtag_keeps c s hk

@[simp] theorem semAt_keeps {z : State}  (c0 : OpCtx) (s : State) (hk : Keeps z s) :
    Keeps z (semAt.run c0 s) := by
  unfold semAt
  with_reducible repeat' (first | assumption | intro _ | apply State.tally_keeps | apply State.post_keeps
                                | apply State.modRing_keeps | apply Keeps.ite)

@[simp] theorem State.runWords_keeps {z : State} (s : State) (r : RingId) (t : Ten) (a : AtAct) (fuel i : Nat)
    (ws : List Word) (hk : Keeps z s) : Keeps z (s.runWords r t a fuel i ws) := by
  induction fuel generalizing s i ws with
  | zero => exact hk
  | succ n ih =>
    cases ws with
    | nil => exact hk
    | cons w ws =>
      unfold State.runWords
      dsimp only
      split
      · exact hk
      · split
        · exact State.post_keeps _ _ _ _ _ _ hk
        · exact ih _ _ _ (semOf_keeps ‹_› _ _ hk)

@[simp] theorem State.runAct_keeps {z : State} (s : State) (t : Ten) (b : Nat) (x : RingId × AtAct) (hk : Keeps z s) :
    Keeps z (State.runAct s t b x) := by
  unfold State.runAct
  with_reducible repeat' (first | assumption | intro _ | apply State.runWords_keeps
                                | apply State.tally_keeps | apply State.post_keeps | apply Keeps.ite)

@[simp] theorem State.latchActs_keeps {z : State} (s : State) (b : Nat) (hk : Keeps z s) :
    Keeps z (State.latchActs s b) := by
  unfold State.latchActs
  with_reducible repeat' (first | assumption | apply forEach_keeps | intro _ | apply State.runAct_keeps
                                | apply Keeps.ite | simp only [Keeps.mk_iff])

end Sys2Proof.Machine
end

