-- ==== Sys2Proof/Laws/KeepsMemoryCtl.lean ====
section
/-!
SUPPORT. What the operations of Machine/MemoryCtl.lean keep.
-/

namespace Sys2Proof.Machine

set_option simprocs false

@[simp] theorem State.tolTake_keeps {z : State} (s : State) (x : TolIn) (hk : Keeps z s) :
    Keeps z (State.tolTake s x) := by
  unfold State.tolTake
  with_reducible repeat' (first | assumption | intro _ | apply Keeps.ite | split | dsimp only
                                | simp only [Keeps.mk_iff])

@[simp] theorem State.scrubStop_keeps {z : State} (s : State) (hk : Keeps z s) :
    Keeps z (State.scrubStop s) := by
  unfold State.scrubStop
  with_reducible repeat' (first | assumption | intro _ | apply Keeps.ite | split | dsimp only
                                | simp only [Keeps.mk_iff])

@[simp] theorem State.scrubWord_keeps {z : State} (s : State) (hk : Keeps z s) :
    Keeps z (State.scrubWord s) := by
  unfold State.scrubWord
  with_reducible repeat' (first | assumption | intro _ | apply State.tally_keeps | apply State.gfix_keeps
                                | apply Keeps.ite | split | dsimp only | simp only [Keeps.mk_iff])

@[simp] theorem State.scrubRead_keeps {z : State} (s : State) (hk : Keeps z s) :
    Keeps z (State.scrubRead s) := by
  unfold State.scrubRead
  with_reducible repeat' (first | assumption | apply forEach_keeps | intro _ | apply State.tally_keeps
                                | apply State.scrubWord_keeps | apply Keeps.ite | split | dsimp only
                                | simp only [Keeps.mk_iff])

@[simp] theorem State.retrained_keeps {z : State} (s : State) (p0 : Nat) (hk : Keeps z s) :
    Keeps z (State.retrained s p0) := by
  unfold State.retrained
  with_reducible repeat' (first | assumption | apply State.notice_keeps)

@[simp] theorem State.trainStore_keeps {z : State} (s : State) (hk : Keeps z s) :
    Keeps z (State.trainStore s) := by
  unfold State.trainStore
  with_reducible repeat' (first | assumption | apply State.fresh_keeps | simp only [Keeps.mk_iff])

@[simp] theorem State.trainDone_keeps {z : State} (s : State) (ok : Bool) (hk : Keeps z s) :
    Keeps z (State.trainDone s ok) := by
  unfold State.trainDone
  with_reducible repeat' (first | assumption | apply State.trainStore_keeps | apply State.retrained_keeps
                                | split | simp only [Keeps.mk_iff])

end Sys2Proof.Machine
end

