-- ==== Sys2Proof/Laws/KeepsTenants.lean ====
section
/-!
SUPPORT. What the operations of Machine/Tenants.lean keep.
-/

namespace Sys2Proof.Machine

set_option simprocs false

@[simp] theorem State.doorbellTake_keeps {z : State} (s : State) (r : RingId) (op idx : Nat) (hk : Keeps z s) :
    Keeps z (State.doorbellTake s r op idx) := by
  unfold State.doorbellTake
  with_reducible repeat' (first | assumption | intro _ | apply State.modRing_keeps | apply State.tally_keeps
                                | apply Keeps.ite)

@[simp] theorem State.doorbell_keeps {z : State} (s : State) (t : Ten) (r : RingId) (op idx : Nat) (hk : Keeps z s) :
    Keeps z (State.doorbell s t r op idx) := by
  unfold State.doorbell
  with_reducible repeat' (first | assumption | apply State.post_keeps | apply State.doorbellTake_keeps
                                | split)

@[simp] theorem State.ringRestarted_keeps {z : State} (s : State) (r : RingId) (hk : Keeps z s) :
    Keeps z (State.ringRestarted s r) := by
  unfold State.ringRestarted
  with_reducible repeat' (first | assumption | apply State.modRing_keeps | apply State.post_keeps | split
                                | dsimp only)

@[simp] theorem State.rebindDone_keeps {z : State} (s : State) (r : RingId) (hk : Keeps z s) :
    Keeps z (State.rebindDone s r) := by
  unfold State.rebindDone
  with_reducible repeat' (first | assumption | apply State.modRing_keeps | apply State.post_keeps | split
                                | simp only [Keeps.mk_iff])

@[simp] theorem State.resetReq_keeps {z : State} (s : State) (t : Ten) (v : Word) (hk : Keeps z s) :
    Keeps z (State.resetReq s t v) := by
  unfold State.resetReq
  with_reducible repeat' (first | assumption | intro _ | apply State.modTen_keeps | apply Keeps.ite)

@[simp] theorem State.kick_keeps {z : State} (s : State) (t : Ten) (v : Word) (hk : Keeps z s) :
    Keeps z (State.kick s t v) := by
  unfold State.kick
  with_reducible repeat' (first | assumption | intro _ | apply State.modTen_keeps | apply Keeps.ite)

@[simp] theorem State.wdogExpiry_keeps {z : State} (s : State) (t : Ten) (hk : Keeps z s) :
    Keeps z (State.wdogExpiry s t) := by
  unfold State.wdogExpiry
  with_reducible repeat' (first | assumption | apply State.tenFault_keeps | split | dsimp only)

@[simp] theorem State.evqRdWrite_keeps {z : State} (s : State) (t : Ten) (v : Word) (hk : Keeps z s) :
    Keeps z (State.evqRdWrite s t v) := by
  unfold State.evqRdWrite
  with_reducible repeat' (first | assumption | intro _ | apply State.modTen_keeps | apply State.notify_keeps
                                | apply Keeps.ite)

end Sys2Proof.Machine
end

