-- ==== Sys2Proof/Laws/KeepsGallery.lean ====
section
/-!
SUPPORT. What the operations of Machine/Gallery.lean keep.
-/

namespace Sys2Proof.Machine

set_option simprocs false

@[simp] theorem State.modGal_keeps {z : State} (s : State) (t : Ten) (f : GalTen → GalTen) (hk : Keeps z s) :
    Keeps z (State.modGal s t f) := by
  unfold State.modGal
  with_reducible repeat' (first | assumption | simp only [Keeps.mk_iff])

@[simp] theorem State.galLow_keeps {z : State} (s : State) (t : Ten) (v : Nat) (hk : Keeps z s) :
    Keeps z (State.galLow s t v).2 := by
  unfold State.galLow
  with_reducible repeat' (first | assumption | apply State.modGal_keeps)

@[simp] theorem State.galHigh_keeps {z : State} (s : State) (t : Ten) (v : Nat) (hk : Keeps z s) :
    Keeps z (State.galHigh s t v).2 := by
  unfold State.galHigh
  with_reducible repeat' (first | assumption | apply State.modGal_keeps | split)

@[simp] theorem State.give_keeps {z : State} (s : State) (t : Ten) (v : Word) (hk : Keeps z s) :
    Keeps z (State.give s t v) := by
  unfold State.give
  with_reducible repeat' (first | assumption | simp only [Keeps.mk_iff])

@[simp] theorem State.galBell_keeps {z : State} (s : State) (hk : Keeps z s) :
    Keeps z (State.galBell s) := by
  unfold State.galBell
  with_reducible repeat' (first | assumption | apply forEach_keeps | intro _ s' h' | apply State.modGal_keeps)

@[simp] theorem State.galReset_keeps {z : State} (s : State) (t : Ten) (hk : Keeps z s) :
    Keeps z (State.galReset s t) := by
  unfold State.galReset
  with_reducible repeat' (first | assumption | apply State.modGal_keeps | simp only [Keeps.mk_iff])

end Sys2Proof.Machine
end

