-- ==== Sys2Proof/Laws/KeepsWindow.lean ====
section
/-!
SUPPORT. What the operations of Machine/Window.lean keep.
-/

namespace Sys2Proof.Machine

set_option simprocs false

@[simp] theorem State.touch_keeps {z : State} (s : State) (t : Ten) (hk : Keeps z s) :
    Keeps z (State.touch s t) := by
  unfold State.touch
  with_reducible repeat' (first | assumption | apply State.modClo_keeps)

@[simp] theorem State.discardWrite_keeps {z : State} (s : State) (t : Ten) (hk : Keeps z s) :
    Keeps z (State.discardWrite s t) := by
  unfold State.discardWrite
  with_reducible repeat' (first | assumption | apply State.gfix_keeps)

@[simp] theorem State.bellnoLo_keeps {z : State} (s : State) (t : Option Ten) (hk : Keeps z s) :
    Keeps z (State.bellnoLo s t).2 := by
  unfold State.bellnoLo
  with_reducible repeat' (first | assumption | apply State.modTen_keeps | split)

@[simp] theorem State.bellnoHi_keeps {z : State} (s : State) (t : Option Ten) (hk : Keeps z s) :
    Keeps z (State.bellnoHi s t).2 := by
  unfold State.bellnoHi
  with_reducible repeat' (first | assumption | apply State.modTen_keeps | split)

@[simp] theorem State.idRead_keeps {z : State} (s : State) (t : Option Ten) (off : Nat) (hk : Keeps z s) :
    Keeps z (State.idRead s t off).2 := by
  unfold State.idRead
  with_reducible repeat' (first | assumption | apply State.bellnoLo_keeps | apply State.bellnoHi_keeps
                                | split)

@[simp] theorem State.boxRead_keeps {z : State} (s : State) (t : Ten) (hk : Keeps z s) :
    Keeps z (State.boxRead s t).2 := by
  unfold State.boxRead
  with_reducible repeat' (first | assumption | intro _ | apply State.fresh_keeps | apply State.modBox_keeps
                                | apply Keeps.ite_snd)

@[simp] theorem State.boxWrite_keeps {z : State} (s : State) (t : Ten) (v : Word) (hk : Keeps z s) :
    Keeps z (State.boxWrite s t v) := by
  unfold State.boxWrite
  with_reducible repeat' (first | assumption | apply State.modBox_keeps)

@[simp] theorem State.mbCmd_keeps {z : State} (s : State) (t : Ten) (v : Word) (hk : Keeps z s) :
    Keeps z (State.mbCmd s t v) := by
  unfold State.mbCmd
  with_reducible repeat' (first | assumption | intro _ | apply State.tally_keeps | apply State.modBox_keeps
                                | apply State.answer_keeps | apply Keeps.ite)

@[simp] theorem State.mbDone_keeps {z : State} (s : State) (t : Ten) (v : Word) (hk : Keeps z s) :
    Keeps z (State.mbDone s t v) := by
  unfold State.mbDone
  with_reducible repeat' (first | assumption | intro _ | apply State.modBox_keeps | apply Keeps.ite)

@[simp] theorem State.boxReg_keeps {z : State} (s : State) (t : Ten) (k : Nat) (hk : Keeps z s) :
    Keeps z (State.boxReg s t k).2 := by
  unfold State.boxReg
  with_reducible repeat' (first | assumption | apply State.boxRead_keeps | split)

@[simp] theorem State.winRead_keeps {z : State} (s : State) (t : Ten) (off : Nat) (hk : Keeps z s) :
    Keeps z (State.winRead s t off).2 := by
  unfold State.winRead
  with_reducible repeat' (first | assumption | intro _ | apply State.galLow_keeps
                                | apply State.galHigh_keeps | apply State.boxReg_keeps
                                | apply Keeps.ite_snd)

@[simp] theorem State.winWrite_keeps {z : State} (s : State) (t : Ten) (off : Nat) (v : Word) (hk : Keeps z s) :
    Keeps z (State.winWrite s t off v) := by
  unfold State.winWrite
  with_reducible repeat' (first | assumption | intro _ | apply State.resetReq_keeps | apply State.kick_keeps
                                | apply State.doorbell_keeps | apply State.evqRdWrite_keeps
                                | apply State.modTen_keeps | apply State.modChap_keeps
                                | apply State.discardWrite_keeps | apply State.modBox_keeps
                                | apply State.mbCmd_keeps | apply State.boxWrite_keeps
                                | apply State.mbDone_keeps | apply Keeps.ite | split)

@[simp] theorem State.regRead_keeps {z : State} (s : State) (ot : Option Ten) (addr : Nat) (hk : Keeps z s) :
    Keeps z (State.regRead s ot addr).2 := by
  unfold State.regRead
  with_reducible repeat' (first | assumption | intro _ | apply State.idRead_keeps
                                | apply State.winRead_keeps | apply State.gfix_keeps | apply Keeps.ite_snd
                                | split)

@[simp] theorem State.regWrite_keeps {z : State} (s : State) (ot : Option Ten) (addr : Nat) (whole : Bool)
    (v : Word) (hk : Keeps z s) :
    Keeps z (State.regWrite s ot addr whole v) := by
  unfold State.regWrite
  with_reducible repeat' (first | assumption | intro _ | apply State.discardWrite_keeps
                                | apply State.winWrite_keeps | apply State.gfix_keeps | apply Keeps.ite
                                | split)

end Sys2Proof.Machine
end

