-- ==== Sys2Proof/Laws/KeepsCloister.lean ====
section
/-!
SUPPORT. What the operations of Machine/Cloister.lean keep.
-/

namespace Sys2Proof.Machine

set_option simprocs false

@[simp] theorem State.otpSet_keeps {z : State} (s : State) (off : Nat) (bs : List Byte) (hk : Keeps z s) :
    Keeps z (State.otpSet s off bs) := by
  unfold State.otpSet
  refine hk.trans ⟨rfl, fun m => ⟨m.1, m.2.1, m.2.2.1, Memory.writeN_wf m.2.2.2.1 _ _, m.2.2.2.2⟩, Nat.le_refl _, fun m a => ?_⟩
  exact Memory.read_or m.2.2.2.1 off bs a

@[simp] theorem State.otpStep_keeps {z : State} (s : State) (k : Nat) (hk : Keeps z s) :
    Keeps z (State.otpStep s k) := by
  unfold State.otpStep
  with_reducible repeat' (first | assumption | apply State.otpSet_keeps)

@[simp] theorem State.transition_keeps {z : State} (s : State) (hk : Keeps z s) :
    Keeps z (State.transition s) := by
  unfold State.transition
  with_reducible repeat' (first | assumption | simp only [Keeps.mk_iff])

@[simp] theorem State.drbgSeed_keeps {z : State} (s : State) (d : Drbg) (hk : Keeps z s) :
    Keeps z (State.drbgSeed s d) := by
  have h := State.fresh_keeps s 384 hk
  unfold State.drbgSeed
  generalize s.fresh 384 = p at h
  obtain ⟨v, s1⟩ := p
  dsimp only at h ⊢
  exact h.trans (Keeps.of_eq rfl rfl rfl rfl rfl rfl (Nat.le_refl _))

@[simp] theorem State.reseed_keeps {z : State} (s : State) (hk : Keeps z s) :
    Keeps z (State.reseed s) := by
  unfold State.reseed
  with_reducible repeat' (first | assumption | intro _ | apply State.drbgSeed_keeps | apply Keeps.ite | split
                                | dsimp only | simp only [Keeps.mk_iff])

@[simp] theorem State.draw_keeps {z : State} (s : State) (n : Nat) (hk : Keeps z s) :
    Keeps z (State.draw s n).2 := by
  unfold State.draw
  with_reducible repeat' (first | assumption | apply State.fresh_keeps | simp only [Keeps.mk_iff])

@[simp] theorem State.trngFail_keeps {z : State} (s : State) (prop : Bool) (hk : Keeps z s) :
    Keeps z (State.trngFail s prop) := by
  unfold State.trngFail
  with_reducible repeat' (first | assumption | intro _ | apply State.postAll_keeps | apply Keeps.ite
                                | simp only [Keeps.mk_iff])

@[simp] theorem State.cloReq_keeps {z : State} (s : State) (t : Ten) (code : Nat) (f : List Word → State)
    (hkf : ∀ y0, Keeps z (f y0)) (hk : Keeps z s) :
    Keeps z (State.cloReq s t code f) := by
  unfold State.cloReq
  with_reducible repeat' (first | assumption | apply hkf | apply State.answer_keeps | split)

@[simp] theorem State.ownerWord_keeps {z : State} (s : State) (hk : Keeps z s) :
    Keeps z (State.ownerWord s).2 := by
  unfold State.ownerWord
  with_reducible repeat' (first | assumption | apply State.fresh_keeps | split)

@[simp] theorem State.scalarFrom_keeps {z : State} (k : Nat) (s : State) (hk : Keeps z s) :
    Keeps z (State.scalarFrom k s).2 := by
  induction k generalizing s with
  | zero =>
    have h := State.fresh_keeps s 256 hk
    unfold State.scalarFrom
    generalize s.fresh 256 = p at h
    exact h
  | succ k ih =>
    have h := State.draw_keeps s 32 hk
    unfold State.scalarFrom
    generalize s.draw 32 = p at h
    exact Keeps.ite_snd (fun _ => h) (fun _ => ih _ h)

@[simp] theorem State.drawScalar_keeps {z : State} (s : State) (hk : Keeps z s) :
    Keeps z (State.drawScalar s).2 := by
  unfold State.drawScalar
  with_reducible repeat' (first | assumption | intro _ | apply State.scalarFrom_keeps | apply Keeps.ite | split
                                | dsimp only | simp only [Keeps.mk_iff])

@[simp] theorem State.provProgram_keeps {z : State} (s : State) (slot : Nat) (rec' key : List Byte) (d : Nat)
    (hk : Keeps z s) :
    Keeps z (State.provProgram s slot rec' key d) := by
  unfold State.provProgram
  with_reducible repeat' (first | assumption | apply State.otpSet_keeps | apply State.otpStep_keeps)

@[simp] theorem State.useNonce_keeps {z : State} (s : State) (q : Fin 5) (hk : Keeps z s) :
    Keeps z (State.useNonce s q) := by
  unfold State.useNonce
  with_reducible repeat' (first | assumption | apply State.modClo_keeps)

@[simp] theorem State.sessTry_keeps {z : State} (s : State) (q : Fin 5) (flags : Word) (sig : List Byte)
    (hk : Keeps z s) :
    Keeps z (State.sessTry s q flags sig).2 := by
  unfold State.sessTry
  with_reducible repeat' (first | assumption | apply State.modClo_keeps | split)

@[simp] theorem State.sessFail_keeps {z : State} (s : State) (q : Fin 5) (hk : Keeps z s) :
    Keeps z (State.sessFail s q) := by
  unfold State.sessFail
  with_reducible repeat' (first | assumption | apply State.modClo_keeps)

@[simp] theorem State.authFailPost_keeps {z : State} (s : State) (ts : List Ten) (q : Fin 5) (hk : Keeps z s) :
    Keeps z (State.authFailPost s ts q) := by
  unfold State.authFailPost
  with_reducible repeat' (first | assumption | apply State.postTo_keeps)

@[simp] theorem State.glitch_keeps {z : State} (s : State) (supply : Bool) (hk : Keeps z s) :
    Keeps z (State.glitch s supply) := by
  unfold State.glitch
  with_reducible repeat' (first | assumption | apply State.answer_keeps | apply State.postAll_keeps | split
                                | simp only [Keeps.mk_iff])

end Sys2Proof.Machine
end

