-- ==== Sys2Proof/Laws/KeepsUpdate.lean ====
section
/-!
SUPPORT. What the operations of Machine/Update.lean keep.
-/

namespace Sys2Proof.Machine

set_option simprocs false

@[simp] theorem State.moaPut_keeps {z : State} (s : State) (a : Nat) (bs : List Byte) (hk : Keeps z s) :
    Keeps z (State.moaPut s a bs) := by
  unfold State.moaPut
  with_reducible repeat' (first | assumption | apply State.moaWrite_keeps | apply State.tally_keeps)

@[simp] theorem State.jWrite_keeps {z : State} (s : State) (f : JRec → JRec) (hk : Keeps z s) :
    Keeps z (State.jWrite s f) := by
  unfold State.jWrite
  with_reducible repeat' (first | assumption | apply State.moaPut_keeps | apply State.modUpd_keeps)

@[simp] theorem State.mapClear_keeps {z : State} (s : State) (hk : Keeps z s) :
    Keeps z (State.mapClear s) := by
  unfold State.mapClear
  with_reducible repeat' (first | assumption | apply State.moaPut_keeps)

@[simp] theorem State.jIdle_keeps {z : State} (s : State) (hk : Keeps z s) :
    Keeps z (State.jIdle s) := by
  unfold State.jIdle
  with_reducible repeat' (first | assumption | apply State.jWrite_keeps | apply State.mapClear_keeps
                                | apply State.modUpd_keeps)

@[simp] theorem State.updPost_keeps {z : State} (s : State) (code : Nat) (p : List Word) (hk : Keeps z s) :
    Keeps z (State.updPost s code p) := by
  unfold State.updPost
  with_reducible repeat' (first | assumption | apply State.postAll_keeps)

@[simp] theorem State.updBegin_keeps {z : State} (s : State) (route : Route) (h : List Byte) (hk : Keeps z s) :
    Keeps z (State.updBegin s route h).2 := by
  unfold State.updBegin
  with_reducible repeat' (first | assumption | apply State.updPost_keeps | apply State.moaPut_keeps
                                | apply State.mapClear_keeps | apply State.jWrite_keeps
                                | apply State.modUpd_keeps | split)

@[simp] theorem State.updChunk_keeps {z : State} (s : State) (i : Nat) (bs : List Byte) (hk : Keeps z s) :
    Keeps z (State.updChunk s i bs).2 := by
  unfold State.updChunk
  with_reducible repeat' (first | assumption | apply State.moaPut_keeps | split | simp only [Keeps.mk_iff])

@[simp] theorem State.cekClear_keeps {z : State} (s : State) (hk : Keeps z s) :
    Keeps z (State.cekClear s) := by
  unfold State.cekClear
  with_reducible repeat' (first | assumption | simp only [Keeps.mk_iff])

@[simp] theorem State.udsFinal_keeps {z : State} (s : State) (bs : List Byte) (hk : Keeps z s) :
    Keeps z (State.udsFinal s bs) := by
  unfold State.udsFinal
  with_reducible repeat' (first | assumption | intro _ | apply State.modUds_keeps | apply Keeps.ite)

@[simp] theorem State.udsResult_keeps {z : State} (s : State) (rid : Nat) (bs : List Byte) (hk : Keeps z s) :
    Keeps z (State.udsResult s rid bs) := by
  unfold State.udsResult
  with_reducible repeat' (first | assumption | apply State.modUds_keeps)

@[simp] theorem State.updCheckDone_keeps {z : State} (s : State) (hk : Keeps z s) :
    Keeps z (State.updCheckDone s) := by
  unfold State.updCheckDone
  with_reducible repeat' (first | assumption | intro _ | apply State.cekClear_keeps
                                | apply State.modUpd_keeps | apply State.moaPut_keeps
                                | apply State.jWrite_keeps | apply State.updPost_keeps
                                | apply State.jIdle_keeps | apply State.udsResult_keeps
                                | apply State.udsFinal_keeps | apply Keeps.ite | split)

@[simp] theorem State.updReq_keeps {z : State} (s : State) (t : Ten) (code : Nat) (f : List Word → State)
    (hkf : ∀ y0, Keeps z (f y0)) (hk : Keeps z s) :
    Keeps z (State.updReq s t code f) := by
  unfold State.updReq
  with_reducible repeat' (first | assumption | apply hkf | apply State.answer_keeps | split)

@[simp] theorem State.arm_keeps {z : State} (s : State) (hk : Keeps z s) :
    Keeps z (State.arm s) := by
  unfold State.arm
  with_reducible repeat' (first | assumption | apply State.jWrite_keeps)

@[simp] theorem State.loadEnd_keeps {z : State} (s : State) (hk : Keeps z s) :
    Keeps z (State.loadEnd s) := by
  unfold State.loadEnd
  with_reducible repeat' (first | assumption | apply State.modUpd_keeps)

@[simp] theorem State.loadDone_keeps {z : State} (s : State) (t : Ten) (hk : Keeps z s) :
    Keeps z (State.loadDone s t) := by
  unfold State.loadDone
  with_reducible repeat' (first | assumption | intro _ | apply State.loadEnd_keeps | apply State.modUpd_keeps
                                | apply State.updPost_keeps | apply State.jIdle_keeps | apply State.cekClear_keeps
                                | apply Keeps.ite | split | dsimp only | simp only [Keeps.mk_iff])

@[simp] theorem State.loadTake_keeps {z : State}  (x0 : Nat) (s : State) (hk : Keeps z s) :
    Keeps z (State.loadTake x0 s) := by
  induction x0 generalizing s with
  | zero => exact hk
  | succ n ih =>
    unfold State.loadTake
    (repeat' (first | with_reducible assumption | with_reducible apply forEach_keeps | (intro _ s' h')
                    | intro _ | (with_reducible refine Keeps.of_snd (by assumption) ?_)
                    | (with_reducible refine Keeps.of_fst (by assumption) ?_) | with_reducible apply ih
                    | with_reducible apply State.loadEnd_keeps | with_reducible apply State.loadDone_keeps
                    | with_reducible apply State.updBegin_keeps | with_reducible apply State.updChunk_keeps
                    | with_reducible apply State.modUpd_keeps | with_reducible apply Keeps.ite
                    | with_reducible apply Keeps.ite_snd | with_reducible apply Keeps.elim
                    | with_reducible apply foldl_keeps | split | with_reducible rfl
                    | with_reducible exact Nat.le_refl _ | (dsimp only) | simp only [Keeps.mk_iff]))

@[simp] theorem State.loadStream_keeps {z : State} (s : State) (bs : List Byte) (hk : Keeps z s) :
    Keeps z (State.loadStream s bs) := by
  unfold State.loadStream
  with_reducible repeat' (first | assumption | apply State.loadTake_keeps | apply State.modUpd_keeps)

@[simp] theorem State.loadBreak_keeps {z : State} (s : State) (hk : Keeps z s) :
    Keeps z (State.loadBreak s) := by
  unfold State.loadBreak
  with_reducible repeat' (first | assumption | apply State.passTo_keeps | apply State.loadEnd_keeps
                                | apply State.cekClear_keeps | apply State.jIdle_keeps | split)

@[simp] theorem State.actTake_keeps {z : State} (s : State) (handover uds : Bool) (hk : Keeps z s) :
    Keeps z (State.actTake s handover uds) := by
  unfold State.actTake
  with_reducible repeat' (first | assumption | intro _ | apply State.modUpd_keeps
                                | apply State.modPower_keeps | rfl)

@[simp] theorem State.actEnd_keeps {z : State} (s : State) (ok : Bool) (hk : Keeps z s) :
    Keeps z (State.actEnd s ok) := by
  unfold State.actEnd
  with_reducible repeat' (first | assumption | apply State.modUpd_keeps | apply State.udsResult_keeps
                                | apply State.udsFinal_keeps | split)

@[simp] theorem State.toTrial_keeps {z : State} (s : State) (trials : Nat) (hk : Keeps z s) :
    Keeps z (State.toTrial s trials) := by
  unfold State.toTrial
  with_reducible repeat' (first | assumption | apply State.jWrite_keeps)

@[simp] theorem State.busyAll_keeps {z : State} (s : State) (hk : Keeps z s) :
    Keeps z (State.busyAll s) := by
  unfold State.busyAll
  with_reducible repeat' (first | assumption | apply forEach_keeps | intro _ s' h' | apply State.answer_keeps)

@[simp] theorem State.handoverBell_keeps {z : State} (s : State) (hk : Keeps z s) :
    Keeps z (State.handoverBell s) := by
  unfold State.handoverBell
  with_reducible repeat' (first | assumption | intro _ | apply State.modPower_keeps | apply State.modUpd_keeps
                                | apply State.toTrial_keeps | apply State.busyAll_keeps | apply State.actEnd_keeps
                                | apply State.updPost_keeps | apply State.gfix_keeps | apply Keeps.ite | split
                                | dsimp only | simp only [Keeps.mk_iff])

@[simp] theorem State.handoverAbandon_keeps {z : State} (s : State) (hk : Keeps z s) :
    Keeps z (State.handoverAbandon s) := by
  unfold State.handoverAbandon
  with_reducible repeat' (first | assumption | apply State.updPost_keeps | apply State.actEnd_keeps | split)

@[simp] theorem State.pauseBegin_keeps {z : State} (s : State) (hk : Keeps z s) :
    Keeps z (State.pauseBegin s) := by
  unfold State.pauseBegin
  with_reducible repeat' (first | assumption | intro _ | apply State.updPost_keeps | apply State.modUpd_keeps
                                | apply State.kmPause_keeps | apply State.actEnd_keeps | apply Keeps.ite | split
                                | dsimp only | simp only [Keeps.mk_iff])

@[simp] theorem State.pauseLoaded_keeps {z : State} (s : State) (hk : Keeps z s) :
    Keeps z (State.pauseLoaded s) := by
  unfold State.pauseLoaded
  with_reducible repeat' (first | assumption | apply State.passTo_keeps | apply State.modUpd_keeps | split)

@[simp] theorem State.pauseAnnounce_keeps {z : State} (s : State) (hk : Keeps z s) :
    Keeps z (State.pauseAnnounce s) := by
  unfold State.pauseAnnounce
  with_reducible repeat' (first | assumption | apply State.modUpd_keeps | split)

@[simp] theorem State.pauseBell_keeps {z : State} (s : State) (hk : Keeps z s) :
    Keeps z (State.pauseBell s) := by
  unfold State.pauseBell
  with_reducible repeat' (first | assumption | intro _ | apply State.modUpd_keeps
                                | apply State.modPower_keeps | apply State.updPost_keeps
                                | apply State.actEnd_keeps | apply State.toTrial_keeps | split
                                | simp only [Keeps.mk_iff])

@[simp] theorem semUact_keeps {z : State}  (c0 : OpCtx) (s : State) (hk : Keeps z s) :
    Keeps z (semUact.run c0 s) := by
  unfold semUact
  with_reducible repeat' (first | assumption | apply State.actTake_keeps)

@[simp] theorem State.raiseFloor_keeps {z : State} (s : State) (step : Nat) (seq : Option Word) (hk : Keeps z s) :
    Keeps z (State.raiseFloor s step seq) := by
  unfold State.raiseFloor
  with_reducible repeat' (first | assumption | intro _ | apply State.otpSet_keeps
                                | apply State.postAll_keeps | apply Keeps.ite)

@[simp] theorem State.confirm_keeps {z : State} (s : State) (seq : Option Word) (hk : Keeps z s) :
    Keeps z (State.confirm s seq) := by
  unfold State.confirm
  with_reducible repeat' (first | assumption | apply State.raiseFloor_keeps | apply State.jWrite_keeps
                                | apply State.updPost_keeps)

@[simp] theorem semUconf_keeps {z : State}  (c0 : OpCtx) (s : State) (hk : Keeps z s) :
    Keeps z (semUconf.run c0 s) := by
  unfold semUconf
  with_reducible repeat' (first | assumption | apply State.confirm_keeps)

@[simp] theorem State.discard_keeps {z : State} (s : State) (hk : Keeps z s) :
    Keeps z (State.discard s) := by
  unfold State.discard
  with_reducible repeat' (first | assumption | intro _ | apply State.jWrite_keeps
                                | apply State.cekClear_keeps | apply State.jIdle_keeps | apply Keeps.ite)

@[simp] theorem semUdisc_keeps {z : State}  (c0 : OpCtx) (s : State) (hk : Keeps z s) :
    Keeps z (semUdisc.run c0 s) := by
  unfold semUdisc
  with_reducible repeat' (first | assumption | apply State.discard_keeps)

@[simp] theorem semUallow_keeps {z : State}  (c0 : OpCtx) (s : State) (hk : Keeps z s) :
    Keeps z (semUallow.run c0 s) := by
  unfold semUallow
  with_reducible repeat' (first | assumption | apply State.modTen_keeps)

@[simp] theorem State.unitCopy_keeps {z : State} (s : State) (from' to' : Nat) (hk : Keeps z s) :
    Keeps z (State.unitCopy s from' to') := by
  unfold State.unitCopy
  with_reducible repeat' (first | assumption | apply State.moaPut_keeps)

@[simp] theorem State.swapBack_keeps {z : State} (s : State) (hk : Keeps z s) :
    Keeps z (State.swapBack s) := by
  unfold State.swapBack
  with_reducible repeat' (first | assumption | intro _ | apply State.unitCopy_keeps | apply State.jWrite_keeps
                                | apply State.modUpd_keeps | apply Keeps.ite | split | dsimp only
                                | simp only [Keeps.mk_iff])

@[simp] theorem State.swapUnit_keeps {z : State} (s : State) (hk : Keeps z s) :
    Keeps z (State.swapUnit s) := by
  unfold State.swapUnit
  with_reducible repeat' (first | assumption | intro _ | apply State.swapBack_keeps | apply State.jWrite_keeps
                                | apply State.unitCopy_keeps | apply State.updPost_keeps | apply State.modUpd_keeps
                                | apply Keeps.ite | split | dsimp only | simp only [Keeps.mk_iff])

end Sys2Proof.Machine
end

