-- ==== Sys2Proof/Laws/KeepsHostPorts.lean ====
section
/-!
SUPPORT. What the operations of Machine/HostPorts.lean keep.
-/

namespace Sys2Proof.Machine

set_option simprocs false

@[simp] theorem State.wake_keeps {z : State} (s : State) (w : WakeSrc) (hk : Keeps z s) :
    Keeps z (State.wake s w) := by
  unfold State.wake
  with_reducible repeat' (first | assumption | intro _ | apply State.modPower_keeps | apply Keeps.ite | rfl)

@[simp] theorem State.giveTo_keeps {z : State} (s : State) (t : Option Ten) (v : Word) (hk : Keeps z s) :
    Keeps z (State.giveTo s t v) := by
  unfold State.giveTo
  with_reducible repeat' (first | assumption | apply State.give_keeps | split)

@[simp] theorem State.endSession_keeps {z : State} (s : State) (q : Fin 5) (hk : Keeps z s) :
    Keeps z (State.endSession s q) := by
  unfold State.endSession
  with_reducible repeat' (first | assumption | apply State.modClo_keeps)

@[simp] theorem State.linkLost_keeps {z : State} (s : State) (t : Ten) (hk : Keeps z s) :
    Keeps z (State.linkLost s t) := by
  unfold State.linkLost
  with_reducible repeat' (first | assumption | apply State.endSession_keeps | apply State.tenFault_keeps)

@[simp] theorem State.markLost_keeps {z : State} (s : State) (p : HostPort) (b : Bool) (hk : Keeps z s) :
    Keeps z (State.markLost s p b) := by
  unfold State.markLost
  with_reducible repeat' (first | assumption | apply State.modPf_keeps | apply State.modPort_keeps | split)

@[simp] theorem State.hostLost_keeps {z : State} (s : State) (t : Ten) (hk : Keeps z s) :
    Keeps z (State.hostLost s t) := by
  unfold State.hostLost
  with_reducible repeat' (first | assumption | intro _ | apply State.markLost_keeps
                                | apply State.linkLost_keeps | apply Keeps.ite)

@[simp] theorem State.pcieLost_keeps {z : State} (s : State) (hk : Keeps z s) :
    Keeps z (State.pcieLost s) := by
  unfold State.pcieLost
  with_reducible repeat' (first | assumption | apply forEach_keeps | intro _ | apply State.markLost_keeps
                                | apply State.linkLost_keeps | apply Keeps.ite)

@[simp] theorem State.hostRead_keeps {z : State} (s : State) (t : Ten) (under : Bool) (addrs : List (Option Nat))
    (hk : Keeps z s) :
    Keeps z (State.hostRead s t under addrs).2 := by
  unfold State.hostRead
  with_reducible repeat' (first | assumption | intro _ | apply State.lpRequest_keeps | apply State.post_keeps
                                | apply State.tally_keeps | apply State.gfix_keeps | apply Keeps.ite | split
                                | dsimp only | simp only [Keeps.mk_iff])

@[simp] theorem State.regionWrite_keeps {z : State} (s : State) (t : Ten) (off : Nat) (ws : List Word)
    (hk : Keeps z s) :
    Keeps z (State.regionWrite s t off ws) := by
  unfold State.regionWrite
  with_reducible repeat' (first | assumption | intro _ | apply State.lpWrite_keeps | apply State.lpRequest_keeps
                                | apply State.outsideWrite_keeps | apply Keeps.ite | split | dsimp only
                                | simp only [Keeps.mk_iff])

@[simp] theorem State.regBytes_keeps {z : State} (s : State) (t : Option Ten) (addr : Nat) (hk : Keeps z s) :
    Keeps z (State.regBytes s t addr).2 := by
  unfold State.regBytes
  with_reducible repeat' (first | assumption | apply forEach_keeps | intro _ | apply State.regRead_keeps
                                | apply Keeps.elim | apply Keeps.ite | apply Keeps.ite_snd | split | rfl | dsimp only
                                | simp only [Keeps.mk_iff])

@[simp] theorem State.regReads_keeps {z : State} (s : State) (t : Option Ten) (q : FReq) (n : Nat) (hk : Keeps z s) :
    Keeps z (s.regReads t q n).2 := by
  induction n with
  | zero => exact hk
  | succ n ih => exact State.regBytes_keeps _ t _ ih

@[simp] theorem State.regWrites_keeps {z : State} (s : State) (t : Option Ten) (q : FReq) (hk : Keeps z s) :
    Keeps z (State.regWrites s t q) := by
  unfold State.regWrites
  with_reducible repeat' (first | assumption | apply forEach_keeps | intro _ s' h'
                                | apply State.regWrite_keeps)

@[simp] theorem State.ringWords_keeps {z : State} (s : State) (r : RingId) (idx : Nat) (ws : List Word)
    (hk : Keeps z s) :
    Keeps z (State.ringWords s r idx ws) := by
  unfold State.ringWords
  with_reducible repeat' (first | assumption | apply forEach_keeps | intro _ | apply State.underWrite_keeps
                                | apply Keeps.ite)

@[simp] theorem State.framedRing_keeps {z : State} (s : State) (t : Ten) (q : FReq) (hk : Keeps z s) :
    Keeps z (State.framedRing s t q) := by
  unfold State.framedRing
  with_reducible repeat' (first | assumption | apply State.ringWords_keeps | apply State.doorbell_keeps
                                | split)

@[simp] theorem State.framedEvq_keeps {z : State} (s : State) (t : Ten) (q : FReq) (hk : Keeps z s) :
    Keeps z (State.framedEvq s t q).2 := by
  unfold State.framedEvq
  with_reducible repeat' (first | assumption | apply State.hostRead_keeps)

@[simp] theorem State.framedLoad_keeps {z : State} (s : State) (q : FReq) (hk : Keeps z s) :
    Keeps z (State.framedLoad s q) := by
  unfold State.framedLoad
  with_reducible repeat' (first | assumption | apply State.loadStream_keeps)

@[simp] theorem State.framedEffect_keeps {z : State} (s : State) (t : Option Ten) (q : FReq) (hk : Keeps z s) :
    Keeps z (State.framedEffect s t q).2 := by
  unfold State.framedEffect
  with_reducible repeat' (first | assumption | apply State.regReads_keeps | apply State.regWrites_keeps
                                | apply State.framedRing_keeps | apply State.regionWrite_keeps
                                | apply State.outside_keeps | apply State.hostRead_keeps
                                | apply State.framedEvq_keeps | apply State.framedLoad_keeps | split)

@[simp] theorem State.svcSend_keeps {z : State} (s : State) (bs : List Byte) (ctsN : Bool) (hk : Keeps z s) :
    Keeps z (State.svcSend s bs ctsN) := by
  unfold State.svcSend
  dsimp only
  split
  · exact (Keeps.mk_iff rfl rfl).2 hk
  · split
    · exact (Keeps.mk_iff rfl rfl).2 hk
    · exact (Keeps.mk_iff rfl rfl).2 (State.fresh_keeps s 2 hk)

@[simp] theorem State.svcAnswer_keeps {z : State} (s : State) (p : HostPort) (q : FReq) (hk : Keeps z s) :
    Keeps z (State.svcAnswer s p q) := by
  unfold State.svcAnswer
  with_reducible repeat' (first | assumption | intro _ | apply State.svcSend_keeps | apply Keeps.ite | split
                                | dsimp only | simp only [Keeps.mk_iff])

@[simp] theorem State.framed_keeps {z : State} (s : State) (p : HostPort) (q : FReq) (hk : Keeps z s) :
    Keeps z (State.framed s p q) := by
  unfold State.framed
  with_reducible repeat' (first | assumption | apply forEach_keeps | intro _ | apply State.tally_keeps
                                | apply State.modPort_keeps | apply State.touch_keeps | apply State.wake_keeps
                                | apply State.framedEffect_keeps | apply State.svcAnswer_keeps | apply Keeps.elim
                                | apply Keeps.ite | apply Keeps.ite_snd | split | rfl | dsimp only
                                | simp only [Keeps.mk_iff])

@[simp] theorem State.bar2Write_keeps {z : State} (s : State) (n : Ten) (off : Nat) (bs : List (Option Byte))
    (hk : Keeps z s) :
    Keeps z (State.bar2Write s n off bs) := by
  unfold State.bar2Write
  with_reducible repeat' (first | assumption | apply forEach_keeps | intro _ | apply State.lpWrite_keeps
                                | apply State.lpRequest_keeps | apply State.outsideWrite_keeps | apply Keeps.ite
                                | split | dsimp only | simp only [Keeps.mk_iff])

@[simp] theorem State.bar0Write_keeps {z : State} (s : State) (n : Ten) (addr : Nat) (whole : Bool) (v : Word)
    (hk : Keeps z s) :
    Keeps z (State.bar0Write s n addr whole v) := by
  unfold State.bar0Write
  with_reducible repeat' (first | assumption | intro _ | apply State.regWrite_keeps
                                | apply State.modPf_keeps | apply Keeps.ite)

@[simp] theorem State.holdPf_keeps {z : State} (s : State) (n : Ten) (w : HeldWrite) (hk : Keeps z s) :
    Keeps z (State.holdPf s n w) := by
  unfold State.holdPf
  with_reducible repeat' (first | assumption | intro _ | apply State.modPf_keeps | apply State.wake_keeps
                                | apply Keeps.ite)

@[simp] theorem State.heldEffect_keeps {z : State} (s : State) (p : HostPort) (w : HeldWrite) (hk : Keeps z s) :
    Keeps z (State.heldEffect s p w) := by
  unfold State.heldEffect
  with_reducible repeat' (first | assumption | apply State.bar2Write_keeps | apply State.bar0Write_keeps
                                | apply State.framedEffect_keeps | split)

@[simp] theorem State.releaseHeld_keeps {z : State} (s : State) (hk : Keeps z s) :
    Keeps z (State.releaseHeld s) := by
  unfold State.releaseHeld
  with_reducible repeat' (first | assumption | apply forEach_keeps | intro _ s' h' | apply State.modPf_keeps
                                | apply State.modPort_keeps | apply State.heldEffect_keeps | split)

@[simp] theorem State.holdWord_keeps {z : State} (s : State) (p : HostPort) (addr : Nat) (v : Word) (hk : Keeps z s) :
    Keeps z (State.holdWord s p addr v) := by
  unfold State.holdWord
  with_reducible repeat' (first | assumption | apply State.holdPf_keeps | apply State.modPort_keeps
                                | apply State.wake_keeps | split)

@[simp] theorem State.portRegRead_keeps {z : State} (s : State) (p : HostPort) (addr : Nat) (hk : Keeps z s) :
    Keeps z (State.portRegRead s p addr) := by
  unfold State.portRegRead
  with_reducible repeat' (first | assumption | intro _ | apply State.giveTo_keeps
                                | apply State.regRead_keeps | apply State.touch_keeps | apply Keeps.ite
                                | apply Keeps.elim)

@[simp] theorem State.ownWrite_keeps {z : State} (s : State) (t : Ten) (off : Nat) (v : Word) (hk : Keeps z s) :
    Keeps z (State.ownWrite s t off v) := by
  unfold State.ownWrite
  with_reducible repeat' (first | assumption | apply State.touch_keeps | apply State.holdWord_keeps
                                | apply State.regWrite_keeps | split)

@[simp] theorem State.linkErrors_keeps {z : State} (s : State) (hk : Keeps z s) :
    Keeps z (State.linkErrors s) := by
  unfold State.linkErrors
  with_reducible repeat' (first | assumption | apply State.fresh_keeps | simp only [Keeps.mk_iff])

end Sys2Proof.Machine
end

