-- ==== Sys2Proof/Laws/KeepsPrime.lean ====
section
/-!
SUPPORT. What the operations of Machine/Prime.lean keep.
-/

namespace Sys2Proof.Machine

set_option simprocs false

@[simp] theorem State.primeLayer_keeps {z : State} (s : State) (t : Ten) (c : Chap) (i : Nat) (hk : Keeps z s) :
    Keeps z (State.primeLayer s t c i) := by
  unfold State.primeLayer
  with_reducible repeat' (first | assumption | apply State.modSurfs_keeps | apply State.modChap_keeps)

@[simp] theorem State.primeCommit_keeps {z : State} (s : State) (t : Ten) (hk : Keeps z s) :
    Keeps z (State.primeCommit s t) := by
  unfold State.primeCommit
  with_reducible repeat' (first | assumption | apply forEach_keeps | intro _ s' h'
                                | apply State.primeLayer_keeps | apply State.modTen_keeps)

@[simp] theorem State.primeInstall_keeps {z : State} (s : State) (hk : Keeps z s) :
    Keeps z (State.primeInstall s) := by
  unfold State.primeInstall
  with_reducible repeat' (first | assumption | apply forEach_keeps | intro _ | apply State.keyInstall_keeps
                                | apply State.primeCommit_keeps | apply Keeps.ite
                                | simp only [Keeps.mk_iff])

@[simp] theorem State.primeLatch_keeps {z : State} (s : State) (hk : Keeps z s) :
    Keeps z (State.primeLatch s) := by
  unfold State.primeLatch
  with_reducible repeat' (first | assumption | apply State.modMatrix_keeps | simp only [Keeps.mk_iff])

@[simp] theorem State.primeReq_keeps {z : State} (s : State) (t : Ten) (code : Nat) (ok : Bool)
    (f : List Word → State) (hkf : ∀ y0, Keeps z (f y0)) (hk : Keeps z s) :
    Keeps z (State.primeReq s t code ok f) := by
  unfold State.primeReq
  with_reducible repeat' (first | assumption | apply hkf | apply State.answer_keeps | split)

@[simp] theorem State.primePut_keeps {z : State} (s : State) (a : Nat) (bs : List Byte) (hk : Keeps z s) :
    Keeps z (State.primePut s a bs) := by
  unfold State.primePut
  with_reducible repeat' (first | assumption | intro _ | apply State.moaPut_keeps | apply Keeps.ite | split
                                | dsimp only | simp only [Keeps.mk_iff])

@[simp] theorem State.primeSet_keeps {z : State} (s : State) (t : Ten) (hk : Keeps z s) :
    Keeps z (State.primeSet s t) := by
  unfold State.primeSet
  with_reducible repeat' (first | assumption | intro _ | apply State.answer_keeps | apply State.moaPut_keeps
                                | apply Keeps.ite | simp only [Keeps.mk_iff])

@[simp] theorem State.primeState_keeps {z : State} (s : State) (what : Nat) (gen : Word) (taken skipped : Nat)
    (hk : Keeps z s) :
    Keeps z (State.primeState s what gen taken skipped) := by
  unfold State.primeState
  with_reducible repeat' (first | assumption | apply State.postTo_keeps)

end Sys2Proof.Machine
end

