-- ==== Sys2Proof/Laws/KeepsSettings.lean ====
section
/-!
SUPPORT. What the operations of Machine/Settings.lean keep.
-/

namespace Sys2Proof.Machine

set_option simprocs false

@[simp] theorem State.lightStart_keeps {z : State} (s : State) (r : Option (List Byte)) (hk : Keeps z s) :
    Keeps z (State.lightStart s r) := by
  unfold State.lightStart
  with_reducible repeat' (first | assumption | split | simp only [Keeps.mk_iff])

@[simp] theorem State.choirStart_keeps {z : State} (s : State) (r : Option (List Byte)) (hk : Keeps z s) :
    Keeps z (State.choirStart s r) := by
  unfold State.choirStart
  with_reducible repeat' (first | assumption | apply forEach_keeps | intro _ s' h'
                                | apply State.modSlot_keeps | apply State.loadTable_keeps | split
                                | simp only [Keeps.mk_iff])

@[simp] theorem State.witStart_keeps {z : State} (s : State) (r : Option (List Byte)) (hk : Keeps z s) :
    Keeps z (State.witStart s r) := by
  unfold State.witStart
  with_reducible repeat' (first | assumption | split | simp only [Keeps.mk_iff])

@[simp] theorem State.thermalStart_keeps {z : State} (s : State) (r : Option (List Byte)) (hk : Keeps z s) :
    Keeps z (State.thermalStart s r) := by
  unfold State.thermalStart
  with_reducible repeat' (first | assumption | simp only [Keeps.mk_iff])

end Sys2Proof.Machine
end

