-- ==== Sys2Proof/Laws/KeepsChain.lean ====
section
/-!
SUPPORT. What the operations of Machine/Chain.lean keep.
-/

namespace Sys2Proof.Machine

set_option simprocs false

@[simp] theorem State.chSend_keeps {z : State} (s : State) (d : Bool) (f : ChFrame) (hk : Keeps z s) :
    Keeps z (State.chSend s d f) := by
  unfold State.chSend
  with_reducible repeat' (first | assumption | intro _ | apply State.modChain_keeps | apply Keeps.ite)

@[simp] theorem State.chForward_keeps {z : State} (s : State) (d : Bool) (f : ChFrame) (hk : Keeps z s) :
    Keeps z (State.chForward s d f) := by
  unfold State.chForward
  with_reducible repeat' (first | assumption | apply State.chSend_keeps)

@[simp] theorem State.chRecv_keeps {z : State} (s : State) (d : Bool) (f : ChFrame) (mine : Bool) (k : State → State)
    (hkk : ∀ y0, Keeps z y0 → Keeps z (k y0)) (hk : Keeps z s) :
    Keeps z (State.chRecv s d f mine k) := by
  unfold State.chRecv
  with_reducible repeat' (first | assumption | intro _ | apply hkk | apply State.tally_keeps | apply State.chForward_keeps
                                | apply Keeps.ite)

@[simp] theorem State.halLink_keeps {z : State} (s : State) (d : Bool) (what : Nat) (hk : Keeps z s) :
    Keeps z (State.halLink s d what) := by
  unfold State.halLink
  with_reducible repeat' (first | assumption | apply State.postAll_keeps)

@[simp] theorem State.chTail_keeps {z : State} (s : State) (hk : Keeps z s) :
    Keeps z (State.chTail s) := by
  unfold State.chTail
  with_reducible repeat' (first | assumption | apply State.modChain_keeps | apply State.chSend_keeps)

@[simp] theorem State.chEnumDown_keeps {z : State} (s : State) (hk : Keeps z s) :
    Keeps z (State.chEnumDown s) := by
  unfold State.chEnumDown
  with_reducible repeat' (first | assumption | intro _ | apply State.chSend_keeps | apply State.chTail_keeps
                                | apply Keeps.ite)

@[simp] theorem State.chEnumerate_keeps {z : State} (s : State) (hk : Keeps z s) :
    Keeps z (State.chEnumerate s) := by
  unfold State.chEnumerate
  with_reducible repeat' (first | assumption | intro _ | apply State.chEnumDown_keeps | apply Keeps.ite)

@[simp] theorem State.chLoss_keeps {z : State} (s : State) (hk : Keeps z s) :
    Keeps z (State.chLoss s) := by
  unfold State.chLoss
  with_reducible repeat' (first | assumption | apply State.modChain_keeps | apply State.postAll_keeps)

@[simp] theorem State.chLinkUp_keeps {z : State} (s : State) (d : Bool) (delay : Nat) (hk : Keeps z s) :
    Keeps z (State.chLinkUp s d delay) := by
  unfold State.chLinkUp
  with_reducible repeat' (first | assumption | intro _ | apply State.modChain_keeps
                                | apply State.halLink_keeps | apply State.chEnumerate_keeps
                                | apply Keeps.ite)

@[simp] theorem State.chLinkDown_keeps {z : State} (s : State) (d : Bool) (hk : Keeps z s) :
    Keeps z (State.chLinkDown s d) := by
  unfold State.chLinkDown
  with_reducible repeat' (first | assumption | intro _ | apply State.modChain_keeps
                                | apply State.halLink_keeps | apply State.tally_keeps
                                | apply State.chLoss_keeps | apply State.chSend_keeps
                                | apply State.chTail_keeps | apply State.chEnumerate_keeps
                                | apply Keeps.ite)

@[simp] theorem State.chEcho_keeps {z : State} (s : State) (d : Bool) (rt : Nat) (hk : Keeps z s) :
    Keeps z (State.chEcho s d rt) := by
  unfold State.chEcho
  with_reducible repeat' (first | assumption | apply State.modChain_keeps)

@[simp] theorem State.chEnum_keeps {z : State} (s : State) (v : Nat) (hk : Keeps z s) :
    Keeps z (State.chEnum s v) := by
  unfold State.chEnum
  with_reducible repeat' (first | assumption | intro _ | apply State.tally_keeps
                                | apply State.modChain_keeps | apply State.chEnumDown_keeps
                                | apply State.halLink_keeps | apply Keeps.ite)

@[simp] theorem State.chEnumTail_keeps {z : State} (s : State) (d : Bool) (f : ChFrame) (hk : Keeps z s) :
    Keeps z (State.chEnumTail s d f) := by
  unfold State.chEnumTail
  with_reducible repeat' (first | assumption | intro _ | apply State.chRecv_keeps
                                | apply State.modChain_keeps | apply State.chSend_keeps
                                | apply State.chForward_keeps | apply Keeps.ite)

@[simp] theorem State.markForward_keeps {z : State} (s : State) (k : Nat) (hk : Keeps z s) :
    Keeps z (State.markForward s k) := by
  unfold State.markForward
  with_reducible repeat' (first | assumption | intro _ | apply State.modChain_keeps
                                | apply State.tally_keeps | apply Keeps.ite)

@[simp] theorem State.chAnnounceMark_keeps {z : State} (s : State) (hk : Keeps z s) :
    Keeps z (State.chAnnounceMark s) := by
  unfold State.chAnnounceMark
  with_reducible repeat' (first | assumption | intro _ | apply State.modChain_keeps
                                | apply State.postAll_keeps | apply State.markForward_keeps
                                | apply Keeps.ite)

@[simp] theorem State.chBellMark_keeps {z : State} (s : State) (hk : Keeps z s) :
    Keeps z (State.chBellMark s) := by
  unfold State.chBellMark
  with_reducible repeat' (first | assumption | intro _ | apply State.modChain_keeps
                                | apply State.markForward_keeps | apply Keeps.ite)

@[simp] theorem State.chainBellLoss_keeps {z : State} (s : State) (hk : Keeps z s) :
    Keeps z (State.chainBellLoss s) := by
  unfold State.chainBellLoss
  with_reducible repeat' (first | assumption | apply State.chLoss_keeps | apply State.passTo_keeps | split)

@[simp] theorem State.chAnnounceFrame_keeps {z : State} (s : State) (d : Bool) (f : ChFrame) (hk : Keeps z s) :
    Keeps z (State.chAnnounceFrame s d f) := by
  unfold State.chAnnounceFrame
  with_reducible repeat' (first | assumption | intro _ | apply State.chRecv_keeps
                                | apply State.modChain_keeps | apply State.chForward_keeps)

@[simp] theorem State.chFloorFrame_keeps {z : State} (s : State) (d : Bool) (f : ChFrame) (hk : Keeps z s) :
    Keeps z (State.chFloorFrame s d f) := by
  unfold State.chFloorFrame
  with_reducible repeat' (first | assumption | intro _ | apply State.chRecv_keeps
                                | apply State.chForward_keeps | apply State.modChain_keeps
                                | apply Keeps.ite)

@[simp] theorem State.chFloorSend_keeps {z : State} (s : State) (hk : Keeps z s) :
    Keeps z (State.chFloorSend s) := by
  unfold State.chFloorSend
  with_reducible repeat' (first | assumption | intro _ | apply State.modChain_keeps
                                | apply State.chSend_keeps | apply Keeps.ite)

@[simp] theorem State.chBreak_keeps {z : State} (s : State) (d : Bool) (f : ChFrame) (hk : Keeps z s) :
    Keeps z (State.chBreak s d f) := by
  unfold State.chBreak
  with_reducible repeat' (first | assumption | intro _ | apply State.chRecv_keeps
                                | apply State.chForward_keeps | apply State.modChain_keeps
                                | apply State.chEnumerate_keeps | apply Keeps.ite)

@[simp] theorem State.deliver_keeps {z : State} (s : State) (t : Ten) (src : Nat) (ws : List Word) (hk : Keeps z s) :
    Keeps z (State.deliver s t src ws).1 := by
  unfold State.deliver
  with_reducible repeat' (first | assumption | apply State.modChain_keeps | apply State.post_keeps | split
                                | dsimp only)

@[simp] theorem State.msgFail_keeps {z : State} (s : State) (t : Ten) (m : ChMsg) (why : Nat) (hk : Keeps z s) :
    Keeps z (State.msgFail s t m why) := by
  unfold State.msgFail
  with_reducible repeat' (first | assumption | apply State.modChain_keeps | apply State.post_keeps)

@[simp] theorem State.msgDrop_keeps {z : State} (s : State) (t : Ten) (mseq : Word) (hk : Keeps z s) :
    Keeps z (State.msgDrop s t mseq) := by
  unfold State.msgDrop
  with_reducible repeat' (first | assumption | apply State.modChain_keeps)

@[simp] theorem State.msgSend1_keeps {z : State} (s : State) (t : Ten) (m : ChMsg) (hk : Keeps z s) :
    Keeps z (State.msgSend1 s t m) := by
  unfold State.msgSend1
  with_reducible repeat' (first | assumption | intro _ | apply State.msgDrop_keeps
                                | apply State.msgFail_keeps | apply State.modChain_keeps
                                | apply State.chSend_keeps | apply Keeps.ite)

@[simp] theorem State.msgPump_keeps {z : State} (s : State) (t : Ten) (hk : Keeps z s) :
    Keeps z (State.msgPump s t) := by
  unfold State.msgPump
  with_reducible repeat' (first | assumption | apply forEach_keeps | intro _ s' h'
                                | apply State.msgSend1_keeps)

@[simp] theorem State.msgQueue_keeps {z : State} (s : State) (t : Ten) (seq : Word) (bc : Bool) (dest : Nat)
    (ws : List Word) (hk : Keeps z s) :
    Keeps z (State.msgQueue s t seq bc dest ws) := by
  unfold State.msgQueue
  with_reducible repeat' (first | assumption | apply State.modChain_keeps | apply State.chSend_keeps
                                | apply State.deliver_keeps | apply State.msgFail_keeps
                                | apply State.msgPump_keeps | refine Keeps.of_fst (by assumption) ?_ | split
                                | dsimp only)

@[simp] theorem State.msgHere_keeps {z : State} (s : State) (d : Bool) (f : ChFrame) (hk : Keeps z s) :
    Keeps z (State.msgHere s d f) := by
  unfold State.msgHere
  with_reducible repeat' (first | assumption | intro _ | apply State.modChain_keeps
                                | apply State.chSend_keeps | apply State.deliver_keeps
                                | refine Keeps.of_fst (by assumption) ?_ | apply Keeps.ite | split)

@[simp] theorem State.chMsg_keeps {z : State} (s : State) (d : Bool) (f : ChFrame) (hk : Keeps z s) :
    Keeps z (State.chMsg s d f) := by
  unfold State.chMsg
  with_reducible repeat' (first | assumption | intro _ | apply State.chRecv_keeps
                                | apply State.modChain_keeps | apply State.chForward_keeps
                                | apply State.deliver_keeps | apply State.msgHere_keeps
                                | apply State.chSend_keeps | apply Keeps.ite)

@[simp] theorem State.chAck_keeps {z : State} (s : State) (d : Bool) (f : ChFrame) (hk : Keeps z s) :
    Keeps z (State.chAck s d f) := by
  unfold State.chAck
  with_reducible repeat' (first | assumption | intro _ | apply State.chRecv_keeps
                                | apply State.chForward_keeps | apply State.msgDrop_keeps
                                | apply State.modChain_keeps | apply State.msgFail_keeps
                                | apply State.msgPump_keeps | split)

@[simp] theorem State.chUnreach_keeps {z : State} (s : State) (d : Bool) (f : ChFrame) (hk : Keeps z s) :
    Keeps z (State.chUnreach s d f) := by
  unfold State.chUnreach
  with_reducible repeat' (first | assumption | intro _ | apply State.chRecv_keeps
                                | apply State.chForward_keeps | apply State.msgDrop_keeps
                                | apply State.msgFail_keeps | apply State.msgPump_keeps | split)

@[simp] theorem State.msgTimeout_keeps {z : State} (s : State) (t : Ten) (hk : Keeps z s) :
    Keeps z (State.msgTimeout s t) := by
  unfold State.msgTimeout
  with_reducible repeat' (first | assumption | apply forEach_keeps | intro _ | apply State.msgSend1_keeps
                                | apply State.msgDrop_keeps | apply State.msgFail_keeps
                                | apply State.msgPump_keeps | apply Keeps.ite)

@[simp] theorem semHsend_keeps {z : State}  (c0 : OpCtx) (s : State) (hk : Keeps z s) :
    Keeps z (semHsend.run c0 s) := by
  unfold semHsend
  with_reducible repeat' (first | assumption | apply State.msgQueue_keeps)

@[simp] theorem State.hrecv_keeps {z : State} (s : State) (c : OpCtx) (hk : Keeps z s) :
    Keeps z (State.hrecv s c) := by
  unfold State.hrecv
  with_reducible repeat' (first | assumption | apply State.modRing_keeps | apply State.modChain_keeps | split)

@[simp] theorem semHrecv_keeps {z : State}  (c0 : OpCtx) (s : State) (hk : Keeps z s) :
    Keeps z (semHrecv.run c0 s) := by
  unfold semHrecv
  with_reducible repeat' (first | assumption | apply State.hrecv_keeps)

@[simp] theorem State.sweepPost_keeps {z : State} (s : State) (hk : Keeps z s) :
    Keeps z (State.sweepPost s) := by
  unfold State.sweepPost
  with_reducible repeat' (first | assumption | apply State.modChain_keeps | apply State.post_keeps | split)

@[simp] theorem State.sweepReport_keeps {z : State} (s : State) (id src st : Nat) (hk : Keeps z s) :
    Keeps z (State.sweepReport s id src st) := by
  unfold State.sweepReport
  with_reducible repeat' (first | assumption | intro _ | apply State.modChain_keeps
                                | apply State.sweepPost_keeps | apply Keeps.ite | split)

@[simp] theorem State.sweepTell_keeps {z : State} (s : State) (id steps : Nat) (st : Word) (hk : Keeps z s) :
    Keeps z (State.sweepTell s id steps st) := by
  unfold State.sweepTell
  with_reducible repeat' (first | assumption | intro _ | apply State.sweepReport_keeps
                                | apply State.chSend_keeps | apply Keeps.ite)

@[simp] theorem State.sweepBegin_keeps {z : State} (s : State) (ws : List Word) (hk : Keeps z s) :
    Keeps z (State.sweepBegin s ws) := by
  unfold State.sweepBegin
  with_reducible repeat' (first | assumption | apply State.modChain_keeps | apply State.sweepTell_keeps
                                | apply State.postTo_keeps | split | dsimp only)

@[simp] theorem State.chSweepStart_keeps {z : State} (s : State) (d : Bool) (f : ChFrame) (hk : Keeps z s) :
    Keeps z (State.chSweepStart s d f) := by
  unfold State.chSweepStart
  with_reducible repeat' (first | assumption | intro _ | apply State.chRecv_keeps
                                | apply State.sweepBegin_keeps | apply State.chForward_keeps)

@[simp] theorem State.hsweep_keeps {z : State} (s : State) (t : Ten) (id first last steps : Nat) (hk : Keeps z s) :
    Keeps z (State.hsweep s t id first last steps) := by
  unfold State.hsweep
  with_reducible repeat' (first | assumption | apply State.modChain_keeps | apply State.sweepBegin_keeps
                                | apply State.chSend_keeps)

@[simp] theorem semHsweep_keeps {z : State}  (c0 : OpCtx) (s : State) (hk : Keeps z s) :
    Keeps z (semHsweep.run c0 s) := by
  unfold semHsweep
  with_reducible repeat' (first | assumption | apply State.hsweep_keeps)

@[simp] theorem State.sweepStepLatch_keeps {z : State} (s : State) (hk : Keeps z s) :
    Keeps z (State.sweepStepLatch s) := by
  unfold State.sweepStepLatch
  with_reducible repeat' (first | assumption | intro _ | apply State.underWrite_keeps
                                | apply State.modChain_keeps | apply State.postTo_keeps
                                | apply State.sweepTell_keeps | apply Keeps.ite | split)

@[simp] theorem State.chSweepDone_keeps {z : State} (s : State) (d : Bool) (f : ChFrame) (hk : Keeps z s) :
    Keeps z (State.chSweepDone s d f) := by
  unfold State.chSweepDone
  with_reducible repeat' (first | assumption | intro _ | apply State.chRecv_keeps
                                | apply State.chForward_keeps | apply State.sweepReport_keeps
                                | apply Keeps.ite)

@[simp] theorem State.sweepEndTimeout_keeps {z : State} (s : State) (hk : Keeps z s) :
    Keeps z (State.sweepEndTimeout s) := by
  unfold State.sweepEndTimeout
  with_reducible repeat' (first | assumption | apply State.passTo_keeps | apply State.sweepPost_keeps | split)

@[simp] theorem State.chFetch_keeps {z : State} (s : State) (d : Bool) (f : ChFrame) (hk : Keeps z s) :
    Keeps z (State.chFetch s d f) := by
  unfold State.chFetch
  with_reducible repeat' (first | assumption | intro _ | apply State.chRecv_keeps
                                | apply State.chForward_keeps | apply State.chSend_keeps | apply Keeps.ite)

@[simp] theorem State.fetchAnswer_keeps {z : State} (s : State) (t : Ten) (st : Nat) (held : Nat) (steps : List
    (List Word)) (count : Nat) (hk : Keeps z s) :
    Keeps z (State.fetchAnswer s t st held steps count) := by
  unfold State.fetchAnswer
  with_reducible repeat' (first | assumption | intro _ | apply State.answer_keeps | apply Keeps.ite)

@[simp] theorem State.sweepFetch_keeps {z : State} (s : State) (t : Ten) (a : List Word) (hk : Keeps z s) :
    Keeps z (State.sweepFetch s t a) := by
  unfold State.sweepFetch
  with_reducible repeat' (first | assumption | apply forEach_keeps | intro _ | apply State.answer_keeps
                                | apply State.fetchAnswer_keeps | apply State.passTo_keeps
                                | apply State.modChain_keeps | apply State.chSend_keeps | apply Keeps.ite)

@[simp] theorem State.chData_keeps {z : State} (s : State) (d : Bool) (f : ChFrame) (hk : Keeps z s) :
    Keeps z (State.chData s d f) := by
  unfold State.chData
  with_reducible repeat' (first | assumption | intro _ | apply State.chRecv_keeps
                                | apply State.chForward_keeps | apply State.modChain_keeps
                                | apply State.fetchAnswer_keeps | apply State.answer_keeps | apply Keeps.ite
                                | split)

@[simp] theorem State.sweepRelease_keeps {z : State} (s : State) (t : Ten) (a : List Word) (hk : Keeps z s) :
    Keeps z (State.sweepRelease s t a) := by
  unfold State.sweepRelease
  with_reducible repeat' (first | assumption | intro _ | apply State.answer_keeps
                                | apply State.modChain_keeps | apply State.fresh_keeps | apply Keeps.ite)

end Sys2Proof.Machine
end

