-- ==== Sys2Proof/Laws/KeepsVerdict.lean ====
section
/-!
SUPPORT. What the operations of Machine/Verdict.lean keep.
-/

namespace Sys2Proof.Machine

set_option simprocs false

@[simp] theorem State.putVerdict_keeps {z : State} (s : State) (m : KMap) (v : Verdict) (hk : Keeps z s) :
    Keeps z (State.putVerdict s m v) := by
  unfold State.putVerdict
  with_reducible repeat' (first | assumption | simp only [Keeps.mk_iff])

@[simp] theorem State.assurLeave_keeps {z : State} (s : State) (hk : Keeps z s) :
    Keeps z (State.assurLeave s) := by
  unfold State.assurLeave
  with_reducible repeat' (first | assumption | apply State.kmLeave_keeps)

@[simp] theorem State.verdictNote_keeps {z : State} (s : State) (m : KMap) (code : Nat) (hk : Keeps z s) :
    Keeps z (State.verdictNote s m code) := by
  unfold State.verdictNote
  with_reducible repeat' (first | assumption | apply State.gfix_keeps | apply State.tally_keeps
                                | apply State.putVerdict_keeps | apply State.kmJoin_keeps
                                | apply State.assurLeave_keeps | split)

@[simp] theorem State.verdictLatched_keeps {z : State} (s : State) (hk : Keeps z s) :
    Keeps z (State.verdictLatched s) := by
  unfold State.verdictLatched
  with_reducible repeat' (first | assumption | apply State.assurLeave_keeps | simp only [Keeps.mk_iff])

@[simp] theorem State.kvPost_keeps {z : State} (s : State) (c : Chap) (vs : List (KMap × Nat)) (bell : Nat)
    (hk : Keeps z s) :
    Keeps z (State.kvPost s c vs bell) := by
  unfold State.kvPost
  with_reducible repeat' (first | assumption | apply forEach_keeps | intro _ s' h'
                                | apply State.verdictNote_keeps | apply State.sample_keeps
                                | apply State.modChap_keeps | apply State.postTo_keeps)

@[simp] theorem State.kvFrame_keeps {z : State} (s : State) (c : Chap) (f : FrameSt) (bad : List (Fin 16))
    (hk : Keeps z s) :
    Keeps z (State.kvFrame s c f bad) := by
  unfold State.kvFrame
  with_reducible repeat' (first | assumption | intro _ | apply State.kvPost_keeps | apply Keeps.ite)

@[simp] theorem State.lostPost_keeps {z : State} (s : State) (c : Chap) (b : Option Nat) (hk : Keeps z s) :
    Keeps z (State.lostPost s c b) := by
  unfold State.lostPost
  with_reducible repeat' (first | assumption | intro _ | apply State.kvPost_keeps | apply Keeps.ite | split)

@[simp] theorem State.kvLost_keeps {z : State} (s : State) (c : Chap) (hk : Keeps z s) :
    Keeps z (State.kvLost s c) := by
  unfold State.kvLost
  with_reducible repeat' (first | assumption | intro _ | apply State.modChap_keeps
                                | apply State.lostPost_keeps | apply Keeps.ite | split)

end Sys2Proof.Machine
end

