-- ==== Sys2Proof/Laws/KeepsChapels.lean ====
section
/-!
SUPPORT. What the operations of Machine/Chapels.lean keep.
-/

namespace Sys2Proof.Machine

set_option simprocs false

@[simp] theorem State.chapLost_keeps {z : State} (s : State) (c : Chap) (cause : Nat) (hk : Keeps z s) :
    Keeps z (State.chapLost s c cause) := by
  unfold State.chapLost
  with_reducible repeat' (first | assumption | apply State.postTo_keeps)

@[simp] theorem State.laserTrip_keeps {z : State} (s : State) (c : Chap) (cond : Nat) (hk : Keeps z s) :
    Keeps z (State.laserTrip s c cond) := by
  unfold State.laserTrip
  with_reducible repeat' (first | assumption | intro _ | apply State.modChap_keeps | apply State.tally_keeps
                                | apply Keeps.ite)

@[simp] theorem State.pulsesEnd_keeps {z : State} (s : State) (c : Chap) (hk : Keeps z s) :
    Keeps z (State.pulsesEnd s c) := by
  unfold State.pulsesEnd
  with_reducible repeat' (first | assumption | intro _ | apply Keeps.ite | split | dsimp only
                                | simp only [Keeps.mk_iff])

@[simp] theorem State.leaveRun_keeps {z : State} (s : State) (c : Chap) (cond : Nat) (hk : Keeps z s) :
    Keeps z (State.leaveRun s c cond) := by
  unfold State.leaveRun
  with_reducible repeat' (first | assumption | apply forEach_keeps | intro _ | apply State.laserTrip_keeps
                                | apply State.pulsesEnd_keeps | apply State.modOut_keeps | apply State.modChap_keeps
                                | apply State.kmChapelLost_keeps | apply Keeps.ite | split | dsimp only
                                | simp only [Keeps.mk_iff])

@[simp] theorem State.safeStop_keeps {z : State} (s : State) (c : Chap) (cause cond : Nat) (hk : Keeps z s) :
    Keeps z (State.safeStop s c cause cond) := by
  unfold State.safeStop
  with_reducible repeat' (first | assumption | apply State.kvLost_keeps | apply State.leaveRun_keeps
                                | apply State.modChap_keeps | apply State.gfix_keeps
                                | apply State.chapLost_keeps | split)

@[simp] theorem State.interlock_keeps {z : State} (s : State) (c : Chap) (x : TripIn) (hk : Keeps z s) :
    Keeps z (State.interlock s c x) := by
  unfold State.interlock
  with_reducible repeat' (first | assumption | intro _ | apply State.safeStop_keeps | apply State.tally_keeps
                                | apply Keeps.ite | split | dsimp only | simp only [Keeps.mk_iff])

@[simp] theorem State.mirrorStop_keeps {z : State} (s : State) (i : Slot) (hk : Keeps z s) :
    Keeps z (State.mirrorStop s i) := by
  unfold State.mirrorStop
  with_reducible repeat' (first | assumption | apply State.safeStop_keeps | split | dsimp only)

@[simp] theorem State.startTimeout_keeps {z : State} (s : State) (c : Chap) (hk : Keeps z s) :
    Keeps z (State.startTimeout s c) := by
  unfold State.startTimeout
  with_reducible repeat' (first | assumption | apply State.safeStop_keeps | split | dsimp only)

@[simp] theorem State.orderlyStop_keeps {z : State} (s : State) (c : Chap) (hk : Keeps z s) :
    Keeps z (State.orderlyStop s c) := by
  unfold State.orderlyStop
  with_reducible repeat' (first | assumption | apply State.leaveRun_keeps | apply State.chapLost_keeps
                                | split | dsimp only)

@[simp] theorem State.chapParked_keeps {z : State} (s0 : State) (c : Chap) (hk : Keeps z s0) :
    Keeps z (State.chapParked s0 c) := by
  unfold State.chapParked
  with_reducible repeat' (first | assumption | apply forEach_keeps | intro _ | apply State.passTo_keeps
                                | apply State.modChap_keeps | apply State.modSlot_keeps
                                | apply State.postAll_keeps | apply State.chapLost_keeps | apply Keeps.ite
                                | split)

@[simp] theorem State.loadGains_keeps {z : State} (s : State) (c : Chap) (profile : Nat) (hk : Keeps z s) :
    Keeps z (State.loadGains s c profile) := by
  unfold State.loadGains
  with_reducible repeat' (first | assumption | apply forEach_keeps | intro _ | apply State.modPd_keeps
                                | apply Keeps.ite | split)

@[simp] theorem State.chapRefuse_keeps {z : State} (s : State) (c : Chap) (x : ChStart) (reason off : Nat)
    (hk : Keeps z s) :
    Keeps z (State.chapRefuse s c x reason off) := by
  unfold State.chapRefuse
  with_reducible repeat' (first | assumption | apply State.modChap_keeps | apply State.post_keeps | split)

@[simp] theorem State.mirrorStart_keeps {z : State} (s : State) (i : Slot) (resume : Bool) (hk : Keeps z s) :
    Keeps z (State.mirrorStart s i resume) := by
  unfold State.mirrorStart
  with_reducible repeat' (first | assumption | intro _ | apply State.modSlot_keeps | apply Keeps.ite | split
                                | dsimp only | simp only [Keeps.mk_iff])

@[simp] theorem State.enterStarting_keeps
    {z : State} (s : State) (c : Chap) (x : ChStart) (p : ChapRec) (hk : Keeps z s) :
    Keeps z (State.enterStarting s c x p) := by
  unfold State.enterStarting
  with_reducible repeat' (first | assumption | apply forEach_keeps | intro _ | apply State.fresh_keeps
                                | apply State.dimCut_keeps | apply State.modChap_keeps | apply State.loadGains_keeps
                                | apply State.tally_keeps | apply State.loadTable_keeps
                                | apply State.mirrorStart_keeps | apply Keeps.ite | split | dsimp only
                                | simp only [Keeps.mk_iff])

@[simp] theorem State.phaseTo_keeps {z : State} (s : State) (c : Chap) (t : Time) (f : StartPhase) (hk : Keeps z s) :
    Keeps z (State.phaseTo s c t f) := by
  unfold State.phaseTo
  with_reducible repeat' (first | assumption | intro _ | apply State.passTo_keeps | apply State.modChap_keeps
                                | apply Keeps.ite | split | dsimp only | simp only [Keeps.mk_iff])

@[simp] theorem State.chapPhase_keeps {z : State} (s : State) (c : Chap) (x : StartSeqIn) (hk : Keeps z s) :
    Keeps z (State.chapPhase s c x) := by
  unfold State.chapPhase
  with_reducible repeat' (first | assumption | intro _ | apply State.phaseTo_keeps | apply State.modChap_keeps
                                | apply Keeps.ite | split | dsimp only | simp only [Keeps.mk_iff])

@[simp] theorem State.chapStart_keeps {z : State} (s : State) (c : Chap) (y : StartSeqIn) (hk : Keeps z s) :
    Keeps z (State.chapStart s c y) := by
  unfold State.chapStart
  with_reducible repeat' (first | assumption | intro _ | apply State.modChap_keeps | apply State.chapRefuse_keeps
                                | apply State.enterStarting_keeps | apply State.chapPhase_keeps | apply Keeps.ite
                                | split | dsimp only | simp only [Keeps.mk_iff])

@[simp] theorem State.releaseOutside_keeps {z : State} (s : State) (c : Chap) (p : ChapRec) (hk : Keeps z s) :
    Keeps z (State.releaseOutside s c p) := by
  unfold State.releaseOutside
  with_reducible repeat' (first | assumption | apply State.modChap_keeps | simp only [Keeps.mk_iff])

@[simp] theorem State.startComplete_keeps {z : State} (s : State) (c : Chap) (hk : Keeps z s) :
    Keeps z (State.startComplete s c) := by
  unfold State.startComplete
  with_reducible repeat' (first | assumption | intro _ | apply State.passTo_keeps | apply State.modChap_keeps
                                | apply State.releaseOutside_keeps | apply State.chFloorSend_keeps
                                | apply State.kmDark_keeps | apply State.tally_keeps | apply Keeps.ite | split
                                | dsimp only | simp only [Keeps.mk_iff])

@[simp] theorem State.chapQueue_keeps {z : State} (s : State) (c : Chap) (x : ChReq) (hk : Keeps z s) :
    Keeps z (State.chapQueue s c x) := by
  unfold State.chapQueue
  with_reducible repeat' (first | assumption | apply State.modChap_keeps)

@[simp] theorem State.chapRequest_keeps {z : State} (s : State) (t : Ten) (k : ChReqKind) (hk : Keeps z s) :
    Keeps z (State.chapRequest s t k) := by
  unfold State.chapRequest
  with_reducible repeat' (first | assumption | intro _ | apply State.answer_keeps
                                | apply State.chapQueue_keeps | apply State.chapRefuse_keeps
                                | apply Keeps.ite | split)

@[simp] theorem State.chapAnswer_keeps {z : State} (s : State) (x : ChReq) (code : Nat) (hk : Keeps z s) :
    Keeps z (State.chapAnswer s x code) := by
  unfold State.chapAnswer
  with_reducible repeat' (first | assumption | apply State.answer_keeps | split)

@[simp] theorem State.chapTake_keeps {z : State} (s : State) (c : Chap) (x : ChReq) (hk : Keeps z s) :
    Keeps z (State.chapTake s c x) := by
  unfold State.chapTake
  with_reducible repeat' (first | assumption | apply State.modChap_keeps | split)

@[simp] theorem State.chapAnnounce_keeps {z : State} (s : State) (c : Chap) (hk : Keeps z s) :
    Keeps z (State.chapAnnounce s c) := by
  unfold State.chapAnnounce
  with_reducible repeat' (first | assumption | apply forEach_keeps | intro _ s' h'
                                | apply State.modChap_keeps | apply State.chapTake_keeps
                                | apply State.chapAnswer_keeps | split | dsimp only)

@[simp] theorem State.chapStopDue_keeps {z : State} (s : State) (c : Chap) (why : Nat) (hk : Keeps z s) :
    Keeps z (State.chapStopDue s c why) := by
  unfold State.chapStopDue
  with_reducible repeat' (first | assumption | apply State.modChap_keeps | split)

end Sys2Proof.Machine
end

