-- ==== Sys2Proof/Laws/KeepsThermal.lean ====
section
/-!
SUPPORT. What the operations of Machine/Thermal.lean keep.
-/

namespace Sys2Proof.Machine

set_option simprocs false

@[simp] theorem State.thSetState_keeps {z : State} (s : State) (k : Fin 10) (st : ThState) (hk : Keeps z s) :
    Keeps z (State.thSetState s k st) := by
  unfold State.thSetState
  with_reducible repeat' (first | assumption | intro _ | apply State.modTh_keeps | apply State.postAll_keeps
                                | apply Keeps.ite | split | dsimp only | simp only [Keeps.mk_iff])

@[simp] theorem State.thAct_keeps {z : State} (s : State) (k : Fin 10) (hk : Keeps z s) :
    Keeps z (State.thAct s k) := by
  unfold State.thAct
  with_reducible repeat' (first | assumption | intro _ | apply State.modTh_keeps | apply State.tally_keeps
                                | apply Keeps.ite)

@[simp] theorem State.scopePost_keeps {z : State} (s : State) (sc : Fin 9) (hk : Keeps z s) :
    Keeps z (State.scopePost s sc) := by
  unfold State.scopePost
  with_reducible repeat' (first | assumption | apply State.postAll_keeps | apply State.fresh_keeps | split
                                | simp only [Keeps.mk_iff])

@[simp] theorem State.scopeAct_keeps {z : State} (s : State) (sc : Fin 9) (old new : Nat) (hk : Keeps z s) :
    Keeps z (State.scopeAct s sc old new) := by
  unfold State.scopeAct
  with_reducible repeat' (first | assumption | apply forEach_keeps | intro _ | apply State.safeStop_keeps
                                | apply State.chapStopDue_keeps | apply State.railStop_keeps
                                | apply State.refBegin_keeps | apply Keeps.ite | split | dsimp only
                                | simp only [Keeps.mk_iff])

@[simp] theorem State.scopeSet_keeps {z : State} (s : State) (sc : Fin 9) (by' : Option (Fin 10)) (hk : Keeps z s) :
    Keeps z (State.scopeSet s sc by') := by
  unfold State.scopeSet
  with_reducible repeat' (first | assumption | intro _ | apply State.scopeAct_keeps | apply State.scopePost_keeps
                                | apply Keeps.ite | split | dsimp only | simp only [Keeps.mk_iff])

@[simp] theorem State.thBell_keeps {z : State} (s : State) (hk : Keeps z s) :
    Keeps z (State.thBell s) := by
  unfold State.thBell
  with_reducible repeat' (first | assumption | apply forEach_keeps | intro _ | apply State.postAll_keeps
                                | apply State.scopePost_keeps | apply Keeps.ite | split | dsimp only
                                | simp only [Keeps.mk_iff])

@[simp] theorem State.thPace_keeps {z : State} (s : State) (k : Fin 10) (hk : Keeps z s) :
    Keeps z (State.thPace s k) := by
  unfold State.thPace
  with_reducible repeat' (first | assumption | apply State.modTh_keeps)

@[simp] theorem State.thValid_keeps {z : State} (s : State) (k : Fin 10) (t : Int) (hk : Keeps z s) :
    Keeps z (State.thValid s k t) := by
  unfold State.thValid
  with_reducible repeat' (first | assumption | apply State.modTh_keeps | apply State.tally_keeps
                                | apply State.thSetState_keeps | apply State.fresh_keeps
                                | apply State.thPace_keeps | split)

@[simp] theorem State.thConvert_keeps {z : State} (s : State) (k : Fin 10) (x : Nat) (hk : Keeps z s) :
    Keeps z (State.thConvert s k x) := by
  unfold State.thConvert
  with_reducible repeat' (first | assumption | intro _ | apply State.tally_keeps | apply State.thValid_keeps
                                | apply State.modTh_keeps | apply State.thSetState_keeps | apply State.thAct_keeps
                                | apply State.scopeSet_keeps | apply Keeps.ite | split | dsimp only
                                | simp only [Keeps.mk_iff])

@[simp] theorem State.thSample_keeps {z : State} (s0 : State) (x : List (Fin 10 × Nat)) (hk : Keeps z s0) :
    Keeps z (State.thSample s0 x) := by
  unfold State.thSample
  with_reducible repeat' (first | assumption | apply forEach_keeps | intro _ s' h'
                                | apply State.passFirst_keeps | apply State.thConvert_keeps | split)

@[simp] theorem State.mr4Take_keeps {z : State} (s : State) (v : Nat) (hk : Keeps z s) :
    Keeps z (State.mr4Take s v) := by
  unfold State.mr4Take
  with_reducible repeat' (first | assumption | intro _ | apply State.scopeSet_keeps | apply State.postAll_keeps
                                | apply Keeps.ite | split | dsimp only | simp only [Keeps.mk_iff])

end Sys2Proof.Machine
end

