-- ==== Sys2Proof/Laws/KeepsStart.lean ====
section
/-!
SUPPORT. What the operations of Machine/Start.lean keep.
-/

namespace Sys2Proof.Machine

set_option simprocs false

@[simp] theorem State.startBase_keeps {z : State} (s : State) (cause : StartCause) (x : StartIn) (hk : Keeps z s) :
    Keeps z (s.startBase cause x) := by
  refine hk.trans ⟨rfl, fun m => ⟨rfl, rfl, m.2.2.1, m.2.2.2.1, ?_⟩, Nat.le_refl _, fun _ _ => BitVec.and_self⟩
  intro v h
  cases h

@[simp] theorem State.startCloister_keeps {z : State} (s : State) (hk : Keeps z s) :
    Keeps z (State.startCloister s) := by
  unfold State.startCloister
  with_reducible repeat' (first | assumption | intro _ | apply State.otpSet_keeps | apply State.drbgSeed_keeps
                                | apply Keeps.ite | split | dsimp only | simp only [Keeps.mk_iff])

@[simp] theorem State.startLoad_keeps {z : State} (s : State) (hk : Keeps z s) :
    Keeps z (State.startLoad s) := by
  unfold State.startLoad
  with_reducible repeat' (first | assumption | intro _ | apply State.jIdle_keeps | apply State.modUpd_keeps
                                | apply Keeps.ite)

@[simp] theorem State.startJournal_keeps {z : State} (s : State) (hk : Keeps z s) :
    Keeps z (State.startJournal s) := by
  unfold State.startJournal
  apply State.startLoad_keeps
  with_reducible repeat' (first | assumption | apply State.modUpd_keeps | split)

@[simp] theorem State.revert_keeps {z : State} (s : State) (cause : Nat) (hk : Keeps z s) :
    Keeps z (State.revert s cause) := by
  unfold State.revert
  with_reducible repeat' (first | assumption | intro _ | apply State.settleSwap_keeps
                                | apply State.jWrite_keeps | apply State.modUpd_keeps | apply Keeps.ite)

@[simp] theorem State.startTrial_keeps {z : State} (s : State) (hk : Keeps z s) :
    Keeps z (State.startTrial s) := by
  unfold State.startTrial
  with_reducible repeat' (first | assumption | apply State.toTrial_keeps | apply State.modUpd_keeps
                                | apply State.revert_keeps | apply State.jWrite_keeps | split | dsimp only)

@[simp] theorem State.startBoot_keeps {z : State} (s : State) (hk : Keeps z s) :
    Keeps z (State.startBoot s) := by
  unfold State.startBoot
  with_reducible repeat' (first | assumption | intro _ | apply State.startTrial_keeps
                                | apply State.startJournal_keeps | apply State.revert_keeps
                                | apply Keeps.ite | simp only [Keeps.mk_iff])

@[simp] theorem State.startTenants_keeps {z : State} (s : State) (hk : Keeps z s) :
    Keeps z (State.startTenants s) := by
  unfold State.startTenants
  with_reducible repeat' (first | assumption | split | simp only [Keeps.mk_iff])

@[simp] theorem State.lecternTest_keeps {z : State} (s : State) (bad : List Nat) (hk : Keeps z s) :
    Keeps z (State.lecternTest s bad) := by
  unfold State.lecternTest
  with_reducible repeat' (first | assumption | apply forEach_keeps | intro _ | apply State.modRing_keeps
                                | apply State.modPower_keeps | split | simp only [Keeps.mk_iff])

@[simp] theorem State.bayTest_keeps {z : State} (s : State) (bad : List (Fin 4)) (hk : Keeps z s) :
    Keeps z (State.bayTest s bad) := by
  unfold State.bayTest
  with_reducible repeat' (first | assumption | simp only [Keeps.mk_iff])

@[simp] theorem State.startSettings_keeps {z : State} (s : State) (hk : Keeps z s) :
    Keeps z (State.startSettings s) := by
  unfold State.startSettings
  with_reducible repeat' (first | assumption | apply State.lightStart_keeps | apply State.witStart_keeps
                                | apply State.choirStart_keeps | apply State.thermalStart_keeps
                                | apply State.modChain_keeps | simp only [Keeps.mk_iff])

@[simp] theorem State.startTraining_keeps {z : State} (s : State) (hk : Keeps z s) :
    Keeps z (State.startTraining s) := by
  unfold State.startTraining
  with_reducible repeat' (first | assumption | simp only [Keeps.mk_iff])

@[simp] theorem State.relStart_keeps {z : State} (s : State) (hk : Keeps z s) :
    Keeps z (State.relStart s) := by
  unfold State.relStart
  with_reducible repeat' (first | assumption | intro _ | apply State.relWrite_keeps
                                | apply State.modRel_keeps | apply Keeps.ite)

@[simp] theorem State.autostart_keeps {z : State} (s : State) (hk : Keeps z s) :
    Keeps z (State.autostart s) := by
  unfold State.autostart
  with_reducible repeat' (first | assumption | apply forEach_keeps | intro _ s' h'
                                | apply State.modChap_keeps | split)

@[simp] theorem State.aisleStart_keeps {z : State} (s : State) (x : StartIn) (hk : Keeps z s) :
    Keeps z (State.aisleStart s x) := by
  unfold State.aisleStart
  with_reducible repeat' (first | assumption | intro _ | apply State.lecternTest_keeps
                                | apply State.bayTest_keeps | apply State.startTraining_keeps
                                | apply State.startSettings_keeps | apply State.primeLatch_keeps
                                | apply State.primeInstall_keeps | apply State.autostart_keeps
                                | apply State.notice_keeps | apply State.modBell_keeps
                                | apply State.modPower_keeps | split | rfl)

@[simp] theorem State.startPath_keeps {z : State} (s : State) (cause : StartCause) (x : StartIn) (hk : Keeps z s) :
    Keeps z (State.startPath s cause x) := by
  unfold State.startPath
  with_reducible repeat' (first | assumption | intro _ | apply State.startBase_keeps
                                | apply State.modPower_keeps | apply State.startCloister_keeps
                                | apply State.startTenants_keeps | apply State.startBoot_keeps
                                | apply State.relStart_keeps | apply State.aisleStart_keeps
                                | apply Keeps.ite | rfl)

end Sys2Proof.Machine
end

