-- ==== Sys2Proof/Laws/KeepsUds.lean ====
section
/-!
SUPPORT. What the operations of Machine/Uds.lean keep.
-/

namespace Sys2Proof.Machine

set_option simprocs false

@[simp] theorem State.udsAns_keeps {z : State} (s : State) (bs : List Byte) (hk : Keeps z s) :
    Keeps z (State.udsAns s bs) := by
  unfold State.udsAns
  with_reducible repeat' (first | assumption | apply State.modUds_keeps)

@[simp] theorem State.udsNeg_keeps {z : State} (s : State) (sid nrc : Byte) (hk : Keeps z s) :
    Keeps z (State.udsNeg s sid nrc) := by
  unfold State.udsNeg
  with_reducible repeat' (first | assumption | apply State.udsAns_keeps)

@[simp] theorem State.uds_keeps {z : State} (s : State) (sid : Byte) (m : List Byte) (f : State → State)
    (hkf : ∀ y0, Keeps z y0 → Keeps z (f y0)) (hk : Keeps z s) :
    Keeps z (State.uds s sid m f) := by
  unfold State.uds
  with_reducible repeat' (first | assumption | intro _ | apply hkf | apply State.modUds_keeps
                                | apply State.modClo_keeps | apply Keeps.ite)

@[simp] theorem State.udsProg_keeps {z : State} (s : State) (sid : Byte) (f : State → State)
    (hkf : ∀ y0, Keeps z y0 → Keeps z (f y0)) (hk : Keeps z s) :
    Keeps z (State.udsProg s sid f) := by
  unfold State.udsProg
  with_reducible repeat' (first | assumption | intro _ | apply hkf | apply State.udsNeg_keeps
                                | apply Keeps.ite)

@[simp] theorem State.udsAuth_keeps {z : State} (s : State) (sid : Byte) (f : State → State)
    (hkf : ∀ y0, Keeps z y0 → Keeps z (f y0)) (hk : Keeps z s) :
    Keeps z (State.udsAuth s sid f) := by
  unfold State.udsAuth
  with_reducible repeat' (first | assumption | intro _ | apply hkf | apply State.udsNeg_keeps
                                | apply Keeps.ite)

@[simp] theorem State.udsSession_keeps {z : State} (s : State) (m : List Byte) (hk : Keeps z s) :
    Keeps z (State.udsSession s m) := by
  unfold State.udsSession
  with_reducible repeat' (first | assumption | intro _ | apply State.uds_keeps | apply State.udsNeg_keeps
                                | apply State.modUds_keeps | apply State.udsAns_keeps | apply Keeps.ite)

@[simp] theorem State.udsRead_keeps {z : State} (s : State) (m : List Byte) (hk : Keeps z s) :
    Keeps z (State.udsRead s m) := by
  unfold State.udsRead
  with_reducible repeat' (first | assumption | intro _ | apply State.uds_keeps | apply State.udsNeg_keeps
                                | apply State.udsAns_keeps | split)

@[simp] theorem State.udsSeed_keeps {z : State} (s : State) (m : List Byte) (hk : Keeps z s) :
    Keeps z (State.udsSeed s m) := by
  unfold State.udsSeed
  with_reducible repeat' (first | assumption | intro _ | apply State.uds_keeps | apply State.udsProg_keeps
                                | apply State.udsNeg_keeps | apply State.draw_keeps
                                | apply State.reseed_keeps | apply State.modClo_keeps
                                | apply State.udsAns_keeps | apply Keeps.ite)

@[simp] theorem State.udsKey_keeps {z : State} (s : State) (m : List Byte) (hk : Keeps z s) :
    Keeps z (State.udsKey s m) := by
  unfold State.udsKey
  with_reducible repeat' (first | assumption | intro _ | apply State.uds_keeps | apply State.udsProg_keeps
                                | apply State.udsNeg_keeps | apply State.sessTry_keeps
                                | apply State.udsAns_keeps | apply State.sessFail_keeps
                                | apply State.authFailPost_keeps | refine Keeps.of_snd (by assumption) ?_
                                | split | dsimp only)

@[simp] theorem State.udsRoutine_keeps {z : State} (s : State) (m : List Byte) (rid opt : Nat)
    (f : State → State) (hkf : ∀ y0, Keeps z y0 → Keeps z (f y0)) (hk : Keeps z s) :
    Keeps z (State.udsRoutine s m rid opt f) := by
  unfold State.udsRoutine
  with_reducible repeat' (first | assumption | intro _ | apply hkf | apply State.uds_keeps
                                | apply State.udsProg_keeps | apply State.udsAuth_keeps
                                | apply State.udsNeg_keeps | apply Keeps.ite)

@[simp] theorem State.udsDone_keeps {z : State} (s : State) (rid : Nat) (res : List Byte) (hk : Keeps z s) :
    Keeps z (State.udsDone s rid res) := by
  unfold State.udsDone
  with_reducible repeat' (first | assumption | apply State.udsResult_keeps | apply State.udsAns_keeps)

@[simp] theorem State.udsFail_keeps {z : State} (s : State) (rid : Nat) (res : List Byte) (nrc : Byte)
    (hk : Keeps z s) :
    Keeps z (State.udsFail s rid res nrc) := by
  unfold State.udsFail
  with_reducible repeat' (first | assumption | apply State.udsResult_keeps | apply State.udsNeg_keeps)

@[simp] theorem State.udsPend_keeps {z : State} (s : State) (hk : Keeps z s) :
    Keeps z (State.udsPend s) := by
  unfold State.udsPend
  with_reducible repeat' (first | assumption | apply State.modUds_keeps | apply State.udsNeg_keeps)

@[simp] theorem State.udsBegin_keeps {z : State} (s : State) (m : List Byte) (hk : Keeps z s) :
    Keeps z (State.udsBegin s m) := by
  unfold State.udsBegin
  with_reducible repeat' (first | assumption | intro _ | apply State.udsRoutine_keeps
                                | apply State.udsFail_keeps | apply State.updBegin_keeps
                                | apply State.udsDone_keeps | refine Keeps.of_snd (by assumption) ?_
                                | split)

@[simp] theorem State.udsCheck_keeps {z : State} (s : State) (m : List Byte) (hk : Keeps z s) :
    Keeps z (State.udsCheck s m) := by
  unfold State.udsCheck
  with_reducible repeat' (first | assumption | intro _ | apply State.udsRoutine_keeps
                                | apply State.udsNeg_keeps | apply State.modUpd_keeps
                                | apply State.udsPend_keeps | apply Keeps.ite)

@[simp] theorem State.udsArm_keeps {z : State} (s : State) (m : List Byte) (hk : Keeps z s) :
    Keeps z (State.udsArm s m) := by
  unfold State.udsArm
  with_reducible repeat' (first | assumption | intro _ | apply State.udsRoutine_keeps
                                | apply State.udsDone_keeps | apply State.arm_keeps
                                | apply State.udsFail_keeps | apply Keeps.ite)

@[simp] theorem State.udsAct_keeps {z : State} (s : State) (m : List Byte) (hk : Keeps z s) :
    Keeps z (State.udsAct s m) := by
  unfold State.udsAct
  with_reducible repeat' (first | assumption | intro _ | apply State.udsRoutine_keeps
                                | apply State.udsNeg_keeps | apply State.actTake_keeps
                                | apply State.udsPend_keeps | apply State.udsFail_keeps | apply Keeps.ite)

@[simp] theorem State.udsConfirm_keeps {z : State} (s : State) (m : List Byte) (hk : Keeps z s) :
    Keeps z (State.udsConfirm s m) := by
  unfold State.udsConfirm
  with_reducible repeat' (first | assumption | intro _ | apply State.udsRoutine_keeps
                                | apply State.confirm_keeps | apply State.udsDone_keeps
                                | apply State.udsFail_keeps | apply Keeps.ite)

@[simp] theorem State.udsDiscard_keeps {z : State} (s : State) (m : List Byte) (hk : Keeps z s) :
    Keeps z (State.udsDiscard s m) := by
  unfold State.udsDiscard
  with_reducible repeat' (first | assumption | intro _ | apply State.udsRoutine_keeps
                                | apply State.udsDone_keeps | apply State.discard_keeps
                                | apply State.udsFail_keeps | apply Keeps.ite)

@[simp] theorem State.udsResults_keeps {z : State} (s : State) (m : List Byte) (hk : Keeps z s) :
    Keeps z (State.udsResults s m) := by
  unfold State.udsResults
  with_reducible repeat' (first | assumption | intro _ | apply State.uds_keeps | apply State.udsProg_keeps
                                | apply State.udsAuth_keeps | apply State.udsNeg_keeps
                                | apply State.udsAns_keeps | apply Keeps.ite | split)

@[simp] theorem State.udsDownload_keeps {z : State} (s : State) (m : List Byte) (hk : Keeps z s) :
    Keeps z (State.udsDownload s m) := by
  unfold State.udsDownload
  with_reducible repeat' (first | assumption | intro _ | apply State.uds_keeps | apply State.udsProg_keeps
                                | apply State.udsAuth_keeps | apply State.udsNeg_keeps
                                | apply State.modUds_keeps | apply State.udsAns_keeps | apply Keeps.ite)

@[simp] theorem State.udsTransfer_keeps {z : State} (s : State) (m : List Byte) (hk : Keeps z s) :
    Keeps z (State.udsTransfer s m) := by
  unfold State.udsTransfer
  with_reducible repeat' (first | assumption | intro _ | apply State.uds_keeps | apply State.udsProg_keeps
                                | apply State.udsAuth_keeps | apply State.updChunk_keeps
                                | apply State.modUds_keeps | apply State.udsAns_keeps
                                | apply State.udsNeg_keeps | refine Keeps.of_snd (by assumption) ?_ | split
                                | dsimp only)

@[simp] theorem State.udsExit_keeps {z : State} (s : State) (m : List Byte) (hk : Keeps z s) :
    Keeps z (State.udsExit s m) := by
  unfold State.udsExit
  with_reducible repeat' (first | assumption | intro _ | apply State.uds_keeps | apply State.udsProg_keeps
                                | apply State.udsNeg_keeps | apply State.modUds_keeps
                                | apply State.udsAns_keeps | apply Keeps.ite)

@[simp] theorem State.udsPresent_keeps {z : State} (s : State) (m : List Byte) (hk : Keeps z s) :
    Keeps z (State.udsPresent s m) := by
  unfold State.udsPresent
  with_reducible repeat' (first | assumption | intro _ | apply State.uds_keeps | apply State.udsAns_keeps
                                | apply State.udsNeg_keeps | apply Keeps.ite)

@[simp] theorem State.udsOther_keeps {z : State} (s : State) (m : List Byte) (hk : Keeps z s) :
    Keeps z (State.udsOther s m) := by
  unfold State.udsOther
  with_reducible repeat' (first | assumption | intro _ | apply State.uds_keeps | apply State.udsNeg_keeps
                                | split)

@[simp] theorem State.udsRequest_keeps {z : State} (s : State) (m : List Byte) (hk : Keeps z s) :
    Keeps z (State.udsRequest s m) := by
  unfold State.udsRequest
  with_reducible repeat' (first | assumption | intro _ | apply State.udsSession_keeps
                                | apply State.udsRead_keeps | apply State.udsKey_keeps
                                | apply State.udsSeed_keeps | apply State.udsResults_keeps
                                | apply State.udsCheck_keeps | apply State.udsArm_keeps
                                | apply State.udsAct_keeps | apply State.udsConfirm_keeps
                                | apply State.udsDiscard_keeps | apply State.udsBegin_keeps
                                | apply State.udsDownload_keeps | apply State.udsTransfer_keeps
                                | apply State.udsExit_keeps | apply State.udsPresent_keeps
                                | apply State.udsOther_keeps | apply Keeps.ite | split)

@[simp] theorem State.udsVigil_keeps {z : State} (s : State) (f : UdsFrame) (hk : Keeps z s) :
    Keeps z (State.udsVigil s f) := by
  unfold State.udsVigil
  with_reducible repeat' (first | assumption | apply State.wake_keeps | apply State.modUds_keeps
                                | apply State.udsAns_keeps | split)

@[simp] theorem State.udsHeld_keeps {z : State} (s : State) (hk : Keeps z s) :
    Keeps z (State.udsHeld s) := by
  unfold State.udsHeld
  with_reducible repeat' (first | assumption | apply State.modUds_keeps | apply State.udsRequest_keeps
                                | split)

end Sys2Proof.Machine
end

