-- ==== Sys2Proof/Laws/KeepsPower.lean ====
section
/-!
SUPPORT. What the operations of Machine/Power.lean keep.
-/

namespace Sys2Proof.Machine

set_option simprocs false

@[simp] theorem State.powerAnnounce_keeps {z : State} (s : State) (hk : Keeps z s) :
    Keeps z (State.powerAnnounce s) := by
  unfold State.powerAnnounce
  with_reducible repeat' (first | assumption | intro _ | apply State.modPower_keeps | rfl)

@[simp] theorem State.powerPost_keeps {z : State} (s : State) (from' to' : PowerState) (wake msec : Nat)
    (hk : Keeps z s) :
    Keeps z (State.powerPost s from' to' wake msec) := by
  unfold State.powerPost
  with_reducible repeat' (first | assumption | apply State.postAll_keeps)

@[simp] theorem State.chapsOut_keeps {z : State} (s : State) (hk : Keeps z s) :
    Keeps z (State.chapsOut s) := by
  unfold State.chapsOut
  with_reducible repeat' (first | assumption | simp only [Keeps.mk_iff])

@[simp] theorem State.entryBegin_keeps {z : State} (s : State) (to' : PowerState) (hk : Keeps z s) :
    Keeps z (State.entryBegin s to') := by
  unfold State.entryBegin
  with_reducible repeat' (first | assumption | intro _ | apply State.powerPost_keeps
                                | apply State.chapsOut_keeps | apply State.modPower_keeps
                                | simp only [Keeps.mk_iff])

@[simp] theorem State.vigilEntry_keeps {z : State} (s : State) (hk : Keeps z s) :
    Keeps z (State.vigilEntry s) := by
  unfold State.vigilEntry
  split
  · exact hk
  · apply State.modPower_saves _ _ (State.entryBegin_keeps _ _ hk)
    intro p _ v h
    cases h
    rfl

@[simp] theorem State.vigilEnter_keeps {z : State} (s : State) (hk : Keeps z s) :
    Keeps z (State.vigilEnter s) := by
  unfold State.vigilEnter
  split
  · exact hk
  · dsimp only
    refine hk.trans (State.modPower_saved _ (State.modMatrix_keeps _ _ (forEach_keeps allOuts ?_
      (fun o s' h => State.dimCut_keeps s' o h))) ?_)
    · exact ⟨rfl, fun m => ⟨m.1, rfl, m.2.2⟩, Nat.le_refl _, fun _ _ => BitVec.and_self⟩
    · intro m v h
      obtain ⟨w, _, e⟩ := Option.map_eq_some_iff.1 h
      rw [← e]
      exact Memory.filter_wf m.2.1 _

@[simp] theorem State.cryptEntry_keeps {z : State} (s : State) (hk : Keeps z s) :
    Keeps z (State.cryptEntry s) := by
  unfold State.cryptEntry
  with_reducible repeat' (first | assumption | intro _ | apply State.entryBegin_keeps
                                | apply State.accClose_keeps | apply State.flushStart_keeps
                                | apply Keeps.ite)

@[simp] theorem State.cryptLow_keeps {z : State} (s : State) (hk : Keeps z s) :
    Keeps z (State.cryptLow s) := by
  unfold State.cryptLow
  apply State.modPower_saves _ _ hk
  intro p _ v h
  cases h

@[simp] theorem State.cryptComplete_keeps {z : State} (s : State) (hk : Keeps z s) :
    Keeps z (State.cryptComplete s) := by
  unfold State.cryptComplete
  with_reducible repeat' (first | assumption | intro _ | apply State.cryptLow_keeps | apply State.scrubStop_keeps
                                | apply Keeps.ite | split | dsimp only | simp only [Keeps.mk_iff])

@[simp] theorem State.suppliesUp_keeps {z : State} (s : State) (hk : Keeps z s) :
    Keeps z (State.suppliesUp s) := by
  unfold State.suppliesUp
  with_reducible repeat' (first | assumption | intro _ | apply State.modPower_keeps | apply Keeps.ite | rfl)

@[simp] theorem State.heldOut_keeps {z : State} (s : State) (hk : Keeps z s) :
    Keeps z (State.heldOut s) := by
  unfold State.heldOut
  with_reducible repeat' (first | assumption | intro _ | apply State.releaseHeld_keeps | apply Keeps.ite)

@[simp] theorem State.lightWake_keeps {z : State} (s : State) (hk : Keeps z s) :
    Keeps z (State.lightWake s) := by
  unfold State.lightWake
  with_reducible repeat' (first | assumption | simp only [Keeps.mk_iff])

@[simp] theorem State.heldIn_keeps {z : State} (s : State) (hk : Keeps z s) :
    Keeps z (State.heldIn s) := by
  unfold State.heldIn
  with_reducible repeat' (first | assumption | apply forEach_keeps | intro _ s' h'
                                | apply State.modChain_keeps | apply State.modPort_keeps
                                | apply State.chMsg_keeps | apply State.udsHeld_keeps)

@[simp] theorem State.retRead_keeps {z : State} (s : State) (hk : Keeps z s) :
    Keeps z (State.retRead s) := by
  unfold State.retRead
  with_reducible repeat' (first | assumption | intro _ | apply State.fresh_keeps | apply State.tally_keeps
                                | apply State.gfix_keeps | apply Keeps.ite | split | dsimp only
                                | simp only [Keeps.mk_iff])

@[simp] theorem State.vigilExit_keeps {z : State} (s : State) (hk : Keeps z s) :
    Keeps z (State.vigilExit s) := by
  unfold State.vigilExit
  split
  · rename_i v _ _ hv
    dsimp only
    apply State.heldIn_keeps
    apply State.modPower_saves
    · apply State.choirWake_keeps
      apply State.lightWake_keeps
      apply State.retRead_keeps
      refine hk.trans ⟨rfl, fun m => ⟨m.1, m.2.2.2.2 v hv, m.2.2.1, m.2.2.2.1, m.2.2.2.2⟩, Nat.le_refl _,
        fun _ _ => BitVec.and_self⟩
    · intro p _ v h
      cases h
  · exact hk

@[simp] theorem State.brokenWrite_keeps {z : State} (s : State) (a : Nat) (bs : List Byte) (hk : Keeps z s) :
    Keeps z (State.brokenWrite s a bs) := by
  unfold State.brokenWrite
  with_reducible repeat' (first | assumption | apply State.fresh_keeps | apply State.moaWrite_keeps)

@[simp] theorem State.putsBroken_keeps {z : State} (s : State) (hk : Keeps z s) :
    Keeps z (State.putsBroken s) := by
  unfold State.putsBroken
  with_reducible repeat' (first | assumption | apply forEach_keeps | intro _ | apply State.fresh_keeps
                                | apply State.moaWrite_keeps | apply Keeps.ite | split | dsimp only
                                | simp only [Keeps.mk_iff])

@[simp] theorem State.writesBroken_keeps {z : State} (s : State) (hk : Keeps z s) :
    Keeps z (State.writesBroken s) := by
  unfold State.writesBroken
  with_reducible repeat' (first | assumption | intro _ | apply State.brokenWrite_keeps | apply State.putsBroken_keeps
                                | apply Keeps.ite | split | dsimp only | simp only [Keeps.mk_iff])

@[simp] theorem State.lightsOut_keeps {z : State} (s : State) (hk : Keeps z s) :
    Keeps z (State.lightsOut s) := by
  unfold State.lightsOut
  with_reducible repeat' (first | assumption | apply forEach_keeps | intro _ | apply State.laserTrip_keeps
                                | apply State.modBell_keeps | apply State.modMatrix_keeps | apply Keeps.ite | split
                                | dsimp only | simp only [Keeps.mk_iff])

@[simp] theorem State.downNow_keeps {z : State} (s : State) (hk : Keeps z s) :
    Keeps z (State.downNow s) := by
  unfold State.downNow
  apply State.flushStart_keeps
  apply State.modPower_saves
  · exact State.writesBroken_keeps s hk
  · intro p _ v h
    cases h

@[simp] theorem State.toVbak_keeps {z : State} (s : State) (hk : Keeps z s) :
    Keeps z (State.toVbak s) := by
  unfold State.toVbak
  with_reducible repeat' (first | assumption | intro _ | apply State.modPower_keeps
                                | apply State.modRel_keeps | rfl)

@[simp] theorem State.fromVbak_keeps {z : State} (s : State) (hk : Keeps z s) :
    Keeps z (State.fromVbak s) := by
  unfold State.fromVbak
  with_reducible repeat' (first | assumption | intro _ | apply State.modPower_keeps
                                | apply State.modRel_keeps | rfl)

@[simp] theorem State.startFails_keeps {z : State} (s : State) (hk : Keeps z s) :
    Keeps z (State.startFails s) := by
  unfold State.startFails
  with_reducible repeat' (first | assumption | intro _ | apply State.cryptLow_keeps
                                | apply State.modPower_keeps | rfl)

@[simp] theorem State.powerFail_keeps {z : State} (s : State) (hk : Keeps z s) :
    Keeps z (State.powerFail s) := by
  unfold State.powerFail
  split
  · exact hk
  · split
    · exact State.startFails_keeps _ hk
    · split
      · exact hk
      · dsimp only
        apply State.modPower_saves
        · apply State.modRel_keeps
          apply State.toVbak_keeps
          apply State.flushStart_keeps
          apply State.writesBroken_keeps
          apply State.accClose_keeps
          apply State.modRel_keeps
          apply State.scrubStop_keeps
          apply State.cekClear_keeps
          apply State.freezeEnd_keeps
          exact State.lightsOut_keeps s hk
        · intro p _ v h
          cases h

@[simp] theorem State.powerReturn_keeps {z : State} (s : State) (hk : Keeps z s) :
    Keeps z (State.powerReturn s) := by
  unfold State.powerReturn
  with_reducible repeat' (first | assumption | intro _ | apply State.passTo_keeps | apply State.modRel_keeps
                                | apply State.fromVbak_keeps | apply State.modPower_keeps | apply State.cryptLow_keeps
                                | apply Keeps.ite | split | dsimp only | simp only [Keeps.mk_iff])

@[simp] theorem State.vbakLost_keeps {z : State} (s : State) (hk : Keeps z s) :
    Keeps z (State.vbakLost s) := by
  unfold State.vbakLost
  split
  · exact hk
  · refine hk.trans ⟨rfl, fun m => ⟨rfl, rfl, m.2.2.1, m.2.2.2.1, ?_⟩, Nat.le_refl _, fun _ _ => BitVec.and_self⟩
    intro v h
    cases h

@[simp] theorem State.porEnd_keeps {z : State} (s : State) (clk test : Bool) (hk : Keeps z s) :
    Keeps z (State.porEnd s clk test) := by
  unfold State.porEnd
  with_reducible repeat' (first | assumption | intro _ | apply State.passTo_keeps
                                | apply State.modPower_keeps | apply Keeps.ite | simp only [Keeps.mk_iff])

@[simp] theorem State.pwrGoodTimeout_keeps {z : State} (s : State) (hk : Keeps z s) :
    Keeps z (State.pwrGoodTimeout s) := by
  unfold State.pwrGoodTimeout
  with_reducible repeat' (first | assumption | intro _ | apply State.passTo_keeps
                                | apply State.startFails_keeps | apply State.modPower_keeps
                                | apply Keeps.ite | simp only [Keeps.mk_iff])

@[simp] theorem State.vbakSample_keeps {z : State} (s : State) (mv : Nat) (hk : Keeps z s) :
    Keeps z (State.vbakSample s mv) := by
  unfold State.vbakSample
  with_reducible repeat' (first | assumption | intro _ | apply State.modPower_keeps
                                | apply State.sample_keeps | apply Keeps.ite | rfl)

@[simp] theorem State.compTrip_keeps {z : State} (s : State) (m : Fin 4) (hk : Keeps z s) :
    Keeps z (State.compTrip s m) := by
  unfold State.compTrip
  with_reducible repeat' (first | assumption | intro _ | apply State.freezeEnd_keeps
                                | apply State.lightsOut_keeps | apply State.relAppend_keeps
                                | apply State.accClose_keeps | apply State.downNow_keeps
                                | apply State.modPower_keeps | apply Keeps.ite | simp only [Keeps.mk_iff])

@[simp] theorem State.tripHoldEnd_keeps {z : State} (s0 : State) (cool : Bool) (hk : Keeps z s0) :
    Keeps z (State.tripHoldEnd s0 cool) := by
  unfold State.tripHoldEnd
  with_reducible repeat' (first | assumption | intro _ | apply State.cryptComplete_keeps
                                | apply State.passTo_keeps | apply State.modPower_keeps
                                | apply State.suppliesUp_keeps | split | simp only [Keeps.mk_iff])

@[simp] theorem State.startUp_keeps {z : State} (s : State) (x : StartIn) (hk : Keeps z s) :
    Keeps z (State.startUp s x) := by
  unfold State.startUp
  with_reducible repeat' (first | assumption | apply forEach_keeps | intro _ | apply State.accClose_keeps
                                | apply State.freezeEnd_keeps | apply State.lightsOut_keeps
                                | apply State.flushUnit_keeps | apply State.modRel_keeps | apply State.scrubStop_keeps
                                | apply State.startPath_keeps | apply State.modPower_keeps | apply Keeps.ite | split
                                | dsimp only | simp only [Keeps.mk_iff])

@[simp] theorem State.startWait_keeps {z : State} (s : State) (hk : Keeps z s) :
    Keeps z (State.startWait s) := by
  unfold State.startWait
  with_reducible repeat' (first | assumption | intro _ | apply State.cryptComplete_keeps
                                | apply State.passTo_keeps | apply Keeps.ite)

@[simp] theorem State.aisleStop_keeps {z : State} (s : State) (ecc : Bool) (hk : Keeps z s) :
    Keeps z (State.aisleStop s ecc) := by
  unfold State.aisleStop
  with_reducible repeat' (first | assumption | intro _ | apply State.handoverAbandon_keeps
                                | apply State.updPost_keeps | apply State.actEnd_keeps
                                | apply State.modUpd_keeps | apply State.modPower_keeps
                                | apply State.notice_keeps | split | rfl)

@[simp] theorem State.aisleTake_keeps {z : State} (s : State) (hk : Keeps z s) :
    Keeps z (State.aisleTake s) := by
  unfold State.aisleTake
  with_reducible repeat' (first | assumption | apply forEach_keeps | intro _ | apply State.modPower_keeps
                                | apply State.relAppend_keeps | apply State.modRel_keeps
                                | apply State.gfix_keeps | apply State.busyAll_keeps
                                | apply State.fresh_keeps | apply State.postList_keeps | split | rfl)

@[simp] theorem State.powerTick_keeps {z : State} (s : State) (hk : Keeps z s) :
    Keeps z (State.powerTick s) := by
  unfold State.powerTick
  with_reducible repeat' (first | assumption | apply State.cryptComplete_keeps | apply State.suppliesUp_keeps)

end Sys2Proof.Machine
end

