-- ==== Sys2Proof/Laws/KeepsTenantReset.lean ====
section
/-!
SUPPORT. What the operations of Machine/TenantReset.lean keep.
-/

namespace Sys2Proof.Machine

set_option simprocs false

@[simp] theorem State.lightReset_keeps {z : State} (s : State) (t : Ten) (hk : Keeps z s) :
    Keeps z (State.lightReset s t) := by
  unfold State.lightReset
  with_reducible repeat' (first | assumption | apply forEach_keeps | intro _ | apply State.modOut_keeps
                                | apply State.dimCut_keeps | apply State.modRail_keeps | apply Keeps.ite | split
                                | dsimp only | simp only [Keeps.mk_iff])

@[simp] theorem State.loopsReset_keeps {z : State} (s : State) (t : Ten) (hk : Keeps z s) :
    Keeps z (State.loopsReset s t) := by
  unfold State.loopsReset
  with_reducible repeat' (first | assumption | apply forEach_keeps | intro _ | apply State.slotInit_keeps
                                | apply State.modSlot_keeps | apply Keeps.ite | simp only [Keeps.mk_iff])

@[simp] theorem State.keyReset_keeps {z : State} (s : State) (t : Ten) (hk : Keeps z s) :
    Keeps z (State.keyReset s t) := by
  unfold State.keyReset
  with_reducible repeat' (first | assumption | intro _ | apply State.keyInstall_keeps | apply Keeps.ite
                                | simp only [Keeps.mk_iff])

@[simp] theorem State.evqReset_keeps {z : State} (s : State) (t : Ten) (hk : Keeps z s) :
    Keeps z (State.evqReset s t) := by
  unfold State.evqReset
  with_reducible repeat' (first | assumption | apply forEach_keeps | intro _ s' h'
                                | apply State.modTen_keeps | apply State.postNow_keeps)

@[simp] theorem State.tenReset_keeps {z : State} (s : State) (t : Ten) (hk : Keeps z s) :
    Keeps z (State.tenReset s t) := by
  unfold State.tenReset
  with_reducible repeat' (first | assumption | intro _ | apply State.loopsReset_keeps
                                | apply State.lightReset_keeps | apply State.keyReset_keeps
                                | apply State.accClose_keeps | apply State.modRel_keeps
                                | apply State.galReset_keeps | apply State.endSession_keeps
                                | apply State.modBox_keeps | apply State.modTen_keeps
                                | apply State.evqReset_keeps | apply State.freezeEndOf_keeps
                                | apply Keeps.ite | simp only [Keeps.mk_iff])

@[simp] theorem State.floorTaken_keeps {z : State} (s : State) (hk : Keeps z s) :
    Keeps z (State.floorTaken s) := by
  unfold State.floorTaken
  with_reducible repeat' (first | assumption | intro _ | apply Keeps.ite | split | dsimp only
                                | simp only [Keeps.mk_iff])

end Sys2Proof.Machine
end

