-- ==== Sys2Proof/Laws/KeepsScanOut.lean ====
section
/-!
SUPPORT. What the operations of Machine/ScanOut.lean keep.
-/

namespace Sys2Proof.Machine

set_option simprocs false

@[simp] theorem State.frameAnnounce_keeps {z : State} (s : State) (c : Chap) (hk : Keeps z s) :
    Keeps z (State.frameAnnounce s c) := by
  unfold State.frameAnnounce
  with_reducible repeat' (first | assumption | apply State.modChap_keeps | split)

@[simp] theorem State.framesNew_keeps {z : State} (s : State) (x : AnnIn) (hk : Keeps z s) :
    Keeps z (State.framesNew s x) := by
  unfold State.framesNew
  with_reducible repeat' (first | assumption | apply forEach_keeps | intro _ s' h'
                                | apply State.modChap_keeps | split | dsimp only)

@[simp] theorem State.underrun_keeps {z : State} (s : State) (c : Chap) (n : Nat) (hk : Keeps z s) :
    Keeps z (State.underrun s c n) := by
  unfold State.underrun
  with_reducible repeat' (first | assumption | apply State.modChap_keeps | apply State.tally_keeps)

@[simp] theorem State.bandMissed_keeps {z : State} (s : State) (c : Chap) (p : ChapRec) (k : Nat) (hk : Keeps z s) :
    Keeps z (State.bandMissed s c p k) := by
  unfold State.bandMissed
  with_reducible repeat' (first | assumption | intro _ | apply State.tally_keeps | apply Keeps.ite | split
                                | dsimp only | simp only [Keeps.mk_iff])

@[simp] theorem State.bandRead_keeps {z : State} (s : State) (c : Chap) (k : Nat) (done : Bool) (lead : Nat)
    (hk : Keeps z s) :
    Keeps z (State.bandRead s c k done lead) := by
  unfold State.bandRead
  with_reducible repeat' (first | assumption | intro _ | apply State.lpRequest_keeps | apply State.passTo_keeps
                                | apply State.bandMissed_keeps | apply State.underrun_keeps
                                | apply State.modChap_keeps | apply Keeps.ite | split | dsimp only
                                | simp only [Keeps.mk_iff])

@[simp] theorem State.fetchLate_keeps {z : State} (s : State) (c : Chap) (n : Nat) (hk : Keeps z s) :
    Keeps z (State.fetchLate s c n) := by
  unfold State.fetchLate
  with_reducible repeat' (first | assumption | intro _ | apply State.lpRequest_keeps | apply State.underrun_keeps
                                | apply State.modChap_keeps | apply Keeps.ite | split | dsimp only
                                | simp only [Keeps.mk_iff])

@[simp] theorem State.lineMatch_keeps {z : State} (s : State) (c : Chap) (n dir : Nat) (t : Time) (hk : Keeps z s) :
    Keeps z (State.lineMatch s c n dir t) := by
  unfold State.lineMatch
  with_reducible repeat' (first | assumption | apply State.postTo_keeps)

@[simp] theorem State.blankStart_keeps {z : State} (s : State) (c : Chap) (shown bell : Nat) (t : Time)
    (hk : Keeps z s) :
    Keeps z (State.blankStart s c shown bell t) := by
  unfold State.blankStart
  with_reducible repeat' (first | assumption | apply State.postTo_keeps | apply State.traceMark_keeps)

@[simp] theorem State.blankEnd_keeps {z : State} (s : State) (c : Chap) (hk : Keeps z s) :
    Keeps z (State.blankEnd s c) := by
  unfold State.blankEnd
  with_reducible repeat' (first | assumption | intro _ | apply State.blankStart_keeps | apply State.modChap_keeps
                                | apply Keeps.ite | split | dsimp only | simp only [Keeps.mk_iff])

@[simp] theorem State.blankEnds_keeps {z : State} (s : State) (hk : Keeps z s) :
    Keeps z (State.blankEnds s) := by
  unfold State.blankEnds
  with_reducible repeat' (first | assumption | apply forEach_keeps | intro _ | apply State.blankEnd_keeps
                                | apply Keeps.ite | split | dsimp only | simp only [Keeps.mk_iff])

@[simp] theorem State.pulseSample_keeps {z : State} (s : State) (c : Chap) (p : ChapRec) (n : Nat) (ends : Time)
    (y : BitVec 14) (hk : Keeps z s) :
    Keeps z (State.pulseSample s c p n ends y) := by
  unfold State.pulseSample
  with_reducible repeat' (first | assumption | apply forEach_keeps | intro _ | apply State.modSlot_keeps
                                | apply State.modOut_keeps | apply Keeps.ite | split | dsimp only
                                | simp only [Keeps.mk_iff])

@[simp] theorem State.arraySlot_keeps {z : State} (s : State) (c : Chap) (y : BitVec 14) (hk : Keeps z s) :
    Keeps z (State.arraySlot s c y) := by
  unfold State.arraySlot
  with_reducible repeat' (first | assumption | intro _ | apply State.blankEnd_keeps | apply State.passTo_keeps
                                | apply State.modChap_keeps | apply State.lineMatch_keeps
                                | apply State.pulseSample_keeps | apply Keeps.ite | split | dsimp only
                                | simp only [Keeps.mk_iff])

@[simp] theorem State.scanLine_keeps {z : State} (s : State) (c : Chap) (left : Bool) (hk : Keeps z s) :
    Keeps z (State.scanLine s c left) := by
  unfold State.scanLine
  with_reducible repeat' (first | assumption | intro _ | apply State.blankEnd_keeps | apply State.passTo_keeps
                                | apply State.modChap_keeps | apply State.lineMatch_keeps | apply Keeps.ite | split
                                | dsimp only | simp only [Keeps.mk_iff])

@[simp] theorem State.rectDone_keeps {z : State} (s : State) (c : Chap) (p : ChapRec) (f : FrameSt) (turned : DoneIn)
    (x : Fin 16 × Ten × ChkCfg) (hk : Keeps z s) :
    Keeps z (State.rectDone s c p f turned x) := by
  unfold State.rectDone
  with_reducible repeat' (first | assumption | intro _ | apply State.modRect_keeps | apply State.tally_keeps
                                | apply State.post_keeps | apply Keeps.ite | split | dsimp only
                                | simp only [Keeps.mk_iff])

@[simp] theorem State.storeUe_keeps {z : State} (s : State) (c : Chap) (p : ChapRec) (f : FrameSt) (hk : Keeps z s) :
    Keeps z (State.storeUe s c p f) := by
  unfold State.storeUe
  with_reducible repeat' (first | assumption | intro _ | apply State.ueCount_keeps | apply State.postAll_keeps
                                | apply Keeps.ite | split | dsimp only | simp only [Keeps.mk_iff])

@[simp] theorem State.frameDone_keeps {z : State} (s : State) (c : Chap) (x : DoneIn) (hk : Keeps z s) :
    Keeps z (State.frameDone s c x) := by
  unfold State.frameDone
  with_reducible repeat' (first | assumption | apply forEach_keeps | intro _ | apply State.passTo_keeps
                                | apply State.modChap_keeps | apply State.rectDone_keeps | apply State.storeUe_keeps
                                | apply State.tally_keeps | apply State.post_keeps | apply State.traceMark_keeps
                                | apply State.kmShown_keeps | apply State.lostPost_keeps | apply State.kvFrame_keeps
                                | apply Keeps.ite | split | dsimp only | simp only [Keeps.mk_iff])

@[simp] theorem State.frameBell_keeps {z : State} (s : State) (c : Chap) (hk : Keeps z s) :
    Keeps z (State.frameBell s c) := by
  unfold State.frameBell
  with_reducible repeat' (first | assumption | intro _ | apply State.modChap_keeps
                                | apply State.postAll_keeps | apply Keeps.ite)

end Sys2Proof.Machine
end

