-- ==== Sys2Proof/Laws/KeepsWitness.lean ====
section
/-!
SUPPORT. What the operations of Machine/Witness.lean keep.
-/

namespace Sys2Proof.Machine

set_option simprocs false

@[simp] theorem State.calAdd_keeps {z : State} (s : State) (k : Pd) (c : Fin 3) (m : Int) (e : Nat) (hk : Keeps z s) :
    Keeps z (State.calAdd s k c m e) := by
  unfold State.calAdd
  with_reducible repeat' (first | assumption | simp only [Keeps.mk_iff])

@[simp] theorem State.fgGrant_keeps {z : State} (s : State) (w : FgWin) (v : Nat) (hk : Keeps z s) :
    Keeps z (State.fgGrant s w v) := by
  unfold State.fgGrant
  with_reducible repeat' (first | assumption | apply State.modPd_keeps | apply State.calAdd_keeps
                                | apply State.tally_keeps | split | simp only [Keeps.mk_iff])

@[simp] theorem State.feedY_keeps {z : State} (s : State) (k : Pd) (kind : LoopKind) (c : Fin 3) (y : Nat)
    (hk : Keeps z s) :
    Keeps z (State.feedY s k kind c y) := by
  unfold State.feedY
  with_reducible repeat' (first | assumption | apply forEach_keeps | intro _ s' h'
                                | apply State.modSlot_keeps)

@[simp] theorem State.bgConvert_keeps {z : State} (s : State) (k : Pd) (w : BgWin) (v : Nat) (hk : Keeps z s) :
    Keeps z (State.bgConvert s k w v) := by
  unfold State.bgConvert
  with_reducible repeat' (first | assumption | intro _ | apply State.modPd_keeps | apply State.feedY_keeps
                                | apply State.calAdd_keeps | apply Keeps.ite)

@[simp] theorem State.bgExpire_keeps {z : State} (s : State) (k : Pd) (gone : BgWin → Bool) (hk : Keeps z s) :
    Keeps z (State.bgExpire s k gone) := by
  unfold State.bgExpire
  with_reducible repeat' (first | assumption | intro _ | apply State.modPd_keeps | apply State.tally_keeps
                                | apply Keeps.ite | split | dsimp only | simp only [Keeps.mk_iff])

@[simp] theorem State.bgOpen_keeps {z : State} (s : State) (k : Pd) (w : BgWin) (hk : Keeps z s) :
    Keeps z (State.bgOpen s k w) := by
  unfold State.bgOpen
  with_reducible repeat' (first | assumption | intro _ | apply State.modPd_keeps | apply State.bgExpire_keeps
                                | apply Keeps.ite | split | dsimp only | simp only [Keeps.mk_iff])

@[simp] theorem State.bgSlot_keeps {z : State} (s : State) (c : Chap) (hk : Keeps z s) :
    Keeps z (State.bgSlot s c) := by
  unfold State.bgSlot
  with_reducible repeat' (first | assumption | apply forEach_keeps | intro _ s' h'
                                | apply State.bgOpen_keeps | split)

@[simp] theorem State.bgLine_keeps {z : State} (s : State) (c : Chap) (hk : Keeps z s) :
    Keeps z (State.bgLine s c) := by
  unfold State.bgLine
  with_reducible repeat' (first | assumption | apply forEach_keeps | intro _ s' h'
                                | apply State.bgOpen_keeps | split | dsimp only)

@[simp] theorem State.darkSample_keeps {z : State} (s : State) (k : Pd) (v : Nat) (hk : Keeps z s) :
    Keeps z (State.darkSample s k v) := by
  unfold State.darkSample
  with_reducible repeat' (first | assumption | apply State.modPd_keeps)

@[simp] theorem State.reservedConvert_keeps {z : State} (s : State) (k : Pd) (v : Nat) (hk : Keeps z s) :
    Keeps z (State.reservedConvert s k v) := by
  unfold State.reservedConvert
  with_reducible repeat' (first | assumption | apply State.modPd_keeps | apply State.bgConvert_keeps
                                | apply State.tally_keeps | split)

@[simp] theorem State.plainSlot_keeps {z : State} (s : State) (v : Nat) (hk : Keeps z s) :
    Keeps z (State.plainSlot s v) := by
  unfold State.plainSlot
  with_reducible repeat' (first | assumption | apply State.fgGrant_keeps | apply State.modPd_keeps
                                | apply State.bgConvert_keeps | apply State.tally_keeps | split)

@[simp] theorem State.slotWait_keeps {z : State} (s : State) (hk : Keeps z s) :
    Keeps z (State.slotWait s) := by
  unfold State.slotWait
  with_reducible repeat' (first | assumption | intro _ | apply State.passTo_keeps | apply Keeps.ite)

@[simp] theorem State.adcSlot_keeps {z : State} (s0 : State) (v : Nat) (hk : Keeps z s0) :
    Keeps z (State.adcSlot s0 v) := by
  unfold State.adcSlot
  with_reducible repeat' (first | assumption | apply forEach_keeps | intro _ | apply State.slotWait_keeps
                                | apply State.bgExpire_keeps | apply State.darkSample_keeps
                                | apply State.reservedConvert_keeps | apply State.plainSlot_keeps | apply Keeps.ite
                                | split | dsimp only | simp only [Keeps.mk_iff])

@[simp] theorem State.reservedPost_keeps {z : State} (s : State) (k : Pd) (what : Nat) (hk : Keeps z s) :
    Keeps z (State.reservedPost s k what) := by
  unfold State.reservedPost
  with_reducible repeat' (first | assumption | apply State.postTo_keeps)

@[simp] theorem State.whiteFeed_keeps {z : State} (s : State) (k : Pd) (period : Time) (hk : Keeps z s) :
    Keeps z (State.whiteFeed s k period) := by
  unfold State.whiteFeed
  with_reducible repeat' (first | assumption | apply forEach_keeps | intro _ | apply State.feedY_keeps
                                | apply Keeps.ite | split)

@[simp] theorem State.kvRatio_keeps {z : State} (s : State) (c : Chap) (x : WitMeas) (hk : Keeps z s) :
    Keeps z (State.kvRatio s c x) := by
  unfold State.kvRatio
  with_reducible repeat' (first | assumption | intro _ | apply State.sample_keeps | apply Keeps.ite)

@[simp] theorem State.pdBell_keeps {z : State} (s : State) (k : Pd) (period : Time) (hk : Keeps z s) :
    Keeps z (State.pdBell s k period) := by
  unfold State.pdBell
  with_reducible repeat' (first | assumption | apply forEach_keeps | intro _ | apply State.kvRatio_keeps
                                | apply State.whiteFeed_keeps | apply State.bgExpire_keeps | apply State.modPd_keeps
                                | apply State.reservedPost_keeps | apply Keeps.ite | split | dsimp only
                                | simp only [Keeps.mk_iff])

@[simp] theorem State.witBell_keeps {z : State} (s : State) (period : Time) (hk : Keeps z s) :
    Keeps z (State.witBell s period) := by
  unfold State.witBell
  with_reducible repeat' (first | assumption | apply forEach_keeps | intro _ s' h'
                                | apply State.pdBell_keeps | simp only [Keeps.mk_iff])

@[simp] theorem State.kwCalDone_keeps {z : State} (s : State) (hk : Keeps z s) :
    Keeps z (State.kwCalDone s) := by
  unfold State.kwCalDone
  with_reducible repeat' (first | assumption | apply State.post_keeps | split | simp only [Keeps.mk_iff])

@[simp] theorem State.thenOpen_keeps {z : State} (s s1 : State) (c : Chap) (k : State → State)
    (hkk : ∀ y0, Keeps z y0 → Keeps z (k y0)) (hkss1 : Keeps z s1) (_hk : Keeps z s) :
    Keeps z (State.thenOpen s s1 c k) := by
  unfold State.thenOpen
  with_reducible repeat' (first | assumption | intro _ | apply hkk | apply Keeps.ite)

end Sys2Proof.Machine
end

