-- ==== Sys2Proof/Laws/KeepsBell.lean ====
section
/-!
SUPPORT. What the operations of Machine/Bell.lean keep.
-/

namespace Sys2Proof.Machine

set_option simprocs false

@[simp] theorem State.lateCommits_keeps {z : State} (s : State) (hk : Keeps z s) :
    Keeps z (State.lateCommits s) := by
  unfold State.lateCommits
  with_reducible repeat' (first | assumption | apply forEach_keeps | intro _ s' h'
                                | apply State.modTen_keeps | apply State.gfix_keeps
                                | apply State.post_keeps)

@[simp] theorem State.freezeLayer_keeps {z : State} (s : State) (t : Ten) (lid : Nat) (seq : Word) (hk : Keeps z s) :
    Keeps z (State.freezeLayer s t lid seq) := by
  unfold State.freezeLayer
  with_reducible repeat' (first | assumption | intro _ | apply State.modLayer_keeps | apply State.post_keeps
                                | apply Keeps.ite | split)

@[simp] theorem State.freezeTen_keeps {z : State} (s : State) (t : Ten) (hk : Keeps z s) :
    Keeps z (State.freezeTen s t) := by
  unfold State.freezeTen
  with_reducible repeat' (first | assumption | apply forEach_keeps | intro _ s' h'
                                | apply State.freezeLayer_keeps | apply State.modSurfs_keeps
                                | apply State.modTen_keeps | split | simp only [Keeps.mk_iff])

@[simp] theorem State.rephase_keeps {z : State} (s : State) (hk : Keeps z s) :
    Keeps z (State.rephase s) := by
  unfold State.rephase
  with_reducible repeat' (first | assumption | apply forEach_keeps | intro _ | apply State.modBell_keeps
                                | apply State.rateChanged_keeps | apply Keeps.ite)

@[simp] theorem State.chainAnnounce_keeps {z : State} (s : State) (hk : Keeps z s) :
    Keeps z (State.chainAnnounce s) := by
  unfold State.chainAnnounce
  with_reducible repeat' (first | assumption | intro _ | apply State.modChain_keeps
                                | apply State.chSend_keeps | apply Keeps.ite)

@[simp] theorem State.navSample_keeps {z : State} (s : State) (hk : Keeps z s) :
    Keeps z (State.navSample s) := by
  unfold State.navSample
  with_reducible repeat' (first | assumption | intro _ | apply State.sample_keeps | apply Keeps.ite)

@[simp] theorem State.announce_keeps {z : State} (s : State) (late : Bool) (x : AnnIn) (hk : Keeps z s) :
    Keeps z (State.announce s late x) := by
  unfold State.announce
  with_reducible repeat' (first | assumption | apply forEach_keeps | intro _ | apply State.powerAnnounce_keeps
                                | apply State.heldOut_keeps | apply State.lateCommits_keeps
                                | apply State.freezeTen_keeps | apply State.pauseAnnounce_keeps
                                | apply State.chapAnnounce_keeps | apply State.sentinelRun_keeps
                                | apply State.navSample_keeps | apply State.specSettle_keeps
                                | apply State.compose_keeps | apply State.flatFreeze_keeps
                                | apply State.vidFreeze_keeps | apply State.framesNew_keeps
                                | apply State.frameAnnounce_keeps | apply State.modChain_keeps
                                | apply State.modBell_keeps | apply State.chainAnnounce_keeps
                                | apply State.rephase_keeps | apply State.releaseWaits_keeps
                                | apply State.traceMark_keeps | apply Keeps.ite | split | dsimp only
                                | simp only [Keeps.mk_iff])

@[simp] theorem State.latch_keeps {z : State} (s : State) (hk : Keeps z s) :
    Keeps z (State.latch s) := by
  unfold State.latch
  with_reducible repeat' (first | assumption | intro _ | apply State.keyLoaded_keeps | apply State.latchActs_keeps
                                | apply State.verdictLatched_keeps | apply State.kmLatched_keeps
                                | apply State.keyFree_keeps | apply State.injEnd_keeps | apply State.traceMark_keeps
                                | apply State.modBell_keeps | apply Keeps.ite | split | dsimp only
                                | simp only [Keeps.mk_iff])

@[simp] theorem State.bellCount_keeps {z : State} (s : State) (b : Time) (hk : Keeps z s) :
    Keeps z (State.bellCount s b) := by
  unfold State.bellCount
  with_reducible repeat' (first | assumption | apply State.modBell_keeps)

@[simp] theorem State.refill_keeps {z : State} (s : State) (hk : Keeps z s) :
    Keeps z (State.refill s) := by
  unfold State.refill
  with_reducible repeat' (first | assumption | simp only [Keeps.mk_iff])

@[simp] theorem State.wdogStart_keeps {z : State} (s : State) (hk : Keeps z s) :
    Keeps z (State.wdogStart s) := by
  unfold State.wdogStart
  with_reducible repeat' (first | assumption | simp only [Keeps.mk_iff])

@[simp] theorem State.framesBell_keeps {z : State} (s : State) (hk : Keeps z s) :
    Keeps z (State.framesBell s) := by
  unfold State.framesBell
  with_reducible repeat' (first | assumption | apply forEach_keeps | intro _ s' h'
                                | apply State.frameBell_keeps | simp only [Keeps.mk_iff])

@[simp] theorem State.firstLight_keeps {z : State} (s : State) (hk : Keeps z s) :
    Keeps z (State.firstLight s) := by
  unfold State.firstLight
  with_reducible repeat' (first | assumption | apply forEach_keeps | intro _ | apply State.modPower_keeps
                                | apply State.notice_keeps | apply Keeps.ite | rfl)

@[simp] theorem State.sweepBell_keeps {z : State} (s : State) (hk : Keeps z s) :
    Keeps z (State.sweepBell s) := by
  unfold State.sweepBell
  with_reducible repeat' (first | assumption | apply State.modChain_keeps)

@[simp] theorem State.chainBell_keeps {z : State} (s : State) (hk : Keeps z s) :
    Keeps z (State.chainBell s) := by
  unfold State.chainBell
  with_reducible repeat' (first | assumption | intro _ | apply State.modChain_keeps
                                | apply State.chFloorSend_keeps | apply Keeps.ite)

@[simp] theorem State.traceSync_keeps {z : State} (s : State) (hk : Keeps z s) :
    Keeps z (State.traceSync s) := by
  unfold State.traceSync
  with_reducible repeat' (first | assumption | apply State.trace_keeps)

@[simp] theorem State.idleBell_keeps {z : State} (s : State) (hk : Keeps z s) :
    Keeps z (State.idleBell s) := by
  unfold State.idleBell
  with_reducible repeat' (first | assumption | intro _ | apply State.powerPost_keeps | apply State.modPower_keeps
                                | apply State.lpWake_keeps | apply Keeps.ite | split | dsimp only
                                | simp only [Keeps.mk_iff])

@[simp] theorem State.exitBell_keeps {z : State} (s : State) (hk : Keeps z s) :
    Keeps z (State.exitBell s) := by
  unfold State.exitBell
  with_reducible repeat' (first | assumption | intro _ | apply State.modPower_keeps
                                | apply State.powerPost_keeps | apply State.wdogStart_keeps
                                | apply Keeps.ite | rfl)

@[simp] theorem State.lecternPosts_keeps {z : State} (s : State) (hk : Keeps z s) :
    Keeps z (State.lecternPosts s) := by
  unfold State.lecternPosts
  with_reducible repeat' (first | assumption | apply forEach_keeps | intro _ | apply State.gfix_keeps
                                | apply State.post_keeps | apply State.tenFault_keeps
                                | apply State.modPower_keeps | split | rfl)

@[simp] theorem State.startRecords_keeps {z : State} (s : State) (hk : Keeps z s) :
    Keeps z (State.startRecords s) := by
  unfold State.startRecords
  with_reducible repeat' (first | assumption | apply State.relAppend_keeps | apply State.notice_keeps
                                | apply State.modRel_keeps | split)

@[simp] theorem State.lifeBell_keeps {z : State} (s : State) (hk : Keeps z s) :
    Keeps z (State.lifeBell s) := by
  unfold State.lifeBell
  with_reducible repeat' (first | assumption | apply State.postAll_keeps | apply State.ownerWord_keeps | split
                                | simp only [Keeps.mk_iff])

@[simp] theorem State.startBell_keeps {z : State} (s : State) (hk : Keeps z s) :
    Keeps z (State.startBell s) := by
  unfold State.startBell
  with_reducible repeat' (first | assumption | apply forEach_keeps | intro _ | apply State.modPower_keeps
                                | apply State.wdogStart_keeps | apply State.postAll_keeps
                                | apply State.primeState_keeps | apply State.modUpd_keeps
                                | apply State.updPost_keeps | apply State.startRecords_keeps
                                | apply State.lecternPosts_keeps | apply State.lifeBell_keeps | split
                                | simp only [Keeps.mk_iff])

@[simp] theorem State.periodSample_keeps {z : State} (s : State) (had : Bool) (hk : Keeps z s) :
    Keeps z (State.periodSample s had) := by
  unfold State.periodSample
  with_reducible repeat' (first | assumption | intro _ | apply State.sample_keeps | apply Keeps.ite)

@[simp] theorem State.closeBell_keeps {z : State} (s : State) (hk : Keeps z s) :
    Keeps z (State.closeBell s) := by
  unfold State.closeBell
  with_reducible repeat' (first | assumption | intro _ | apply State.modRel_keeps | apply Keeps.ite)

@[simp] theorem State.bellFire_keeps {z : State} (s : State) (b : Time) (hk : Keeps z s) :
    Keeps z (State.bellFire s b) := by
  unfold State.bellFire
  with_reducible repeat' (first | assumption | apply State.releaseWaits_keeps | apply State.closeBell_keeps
                                | apply State.periodSample_keeps | apply State.pauseBell_keeps
                                | apply State.startBell_keeps | apply State.exitBell_keeps
                                | apply State.idleBell_keeps | apply State.sweepBell_keeps
                                | apply State.chainBell_keeps | apply State.firstLight_keeps
                                | apply State.runAheadBell_keeps | apply State.flatBell_keeps
                                | apply State.framesBell_keeps | apply State.thBell_keeps
                                | apply State.vidBell_keeps | apply State.loopBell_keeps
                                | apply State.witBell_keeps | apply State.dutyApplied_keeps
                                | apply State.bellReload_keeps | apply State.traceSync_keeps
                                | apply State.galBell_keeps | apply State.gfix_keeps
                                | apply State.floorBell_keeps | apply State.refill_keeps
                                | apply State.bellCount_keeps | apply State.choirServe_keeps
                                | apply State.blankEnds_keeps | dsimp only | simp only [Keeps.mk_iff])

@[simp] theorem State.tick_keeps {z : State} (s : State) (hk : Keeps z s) :
    Keeps z (State.tick s) := by
  have h := State.blankEnds_keeps _ (State.powerTick_keeps _ (State.choirServe_keeps { s with now := s.now + 1 }
    (Keeps.mk_keeps hk rfl rfl (Nat.le_succ _))))
  exact Keeps.ite (fun _ => State.releaseWaits_keeps _ h) (fun _ => h)

end Sys2Proof.Machine
end

