-- ==== Sys2Proof/Laws/State.lean ====
section
/-!
SUPPORT. What reading one thing of the state gives after a change of one thing: of the same one, and of another one. Each
holds by rfl or by the law of a table's entries, so that no later proof unfolds a record update.
-/

namespace Sys2Proof.Machine

/-! ### Entries of a table -/

@[simp] theorem at_upd {α : Type} {n : Nat} (v : Vector α n) (i : Fin n) (f : α → α) :
    at' (upd v i f) i = f (at' v i) := by
  simp [upd, at']

theorem at_upd_ne {α : Type} {n : Nat} (v : Vector α n) (i j : Fin n) (f : α → α) (h : j ≠ i) :
    at' (upd v i f) j = at' v j := by
  have : i.val ≠ j.val := fun e => h (Fin.ext e.symm)
  simp [upd, at', this]

@[simp] theorem upd_upd {α : Type} {n : Nat} (v : Vector α n) (i : Fin n) (f g : α → α) :
    upd (upd v i f) i g = upd v i (fun x => g (f x)) := by
  simp [upd]

/-- Changing an entry to what it is changes nothing. -/
theorem upd_same {α : Type} {n : Nat} (v : Vector α n) (i : Fin n) (f : α → α) (h : f (at' v i) = at' v i) :
    upd v i f = v := by
  simp only [at'] at h
  simp [upd, h]

/-- Two changes that agree on the entry are one. -/
theorem upd_congr {α : Type} {n : Nat} (v : Vector α n) (i : Fin n) (f g : α → α) (h : f (at' v i) = g (at' v i)) :
    upd v i f = upd v i g := by
  simp only [at'] at h
  simp [upd, h]

/-! ### The thing changed -/

@[simp] theorem State.ten_modTen (s : State) (t : Ten) (f : Tenant → Tenant) : (s.modTen t f).ten t = f (s.ten t) :=
  at_upd _ _ _
@[simp] theorem State.ring_modRing (s : State) (r : RingId) (f : RingSt → RingSt) :
    (s.modRing r f).ring r = f (s.ring r) := at_upd _ _ _
@[simp] theorem State.chap_modChap (s : State) (c : Chap) (f : ChapSt → ChapSt) :
    (s.modChap c f).chap c = f (s.chap c) := at_upd _ _ _
@[simp] theorem State.out_modOut (s : State) (o : OutId) (f : OutSt → OutSt) : (s.modOut o f).out o = f (s.out o) :=
  at_upd _ _ _
@[simp] theorem State.rail_modRail (s : State) (r : Fin 2) (f : RailSt → RailSt) :
    at' (s.modRail r f).light.rails r = f (at' s.light.rails r) := at_upd _ _ _
@[simp] theorem State.slot_modSlot (s : State) (i : Slot) (f : LoopSt → LoopSt) :
    (s.modSlot i f).slot i = f (s.slot i) := at_upd _ _ _
@[simp] theorem State.pdIn_modPd (s : State) (i : Pd) (f : PdSt → PdSt) : (s.modPd i f).pdIn i = f (s.pdIn i) :=
  at_upd _ _ _
@[simp] theorem State.th_modTh (s : State) (i : Fin 10) (f : ThChan → ThChan) : (s.modTh i f).th i = f (s.th i) :=
  at_upd _ _ _
@[simp] theorem State.box_modBox (s : State) (t : Ten) (f : Mailbox → Mailbox) : (s.modBox t f).box t = f (s.box t) :=
  at_upd _ _ _

/-! ### Another of its kind -/

theorem State.ten_modTen_ne (s : State) (t u : Ten) (f : Tenant → Tenant) (h : u ≠ t) :
    (s.modTen t f).ten u = s.ten u := at_upd_ne _ _ _ _ h
theorem State.ring_modRing_ne (s : State) (r q : RingId) (f : RingSt → RingSt) (h : q ≠ r) :
    (s.modRing r f).ring q = s.ring q := at_upd_ne _ _ _ _ h
theorem State.chap_modChap_ne (s : State) (c d : Chap) (f : ChapSt → ChapSt) (h : d ≠ c) :
    (s.modChap c f).chap d = s.chap d := at_upd_ne _ _ _ _ h
theorem State.out_modOut_ne (s : State) (o p : OutId) (f : OutSt → OutSt) (h : p ≠ o) :
    (s.modOut o f).out p = s.out p := at_upd_ne _ _ _ _ h
theorem State.slot_modSlot_ne (s : State) (i j : Slot) (f : LoopSt → LoopSt) (h : j ≠ i) :
    (s.modSlot i f).slot j = s.slot j := at_upd_ne _ _ _ _ h
theorem State.box_modBox_ne (s : State) (t u : Ten) (f : Mailbox → Mailbox) (h : u ≠ t) :
    (s.modBox t f).box u = s.box u := at_upd_ne _ _ _ _ h

/-! ### A thing of another kind -/

@[simp] theorem State.ring_modTen (s : State) (t : Ten) (f : Tenant → Tenant) (q : RingId) :
    (s.modTen t f).ring q = s.ring q := rfl
@[simp] theorem State.chap_modTen (s : State) (t : Ten) (f : Tenant → Tenant) (d : Chap) :
    (s.modTen t f).chap d = s.chap d := rfl
@[simp] theorem State.box_modTen (s : State) (t : Ten) (f : Tenant → Tenant) (u : Ten) :
    (s.modTen t f).box u = s.box u := rfl
@[simp] theorem State.bell_modTen (s : State) (t : Ten) (f : Tenant → Tenant) : (s.modTen t f).bell = s.bell := rfl
@[simp] theorem State.power_modTen (s : State) (t : Ten) (f : Tenant → Tenant) : (s.modTen t f).power = s.power := rfl
@[simp] theorem State.gal_modTen (s : State) (t : Ten) (f : Tenant → Tenant) : (s.modTen t f).gal = s.gal := rfl
@[simp] theorem State.key_modTen (s : State) (t : Ten) (f : Tenant → Tenant) : (s.modTen t f).key = s.key := rfl
@[simp] theorem State.now_modTen (s : State) (t : Ten) (f : Tenant → Tenant) : (s.modTen t f).now = s.now := rfl
@[simp] theorem State.ten_modRing (s : State) (r : RingId) (f : RingSt → RingSt) (u : Ten) :
    (s.modRing r f).ten u = s.ten u := rfl
@[simp] theorem State.chap_modRing (s : State) (r : RingId) (f : RingSt → RingSt) (d : Chap) :
    (s.modRing r f).chap d = s.chap d := rfl
@[simp] theorem State.box_modRing (s : State) (r : RingId) (f : RingSt → RingSt) (u : Ten) :
    (s.modRing r f).box u = s.box u := rfl
@[simp] theorem State.bell_modRing (s : State) (r : RingId) (f : RingSt → RingSt) :
    (s.modRing r f).bell = s.bell := rfl
@[simp] theorem State.power_modRing (s : State) (r : RingId) (f : RingSt → RingSt) :
    (s.modRing r f).power = s.power := rfl
@[simp] theorem State.gal_modRing (s : State) (r : RingId) (f : RingSt → RingSt) : (s.modRing r f).gal = s.gal := rfl
@[simp] theorem State.key_modRing (s : State) (r : RingId) (f : RingSt → RingSt) : (s.modRing r f).key = s.key := rfl
@[simp] theorem State.now_modRing (s : State) (r : RingId) (f : RingSt → RingSt) : (s.modRing r f).now = s.now := rfl
@[simp] theorem State.ten_modChap (s : State) (c : Chap) (f : ChapSt → ChapSt) (u : Ten) :
    (s.modChap c f).ten u = s.ten u := rfl
@[simp] theorem State.ring_modChap (s : State) (c : Chap) (f : ChapSt → ChapSt) (q : RingId) :
    (s.modChap c f).ring q = s.ring q := rfl
@[simp] theorem State.box_modChap (s : State) (c : Chap) (f : ChapSt → ChapSt) (u : Ten) :
    (s.modChap c f).box u = s.box u := rfl
@[simp] theorem State.bell_modChap (s : State) (c : Chap) (f : ChapSt → ChapSt) : (s.modChap c f).bell = s.bell := rfl
@[simp] theorem State.power_modChap (s : State) (c : Chap) (f : ChapSt → ChapSt) :
    (s.modChap c f).power = s.power := rfl
@[simp] theorem State.gal_modChap (s : State) (c : Chap) (f : ChapSt → ChapSt) : (s.modChap c f).gal = s.gal := rfl
@[simp] theorem State.key_modChap (s : State) (c : Chap) (f : ChapSt → ChapSt) : (s.modChap c f).key = s.key := rfl
@[simp] theorem State.now_modChap (s : State) (c : Chap) (f : ChapSt → ChapSt) : (s.modChap c f).now = s.now := rfl
@[simp] theorem State.ten_modOut (s : State) (o : OutId) (f : OutSt → OutSt) (u : Ten) :
    (s.modOut o f).ten u = s.ten u := rfl
@[simp] theorem State.ring_modOut (s : State) (o : OutId) (f : OutSt → OutSt) (q : RingId) :
    (s.modOut o f).ring q = s.ring q := rfl
@[simp] theorem State.chap_modOut (s : State) (o : OutId) (f : OutSt → OutSt) (d : Chap) :
    (s.modOut o f).chap d = s.chap d := rfl
@[simp] theorem State.box_modOut (s : State) (o : OutId) (f : OutSt → OutSt) (u : Ten) :
    (s.modOut o f).box u = s.box u := rfl
@[simp] theorem State.bell_modOut (s : State) (o : OutId) (f : OutSt → OutSt) : (s.modOut o f).bell = s.bell := rfl
@[simp] theorem State.power_modOut (s : State) (o : OutId) (f : OutSt → OutSt) : (s.modOut o f).power = s.power := rfl
@[simp] theorem State.gal_modOut (s : State) (o : OutId) (f : OutSt → OutSt) : (s.modOut o f).gal = s.gal := rfl
@[simp] theorem State.key_modOut (s : State) (o : OutId) (f : OutSt → OutSt) : (s.modOut o f).key = s.key := rfl
@[simp] theorem State.now_modOut (s : State) (o : OutId) (f : OutSt → OutSt) : (s.modOut o f).now = s.now := rfl
@[simp] theorem State.ten_modSlot (s : State) (i : Slot) (f : LoopSt → LoopSt) (u : Ten) :
    (s.modSlot i f).ten u = s.ten u := rfl
@[simp] theorem State.ring_modSlot (s : State) (i : Slot) (f : LoopSt → LoopSt) (q : RingId) :
    (s.modSlot i f).ring q = s.ring q := rfl
@[simp] theorem State.chap_modSlot (s : State) (i : Slot) (f : LoopSt → LoopSt) (d : Chap) :
    (s.modSlot i f).chap d = s.chap d := rfl
@[simp] theorem State.box_modSlot (s : State) (i : Slot) (f : LoopSt → LoopSt) (u : Ten) :
    (s.modSlot i f).box u = s.box u := rfl
@[simp] theorem State.bell_modSlot (s : State) (i : Slot) (f : LoopSt → LoopSt) : (s.modSlot i f).bell = s.bell := rfl
@[simp] theorem State.power_modSlot (s : State) (i : Slot) (f : LoopSt → LoopSt) :
    (s.modSlot i f).power = s.power := rfl
@[simp] theorem State.gal_modSlot (s : State) (i : Slot) (f : LoopSt → LoopSt) : (s.modSlot i f).gal = s.gal := rfl
@[simp] theorem State.key_modSlot (s : State) (i : Slot) (f : LoopSt → LoopSt) : (s.modSlot i f).key = s.key := rfl
@[simp] theorem State.now_modSlot (s : State) (i : Slot) (f : LoopSt → LoopSt) : (s.modSlot i f).now = s.now := rfl
@[simp] theorem State.ten_modBox (s : State) (t : Ten) (f : Mailbox → Mailbox) (u : Ten) :
    (s.modBox t f).ten u = s.ten u := rfl
@[simp] theorem State.ring_modBox (s : State) (t : Ten) (f : Mailbox → Mailbox) (q : RingId) :
    (s.modBox t f).ring q = s.ring q := rfl
@[simp] theorem State.chap_modBox (s : State) (t : Ten) (f : Mailbox → Mailbox) (d : Chap) :
    (s.modBox t f).chap d = s.chap d := rfl
@[simp] theorem State.bell_modBox (s : State) (t : Ten) (f : Mailbox → Mailbox) : (s.modBox t f).bell = s.bell := rfl
@[simp] theorem State.power_modBox (s : State) (t : Ten) (f : Mailbox → Mailbox) :
    (s.modBox t f).power = s.power := rfl
@[simp] theorem State.gal_modBox (s : State) (t : Ten) (f : Mailbox → Mailbox) : (s.modBox t f).gal = s.gal := rfl
@[simp] theorem State.key_modBox (s : State) (t : Ten) (f : Mailbox → Mailbox) : (s.modBox t f).key = s.key := rfl
@[simp] theorem State.now_modBox (s : State) (t : Ten) (f : Mailbox → Mailbox) : (s.modBox t f).now = s.now := rfl
@[simp] theorem State.ten_modSurfs (s : State) (t : Ten) (f : List (Nat × Surface) → List (Nat × Surface)) (u : Ten) :
    (s.modSurfs t f).ten u = s.ten u := rfl
@[simp] theorem State.ring_modSurfs (s : State) (t : Ten) (f : List (Nat × Surface) → List (Nat × Surface))
    (q : RingId) :
    (s.modSurfs t f).ring q = s.ring q := rfl
@[simp] theorem State.chap_modSurfs (s : State) (t : Ten) (f : List (Nat × Surface) → List (Nat × Surface))
    (d : Chap) :
    (s.modSurfs t f).chap d = s.chap d := rfl
@[simp] theorem State.box_modSurfs (s : State) (t : Ten) (f : List (Nat × Surface) → List (Nat × Surface)) (u : Ten) :
    (s.modSurfs t f).box u = s.box u := rfl
@[simp] theorem State.bell_modSurfs (s : State) (t : Ten) (f : List (Nat × Surface) → List (Nat × Surface)) :
    (s.modSurfs t f).bell = s.bell := rfl
@[simp] theorem State.power_modSurfs (s : State) (t : Ten) (f : List (Nat × Surface) → List (Nat × Surface)) :
    (s.modSurfs t f).power = s.power := rfl
@[simp] theorem State.gal_modSurfs (s : State) (t : Ten) (f : List (Nat × Surface) → List (Nat × Surface)) :
    (s.modSurfs t f).gal = s.gal := rfl
@[simp] theorem State.key_modSurfs (s : State) (t : Ten) (f : List (Nat × Surface) → List (Nat × Surface)) :
    (s.modSurfs t f).key = s.key := rfl
@[simp] theorem State.now_modSurfs (s : State) (t : Ten) (f : List (Nat × Surface) → List (Nat × Surface)) :
    (s.modSurfs t f).now = s.now := rfl
@[simp] theorem State.ten_modPower (s : State) (f : PowerSt → PowerSt) (u : Ten) :
    (s.modPower f).ten u = s.ten u := rfl
@[simp] theorem State.ring_modPower (s : State) (f : PowerSt → PowerSt) (q : RingId) :
    (s.modPower f).ring q = s.ring q := rfl
@[simp] theorem State.chap_modPower (s : State) (f : PowerSt → PowerSt) (d : Chap) :
    (s.modPower f).chap d = s.chap d := rfl
@[simp] theorem State.box_modPower (s : State) (f : PowerSt → PowerSt) (u : Ten) :
    (s.modPower f).box u = s.box u := rfl
@[simp] theorem State.bell_modPower (s : State) (f : PowerSt → PowerSt) : (s.modPower f).bell = s.bell := rfl
@[simp] theorem State.gal_modPower (s : State) (f : PowerSt → PowerSt) : (s.modPower f).gal = s.gal := rfl
@[simp] theorem State.key_modPower (s : State) (f : PowerSt → PowerSt) : (s.modPower f).key = s.key := rfl
@[simp] theorem State.now_modPower (s : State) (f : PowerSt → PowerSt) : (s.modPower f).now = s.now := rfl
@[simp] theorem State.ten_modBell (s : State) (f : BellGen → BellGen) (u : Ten) : (s.modBell f).ten u = s.ten u := rfl
@[simp] theorem State.ring_modBell (s : State) (f : BellGen → BellGen) (q : RingId) :
    (s.modBell f).ring q = s.ring q := rfl
@[simp] theorem State.chap_modBell (s : State) (f : BellGen → BellGen) (d : Chap) :
    (s.modBell f).chap d = s.chap d := rfl
@[simp] theorem State.box_modBell (s : State) (f : BellGen → BellGen) (u : Ten) : (s.modBell f).box u = s.box u := rfl
@[simp] theorem State.power_modBell (s : State) (f : BellGen → BellGen) : (s.modBell f).power = s.power := rfl
@[simp] theorem State.gal_modBell (s : State) (f : BellGen → BellGen) : (s.modBell f).gal = s.gal := rfl
@[simp] theorem State.key_modBell (s : State) (f : BellGen → BellGen) : (s.modBell f).key = s.key := rfl
@[simp] theorem State.now_modBell (s : State) (f : BellGen → BellGen) : (s.modBell f).now = s.now := rfl
@[simp] theorem State.ten_modRel (s : State) (f : ReliqSt → ReliqSt) (u : Ten) : (s.modRel f).ten u = s.ten u := rfl
@[simp] theorem State.ring_modRel (s : State) (f : ReliqSt → ReliqSt) (q : RingId) :
    (s.modRel f).ring q = s.ring q := rfl
@[simp] theorem State.chap_modRel (s : State) (f : ReliqSt → ReliqSt) (d : Chap) :
    (s.modRel f).chap d = s.chap d := rfl
@[simp] theorem State.box_modRel (s : State) (f : ReliqSt → ReliqSt) (u : Ten) : (s.modRel f).box u = s.box u := rfl
@[simp] theorem State.bell_modRel (s : State) (f : ReliqSt → ReliqSt) : (s.modRel f).bell = s.bell := rfl
@[simp] theorem State.power_modRel (s : State) (f : ReliqSt → ReliqSt) : (s.modRel f).power = s.power := rfl
@[simp] theorem State.gal_modRel (s : State) (f : ReliqSt → ReliqSt) : (s.modRel f).gal = s.gal := rfl
@[simp] theorem State.key_modRel (s : State) (f : ReliqSt → ReliqSt) : (s.modRel f).key = s.key := rfl
@[simp] theorem State.now_modRel (s : State) (f : ReliqSt → ReliqSt) : (s.modRel f).now = s.now := rfl
@[simp] theorem State.ten_modChain (s : State) (f : ChainSt → ChainSt) (u : Ten) :
    (s.modChain f).ten u = s.ten u := rfl
@[simp] theorem State.ring_modChain (s : State) (f : ChainSt → ChainSt) (q : RingId) :
    (s.modChain f).ring q = s.ring q := rfl
@[simp] theorem State.chap_modChain (s : State) (f : ChainSt → ChainSt) (d : Chap) :
    (s.modChain f).chap d = s.chap d := rfl
@[simp] theorem State.box_modChain (s : State) (f : ChainSt → ChainSt) (u : Ten) :
    (s.modChain f).box u = s.box u := rfl
@[simp] theorem State.bell_modChain (s : State) (f : ChainSt → ChainSt) : (s.modChain f).bell = s.bell := rfl
@[simp] theorem State.power_modChain (s : State) (f : ChainSt → ChainSt) : (s.modChain f).power = s.power := rfl
@[simp] theorem State.gal_modChain (s : State) (f : ChainSt → ChainSt) : (s.modChain f).gal = s.gal := rfl
@[simp] theorem State.key_modChain (s : State) (f : ChainSt → ChainSt) : (s.modChain f).key = s.key := rfl
@[simp] theorem State.now_modChain (s : State) (f : ChainSt → ChainSt) : (s.modChain f).now = s.now := rfl
@[simp] theorem State.ten_modUpd (s : State) (f : UpdateSt → UpdateSt) (u : Ten) : (s.modUpd f).ten u = s.ten u := rfl
@[simp] theorem State.ring_modUpd (s : State) (f : UpdateSt → UpdateSt) (q : RingId) :
    (s.modUpd f).ring q = s.ring q := rfl
@[simp] theorem State.chap_modUpd (s : State) (f : UpdateSt → UpdateSt) (d : Chap) :
    (s.modUpd f).chap d = s.chap d := rfl
@[simp] theorem State.box_modUpd (s : State) (f : UpdateSt → UpdateSt) (u : Ten) : (s.modUpd f).box u = s.box u := rfl
@[simp] theorem State.bell_modUpd (s : State) (f : UpdateSt → UpdateSt) : (s.modUpd f).bell = s.bell := rfl
@[simp] theorem State.power_modUpd (s : State) (f : UpdateSt → UpdateSt) : (s.modUpd f).power = s.power := rfl
@[simp] theorem State.gal_modUpd (s : State) (f : UpdateSt → UpdateSt) : (s.modUpd f).gal = s.gal := rfl
@[simp] theorem State.key_modUpd (s : State) (f : UpdateSt → UpdateSt) : (s.modUpd f).key = s.key := rfl
@[simp] theorem State.now_modUpd (s : State) (f : UpdateSt → UpdateSt) : (s.modUpd f).now = s.now := rfl

/-! ### Two changes of one ring -/

theorem State.modRing_modRing (s : State) (r : RingId) (f g : RingSt → RingSt) :
    (s.modRing r f).modRing r g = s.modRing r (fun q => g (f q)) := by
  simp [State.modRing]

theorem State.modRing_congr (s : State) (r : RingId) (f g : RingSt → RingSt) (h : f (s.ring r) = g (s.ring r)) :
    s.modRing r f = s.modRing r g := by
  rw [State.modRing, State.modRing, upd_congr _ _ _ _ h]

theorem State.modRing_same (s : State) (r : RingId) (f : RingSt → RingSt) (h : f (s.ring r) = s.ring r) :
    s.modRing r f = s := by
  rw [State.modRing, upd_same _ _ _ h]

end Sys2Proof.Machine
end

