-- ==== Sys2Proof/Laws/Posts.lean ====
section
/-!
SUPPORT. What counting, tracing, recording and posting can change, said once: the event queues, the Gallery, the Reliquary's
records, a port's notification, the free counter, and the bytes and uncorrectable words of the memories that hold queues.
-/

namespace Sys2Proof.Machine

/-- `t` is `s` but for what was counted, traced, recorded and posted. -/
structure Posts (s t : State) : Prop where
  rest : t = { s with
    free := t.free
    tens := t.tens
    gal := t.gal
    reliq := t.reliq
    ports := t.ports
    memc := t.memc
    lp := t.lp
    under := t.under }
  ten : ∀ n, t.ten n = { s.ten n with evq := (t.ten n).evq }
  ports : t.ports = { s.ports with can := t.ports.can, svc := t.ports.svc, pf := t.ports.pf }
  gal : t.gal.tens = s.gal.tens ∧ t.gal.off = s.gal.off
  reliq : t.reliq.tags = s.reliq.tags ∧ t.reliq.accs = s.reliq.accs ∧ t.reliq.era = s.reliq.era
  memc : t.memc = { s.memc with selfRef := t.memc.selfRef, ueLp := t.memc.ueLp, ueUnder := t.memc.ueUnder }

theorem Posts.refl (s : State) : Posts s s := ⟨rfl, fun _ => rfl, rfl, ⟨rfl, rfl⟩, ⟨rfl, rfl, rfl⟩, rfl⟩

theorem Posts.trans {s t u : State} (h : Posts s t) (k : Posts t u) : Posts s u := by
  refine ⟨?_, fun n => ?_, ?_, ⟨k.gal.1.trans h.gal.1, k.gal.2.trans h.gal.2⟩,
    ⟨k.reliq.1.trans h.reliq.1, k.reliq.2.1.trans h.reliq.2.1, k.reliq.2.2.trans h.reliq.2.2⟩, ?_⟩
  · have e := k.rest
    rw [h.rest] at e
    exact e
  · have e := k.ten n
    rw [h.ten n] at e
    exact e
  · have e := k.ports
    rw [h.ports] at e
    exact e
  · have e := k.memc
    rw [h.memc] at e
    exact e

/-- A change of the Gallery's counters and trace alone. -/
theorem Posts.of_gal {z s : State} (h : Posts z s) (g : GallerySt) (hg : g.tens = s.gal.tens) (ho : g.off = s.gal.off) :
    Posts z { s with gal := g } :=
  h.trans ⟨rfl, fun _ => rfl, rfl, ⟨hg, ho⟩, ⟨rfl, rfl, rfl⟩, rfl⟩

/-- A change of the Reliquary's records alone. -/
theorem Posts.of_reliq {z s : State} (h : Posts z s) (q : ReliqSt) (ht : q.tags = s.reliq.tags)
    (ha : q.accs = s.reliq.accs) (he : q.era = s.reliq.era) : Posts z { s with reliq := q } :=
  h.trans ⟨rfl, fun _ => rfl, rfl, ⟨rfl, rfl⟩, ⟨ht, ha, he⟩, rfl⟩

/-- A change of one tenant's event queue alone. -/
theorem Posts.of_evq {z s : State} (h : Posts z s) (t : Ten) (f : Tenant → Tenant)
    (hf : ∀ q, f q = { q with evq := (f q).evq }) : Posts z (s.modTen t f) := by
  refine h.trans ⟨rfl, fun n => ?_, rfl, ⟨rfl, rfl⟩, ⟨rfl, rfl, rfl⟩, rfl⟩
  by_cases e : n = t
  · subst e
    rw [State.ten_modTen]
    exact hf _
  · rw [State.ten_modTen_ne _ _ _ _ e]

theorem Posts.box {s t : State} (h : Posts s t) (n : Ten) : t.box n = s.box n := by
  unfold State.box
  rw [h.ports]

/-- A change of none but the memories that hold queues. -/
theorem Posts.of_mem {z s : State} (h : Posts z s) (lp under : List Host.Cell) (ueLp ueUnder : List Nat) :
    Posts z { s with lp := lp, under := under, memc := { s.memc with ueLp := ueLp, ueUnder := ueUnder } } :=
  h.trans ⟨rfl, fun _ => rfl, rfl, ⟨rfl, rfl⟩, ⟨rfl, rfl, rfl⟩, rfl⟩

/-- A change of none but what tells a port's host that there is something to read. -/
theorem Posts.of_ports {z s : State} (h : Posts z s) (x : PortsSt)
    (hx : x = { s.ports with can := x.can, svc := x.svc, pf := x.pf }) : Posts z { s with ports := x } :=
  h.trans ⟨rfl, fun _ => rfl, hx, ⟨rfl, rfl⟩, ⟨rfl, rfl, rfl⟩, rfl⟩

section
variable {z s : State}

theorem State.gfix_posts (i n : Nat) (h : Posts z s) : Posts z (s.gfix i n) := by
  unfold State.gfix
  split
  · exact h
  · split
    · exact h.of_gal _ rfl rfl
    · exact h

theorem State.tally_posts (b u e n : Nat) (h : Posts z s) : Posts z (s.tally b u e n) := by
  unfold State.tally
  split
  · exact h
  · exact h.of_gal _ rfl rfl

theorem State.trace_posts (ty : Nat) (p : List Byte) (h : Posts z s) : Posts z (s.trace ty p) := by
  unfold State.trace
  split
  · exact h
  · dsimp only
    repeat' split
    all_goals exact State.gfix_posts _ _ (h.of_gal _ rfl rfl)

theorem State.traceMark_posts (a b c : Nat) (h : Posts z s) : Posts z (s.traceMark a b c) := by
  unfold State.traceMark
  split
  · exact State.trace_posts _ _ h
  · exact h

theorem State.fresh_posts (w : Nat) (h : Posts z s) : Posts z (s.fresh w).2 :=
  h.trans ⟨rfl, fun _ => rfl, rfl, ⟨rfl, rfl⟩, ⟨rfl, rfl, rfl⟩, rfl⟩

theorem State.lpWake_posts (h : Posts z s) : Posts z s.lpWake := by
  unfold State.lpWake State.refEnd
  split
  · exact State.tally_posts _ _ _ _ (h.trans ⟨rfl, fun _ => rfl, rfl, ⟨rfl, rfl⟩, ⟨rfl, rfl, rfl⟩, rfl⟩)
  · exact h

theorem State.memWrite_posts (u : Bool) (a : Nat) (bs : List Byte) (h : Posts z s) : Posts z (s.memWrite u a bs) := by
  unfold State.memWrite
  split
  · exact h.of_mem s.lp _ s.memc.ueLp _
  · exact h.of_mem _ s.under _ s.memc.ueUnder

theorem State.notify_posts (t : Ten) (v : Fin 2) (h : Posts z s) : Posts z (s.notify t v) := by
  have h' := State.tally_posts 11 (s.ten t).cfg.port.code 2 1 h
  unfold State.notify
  dsimp only
  split
  · exact h'
  · exact h'
  · exact h'.of_ports _ rfl
  · unfold State.modPort
    split
    all_goals first
      | contradiction
      | exact h'
      | exact h'.of_ports _ rfl

theorem State.evqPut_posts (t : Ten) (r : List Byte) (h : Posts z s) : Posts z (s.evqPut t r) := by
  have hw : Posts z (if (s.ten t).cfg.evqUnder then s else s.lpWake) := by
    split
    · exact h
    · exact State.lpWake_posts h
  unfold State.evqPut
  dsimp only
  split
  · exact State.notify_posts _ _ (Posts.of_evq (State.memWrite_posts _ _ _ hw) _ _ (fun _ => rfl))
  · exact Posts.of_evq (State.memWrite_posts _ _ _ hw) _ _ (fun _ => rfl)

theorem State.evqSeq_posts (t : Ten) (h : Posts z s) : Posts z (s.evqSeq t) := h.of_evq _ _ (fun _ => rfl)

theorem State.traceEvent_posts (t : Ten) (r : List Byte) (h : Posts z s) : Posts z (s.traceEvent t r) := by
  unfold State.traceEvent
  split
  · exact State.trace_posts _ _ h
  · exact h

theorem State.evqOverflow_posts (t : Ten) (h : Posts z s) : Posts z (s.evqOverflow t) := by
  unfold State.evqOverflow
  dsimp only
  split
  · exact State.traceEvent_posts _ _ (State.evqPut_posts _ _ (Posts.of_evq (State.evqSeq_posts _ h) _ _ (fun _ => rfl)))
  · exact h

theorem State.postNow_posts (t : Ten) (code src : Nat) (all : Bool) (cseq : Option Word) (p : List Word)
    (h : Posts z s) : Posts z (s.postNow t code src all cseq p) := by
  have h' := State.evqOverflow_posts t h
  unfold State.postNow
  dsimp only
  split
  · exact h'
  · split
    · exact Posts.of_evq (State.traceEvent_posts _ _ (State.evqSeq_posts _ h')) _ _ (fun _ => rfl)
    · exact State.evqPut_posts _ _ (Posts.of_evq (State.traceEvent_posts _ _ (State.evqSeq_posts _ h')) _ _
        (fun _ => rfl))

theorem State.postRaw_posts (t : Ten) (code src : Nat) (all : Bool) (cseq : Option Word) (p : List Word)
    (h : Posts z s) : Posts z (s.postRaw t code src all cseq p) := by
  unfold State.postRaw
  split
  · exact h.of_evq _ _ (fun _ => rfl)
  · exact State.postNow_posts _ _ _ _ _ _ h

theorem forEach_posts {α : Type} (xs : List α) {f : α → State → State} (h : Posts z s)
    (hf : ∀ x s', Posts z s' → Posts z (f x s')) : Posts z (forEach xs f s) := by
  unfold forEach
  induction xs generalizing s with
  | nil => exact h
  | cons x xs ih => exact ih (hf x s h)

theorem State.postList_posts (ts : List Ten) (code src : Nat) (all : Bool) (cseq : Option Word) (p : List Word)
    (h : Posts z s) : Posts z (s.postList ts code src all cseq p) :=
  forEach_posts ts h (fun _ _ k => State.postRaw_posts _ _ _ _ _ _ k)

theorem State.relAppendView_posts (r : RelRec) (h : Posts z s) : Posts z (s.relAppendView r) := by
  unfold State.relAppendView
  dsimp only
  repeat' split
  all_goals first
    | exact State.tally_posts _ _ _ _ (h.of_reliq _ rfl rfl rfl)
    | exact State.postList_posts _ _ _ _ _ _ (State.tally_posts _ _ _ _ (h.of_reliq _ rfl rfl rfl))

theorem State.relAppend_posts (r : RelRec) (h : Posts z s) : Posts z (s.relAppend r) := by
  unfold State.relAppend
  repeat' split
  all_goals first
    | exact h
    | exact h.of_reliq _ rfl rfl rfl
    | exact State.tally_posts _ _ _ _ (h.of_reliq _ rfl rfl rfl)
    | exact State.relAppendView_posts _ h

theorem State.notice_posts (code src : Nat) (fault : Bool) (ten : Option Ten) (p : List Word) (h : Posts z s) :
    Posts z (s.notice code src fault ten p) := State.relAppend_posts _ h

theorem State.noticeEv_posts (code src : Nat) (ten : Option Ten) (p : List Word) (h : Posts z s) :
    Posts z (s.noticeEv code src ten p) := by
  unfold State.noticeEv
  split
  · exact State.notice_posts _ _ _ _ _ h
  · exact h

theorem State.post_posts (t : Ten) (code src : Nat) (cseq : Option Word) (p : List Word) (h : Posts z s) :
    Posts z (s.post t code src cseq p) := State.noticeEv_posts _ _ _ _ (State.postRaw_posts _ _ _ _ _ _ h)

theorem State.postTo_posts (ts : List Ten) (code src : Nat) (cseq : Option Word) (p : List Word) (h : Posts z s) :
    Posts z (s.postTo ts code src cseq p) := State.noticeEv_posts _ _ _ _ (State.postList_posts _ _ _ _ _ _ h)

theorem State.postAll_posts (code src : Nat) (cseq : Option Word) (p : List Word) (h : Posts z s) :
    Posts z (s.postAll code src cseq p) := State.noticeEv_posts _ _ _ _ (State.postList_posts _ _ _ _ _ _ h)

theorem State.blocked_posts (h : Posts z s) : Posts z s.blocked := by
  unfold State.blocked
  have h1 := State.fresh_posts 32 h
  generalize s.fresh 32 = p at h1
  obtain ⟨v, s1⟩ := p
  have h2 := State.fresh_posts 32 h1
  dsimp only at h2 ⊢
  generalize s1.fresh 32 = q at h2
  exact State.notice_posts _ _ _ _ _ (State.gfix_posts _ _ h2)

theorem State.outside_posts (t : Ten) (n : Nat) (h : Posts z s) : Posts z (s.outside t n) := by
  unfold State.outside
  split
  · exact h
  · exact State.tally_posts _ _ _ _ (State.gfix_posts _ _ h)

theorem State.outsideWrite_posts (t : Ten) (n : Nat) (h : Posts z s) : Posts z (s.outsideWrite t n) := by
  unfold State.outsideWrite
  split
  · exact h
  · exact State.blocked_posts (State.outside_posts _ _ h)

end

end Sys2Proof.Machine
end

