-- ==== Sys2Proof/Laws/Quagal.lean ====
section
/-!
SUPPORT. What a Lectern does, said once: what stands at a PC, what a retirement charges and moves, and what an instruction
that writes only its own ring leaves.
-/

namespace Sys2Proof.Machine

/-! ### The Gallery set aside -/

/-- The state but for what its Gallery counts and traces. -/
def State.noGal (s : State) : State := { s with gal := { tens := s.gal.tens, off := s.gal.off } }

@[simp] theorem State.gfix_noGal (s : State) (i n : Nat) : (s.gfix i n).noGal = s.noGal := by
  unfold State.gfix
  split
  · rfl
  · split <;> rfl

@[simp] theorem State.tally_noGal (s : State) (b u e n : Nat) : (s.tally b u e n).noGal = s.noGal := by
  unfold State.tally
  split <;> rfl

@[simp] theorem State.trace_noGal (s : State) (ty : Nat) (p : List Byte) : (s.trace ty p).noGal = s.noGal := by
  unfold State.trace
  split
  · rfl
  · dsimp only
    repeat' split
    all_goals (rw [State.gfix_noGal]; rfl)

@[simp] theorem State.modRing_noGal (s : State) (r : RingId) (f : RingSt → RingSt) :
    (s.modRing r f).noGal = s.noGal.modRing r f := rfl

theorem State.ring_noGal (s : State) (r : RingId) : s.noGal.ring r = s.ring r := rfl

/-- Two states that are equal but for what the Gallery counts and traces. -/
theorem State.of_noGal {s t : State} (h : t.noGal = s.noGal) :
    t = { s with gal := { t.gal with tens := s.gal.tens, off := s.gal.off } } := by
  have e : t = { t.noGal with gal := { t.gal with tens := t.noGal.gal.tens, off := t.noGal.gal.off } } := rfl
  rw [h] at e
  exact e

/-! ### What stands at a PC -/

/-- What the context of an instruction at a PC holds. -/
theorem State.atPc_op {s : State} {r : RingId} {c : OpCtx} {ws : List Word} (h : s.atPc r = .op c ws) :
    c.ring = r ∧ (s.ring r).owner = some c.ten ∧ c.g = (s.ring r).g ∧ c.pos = (s.ring r).pc ∧ c.action = false ∧
      opAssigned (opOf c.w) = true ∧ s.ringReady r = true ∧ (s.ring r).wait = none ∧
      ∃ p, (s.ring r).pkt = some p ∧ c.seq = p.seq ∧ c.pos + opWords c.w ≤ p.len := by
  unfold State.atPc at h
  dsimp only at h
  split at h
  · rename_i t p ho hp
    split at h
    · cases h
    · rename_i hr
      split at h
      · cases h
      · cases h
      · split at h
        · cases h
        · rename_i ha
          split at h
          · cases h
          · rename_i hl
            split at h
            · cases h
            · split at h
              · cases h
              · cases h
                simp only [Bool.not_eq_true, Bool.or_eq_true, Bool.not_eq_eq_eq_not, Bool.not_true, not_or] at hr ha
                refine ⟨rfl, ho, rfl, rfl, rfl, ?_, ?_, ?_, p, hp, rfl, ?_⟩
                · simpa using ha
                · simpa using hr.1
                · cases hw : (s.ring r).wait with
                  | none => rfl
                  | some x => simp [hw] at hr
                · dsimp only
                  omega
  · cases h

/-! ### Retirement -/

/-- What a retirement charges. -/
@[simp] theorem State.charge_noGal (s : State) (c : OpCtx) (k : Nat) :
    (s.charge c k).noGal = s.noGal.modRing c.ring (fun q => { q with budget := q.budget - k }) := by
  unfold State.charge
  dsimp only
  split <;> simp

/-- The last step of a retirement: a packet whose PC reaches LEN completes. -/
def RingSt.packetDone (q : RingSt) : RingSt :=
  match q.pkt with
  | some p =>
    if q.pc = p.len then { q with rd := (q.rd + 2 + p.len) % q.words, cseq := p.seq, pkt := none, pc := 0 } else q
  | none => q

theorem State.packetEnd_noGal (s : State) (r : RingId) :
    (s.packetEnd r).noGal = s.noGal.modRing r RingSt.packetDone := by
  unfold State.packetEnd
  dsimp only
  split
  · rename_i p hp
    split
    · rename_i hl
      simp only [State.tally_noGal, State.modRing_noGal]
      refine State.modRing_congr _ _ _ _ ?_
      simp [RingSt.packetDone, State.ring_noGal, hp, hl]
    · rename_i hl
      rw [State.modRing_same]
      simp [RingSt.packetDone, State.ring_noGal, hp, hl]
  · rename_i hp
    rw [State.modRing_same]
    simp [RingSt.packetDone, State.ring_noGal, hp]

/-- An instruction with no cause against it, within its budget, retires. -/
theorem State.runOp_retires {s : State} {r : RingId} {op : Nat} {o : OpSem} {c : OpCtx} {ws : List Word}
    (h : s.atPc r = .op c ws) (hop : opOf c.w = op) (hc : o.allCauses c s = []) (hs : o.stall c s = false)
    (hb : o.cost c ≤ (s.ring r).budget) : s.runOp r op o = (s.keepFetched r).retire o c := by
  have hd : (o.decodeCauses c s).isEmpty = true := by
    simp only [OpSem.allCauses, List.append_eq_nil_iff] at hc
    simp [hc.1.1]
  have hb' : ¬ o.cost c > (s.ring r).budget := by omega
  simp [State.runOp, h, hop, hs, hc, lowest, hb']

/-- The same for an instruction that writes nothing but its own ring: the state after it. -/
theorem State.runOp_ring {s : State} {r : RingId} {op : Nat} {o : OpSem} {c : OpCtx} {ws : List Word}
    (h : s.atPc r = .op c ws) (hop : opOf c.w = op) (hc : o.allCauses c s = []) (hs : o.stall c s = false)
    (hb : o.cost c ≤ (s.ring r).budget) (F : RingSt → RingSt)
    (hrun : ∀ x, (o.run c x).noGal = x.noGal.modRing r F) :
    (s.runOp r op o).noGal = s.noGal.modRing r (fun q => RingSt.packetDone (F { q with
      pkt := q.pkt.map (fun p => { p with buf := s.fetched (s.ring r) p })
      budget := q.budget - o.cost c
      pc := c.pos + opWords c.w })) := by
  have hr : c.ring = r := (State.atPc_op h).1
  rw [State.runOp_retires h hop hc hs hb]
  unfold State.retire
  dsimp only
  rw [hr, State.packetEnd_noGal, hrun]
  simp only [State.modRing_noGal, State.charge_noGal, State.keepFetched, hr, State.modRing_modRing]
  refine State.modRing_congr _ _ _ _ ?_
  rfl

end Sys2Proof.Machine
end

