-- ==== Sys2Proof/Machine/Emit.lean ====
section
/-!
DEFINITION. What the light outputs give at an instant, as functions of the state: the Array link (09_engine_ports R281 to
R284), the line buffer (08_scanout R267), pixel timing and laser codes (09 R288, R289, R298; 10_light_drive R317, R318),
current sinks (10 R308 to R312) and the matrix columns (10 R327 to R329).
-/

namespace Sys2Proof.Machine

/-! ### The Array link -/

/-- The pixel that lane `l` carries in unit interval `i` of a plane load (R281). -/
def ChapRec.lanePixel (p : ChapRec) (l i : Nat) : Nat × Nat :=
  let k := p.w / max p.lanes 1
  (l * k + i % k, i / k)

/-- The header of slot `n`'s plane, and the PARK header (R282). -/
def ChapRec.planeHeader (p : ChapRec) (f : FrameSt) (n : Nat) : Word :=
  mkWord [(0xA5, 24, 8), ((p.slotPlane n).1, 22, 2), ((p.slotPlane n).2, 18, 4), (n, 12, 6), (f.bell, 0, 12)]
def parkHeader : Word := mkWord [(0xA5, 24, 8), (3, 22, 2)]

/-- T_load and t_rst of an Array Chapel, as times (R281, R283). -/
def ChapRec.loadLen (p : ChapRec) : Time := cdiv (4 * p.w * p.h) (p.lanes * p.rate)
def ChapRec.rstLen (p : ChapRec) : Time := 4 * p.tRst

/-- The start of the load of the slot that comes next in a shown frame: within the slot before it, so that it ends at least
t_rst before that slot does (R262, R283; log entry 101). -/
def FrameSt.nextLoad (f : FrameSt) (p : ChapRec) : Time :=
  let n := f.nextSlot
  let len := if 21 < n then p.slotLen (n - 1) else if f.cutAt.isSome then p.slotLen 0 else f.tM
  f.slotAt + Config.loadDelay f.bell n % (len - p.loadLen - p.rstLen + 1)

/-- The start of the load of slot 0 of a frame: after the read point of its bands (R256, R262, R283; log entry 101). -/
def FrameSt.firstLoad (f : FrameSt) (p : ChapRec) : Time :=
  let last := f.tB + cyc 650 - p.rstLen - p.loadLen
  max (min last (f.tB - us 224)) (last - Config.loadDelay f.bell 0 % (us 250 + 1))

/-- The plane load in progress on an Array Chapel's link, or the next one: its frame, its slot and its start. -/
def State.loadOf' (s : State) (c : Chap) : Option (FrameSt × Nat × Time) :=
  match (s.chap c).frame, (s.chap c).coming, (s.chap c).rec' with
  | some f, g, some p =>
    if f.next = 0 then some (f, 0, f.firstLoad p)
    else if f.nextSlot < p.count then some (f, f.nextSlot, f.nextLoad p)
    else g.map (fun g => (g, 0, g.firstLoad p))
  | none, some g, some p => some (g, 0, g.firstLoad p)
  | _, _, _ => none

/-- The end of that load (R283). -/
def State.planeLoadEnd (s : State) (c : Chap) : Option Time :=
  match (s.chap c).rec', s.loadOf' c with
  | some p, some (_, _, a) => some (a + p.loadLen)
  | _, _ => none

/-- The unit interval of a lane at this instant, counted from another. -/
def ChapRec.unitAt (p : ChapRec) (now from' : Time) : Nat := (now - from') * p.rate / 4

/-- The clock lane runs: from the record's check of a start sequence until the Chapel is parked (R282, R291). -/
def State.clockLane (s : State) (c : Chap) : Bool := (s.chap c).acEn

/-- What the lanes carry of a start sequence: the training pattern, or one of the three planes of 0 with its number and unit
interval. -/
inductive StartLane
  | idle | train (i : Nat) | zero (k i : Nat)
  deriving DecidableEq, Repr

/-- The lanes in a start sequence (R291). -/
def State.startLane (s : State) (c : Chap) : StartLane :=
  let q := s.chap c
  match q.state, q.rec', q.seqPhase with
  | .starting, some p, .train => .train (p.unitAt s.now q.phaseAt)
  | .starting, some p, .zeros =>
    let k := (s.now - q.phaseAt) / max p.tMinT 1
    if k < 3 then .zero k (p.unitAt s.now (q.phaseAt + k * p.tMinT)) else .idle
  | _, _, _ => .idle

/-- The control lane at this instant (R282): the header of the load in progress or PARK, least significant bit first, in the first
32 unit intervals; 0 elsewhere, and the alternating pattern of training. -/
def State.ctlLane (s : State) (c : Chap) : Bool :=
  let q := s.chap c
  match q.state, q.rec' with
  | .run, some p =>
    (match s.loadOf' c with
     | some (f, n, a) =>
       let i := p.unitAt s.now a
       !p.scan && a ≤ s.now && i < 32 && bit (p.planeHeader f n) i
     | none => false)
  | .stopping, some p =>
    let i := p.unitAt s.now q.stopAt
    !p.scan && i < 32 && bit parkHeader i
  | .starting, _ =>
    (match s.startLane c with
     | .train i => i % 2 = 0
     | .zero k i => i < 32 && (if 24 ≤ i then nbit 0xA5 (i - 24) else nbit (Config.zeroHeader k).toNat i)
     | .idle => false)
  | _, _ => false

/-- Data lane `l` at this instant (R281): the bits of the plane being loaded, else 0; no data follows PARK. -/
def State.dataLane (s : State) (c : Chap) (l : Nat) : Bool :=
  match (s.chap c).state, (s.chap c).rec', s.loadOf' c with
  | .run, some p, some (f, n, a) =>
    let i := p.unitAt s.now a
    let x := p.lanePixel l i
    !p.scan && l < p.lanes && a ≤ s.now && x.2 < p.h &&
      s.shownBit (if (s.chap c).frame == some f then s.shown else s.ovl) c p f n x.1 x.2
  | .starting, some p, _ => l < p.lanes && (match s.startLane c with
    | .train i => i % 2 = 0
    | _ => false)
  | _, _, _ => false

/-- ACn_RSTB is low for 100 ns up to an instant. -/
def State.rstbTo (s : State) (a : Time) : Bool := s.now < a && a ≤ s.now + 40

/-- ACn_RSTB is low: up to the start of the next slot, and of the end of each plane of 0 of a start sequence (R283, R291). -/
def State.rstbLow (s : State) (c : Chap) : Bool :=
  let q := s.chap c
  match q.state, q.frame, q.rec' with
  | .run, some f, some p => !p.scan && f.nextSlot < p.count && (f.slotStart p f.nextSlot).elim false s.rstbTo
  | .starting, _, some p => q.seqPhase == .zeros && ([1, 2, 3].any (fun k => s.rstbTo (q.phaseAt + k * p.tMinT)))
  | _, _, _ => false

/-! ### Scan lines -/

/-- Word 3 of a line-buffer entry: KEY and the RECT that gave the pixel (R267). -/
def KStore.keyWord (k : KStore) (c : Chap) (x y : Nat) : Nat := (k.at' c x y).elim 0 (fun m => 1 + 2 * m.rect.val)

/-- The offset of entry `e` of the pixel-timing table in pixel-clock periods (R288). -/
def pixOff (e ht : Nat) : Nat := (e * ht + 2 ^ 23) / 2 ^ 24

/-- The periods of pixel `x` in a line (R288). -/
def FrameSt.pixSpan (f : FrameSt) (p : ChapRec) (ltr : Bool) (x : Nat) : Nat × Nat :=
  let off := fun i => pixOff (p.ptab.getD i 0) f.ht
  if ltr then (off x, off (x + 1)) else (off 0 + off p.w - off (x + 1), off 0 + off p.w - off x)

/-- The DAC code of a pixel value of `d` bits (R298, R317). -/
def laserDac (d lmax th span v : Nat) : Nat := if v = 0 then 0 else min lmax (th + (v * span + 2 ^ (d - 1)) / 2 ^ d)

/-- The code of a laser DAC at this instant: that of the pixel whose span holds the last pixel-clock edge, 0 outside the
line and outside RUN (R289, R297, R318). -/
def State.laserCode (s : State) (c : Chap) (col : Fin 3) : Nat :=
  let q := s.chap c
  match q.frame, q.rec' with
  | some f, some p =>
    if !(p.scan && q.state == .run && q.lasEn) || f.next = 0 || s.now < f.slotAt then 0
    else
      let n := f.next - 1
      let k := (s.now - f.slotAt) * p.pixclk / 400
      match (List.range p.w).find? (fun x => let e := f.pixSpan p (f.rightward n) x; e.1 ≤ k && k < e.2) with
      | none => 0
      | some x =>
        let o := s.out ((laserOuts c).getD col.val 8)
        laserDac p.depth (s.lmaxT c p.lMax) o.cfg.th o.active.code (chan3 (s.shownPx s.shown c p f x n) col.val)
  | _, _ => 0

/-! ### Current sinks -/

/-- An Array Chapel in RUN gives the pulse of a sink's colour (R262, R284). -/
def State.pulsing (s : State) (c : Chap) (o : OutId) : Bool :=
  let q := s.chap c
  match q.frame, q.rec' with
  | some f, some p => q.state == .run && 0 < f.next && f.slotAt ≤ s.now && s.now < f.until' &&
      p.sinks[(p.slotPlane (f.next - 1)).1]? == some o
  | _, _ => false

/-- A current sink conducts (R309, R310, R321). -/
def State.sinkOn (s : State) (o : OutId) : Bool :=
  let q := s.out o
  if !(s.live && isSink o && q.cfg.en) || q.stopped || q.pulseEnd then false
  else match s.pulseChap o with
  | some c => s.pulsing c o
  | none => q.dimOn ((s.now - q.periodFrom) / 2)

/-- The code a sink regulates to at this instant (R308). -/
def State.sinkCode (s : State) (o : OutId) : Nat := if s.sinkOn o then s.codeA o else 0

/-! ### The matrix -/

/-- The row slot that started last is behind its blanking of 16 µs. -/
def State.rowConducts (s : State) : Bool :=
  let m := s.light.matrix
  s.live && m.on && m.slotFrom - us 250 + us 16 ≤ s.now && s.now < m.slotFrom

/-- Row switch KM_ROWn is on: in the slot of its row, behind the blanking, in which every switch is off (R326, R327). -/
def State.rowOn (s : State) (row : Fin 8) : Bool := s.rowConducts && s.light.matrix.row - 1 == row

/-- A column of the row slot that started last conducts: after the blanking, for t_on (R327, R328). -/
def State.columnOn (s : State) (col : Fin 12) : Bool :=
  let m := s.light.matrix
  s.rowConducts && s.now < m.slotFrom - us 250 + us 16 + 2 * s.kmOn && at' m.lit (segAt (m.row - 1) col)

end Sys2Proof.Machine
end

