-- ==== Sys2Proof/Tests/Slice0.lean ====
section
/-!
SUPPORT. Tests: ill-formed commands, instruction words written out from the opcode table's encodings, and for every
statement with hypotheses concrete states and operands that meet them, clause by clause.
-/

open Sys2Proof Sys2Proof.Machine

namespace Sys2Proof.Tests

set_option Elab.async false

/-! ### A small device -/

/-- A device that runs: T0 SAFETY on SPI0 with RING0, T1 APP on PCIe with RING1, T2 APP on CAN0,
  T3 SERVICE on the service
port with RING15; LPDDR4X is trained, and one Bell has fired. -/
def W : State := { State.reset with
  tens := #v[
    { cfg := { bound := true, port := .spi0, cls := .safety, obs := 0xFF, evqUnder := true, evqSize := 2, evqBase := 0x4E1000 } },
    { cfg := { bound := true, port := .pcie, cls := .app, regBase := 0x1000000, regSize := 0x1000000, evqSize := 2,
               evqBase := 0x1000000 } },
    { cfg := { bound := true, port := .can0, cls := .app, evqUnder := true, evqSize := 2, evqBase := 0x4E2000 } },
    { cfg := { bound := true, port := .svc, cls := .service, obs := 0xFF, regBase := 0x2000000, regSize := 0x1000000,
               evqUnder := true, evqSize := 2, evqBase := 0x4E3000 }, cring := 15 }]
  rings := mapTabIdx (fun i q => if i = 0 then { q with owner := some 0, under := true, size := 2, base := 4992, budget := 512 }
    else if i = 1 then { q with owner := some 1, base := 512, budget := 512 }
    else if i = 15 then { q with owner := some 3, under := true, size := 2, base := 5000, budget := 512 } else q) State.reset.rings
  bell := { State.reset.bell with bellno := 1, lastAt := some 0 }
  power := { State.reset.power with postStart := false }
  memc := { train := .trained } }

/-- Bytes at an address, those of them that a memory lists. -/
def cells (a : Nat) (bs : List Byte) : Mem := (bs.zipIdx.filter (fun e => e.1 != 0)).map (fun e => (a + e.2, e.1))

/-- Tenant `t` has asked a management request. -/
def asks (s : State) (t : Ten) (code : Nat) (a : List Word) : State :=
  s.modBox t (fun b => { b with busy := true, pend := some (code, 7, a, 0) })

/-- A ring with a packet whose first words are fetched. -/
def onRing (s : State) (r : RingId) (ws : List Word) : State :=
  s.modRing r (fun q => { q with pkt := some { len := ws.length + 1, seq := 9, buf := ws.map some } })

/-- The instruction at the PC of a ring has an opcode, and its context is as asked. -/
def stands (s : State) (r : RingId) (op : Nat) (p : OpCtx → Bool) : Bool :=
  match s.atPc r with
  | .op c _ => opOf c.w == op && p c
  | _ => false

/-- That test gives the hypotheses of the instructions' statements. -/
theorem stands_meets {s : State} {r : RingId} {op : Nat} {p : OpCtx → Bool} (h : stands s r op p = true) :
    ∃ c, Stands s r op c ∧ p c = true := by
  unfold stands at h
  split at h
  · rename_i c ws hc
    simp only [Bool.and_eq_true, beq_iff_eq] at h
    exact ⟨c, ⟨⟨ws, hc⟩, h.1⟩, h.2⟩
  · cases h

/-- It may retire. -/
def retires (s : State) (r : RingId) (op : Nat) (o : OpSem) (p : OpCtx → Bool := fun _ => true) : Bool :=
  stands s r op (fun c => (o.allCauses c s).isEmpty && !o.stall c s && decide (o.cost c ≤ (s.ring r).budget) && p c)

theorem retires_meets {s : State} {r : RingId} {op : Nat} {o : OpSem} {p : OpCtx → Bool}
    (h : retires s r op o p = true) : ∃ c, Retires s r op o c ∧ p c = true := by
  obtain ⟨c, hs, hc⟩ := stands_meets h
  simp only [Bool.and_eq_true, List.isEmpty_iff, Bool.not_eq_true', decide_eq_true_eq] at hc
  exact ⟨c, ⟨hs, hc.1.1.1, hc.1.1.2, hc.1.2⟩, hc.2⟩

/-- An Array Chapel's profile, and a Scan Chapel's. -/
def arrayRec : ChapRec := { depth := 8, w := 64, h := 40, lanes := 1, rate := 1000, u := 4, parkMs := 2, rdyMs := 10 }
def scanRec : ChapRec := { scan := true, depth := 8, w := 64, h := 64, pixclk := 100, sPark := 5, slew := 1 }

/-- The same device at work: Chapel 0 shows an array, T0 and T3 hold a layer, a rectangle, a surface, an output,
  a rail and a
loop each, and segment 0 is mapped. -/
def R : State := { W with
  surfs := upd (upd W.surfs 0 (fun _ => [(1, { fmt := 2, prime := false, base := 0x40000, w := 64, h := 32 })])) 3
    (fun _ => [(1, { fmt := 2, prime := false, base := 0x80000, w := 64, h := 32 }),
      (2, { fmt := 7, prime := false, base := 0x80100, w := 64, h := 32 })])
  chaps := upd (upd W.chaps 0 (fun q => { q with
    state := .run
    rec' := some arrayRec
    layers := upd (upd q.layers 0 (fun _ => { holder := some 0, work := some {} })) 3 (fun _ => { holder := some 3, work := some {} })
    rects := upd (upd q.rects 1 (fun _ => { owner := .key 0 })) 2 (fun _ => { owner := .ten 3, work := some { x := 0, y := 0, w := 8, h := 8 } }) })) 2
    (fun q => { q with state := .run, rec' := some scanRec, armed := true, lasEn := true })
  light := { W.light with
    outs := upd W.light.outs 0 (fun q => { q with cfg := { en := true, owner := 3, cmax := 16383 } })
    rails := upd W.light.rails 0 (fun q => { q with en := true, owner := 3, vMin := 1000, vMax := 20000 }) }
  choir := { W.choir with
    valid := true
    slots := upd (upd W.choir.slots 0 (fun q => { q with cfg := { en := true, kind := .illum, owner := 3 }, len := 8 }))
      1 (fun q => { q with cfg := { en := true, kind := .fastAmp, owner := 3, target := 2 }, len := 8, state := .run }) }
  witness := { W.witness with
    valid := true
    pds := upd W.witness.pds 0 (fun q => { q with role := .keyField }) }
  key := { W.key with maps := [{ seg := 0, chap := 0, rect := 1, x := 0, y := 0, w := 8, h := 8 }] } }


/-- The same with an update journal in a state, and the consent of T0. -/
def RU (j : JState) : State :=
  (R.modTen 0 (fun q => { q with allowTo := some 100 })).modUpd (fun u => { u with
    jrec := { state := j, content := 1 }, jpos := 1 })

/-- The same with geometry in the registers of RING15. -/
def RG : State := R.modRing 15 (fun q => { q with g := mapTab (fun _ => 0x00080008#32) q.g })

/-! ### Ill-formed commands -/

theorem test_wf_doorbell_produce : (Instr.doorbellProduce 0 0 (2 ^ 20)).wf = false := by decide
theorem test_wf_doorbell_restart : (Instr.doorbellRestart 0 0 (2 ^ 20)).wf = false := by decide
theorem test_wf_doorbell_rebind : (Instr.doorbellRebind 0 0 (2 ^ 20)).wf = false := by decide
theorem test_wf_thermal_sample : (Instr.thermalSample [(0, 65537)]).wf = false := by decide
theorem test_wf_chime_feedback : (Instr.chimeTick 0 { fb := [((0, 0), 16384)] }).wf = false := by decide
theorem test_wf_vbak_sample : (Instr.vbakMvSample 65536).wf = false := by decide
theorem test_wf_mr4 : (Instr.mr4Read 8).wf = false := by decide
theorem test_wf_memory_hold : (Instr.memoryHoldCheck 8).wf = false := by decide
theorem test_wf_csi_frame : (Instr.csiFrameEnd { vc := 0, dtype := 0, w := 4097, h := 1, whole := true, bytes := [] }).wf = false := by decide
theorem test_wf_uds_transfer : (Instr.udsTransferData (List.replicate 4115 0)).wf = false := by decide +kernel
theorem test_wf_doorbell_last : (Instr.doorbellProduce 0 0 (2 ^ 20 - 1)).wf = true := by decide

/-! ### One step each -/

/-- RING0's word of `g` registers after one instruction of the ring's words. -/
def gAfter (c : RingId → Instr) (s : State) (i : Fin 16) : Word :=
  match exec (c 0) s with
  | .next t => at' (t.ring 0).g i
  | _ => 0

/-- `g0` and `g1` of RING0 hold these words. -/
def regs (a b : Word) (ws : List Word) : State :=
  (onRing W 0 ws).modRing 0 (fun q => { q with g := upd (upd q.g 0 (fun _ => a)) 1 (fun _ => b) })

-- ADD g2, g0, g1; SAR g2, g0, g1; MINS g2, g0, g1; MOVHI g0, 0x8001 (R152)
theorem test_add_wraps : gAfter .add (regs 0xFFFFFFFF 2 [0x10201000]) 2 = 1 := by decide
theorem test_sar_sign : gAfter .sar (regs 0x80000000 33 [0x18201000]) 2 = 0xC0000000 := by decide
theorem test_mins_sign : gAfter .mins (regs 0xFFFFFFFF 1 [0x1B201000]) 2 = 0xFFFFFFFF := by decide
theorem test_movhi_keeps : gAfter .movhi (regs 0x1234 0 [0x29008001]) 0 = 0x80011234 := by decide

-- the bytes of the CRC-32 check string "123456789" and of the SHA-256 example "abc", with the standards' results
theorem test_crc32 : crc32 [0x31, 0x32, 0x33, 0x34, 0x35, 0x36, 0x37, 0x38, 0x39] = 0xCBF43926 := by decide +kernel
theorem test_sha256 : (sha256 [0x61, 0x62, 0x63]).take 4 = [0xBA, 0x78, 0x16, 0xBF] := by decide +kernel

-- worked figures of the chapters on engine ports and light
theorem test_pix_off : pixOff 7263 758519 = 328 ∧ pixOff 58273 758519 = 2635 := by decide
theorem test_laser_dac : laserDac 12 12000 3200 9000 2048 = 7700 ∧
  laserDac 12 12000 3200 9000 4095 = 12000 := by decide
theorem test_sub_from : ({ active := { duty := 4096, period := 3, scramble := true }, lfsr := lfsrSeed 2 } : OutSt).subFrom 0 = 1355 := by decide

theorem witness_LowestCauseFaultsTheRing :
    (stands (onRing W 0 [0x00000001]) 0 0 (fun c => semNop.allCauses c (onRing W 0 [0x00000001]) == [6]) = true) ∧
    (stands (onRing (W.modRing 0 (fun q => { q with budget := 0 })) 0 [0]) 0 0 (fun c => (semNop.allCauses c (onRing W 0 [0])).isEmpty && decide (0 < semNop.cost c)) = true) := by
  and_intros <;> decide +kernel

theorem witness_ArithmeticWritesDst :
    ∀ e ∈ aluRows, stands (onRing W 0 [BitVec.ofNat 32 (e.op * 0x1000000) + 0x00300000,
      7]) 0 e.op (fun c => c.w &&& e.rsv == 0) = true := by
  decide +kernel

theorem witness_CompareWritesPredicate :
    (∀ k : Fin 12, stands (onRing W 0 [BitVec.ofNat 32 (0x2C004400 + 0x100000 * k.val)]) 0 0x2C (fun c => decide (fld c.w 20 4 < 12) && c.w &&& 0x3FF#32 == 0) = true) ∧
    (∀ k : Fin 12, stands (onRing W 0 [BitVec.ofNat 32 (0x2D004400 + 0x100000 * k.val)]) 0 0x2D (fun c => decide (fld c.w 20 4 < 12)) = true) := by
  and_intros <;> decide +kernel

theorem witness_FlowInstructions :
    (stands (onRing W 0 [0]) 0 0x00 (fun c => c.w &&& 0xFFFFFF#32 == 0) = true) ∧
    (stands (onRing W 0 [0x01000000]) 0 0x01 (fun c => c.w &&& 0xFFF00#32 == 0 && fld c.w 22 2 != 3) = true ∧
      (onRing W 0 [0x01000000]).target 0 0 = some true) ∧
    (∀ m : Fin 3, stands (onRing W 0 [BitVec.ofNat 32 (0x01100001 + 0x400000 * m.val),
      0]) 0 0x01 (fun c => c.w &&& 0xFFF00#32 == 0 && fld c.w 22 2 == m.val) = true ∧
      (onRing W 0 [BitVec.ofNat 32 (0x01100001 + 0x400000 * m.val), 0]).target 0 1 = some true) ∧
    (stands (onRing W 0 [0x02300000, 0]) 0 0x02 (fun c => c.w &&& 0xFFF00#32 == 0) = true ∧
      (onRing W 0 [0x02300000, 0]).target 0 0 = some true) := by
  and_intros <;> decide +kernel

theorem witness_SystemReads :
    (stands (onRing W 0 [0x2E200000]) 0 0x2E (fun c => c.w &&& 0xFFFF#32 == 0 && fld c.w 16 4 == 0 &&
      fld c.w 20 4 % 2 == 0) = true) ∧
    (∀ k : Fin 7, stands (onRing W 0 [BitVec.ofNat 32 (0x2E310000 + 0x10000 * k.val)]) 0 0x2E (fun c => c.w &&& 0xFFFF#32 == 0 && fld c.w 16 4 == k.val + 1) = true) := by
  and_intros <;> decide +kernel

/-- An instruction for each row of the statements about the picture, the light,
  the loops and the services: its opcode,
a state, a ring and its words. -/
def rowWit : List (Nat × State × RingId × List Word) := [
  (0x03, R, 15, [0x03100007]), (0x33, R, 15, [0x33000000]), (0x34, R, 0, [0x34800000]), (0x35, R, 0, [0x351F45DC]),
  (0x36, R, 0, [0x36080000]), (0x40, R, 15, [0x40052000, 0x00080200, 0x00100010]), (0x41, R, 15, [0x41020100, 7]),
  (0x42, R, 15, [0x42013000]), (0x43, R, 15, [0x43010000]), (0x44, R, 15, [0x44013200, 16]),
  (0x48, R, 15, [0x4809A000]), (0x49, R, 15, [0x49060000]), (0x4A, R, 15, [0x4A060100, 0, 0x00100010]),
  (0x4B, R, 15, [0x4B060000, 0, 0x00200010]), (0x4C, RG, 15, [0x4C062000]), (0x4D, R, 15, [0x4D070000]),
  (0x4E, R, 15, [0x4E068000]), (0x4F, R, 15, [0x4F070000]), (0x50, R, 15, [0x50074000]),
  (0x51, R, 0, [0x51000000, 0x00010002, 3]), (0x52, R, 0, [0x520E0000, 0, 0x00080008]), (0x53, R, 15, [0x53088000]),
  (0x60, R, 15, [0x60063FFF]), (0x61, R, 15, [0x61060000]), (0x62, R, 0, [0x62000000]), (0x63, R, 15, [0x63066000]),
  (0x70, R, 15, [0x70000064]), (0x71, R, 15, [0x71000064]), (0x72, R, 15, [0x72010000]),
  (0x73, R, 15, [0x73000000, 0x50200010]), (0x74, R, 15, [0x74000200]), (0x80, R, 15, [0x80000000]),
  (0x81, R, 15, [0x81000000, 5]), (0x82, R, 15, [0x82040000]), (0x83, R, 15, [0x83000000, 0x01000001]),
  (0x84, R, 15, [0x84001100, 5]), (0x85, R, 15, [0x85100000]), (0x90, R, 15, [0x90100010, 1000, 5]),
  (0x91, R, 15, [0x91110000, 0x00010010]), (0x92, R, 15, [0x92000000]), (0xA0, R, 0, [0xA0800000]),
  (0xA1, R, 0, [0xA1012000]), (0xA2, R, 0, [0xA2010E00, 0x00080008, 0x00080008]), (0xA3, R, 0, [0xA3000001, 0]),
  (0xA4, R, 0, [0xA4044000, 0x00010100]), (0xA5, R, 0, [0xA5000000]), (0xB0, R, 15, [0xB0000007]),
  (0xB1, R, 15, [0xB1410000]), (0xB2, R, 15, [0xB2200000]), (0xB8, R, 0, [0xB8000100]), (0xC0, R, 15, [0xC0001010]),
  (0xC1, R, 15, [0xC1000000]), (0xC2, R, 15, [0xC2010000, 0, 4]), (0xC8, RU .staged, 15, [0xC8000000, 0]),
  (0xC9, RU .trial, 15, [0xC9000000, 0]), (0xCA, RU .staged, 15, [0xCA000000]), (0xCB, R, 15, [0xCB000010])]

/-- A row has its witness. -/
abbrev Met (e : EffRow) : Prop :=
  ∃ x ∈ rowWit, x.1 = e.op ∧ retires (onRing x.2.1 x.2.2.1 x.2.2.2) x.2.2.1 e.op e.sem = true

/-- An SPUT whose words end four bytes past the tenant's region, of LPDDR4X in self-refresh. -/
def sputAt (off : Word) : State := { onRing R 15 [0x44013200, off] with memc := { R.memc with selfRef := true } }

theorem witness_SurfaceInstructions :
    (∀ e ∈ surfRows, Met e) ∧
    (retires (onRing R 15 [0x44013200, 16]) 15 0x44 semSput (fun c => (onRing R 15 [0x44013200, 16]).memc.selfRef == false &&
      ((at' R.surfs c.ten).lookup (fld c.w 16 8)).all (fun x => decide ((R.ten c.ten).cfg.regBase ≤ 64 * x.base + c.e1.toNat ∧
        64 * x.base + c.e1.toNat + 4 * fld c.w 8 4 ≤ (R.ten c.ten).cfg.regBase + (R.ten c.ten).cfg.regSize))) = true) ∧
    (retires (sputAt 16) 15 0x44 semSput = true) := by
  and_intros <;> decide +kernel

/-- Layer 3 of Chapel 0 was claimed at this edge by RING15, whose tenant is T3; RING0 claims it too. -/
def tied : State :=
  let s := onRing R 15 [0x48060000, 0]
  (s.modChap 0 (fun q => { q with
    layers := upd q.layers 3 (fun l => { l with claim := some { at' := R.now, ring := 15, before := s.ring 15 } }) })).modRing 15
    (fun q => { q with pc := 1 })

theorem witness_LayerInstructions :
    (∀ e ∈ layerRows, Met e) ∧
    (retires (onRing R 15 [0x4809A000]) 15 0x48 semLnew (fun c => (R.layer (fld c.w 17 7)).holder.isNone) = true) ∧
    (retires (onRing tied 0 [0x48060000]) 0 0x48 semLnew (fun c => (tied.layer (fld c.w 17 7)).holder.isSome &&
      (tied.claimTie (fld c.w 17 7)).any (fun k => k.ring == 15 && k.before.owner.isSome)) = true) := by
  and_intros <;> decide +kernel
theorem witness_ChapelWideInstructions : ∀ e ∈ chapelRows, Met e := by decide +kernel
theorem witness_LightTargetInstructions : ∀ e ∈ lightRows, Met e := by decide +kernel
theorem witness_LoopInstructions : ∀ e ∈ loopRows, Met e := by decide +kernel
theorem witness_KeystoneInstructions : ∀ e ∈ keyRows, Met e := by decide +kernel
theorem witness_TenantInstructions : ∀ e ∈ tenantRows, Met e := by decide +kernel
theorem witness_UnitInstructions :
    (retires (onRing R 15 [0x33000000]) 15 0x33 semCommit = true) ∧ (∀ e ∈ serviceRows, Met e) ∧
    (∀ e ∈ unitRows, ∃ x ∈ rowWit, x.1 = e.op ∧ retires (onRing x.2.1 x.2.2.1 x.2.2.2) x.2.2.1 e.op e.sem = true) := by
  and_intros <;> decide +kernel

/-- RING0 with words in its body and its producer index behind them. -/
def ringHas (ws : List Word) : State := { W.modRing 0 (fun q => { q with prod := ws.length, lastSeq := some 5 }) with
  under := cells (4992 * 1024) (wordsBytes ws) }

/-- RING15 with an instruction at its PC, and Bell 1 of `R` announced, its latch step done or not. -/
def announced (s : State) (latch : Bool) : State :=
  { s with bell := { s.bell with ann := some 1000, latchDone := latch } }

/-- RING15 waits for Bell `b` at a WAITB. -/
def waiting (b : Nat) : State := (onRing W 15 [0x30080001]).modRing 15 (fun q => { q with wait := some (.bell .fire b 1) })

theorem witness_PacketStartChecksHeader :
    ((ringHas [0xB0000001, 9, 0]).ringReady 0 = true ∧ ((ringHas [0xB0000001, 9, 0]).ring 0).pkt = none ∧
    2 ≤ ((ringHas [0xB0000001, 9, 0]).ring 0).avail ∧
    (ringHas [0xB0000001, 9, 0]).ringWord ((ringHas [0xB0000001, 9, 0]).ring 0) 0 = some 0xB0000001 ∧
    (ringHas [0xB0000001, 9, 0]).ringWord ((ringHas [0xB0000001, 9, 0]).ring 0) 1 = some 9) ∧
    ((ringHas [0xA0000001, 4, 0]).ringReady 0 = true ∧
    (ringHas [0xA0000001, 4, 0]).ringWord ((ringHas [0xA0000001, 4, 0]).ring 0) 0 = some 0xA0000001 ∧
    ((ringHas [0xA0000001, 4, 0]).ring 0).lastSeq = some 5 ∧ precedes 5 4 = false) ∧
    ((ringHas [0xA00000FC, 6, 0]).ringReady 0 = true ∧
    (ringHas [0xA00000FC, 6, 0]).ringWord ((ringHas [0xA00000FC, 6, 0]).ring 0) 0 = some 0xA00000FC ∧
      precedes 5 6 = true) := by
  and_intros <;> decide +kernel

theorem witness_RingFaultState :
    ((W.ring 0).owner = some 0 ∧ (W.ring 0).cause ≠ 2) ∧
    (((W.modRing 0 (fun q => { q with fatal := true })).ring 0).fatal = true ∧ (W.ten 0).cfg.bound = true ∧
      (W.ten 0).faulted = false) ∧
    ((W.ring 2).owner = none) := by
  and_intros <;> decide +kernel

theorem witness_WaitbWaits :
    (retires (onRing W 15 [0x30200000, 1, 0]) 15 0x30 semWaitb (fun c =>
    c.w.getLsbD 21 && Passed (onRing W 15 [0x30200000, 1, 0]) .fire (bellOf c)) = true) ∧
    (retires (onRing W 15 [0x30200000, 2, 0]) 15 0x30 semWaitb (fun c =>
    c.w.getLsbD 21 && !decide (Passed (onRing W 15 [0x30200000, 2, 0]) .fire (bellOf c))) = true) ∧
    (retires (onRing W 15 [0x30080001]) 15 0x30 semWaitb (fun c => !c.w.getLsbD 21) = true) := by
  and_intros <;> decide +kernel

theorem witness_WaitbEnds :
    (((waiting 2).ring 15).wait = some (.bell .fire 2 1) ∧ stands { waiting 2 with
    rings := upd (waiting 2).rings 15 (fun q => { q with wait := none }) } 15 0x30 (fun _ => true) = true ∧
    1 ≤ ((waiting 2).ring 15).budget ∧ ¬ LetGo (waiting 2) .fire 2) ∧
    (LetGo (waiting 1) .fire 1) ∧
    (¬ LetGo (announced (waiting 2) true) .latch 2) ∧
    (LetGo { announced (waiting 2) true with now := 1000 + us 1260 } .latch 2) := by
  and_intros <;> decide +kernel

theorem witness_FenceWaits :
    (retires (onRing W 15 [0x32000000]) 15 0x32 semFence (fun c => fld c.w 22 2 == 0) = true) ∧
    (retires (onRing (W.modTen 3 (fun q => { q with commit := some 7 })) 15 [0x32400000]) 15 0x32 semFence
    (fun c => fld c.w 22 2 == 1) = true) := by
  and_intros <;> decide +kernel

theorem witness_AtQueuesItsAction :
    (retires (onRing R 15 [0x31010002, 0x4D070000]) 15 0x31 semAt (fun c =>
    !c.w.getLsbD 22 && !decide (Passed R .latch (R.bell.bellno.toNat + fld c.w 0 16))) = true) ∧
    (retires (onRing R 15 [0x31410000, 1, 0, 0x4D070000]) 15 0x31 semAt (fun c =>
    c.w.getLsbD 22 && !c.w.getLsbD 23 && Passed R .latch (bellOf c)) = true) ∧
    (retires (onRing R 15 [0x31C10000, 1, 0, 0x4D070000]) 15 0x31 semAt (fun c =>
    c.w.getLsbD 22 && c.w.getLsbD 23 && Passed R .latch (bellOf c)) = true) := by
  and_intros <;> decide +kernel

/-- A framed request of one word. -/
def req (op : Nat) (addr : Nat) (data : List Word := []) (n : Nat := 1) : FReq :=
  { op := BitVec.ofNat 8 op, tag := 3, nwm1 := BitVec.ofNat 16 (n - 1), addr := BitVec.ofNat 32 addr, data := data }

/-- RING0 in the fault state, with a cause. -/
def faulted (cause : Nat) : State := W.modRing 0 (fun q => { q with state := .fault, cause := cause })

/-- No tenant is bound. -/
def unbound : State := { W with tens := State.reset.tens }

/-- An update service that takes a stream from T3. -/
def loading : State := W.modUpd (fun u => { u with load := some { ten := 3, last := 0 } })

theorem witness_ForeignWindowsAreInert :
    (W.portsOn = true ∧ W.asleep = false ∧ W.portTen .spi0 = some 0 ∧ 0x2218 < 0x5000 ∧
      0x2218 / 4096 ≠ (0 : Ten).val + 1) ∧
    ((0x1218 : Nat) < 0x5000 ∧ (0x3#4 : BitVec 4) ≠ 0xF#4) ∧
    ((0x121A : Nat) < 0x5000 ∧ 0x121A % 4 ≠ 0) := by
  and_intros <;> decide +kernel

theorem witness_WindowWrites :
    OpenAt W .spi0 0 := by
  decide +kernel

theorem witness_BellnoReadsAreAtomic :
    (W.portsOn = true ∧ W.portTen .spi0 = some 0 ∧ (W.ten 0).hiHold = none) ∧
    (((W.modTen 0 (fun q => { q with hiHold := some 5 })).ten 0).hiHold = some 5) := by
  and_intros <;> decide +kernel

theorem witness_CounterReadsAreAtomic :
    (OpenAt W .spi0 0 ∧ (at' W.gal.tens 0).holding = none) ∧
    ((at' { W.gal with tens := upd W.gal.tens 0 (fun q => { q with holding := some (galNumber 0 5, 9#32) }) }.tens 0).holding =
    some (galNumber 0 5, 9#32)) := by
  and_intros <;> decide +kernel

theorem witness_MailboxCommands :
    (Opened W 0 ∧ (W.box 0).busy = false ∧ (W.box 0).ready = false ∧ fld (0x0B010700#32) 16 16 ∈ requestCodes ∧
      W.needsSession 0 = false ∧ (W.box 0).len ≤ 1040) ∧
    (((W.modBox 0 (fun b => { b with ready := true })).box 0).ready = true) ∧
    (¬ fld (0xFFFF0700#32) 16 16 ∈ requestCodes ∧ W.aisleRuns = true) ∧
    ((W.box 0).idx < 1040) := by
  and_intros <;> decide +kernel

theorem witness_DoorbellsTaken :
    (Opened W 0 ∧ (W.ring 0).owner = some 0 ∧ (W.ten 0).faulted = false ∧ (W.ten 0).resetAt = none ∧
    W.needsSession 0 = false ∧ 1023 < 256 * 2 ^ (W.ring 0).size ∧ 1023 < 2 ^ 20) ∧
    (((faulted 5).ring 0).state = .fault ∧ ((faulted 5).ring 0).cause ≠ 2) ∧
    (((faulted 2).ring 0).state = .fault ∧ (freeSpares (faulted 2)).min? ≠ none) := by
  and_intros <;> decide +kernel

theorem witness_DoorbellsRefused :
    (((W.modTen 0 (fun q => { q with faulted := true })).ten 0).faulted = true) ∧
    (256 * 2 ^ (W.ring 0).size ≤ 1024 ∧ 1024 < 2 ^ 20) ∧
    ((W.ring 0).state ≠ .fault) ∧
    (((faulted 2).ring 0).state = .fault ∧ ((faulted 2).ring 0).cause = 2) ∧
    (freeSpares { faulted 2 with spares := [] } = []) := by
  and_intros <;> decide +kernel

theorem witness_RestartAndRebind :
    ((W.ring 0).owner = some 0 ∧ 1 ≤ W.bell.bellno.toNat ∧
    ((W.modRing 0 (fun q => { q with pend := some (false, 3, 1) })).ring 0).pend = some (false, 3, 1)) ∧
    (((W.modRing 0 (fun q => { q with pend := some (true, 3, 1), spare := some 16 })).ring 0).pend = some (true, 3, 1) ∧
    ((W.modRing 0 (fun q => { q with pend := some (true, 3, 1), spare := some 16 })).ring 0).spare = some 16 ∧ ∀ r' : RingId, r' ≠ 0 → (W.ring r').pend = none) := by
  and_intros <;> decide +kernel

theorem witness_TenantRegisterWrites :
    (Opened W 0 ∧ (1#32).getLsbD 0 = true ∧ (W.ten 0).resetAt = none) ∧
    (((W.modTen 0 (fun q => { q with resetAt := some 2 })).ten 0).resetAt ≠ none) ∧
    ((W.ten 0).faulted = false ∧ ((W.modTen 0 (fun q => { q with wdogFrom := some 0 })).ten 0).wdogFrom ≠ none) ∧
    ((2#32).getLsbD 0 = false) ∧
    (fld 0#32 0 12 < 16 * 2 ^ (W.ten 0).cfg.evqSize ∧ (0 : Nat) % (16 * 2 ^ (W.ten 0).cfg.evqSize) ≤
    ((W.ten 0).evq.wr + 16 * 2 ^ (W.ten 0).cfg.evqSize - (W.ten 0).evq.rd) % (16 * 2 ^ (W.ten 0).cfg.evqSize)) ∧
    (16 * 2 ^ (W.ten 0).cfg.evqSize ≤ fld 64#32 0 12) ∧
    (((W.ten 0).evq.wr + 64 - (W.ten 0).evq.rd) % 64 < (fld 1#32 0 12 + 64 - (W.ten 0).evq.rd) % 64) := by
  and_intros <;> decide +kernel

theorem witness_TenantFaults :
    ((W.ten 0).cfg.bound = true ∧ (W.ten 0).faulted = false ∧
    ((W.modTen 0 (fun q => { q with wdogFrom := some 0, cfg := { q.cfg with wdogMs := 10 } })).ten 0).wdogFrom = some 0 ∧
    0 + ms 10 ≤ { W with now := ms 10 }.now) ∧
    (W.live = true ∧ ({ W with now := ms 10, ports := { W.ports with dllDownAt := some 0 } } : State).linkGone (W.portOf 1) = true) ∧
    ((W.ten 1).cfg.port = .pcie) ∧
    (W.portTen .can0 = some 2) := by
  and_intros <;> decide +kernel

theorem witness_LinkState :
    (unbound.isCls 1 .safety = false ∧ unbound.isCls 1 .app = false ∧ unbound.isCls 1 .service = false) ∧
    (W.portsOn = true ∧ W.ports.perst = false) ∧
    ((at' { W.ports with canSt := upd W.ports.canSt 0 (fun q => { q with busOff := true }) }.canSt 0).busOff = true) := by
  and_intros <;> decide +kernel

theorem witness_FramedRequests :
    (OpenAt W .spi0 0 ∧ Sent W .spi0 (req 1 0x1800 [9]) ∧ (req 1 0x1800 [9]).nwm1.toNat + 1 ≤ HostPort.nwMax .spi0 ∧
    (req 1 0x1800 [9]).op = 0x01#8 ∧ (req 1 0x1800 [9]).addr.toNat = winAt 0 0x800) ∧
    (OpenAt W .svc 3 ∧ Sent W .svc (req 2 0) ∧ (req 2 0).op = 0x02#8 ∧ (req 2 0).addr.toNat = 0) ∧
    (Sent W .spi0 (req 3 1022 [9, 8] 2) ∧ fld (req 3 1022 [9, 8] 2).addr 28 4 = 0 ∧
      fld (req 3 1022 [9, 8] 2).addr 20 8 = 0 ∧
    (W.ring 0).owner = some 0 ∧ (W.ring 0).under = true ∧
      fld (req 3 1022 [9, 8] 2).addr 0 20 + 2 ≤ 256 * 2 ^ (W.ring 0).size) ∧
    (Sent W .svc (req 4 0x10 [9, 8] 2) ∧ (req 4 0x10 [9, 8] 2).addr.toNat % 4 = 0 ∧
      0x10 + 4 * 2 ≤ (W.ten 3).cfg.regSize ∧
    W.lpUsable = true) ∧
    (Sent W .svc (req 5 0xFFFFF8 [] 2) ∧ 0xFFFFF8 + 4 * 2 ≤ (W.ten 3).cfg.regSize ∧ W.memc.ueLp = []) ∧
    (Sent W .spi0 (req 6 63 [] 8) ∧ (req 6 63 [] 8).addr.toNat < 16 * 2 ^ (W.ten 0).cfg.evqSize ∧
      (W.ten 0).cfg.evqUnder = true ∧
    W.memc.ueUnder = []) ∧
    (Sent W .can0 (req 7 0) ∧ (req 7 0).op = 0x07#8 ∧ 1 ≤ HostPort.nwMax .can0) := by
  and_intros <;> decide +kernel

theorem witness_FramedLoad :
    OpenAt loading .svc 3 ∧ Sent loading .svc (req 8 0 [1, 2] 2) ∧ (req 8 0 [1, 2] 2).op = 0x08#8 ∧
    loading.update.load = some { ten := 3, last := 0 } ∧
      ({ ten := 3, last := 0 } : LoadJob).got = (req 8 0 [1, 2] 2).addr.toNat := by
  decide +kernel

theorem witness_FramedErrors :
    (W.portsOn = true ∧ ({ req 7 0 with crcOk := false } : FReq).crcOk = false ∧ (req 7 0).classical = false ∧
      (req 7 0).skip = false) ∧
    ((req 7 0 [] 1042).nwm1.toNat + 1 > HostPort.nwMax .svc) := by
  and_intros <;> decide +kernel

theorem witness_PcieRegionAccess :
    (OpenAt W (.pf 1) 1 ∧ W.lpUsable = true ∧ 0xFFFFFE + [1, 2].length ≤ (W.ten 1).cfg.regSize) ∧
    (0xFFFFF8 + 4 * 2 ≤ (W.ten 1).cfg.regSize ∧ W.memc.ueLp = []) := by
  and_intros <;> decide +kernel

/-- A metric of the recorder with one sample. -/
def metered : State := W.modRel (fun q => { q with accs := [{ code := 0x10, samples := 1 }] })

/-- The node has address 0 of a chain, and holds a complete sweep. -/
def chained : State := { W with chain := { W.chain with
  addr := some 0
  length := 1
  sweep := some { id := 4, steps := 1, stepBells := 1, start := 1, first := 0, units := 1, done := [[1, 2, 3, 4]], complete := true } } }

theorem witness_PictureQueriesAnswer :
    (Asks (asks R 3 0x0304 [2]) 3 0x0304 [2] ∧ ([2].getD 0 (0 : Word)).toNat = (2 : Chap).val ∧
    (asks R 3 0x0304 [2]).mayChapel 3 = true) ∧
    (Asks (asks R 1 0x0304 [2]) 1 0x0304 [2] ∧ (asks R 1 0x0304 [2]).mayChapel 1 = false) ∧
    (Asks (asks R 3 0x0401 [13]) 3 0x0401 [13] ∧ outOf 13 = some 13) ∧
    (Asks (asks R 3 0x0402 []) 3 0x0402 []) ∧
    (Asks (asks R 3 0x0501 [15]) 3 0x0501 [15] ∧ ([15].getD 0 (0 : Word)).toNat = (15 : Slot).val) ∧
    (Asks (asks R 3 0x0501 [16]) 3 0x0501 [16] ∧ 16 ≤ ([16].getD 0 (0 : Word)).toNat) ∧
    (Asks (asks R 3 0x0503 []) 3 0x0503 []) ∧
    (Asks (asks R 3 0x0601 [7]) 3 0x0601 [7] ∧ ([7].getD 0 (0 : Word)).toNat = (7 : Pd).val) := by
  and_intros <;> decide +kernel

theorem witness_SystemQueriesAnswer :
    (Asks (asks W 3 0x0701 []) 3 0x0701 []) ∧
    (Asks (asks W 3 0x0801 [9]) 3 0x0801 [9] ∧ ([9].getD 0 (0 : Word)).toNat = (9 : Fin 10).val) ∧
    (Asks (asks W 3 0x0801 [0xFF]) 3 0x0801 [0xFF]) ∧
    (Asks (asks W 3 0x0B01 []) 3 0x0B01 [] ∧ (asks W 3 0x0B01 []).notApp 3 = true) ∧
    (Asks (asks W 3 0x0B02 [65520, 16]) 3 0x0B02 [65520, 16] ∧ 65520 + 16 ≤ 65536 ∧
      (asks W 3 0x0B02 []).notApp 3 = true) ∧
    (Asks (asks metered 3 0x0B06 [0x10]) 3 0x0B06 [0x10] ∧ metricCode 0x10 = true ∧ metered.notApp 3 = true ∧
    metered.reliq.accs.find? (fun x => x.code == 0x10) ≠ none) ∧
    (Asks (asks chained 3 0x0C01 []) 3 0x0C01 [] ∧ chained.chain.addr = some 0) ∧
    (Asks (asks W 3 0x0D01 []) 3 0x0D01 []) ∧
    (Asks (asks W 3 0x0E01 []) 3 0x0E01 []) := by
  and_intros <;> decide +kernel

/-- A Chapel record for an Array Chapel: 16 by 1 pixels, sinks 1 to 3. -/
def chapBytes : List Byte :=
  let b : List Byte := [0x43, 0x48, 0x53, 0x31, 0, 6, 0, 0, 16, 0, 1, 0, 68, 0, 0, 0, 8, 4, 1, 0, 1, 0, 1, 2, 3, 1,
    1, 0] ++
    List.replicate 36 0
  b ++ wordBytes (crc32 b)

/-- Profile 3 of Chapel 1 holds that record, and its sinks are enabled; Chapel 1 is in a state. -/
def profiled (c : ChState) : State := { R.modChap 1 (fun q => { q with state := c }) with
  profiles := [(7, chapBytes)]
  light := { R.light with outs := mapTab (fun q => { q with cfg := { q.cfg with en := true, owner := 3 } }) R.light.outs } }

theorem witness_ChapelRequestsWait :
    (Asks (asks R 3 0x0302 [2]) 3 0x0302 [2] ∧ (asks R 3 0x0302 [2]).mayChapel 3 = true ∧ (R.chap 2).state = .run ∧
    (R.chap 2).reqs = []) ∧
    (Asks (asks R 3 0x0302 [1]) 3 0x0302 [1] ∧ (R.chap 1).state = .off) ∧
    (Asks (asks R 3 0x0301 [2, 3]) 3 0x0301 [2, 3] ∧ (R.chap 2).state = .run ∧ 3 < 4) ∧
    (Asks (asks R 3 0x0303 [1, 3]) 3 0x0303 [1, 3] ∧ (R.chap 1).state = .off) ∧
    (Asks (asks (profiled .off) 3 0x0301 [1, 3]) 3 0x0301 [1, 3] ∧ ((profiled .off).chap 1).state = .off ∧
    (profiled .off).chapHot 1 = false ∧ (profiled .off).profile 1 3 = some chapBytes ∧
    ((asks (profiled .off) 3 0x0301 [1, 3]).chapCheck 1 chapBytes).toOption = some (chapParse chapBytes)) ∧
    (Asks (asks (profiled .run) 3 0x0303 [1, 3]) 3 0x0303 [1, 3] ∧ ((profiled .run).chap 1).state = .run ∧
    ((asks (profiled .run) 3 0x0303 [1, 3]).chapCheck 1 chapBytes).toOption = some (chapParse chapBytes)) := by
  and_intros <;> decide +kernel

/-- Rail 0 has stopped; slot 1 holds a capture that is done; the Witness watches Chapel 2; a freeze of T3 runs. -/
def busy : State :=
  (((R.modRail 0 (fun q => { q with stopped := true })).modSlot 1 (fun q => { q with
    cap := some { ten := 3, seq := 1, mask := 1, decim := 1, samples := 600, first := 0, units := 2, done := true } })).modPd 0
    (fun q => { q with chap := 2 })).modRel (fun q => { q with freeze := some { ten := 3, ms := 10, start := 0, startT := 0 } })

theorem witness_ControlRequests :
    (Asks (asks busy 3 0x0403 [0]) 3 0x0403 [0] ∧ (busy.rail 0).en = true ∧ (busy.rail 0).owner = 3 ∧
    (busy.rail 0).stopped = true ∧ at' busy.thermal.level 5 < 2) ∧
    (Asks (asks busy 3 0x0502 [1, 0, 1024]) 3 0x0502 [1, 0, 1024] ∧ (busy.slot 1).cap ≠ none ∧
    (busy.slot 1).cap.all (fun c => c.ten == 3 && c.done && 0 + 1024 ≤ c.bytes)) ∧
    (Asks (asks busy 3 0x0602 [0, 64]) 3 0x0602 [0, 64] ∧ busy.isCls 3 .service = true ∧
      (busy.pdIn 0).role ≠ .unused ∧
    (busy.chap (busy.pdIn 0).chap).state = .run ∧ busy.witness.cal = none) ∧
    (Asks (asks W 0 0x0702 [0, 8, 7, 9]) 0 0x0702 [0, 8, 7, 9] ∧ W.isCls 0 .safety = true ∧
      0 + 8 ≤ primeSize - primeArea) ∧
    (Asks (asks W 0 0x0703 []) 0 0x0703 [] ∧ W.prime.setBusy = none) ∧
    (Asks (asks W 3 0x0704 [0, 1024]) 3 0x0704 [0, 1024] ∧ 0 + 1024 ≤ primeSize ∧ W.isCls 3 .service = true) ∧
    (Asks (asks W 3 0x0B03 [10000]) 3 0x0B03 [10000] ∧ W.notApp 3 = true ∧ W.reliq.freeze = none ∧
      W.reliq.thawAt = none) ∧
    (Asks (asks busy 3 0x0B04 []) 3 0x0B04 [] ∧ busy.reliq.freeze ≠ none ∧
      busy.reliq.freeze.all (fun f => f.ten == 3)) ∧
    (Asks (asks W 3 0x0B05 []) 3 0x0B05 [] ∧ W.cloister.life = 0) ∧
    (Asks (asks W 3 0x0D02 [47, 0x2400]) 3 0x0D02 [47, 0x2400] ∧ W.needsSession 3 = false ∧ selValid 0x2400 = true ∧
    W.selAllowed 3 0x2400 = true) ∧
    (Asks (asks W 3 0x0D03 [7]) 3 0x0D03 [7] ∧ ∀ i : Fin 3, (W.ten 3).cfg.obs.getLsbD (5 + i.val) = true) ∧
    (Asks (asks chained 3 0x0C02 [0, 4, 0, 64]) 3 0x0C02 [0, 4, 0, 64] ∧ chained.chain.addr = some 0) ∧
    (Asks (asks chained 3 0x0C03 [0xFFFF]) 3 0x0C03 [0xFFFF] ∧ chained.chain.length ≤ 1 ∧
    chained.chain.sweep.all (fun w => w.complete) = true ∧ chained.chain.sweep ≠ none) := by
  and_intros <;> decide +kernel

/-- A device in a lifecycle state whose requester T3 has a nonce, with owner slot 0 used. -/
def lived (n : Nat) : State :=
  ({ W with cloister := { W.cloister with life := n, otp := [(0x50, 9), (0xD0 + 31, 1)] } }).modClo 3 (fun q => { q with
    nonce := some (List.replicate 32 7, 0) })

theorem witness_CloisterRequests :
    (W.memOk ∧ AsksClo (asks W 0 0x0901 []) 0 0x0901 []) ∧
    (AsksClo (asks W 0 0x0902 []) 0 0x0902 [] ∧ (0 : Ten) ≠ 3) ∧
    (AsksClo (asks W 3 0x0902 [7]) 3 0x0902 [7] ∧ (asks W 3 0x0902 [7]).memOk ∧ W.cloister.life = 0 ∧
    W.power.restart = false ∧ W.cloister.trngError = false ∧
    W.provValid 0 = false ∧ W.provValid 1 = false ∧ W.provFree 0 = true) ∧
    (AsksClo (asks (lived 1) 3 0x0903 []) 3 0x0903 [] ∧ (lived 1).memOk ∧ (lived 1).isCls 3 .service = true ∧
    (lived 1).cloister.life = 1 ∧ (lived 1).power.restart = false ∧ (lived 1).otpReady = true ∧
      (lived 1).nonce 3 = some (List.replicate 32 7)) ∧
    (AsksClo (asks W 0 0x0904 []) 0 0x0904 [] ∧ (at' W.cloister.reqs 0).busyUntil = none) ∧
    (AsksClo (asks (W.modClo 0 (fun q => { q with busyUntil := some 1 })) 0 0x0904 []) 0 0x0904 [] ∧
    (at' (W.modClo 0 (fun q => { q with busyUntil := some 1 })).cloister.reqs 0).busyUntil = some 1 ∧ W.now < 1) ∧
    (AsksClo (asks (lived 2) 3 0x0905 []) 3 0x0905 [] ∧ (lived 2).nonce 3 = some (List.replicate 32 7)) ∧
    (AsksClo (asks (lived 2) 0 0x0906 []) 0 0x0906 [] ∧ (lived 2).duk ≠ 0) ∧
    (AsksClo (asks (lived 2) 3 0x0907 []) 3 0x0907 [] ∧ (lived 2).cloister.life = 2 ∧ (lived 2).otpReady = true) ∧
    (AsksClo (asks (lived 2) 3 0x0908 []) 3 0x0908 [] ∧ (lived 2).cloister.life ≠ 0 ∧ (lived 2).otpReady = true ∧
      (lived 2).ownerSlot = some 0) ∧
    (AsksClo (asks W 0 0x0909 [64]) 0 0x0909 [64] ∧ W.cloister.trngError = false) := by
  and_intros <;> decide +kernel

/-- A header of a plain UPDATE image of 4100 bytes, not signed. -/
def hdr : List Byte := [0x46, 0x4C, 0x43, 0x49, 1, 0, 1, 0, 3, 0, 0x15, 0x07, 9, 0, 0, 0, 0, 0, 0, 0, 4, 0x10, 0,
  0] ++
  List.replicate 488 0

/-- A device that receives that image, all chunks stored or none. -/
def receiving (j : JState) (stored : Bool) : State :=
  { (W.modTen 0 (fun q => { q with allowTo := some 100 })).modUpd (fun u => { u with
      jrec := { state := j, content := 1, hdrHash := sha256 (wordsBytes (padTo 128 0 (bytesWords hdr))) }, jpos :=
        1 }) with
    moa := cells jHdrAddr hdr ++ (if stored then cells jMapAddr [0xA5, 0xA5] else []) }

theorem receiving_hash (j : JState) (b : Bool) :
    sha256 (wordsBytes (padTo 128 0 (bytesWords hdr))) = (receiving j b).update.jrec.hdrHash := by
  simp only [receiving, State.modUpd]

/-- An unsigned SETTINGS header, which a Blank unit takes (R519). -/
def setHdr : List Byte :=
  [0x46, 0x4C, 0x43, 0x49, 1, 0, 2, 0, 3, 0, 0x15, 0x07, 9, 0, 0, 0, 0, 0, 0, 0, 4, 0, 0, 0] ++
  List.replicate 488 0

theorem witness_UpdateRequests :
    (Asks (asks W 0 0x0A01 []) 0 0x0A01 []) ∧
    (AsksUpd (asks (receiving .receiving false) 3 0x0A02 (bytesWords hdr)) 3 0x0A02 (bytesWords hdr) ∧
    (receiving .receiving false).updStep = false ∧
    sha256 (wordsBytes (padTo 128 0 (bytesWords hdr))) = (receiving .receiving false).update.jrec.hdrHash) ∧
    (AsksUpd (asks (receiving .staged false) 3 0x0A02 (bytesWords hdr)) 3 0x0A02 (bytesWords hdr) ∧
    (receiving .staged false).update.jrec.state ≠ .receiving) ∧
    (AsksUpd (asks (receiving .receiving true) 3 0x0A03 [2, 7]) 3 0x0A03 [2, 7] ∧
    (receiving .receiving true).update.jrec.state = .receiving ∧ hdrChunks (receiving .receiving true).xferHdr ≤ 2) ∧
    (AsksUpd (asks (receiving .receiving false) 3 0x0A03 [1, 7]) 3 0x0A03 [1, 7] ∧
    1 < hdrChunks (receiving .receiving false).xferHdr ∧
    (wordsBytes ([1, 7].drop 1)).length = wireLen (receiving .receiving false).xferHdr 1 ∧
    (receiving .receiving false).destLocked (receiving .receiving false).xferHdr = false ∧
    ((receiving .receiving false).modUpd (fun u => { u with runOther := true })).destLocked
      (receiving .receiving false).xferHdr = true) ∧
    (AsksUpd (asks (receiving .receiving true) 3 0x0A04 []) 3 0x0A04 [] ∧
      (receiving .receiving true).complete = true) ∧
    (AsksUpd (asks (receiving .receiving false) 3 0x0A04 []) 3 0x0A04 [] ∧
      (receiving .receiving false).complete = false) ∧
    (((receiving .receiving true).modUpd (fun u => { u with check := some { route := .uds, ten := none, start := 0 } })).update.check ≠ none) ∧
    (AsksUpd (asks (receiving .staged true) 3 0x0A05 [9]) 3 0x0A05 [9] ∧
      (asks (receiving .staged true) 3 0x0A05 [9]).canArm (some 3) = true ∧
    [9].getD 0 0 = hdrVersion (receiving .staged true).xferHdr) ∧
    (AsksUpd (asks (receiving .staged true) 3 0x0A05 [8]) 3 0x0A05 [8] ∧
      [8].getD 0 0 ≠ hdrVersion (receiving .staged true).xferHdr) ∧
    (AsksUpd (asks W 3 0x0A06 []) 3 0x0A06 [] ∧ (W.ten 3).cfg.port = .svc ∧ W.updStep = false) ∧
    (AsksUpd (asks W 3 0x0A02 (bytesWords setHdr)) 3 0x0A02 (bytesWords setHdr) ∧
      W.update.jrec.state ≠ .receiving) := by
  and_intros <;> first | with_reducible exact receiving_hash .receiving false | decide +kernel

/-- An AT that awaits the latch step of Bell 2. -/
def withAt : State := (announced R false).modRing 15 (fun q => { q with
  ats := [AtAct.mk 2 2 false 3 [0x4D070000] q.g] })

/-- The Bell generator with a Chime anchor. -/
def chiming : State := { W with bell := { W.bell with anchor := Vector.replicate 4 (some 0) } }

theorem witness_BellCommands :
    (W.live = true ∧ W.bell.enabled = true ∧ W.bell.ann = none ∧ W.bell.winAt = none ∧ W.chain.following = false ∧
    W.chain.lost = false ∧ W.bell.lastAt = some 0 ∧ W.uncommitted = [] ∧ W.now ≤ 0 + cyc W.floorEff - us 1500 ∧
    (0 + cyc W.floorEff - us 1500) % 16 = 0) ∧
    ((announced W false).bell.ann ≠ none) ∧
    (((W.modTen 0 (fun q => { q with commit := some 4 })).ten 0).commit = some 4 ∧
    ((W.modTen 0 (fun q => { q with commit := some 4 })).ten 0).faulted = false ∧
    (W.modTen 0 (fun q => { q with commit := some 4 })).clearing 0 = false) ∧
    ((W.modTen 0 (fun q => { q with commit := some 4, resetAt := some 2 })).clearing 0 = true) ∧
    (((W.modTen 0 (fun q => { q with commit := some 4, faulted := true })).ten 0).faulted = true) ∧
    (withAt.bell.ann = some 1000 ∧ withAt.bell.latchDone = false) ∧
    ((announced W true).bell.ann = some 1000 ∧ W.chain.following = false) ∧
    (chiming.nextChime 0 = some 0 ∧ chiming.live = true) ∧
    (W.live = true ∧ W.power.takeover = none) ∧
    (({ W with power := { W.power with takeover := some 0, standbyReady := false } } : State).power.takeover = some 0) ∧
    (W.update.act = none) ∧
    ((announced W true).bell.latchDone = true) := by
  and_intros <;> decide +kernel

theorem witness_TenantAndCloisterEvents :
    (((W.modTen 0 (fun q => { q with resetAt := some 1 })).ten 0).resetAt = some 1 ∧ 1 ≤ W.bell.bellno.toNat) ∧
    (((W.modTen 0 (fun q => { q with evq := { q.evq with drop := 3 } })).ten 0).evq.drop ≠ 0 ∧
    (W.modTen 0 (fun q => { q with evq := { q.evq with drop := 3 } })).evqShut 0 = false) ∧
    (W.cloister.trngError = false) ∧
    ((at' (W.modClo 3 (fun q => { q with session := some { flags := 0, opened := 0, last := 0 } })).cloister.reqs 3).session ≠ none) ∧
    ((at' (W.modClo 3 (fun q => { q with busyUntil := some 5 })).cloister.reqs 3).busyUntil = some 5) ∧
    ((asks W 0 0x0901 []).power.boot = .up ∧ (asks W 0 0x0901 []).cloServed ≠ none) := by
  and_intros <;> decide +kernel

/-- A HANDOVER, or an ACTIVATE in a phase, is in progress; the exchange of slots is on. -/
def acting (handover : Bool) (p : ActPhase) : State :=
  { receiving .staged true with
    now := us 60000
    bell := { W.bell with ann := if handover then none else some (us 60000), lastAt := some (us 60000) }
    update := { (receiving .staged true).update with act := some { handover := handover, start := 0, phase := p } } }

def swapping (unit phase : Nat) : State :=
  { W with
    moa := cells (65536 * unit) [1, 2] ++ cells (0x800000 + 65536 * unit) [3]
    power := { W.power with tellAt := some 0 }
    update := { W.update with swapOn := true, jrec := { boot := 1, unit := unit, phase := phase }, jpos := 1 } }

theorem witness_UpdateEvents :
    (loading.update.load ≠ none) ∧
    ((acting true .ready).update.act ≠ none ∧ (acting true .ready).update.act.all (fun a => a.handover) = true ∧
    (acting true .ready).live = true ∧ (acting true .ready).now = (acting true .ready).tB ∧
    0 + us 37100 + us 1500 ≤ (acting true .ready).tB) ∧
    ((acting false .verify).bell.ann = some (us 60000) ∧ (acting false .verify).update.act.all (fun a =>
    !a.handover && a.phase == .verify && decide (a.start + us 35100 ≤ us 60000)) = true) ∧
    ((acting false .pause).update.act.all (fun a => a.phase == .pause && decide (a.dark ≤ 1)) = true ∧
    1 ≤ (acting false .pause).bell.bellno.toNat) ∧
    ((swapping 0 0).power.tellAt = some 0 ∧ (swapping 0 0).update.swapOn = true ∧
      (swapping 0 0).update.jrec.boot = 1 ∧
    (swapping 0 0).live = true ∧ (swapping 0 0).updStep = false ∧ Memory.wf (swapping 0 0).moa = true ∧
    (swapping 0 0).update.jpos < 1024 ∧ (swapping 0 0).update.jrec.unit ≤ 127 ∧
      (swapping 0 0).update.jrec.phase = 0) ∧
    ((swapping 127 0).update.jrec.unit = 127 ∧ (swapping 127 0).updStep = false ∧
      Memory.wf (swapping 127 0).moa = true) := by
  and_intros <;> decide +kernel

/-- The UDS server serves CAN0, in its programming session, with a nonce. -/
def udsSt (j : JState) (stored : Bool) : State :=
  (({ receiving j stored with ports := { W.ports with cfg := { W.ports.cfg with
      can := upd W.ports.cfg.can 0 (fun q => { q with uds := true }) } } }).modUds (fun u => { u with mode := .programming })).modClo
    udsReq (fun q => { q with nonce := some (List.replicate 32 7, 0) })

/-- The same asleep. -/
def udsVigil : State := { udsSt .idle false with power := { W.power with state := .vigil } }

theorem witness_UdsCommands :
    (UdsOn (udsSt .idle false)) ∧
    ((udsSt .idle false).update.uds.mode ≠ .default) ∧
    ((0x11#8 : Byte) ∉ [0x10#8, 0x22#8, 0x27#8, 0x31#8, 0x34#8, 0x36#8, 0x37#8, 0x3E#8]) ∧
    (UdsOn ((udsSt .idle false).modUds (fun u => { u with mode := .default })) ∧
    ((udsSt .idle false).modUds (fun u => { u with mode := .default })).update.uds.mode ≠ .programming) ∧
    ((udsSt .idle false).update.uds.mode = .programming ∧
      (at' (udsSt .idle false).cloister.reqs udsReq).busyUntil = none ∧
    (udsSt .idle false).cloister.trngError = false ∧ (udsSt .idle false).cloister.glitches.length < 8) ∧
    ((udsSt .idle false).nonce udsReq = some (List.replicate 32 7) ∧ (List.replicate 68 (2 : Byte)).length = 68 ∧
    (w32 (getLe (List.replicate 68 2) 0 4)).getLsbD 1 = true) ∧
    (UdsProg (udsSt .idle false) ∧ (udsSt .idle false).updStep = false ∧ setHdr.length = 512 ∧
    (udsSt .idle false).update.jrec.state ≠ .receiving ∧ (udsSt .idle false).hdrCheck .uds setHdr = none) ∧
    (UdsProg (udsSt .receiving true) ∧ (udsSt .receiving true).complete = true) ∧
    (UdsProg ((udsSt .staged true).modTen 3 (fun q => { q with allowTo := some 9 })) ∧
    ((udsSt .staged true).modTen 3 (fun q => { q with allowTo := some 9 })).canArm none = true) ∧
    (((udsSt .staged true).modTen 3 (fun q => { q with allowTo := some 9 })).canAct none false (w32 (getLe [0, 0, 0,
      0] 0 4)) = true) ∧
    (((udsSt .trial true).modTen 3 (fun q => { q with allowTo := some 9 })).canConfirm none (w32 (getLe [0, 0, 0,
      0] 0 4)) = true) ∧
    (((udsSt .staged true).modTen 3 (fun q => { q with allowTo := some 9 })).canDiscard none = true) ∧
    (((udsSt .idle true).modUds (fun u => { u with results := [(0xFD11, [0])] })).update.uds.results.lookup 0xFD11 = some [0]) ∧
    ([0, 0, 0x10, 0, 0, 0, 0, (4 : Byte)].length = 8 ∧ ofBe ([0, 0, 0x10, 0, 0, 0, 0, (4 : Byte)].take 4) % 4096 = 0 ∧
    ofBe ([0, 0, 0x10, 0, 0, 0, 0, (4 : Byte)].take 4) < hdrSize (udsSt .receiving true).xferHdr ∧
    ofBe ([0, 0, 0x10, 0, 0, 0, 0, (4 : Byte)].drop 4) = hdrSize (udsSt .receiving true).xferHdr - 4096) ∧
    (((udsSt .receiving false).modUds (fun u => { u with next := some 1, ctr := 255 })).update.uds.next = some 1 ∧
    255 < 256 ∧ 1 < hdrChunks (udsSt .receiving false).xferHdr ∧
      [1, 2, 3, (4 : Byte)].length = wireLen (udsSt .receiving false).xferHdr 1 ∧
      (udsSt .receiving false).destLocked (udsSt .receiving false).xferHdr = false) ∧
    (udsVigil.asleep = true ∧ udsVigil.udsOn = true) := by
  and_intros <;> decide +kernel

/-- Chapel 2 of `R` in a state, with an armed interlock and a mirror loop that has missed three steps. -/
def scanning (st : ChState) (why : Nat) : State :=
  (R.modChap 2 (fun q => { q with
    state := st
    rec' := some { scanRec with sPark := 0 }
    stopBell := if st = .run then some 1 else none
    stopWhy := why })).modSlot 1 (fun q => { q with consec := 3 })

/-- A start of Chapel 1 is due. -/
def starting : State := (profiled .off).modChap 1 (fun q => { q with startDue := some { profile := 3, ten := some 3 } })

theorem witness_ChapelEvents :
    (((scanning .run 0).chap 2).armed = true ∧ ((scanning .run 0).chap 2).state = .run ∧
    ((scanning .run 0).chap 2).rec' = some { scanRec with sPark := 0 } ∧ (0#14).toNat < { scanRec with aMin := 1 }.aMin ∧
    (scanning .run 0).tripCond 2 { scanRec with sPark := 0 } .state = none ∧
    (scanning .run 0).tripCond 2 { scanRec with sPark := 0 } .lock = some 3) ∧
    ((R.chap 0).armed = false) ∧
    ((R.chap 0).state = .run ∧ (0 : Chap).val < 2) ∧
    ((R.chap 2).state = .run ∧ 2 ≤ (2 : Chap).val) ∧
    (((scanning .run 0).slot 1).chap = some 2 ∧ ((scanning .run 0).slot 1).cfg.kind.mirror = true ∧
    3 ≤ ((scanning .run 0).slot 1).consec) ∧
    (((R.modChap 0 (fun q => { q with state := .starting })).chap 0).state = .starting ∧
    0 + arrayRec.startLimit ≤ { R with now := arrayRec.startLimit }.now) ∧
    (((scanning .run 0).chap 2).stopBell = some 1 ∧ 1 ≤ (scanning .run 0).bell.bellno.toNat) ∧
    (((scanning .stopping 0).chap 2).state = .stopping ∧
    ((scanning .stopping 0).passTo ((scanning .stopping 0).parkedAt 2)).parked 2 = true) ∧
    (((R.modChap 0 (fun q => { q with state := .stopping })).chap 0).state = .stopping ∧ arrayRec.scan = false) ∧
    ((starting.chap 1).startDue = some { profile := 3, ten := some 3 } ∧ (starting.chap 1).state = .off ∧
    (starting.startCheck 1 3 false).toOption = some (chapParse chapBytes)) ∧
    (({ starting with profiles := [] }.startCheck 1 3 false).toOption = none) ∧
    (((R.modChap 0 (fun q => { q with state := .starting })).chap 0).seqPhase = .check ∧ arrayRec.scan = false) ∧
    (scanRec.fMin ≤ scanRec.fMin ∧ scanRec.fMin ≤ scanRec.fMax) ∧
    (((scanning .starting 0).chap 2).state = .starting ∧ ((scanning .starting 0).chap 2).stopBell = none ∧
    (scanning .starting 0).choir.valid = true ∧
    (((scanning .starting 0).modChap 2 (fun q => { q with seqPhase := .locked })).chap 2).seqPhase = .locked) := by
  and_intros <;> decide +kernel

/-- Chapel 0 (an array) or 2 (a scan) shows a frame of Bell 1 from which `n` slots or lines have started; another comes. -/
def showing (n : Nat) : State :=
  let f : FrameSt := { bell := 1, next := n, tl0 := 5000, ht := 256 * 1000, floor := 400000, hasPrev := true, stored := true }
  let show' := fun (q : ChapSt) => { q with frame := some f, coming := some { f with next := 0 }, prev := some f }
  (((announced R false).modChap 0 show').modChap 2 show')

theorem witness_ScanOutEvents :
    (((showing 0).chap 0).state = .run ∧ ((showing 0).chap 0).rec' = some arrayRec ∧
      (1 : Fin 25).val < bandCount arrayRec.h ∧
    ((showing 0).chap 0).coming ≠ none ∧ (showing 0).bell.ann = some 1000 ∧ (showing 0).chain.following = false ∧
    (showing 0).memc.selfRef = false) ∧
    (({ showing 0 with memc := { R.memc with selfRef := true } } : State).memc.selfRef = true) ∧
    (((showing 5).chap 2).rec' = some scanRec ∧ scanRec.scan = true ∧ (1 : Fin 25).val < bandCount scanRec.h ∧
    ((showing 5).chap 2).frame ≠ none) ∧
    (((showing 5).chap 0).frame ≠ none ∧ ((showing 5).chap 0).frame.all (fun f => f.nextSlot == 5 && f.stored) = true ∧
      5 < arrayRec.count ∧ (5 : Nat) ≠ 0 ∧ (showing 5).memc.selfRef = false ∧ (showing 5).lpUsable = true) ∧
    ((R.chap 0).prev = none) ∧
    (((showing 5).chap 0).frame.all (fun f => (f.slotStart arrayRec f.nextSlot).isSome) = true) ∧
    (((showing 0).chap 2).frame.all (fun f => decide (f.next < scanRec.h)) = true) ∧
    (((showing 0).chap 0).prev ≠ none) := by
  and_intros <;> decide +kernel

/-- Sink 2 is dimmed at duty 5, on rail 0, with sensor 1. -/
def lit : State := (R.modOut 2 (fun q => { q with
  cfg := { q.cfg with en := true, owner := 3, rail := 0, sensor := 1 },
    active := { q.active with duty := 5 } })).modRail 0
    (fun q => { q with vSet := 1000 })
def lamps : State := { lit with light := { lit.light with matrix := { lit.light.matrix with
  on := true, always := Vector.replicate 96 true } }, ovl := { lit.ovl with on := Vector.replicate 96 true } }

/-- The same with one sample of sink 2 taken. -/
def sampled : State := lit.modOut 2 (fun q => { q with active := { q.active with duty := 0 }, samp := [5] })

theorem witness_LightEvents :
    (lit.live = true ∧ isSink 2 = true ∧ (lit.out 2).cfg.en = true ∧ lit.pulseChap 2 = none ∧
      (lit.out 2).pulseEnd = false ∧
    (lit.out 2).active.duty ≠ 0 ∧ lit.outLoop 2 = none) ∧
    ((lit.rail 0).en = true ∧ (lit.rail 0).stopped = false ∧ (lit.rail 0).vMin ≤ (lit.rail 0).vMax ∧
    lit.railSamples 0 [(2, [])] (lit.rail 0).lastStep ((lit.rail 0).lastStep + ms 1) = [] ∧
    (sampled.railSamples 0 [(2, [90])] (sampled.rail 0).lastStep ((sampled.rail 0).lastStep + ms 1)).map (·.2) = [90]) ∧
    ((lit.out 2).cfg.rail = (0 : Fin 2).val) ∧
    ((lit.out 2).cfg.sensor ≠ 0 ∧ (lit.out 2).pendDerate = none ∧
    [(1, some ((3, 232) : Byte × Byte))].lookup (lit.out 2).cfg.sensor = some (some (3, 232)) ∧
    [(1, (none : Option (Byte × Byte)))].lookup (lit.out 2).cfg.sensor = some none) ∧
    (lamps.live = true ∧ lamps.light.matrix.on = true ∧ [((3 : Fin 12), 2001)].lookup 3 = some 2001 ∧ 2000 < 2001 ∧
    lamps.kmLit (segAt lamps.light.matrix.row 3) = true) := by
  and_intros <;> decide +kernel

/-- The Choir at work: slot 0 held too long, slot 1 with a full capture and a table to store. -/
def looping : State :=
  (((R.modSlot 0 (fun q => { q with state := .run, consec := 64 })).modSlot 1 (fun q => { q with
    cap := some { ten := 3, seq := 1, mask := 1, decim := 1, samples := 600, first := 0, units := 2, taken := 600 } })).modPd 0
    (fun q => { q with deferral := 64 }))
def storing : State := { looping with choir := { looping.choir with
  pending := [{ ent := { type := 1, data := [1, 2] }, who := .training }]
  writing := [{ ent := { type := 1, data := [1, 2] }, who := .training }], writeFrom := none } }
def writing : State := { storing with choir := { storing.choir with writeFrom := some 0 } }

/-- A calibration of input 0 has ended; its background window has ended as well. -/
def witnessing (ann : Option Time) (now : Time) : State :=
  let s := R.modPd 0 (fun q => { q with
    bgs := if ann = none then [{ col := 0, starts := 0, w := 4, ends := now, upTo := now + 100 }] else [] })
  { s with
    now := now
    witness := { s.witness with cal := some { pd := 0, ten := 3, left := 0, frames := 4 } }
    bell := { R.bell with ann := ann }
    prime := { R.prime with kprime := some (5, 0, R.keyWritten) } }

theorem witness_LoopEvents :
    ((looping.slot 1).cap.all (fun c => !c.done && c.taken == c.samples) = true ∧ (looping.slot 1).cap ≠ none) ∧
    ((looping.slot 0).cfg.en = true ∧ (looping.slot 0).cfg.kind.mirror = false ∧ (looping.slot 0).state = .run ∧
    64 ≤ (looping.slot 0).consec) ∧
    (storing.live = true ∧ storing.choir.writeFrom = none ∧ storing.choir.pending ≠ []) ∧
    (writing.choir.writeFrom ≠ none) ∧
    (64 ≤ (looping.pdIn 0).deferral ∧ (looping.pdIn 0).reserved = false) ∧
    ((witnessing none 2000).witness.cal.all (fun x => x.left == 0) = true ∧
      (witnessing none 2000).witness.cal ≠ none) ∧
    ((witnessing (some 1000) 514600).live = true ∧ (witnessing (some 1000) 514600).bell.ann = some 1000 ∧
    stepOf (witnessing (some 1000) 514600).slotWait.now (1000 + us 1500 - us 216) 128 = some 0 ∧
    ((witnessing (some 1000) 514600).pdIn 0).darkAcc.length < 15) ∧
    ((witnessing none 2000).bell.ann = none ∧
      ((witnessing none 2000).slotWait.now - (witnessing none 2000).tB) % 20 = 0 ∧
    (forEach (allFin 8) (fun k z => z.bgExpire k (BgWin.over z.now)) (witnessing none 2000).slotWait).fgNext = none ∧
    ((forEach (allFin 8) (fun k z => z.bgExpire k (BgWin.over z.now)) (witnessing none 2000).slotWait).bgNext.map (·.1)) =
      some 0) ∧
    ((witnessing none 2000).prime.kprime ≠ none) := by
  and_intros <;> decide +kernel

/-- An announcement falls now, and every tenant tolerates a power state. -/
def resting (p : PowerState) : State := { (announced R false) with now := 1000, power := { W.power with target := p } }

/-- Entering, asleep in, or without a Vigil. -/
def vigil (entering waking : Bool) : State := { W with
  under := [(0x4E0000, 1), (0x500000, 2)]
  power := { W.power with
    state := if entering then .run else .vigil
    entering := if entering then some (.vigil, 0) else none
    waking := if waking then some .wakeIn else none
    save := some { ran := [], under := [(0x4E0000, 1)] }
    aonUp := true } }

/-- A power state of a device whose always-on part works or not. -/
def powerAt (state : PowerState) (boot : BootPhase) (aon vbak pwrEn : Bool) : State :=
  { W with power := { W.power with state := state, boot := boot, aonUp := aon, onVbak := vbak, pwrEn := pwrEn, cause := .powerReturn } }

theorem witness_PowerEvents :
    ((resting .vigil).entryDue .vigil = true ∧ ((resting .vigil).chap 0).state = .run) ∧
    ((resting .crypt).entryDue .crypt = true) ∧
    ((vigil true false).power.entering = some (.vigil, 0) ∧ (vigil true false).chapsStill = true) ∧
    ((vigil false true).power.state = .vigil ∧ (vigil false true).power.waking = some .wakeIn ∧
      (vigil false true).power.save ≠ none ∧
    (vigil false true).chain.held = [] ∧ (vigil false true).update.uds.held = none) ∧
    ((vigil false false).power.state = .vigil ∧ (vigil false false).power.entering = none ∧
      (vigil false false).power.aonUp = true ∧
    (vigil false false).power.boot ≠ .supplies ∧ WakeSrc.wakeIn ≠ .tolerance ∧
      (vigil false false).power.waking = none) ∧
    ((powerAt .run .ready true false true).power.entering = none ∧
      (powerAt .run .ready true false true).power.boot = .ready ∧
    (powerAt .run .ready true false true).power.testEn = false ∧
      (powerAt .run .ready true false true).power.cause ≠ .cold) ∧
    ((powerAt .run .up true false true).power.failAt = none ∧ (powerAt .run .up true false true).power.boot = .up ∧
    (powerAt .run .up true false true).powered = true) ∧
    (({ powerAt .crypt .none true true true with reliq := { W.reliq with flush := false } } : State).power.aonUp = true ∧ W.reliq.flush = false) ∧
    ({ powerAt .crypt .none true false false with now := ms 10 }.mayStart = true ∧ WakeSrc.wakeIn.deep = true ∧
      (powerAt .crypt .none true false false).power.entering = none ∧
      (powerAt .crypt .none true false false).power.waking = none) ∧
    ((powerAt .crypt .none true true true).power.onVbak = true) ∧
    ((powerAt .run .up true false true).power.aonUp = true ∧
      (powerAt .run .up true false true).power.onVbak = false) ∧
    ((powerAt .crypt .none true true false).power.onVbak = true ∧
      (powerAt .crypt .none true true false).power.pwrEn = false) ∧
    ((powerAt .run .none false false true).power.aonUp = false) ∧
    ((powerAt .run .supplies true false true).power.boot = .supplies) ∧
    (R.powered = true) ∧
    ((3 : Fin 4) ≠ 0) ∧
    (({ powerAt .crypt .none true false false with power := { (powerAt .crypt .none true false false).power with
    tripAt := some 5 } } : State).power.state = .crypt) := by
  and_intros <;> decide +kernel

/-- Channels 0 (die) and 1 (diode) convert; LPDDR4X is in self-refresh or not; hold, training and prime work go on. -/
def hot : State := { W with
  thermal := { W.thermal with
    hold := true
    chans := upd (upd W.thermal.chans 0 (fun q => { q with cfg := { q.cfg with mode := .die } })) 1 (fun q => { q with
      badRun := 2, cfg := { q.cfg with mode := .diode } }) } }
def memIdle (ref : Bool) (t : TrainState) : State := { W with
  power := { W.power with state := .idle }
  memc := { W.memc with selfRef := ref, train := t }
  prime := { W.prime with setBusy := some (5, 0, 0, 4) } }

/-- In Idle, after the Nave has stated 20 µs. -/
def told : State := (memIdle false .trained).tolTake { nave := us 20 }

theorem witness_SensorsAndMemory :
    (hot.thEnabled 0 = true ∧ (hot.th 0).dueAt ≤ hot.now ∧ (hot.th 0).cfg.convert 0x8000 = some (-32768)) ∧
    (hot.thEnabled 1 = true ∧ (hot.th 1).dueAt ≤ hot.now ∧ (hot.th 1).cfg.convert 4999 = none ∧
      2 ≤ (hot.th 1).badRun) ∧
    (W.live = true ∧ W.lpUsable = true) ∧
    (hot.live = true ∧ hot.thermal.hold = true ∧ 6 ≤ 7 % 8) ∧
    (W.power.state = .run) ∧
    (told.live = true ∧ told.power.state = .idle ∧ told.lpUsable = true ∧ told.memc.selfRef = false ∧
    us 20 ≤ told.tol) ∧
    ((memIdle true .trained).live = true ∧ (memIdle true .trained).memc.selfRef = true ∧
    (memIdle true .trained).thermal.hold = false ∧
    ((memIdle true .trained).tolTake { nave := us 20 }).needs.min? ≠ none ∧
    ({ req := true } : TolIn).req = true ∧ ({ nave := us 20 } : TolIn).req = false) ∧
    (W.live = true ∧ W.moaWriting = false ∧ W.memc.selfRef = false) ∧
    ((memIdle false .verify).memc.train = .verify ∧ (memIdle false .full).memc.train = .full ∧
    (memIdle false .reverify).memc.train = .reverify) ∧
    ((memIdle false .full).prime.setBusy = some (5, 0, 0, 4)) := by
  and_intros <;> decide +kernel

/-- The recorder at work: an accumulator is due, losses wait, a record is buffered, the view is frozen. -/
def recording : State := { W.modRel (fun q => { q with
  accs := [{ code := 0x10, samples := 1 }], closeDue := true, occLost := 2, flush := true
  buf := [(9, { kind := 1, src := 2, code := 3, time := 4, unset := false, fault := false, body := List.replicate 40 6 })]
  freeze := some { ten := 3, ms := 10, start := 0, startT := 0 } }) with
  nave := { W.nave with
    leaving := [{ bay := 2, due := 1, reason := 1, frame := 1 }]
    video := [{ vc := 1, ten := 0, chap := 0, z := 0, group := some 0 }] } }

theorem witness_RecorderAndNaveEvents :
    (recording.reliq.closeDue = true) ∧
    (recording.reliq.occLost ≠ 0 ∧ recording.reliq.buf.length < 1024 ∧ recording.reliq.occ.length < 64 ∧
      recording.aisleRuns = true) ∧
    (recording.reliq.flush = true ∧ recording.power.flushStopped = false ∧ recording.reliq.newestDirty = false ∧
    recording.reliq.buf ≠ []) ∧
    (recording.reliq.freeze ≠ none) ∧
    (recording.live = true ∧ (0 : Fin 4) ∈ recording.nave.alive ∧ ∀ l ∈ recording.nave.leaving, l.bay ≠ 0) ∧
    (recording.lpUsable = true ∧
      recording.nave.video.find? (fun b => b.vc = 1 && !b.ending && b.group.isSome) ≠ none) := by
  and_intros <;> decide +kernel

/-- A node with an address, both ports up. -/
def node (a : Nat) : State := { W with chain := { W.chain with
  u := { up := true, delay := 5 }, d := { up := true }, addr := some a, length := 9 } }

/-- The same that has sent a message of MSEQ 4 to node 3 four times. -/
def sending (a : Nat) : State :=
  let s := node a
  { s with
    now := ms 250
    chain := { s.chain with tx := upd s.chain.tx 3 (fun _ => [{ seq := 1, mseq := 4, dest := 3, words := [7], sent := some 0, tries := 4 }]) } }

/-- The same that takes part in a sweep, and, as node 0, runs one. -/
def sweeping (a : Nat) : State :=
  let s := node a
  { s with chain := { s.chain with
      following := true
      sweep := some { id := 4, steps := 2, stepBells := 1, start := 0, first := 0, units := 1 }
      run := some { ten := 3, id := 4, first := 0, last := 5, steps := 2, start := 0, stepBells := 1, endAt := some 9 } } }

/-- A frame from node 2 to node `dest`, for tenant 3. -/
def frame (type dest : Nat) (ws : List Word) : ChFrame := { type := type, dest := dest, src := 2, tnt := 3, words := ws }

theorem witness_ChainCommands :
    (W.chain.cfg.en = true ∧ W.chain.u.up = false ∧ W.chain.d.up = false) ∧
    ((node 5).chain.u.up = true ∧ (node 5).chain.d.up = true) ∧
    ({ node 5 with bell := { W.bell with lastAt := none } }.chain.cfg.follow = true ∧ (node 5).chain.addr = some 5 ∧
      (node 5).bell.ann = none ∧
    { node 5 with bell := { W.bell with lastAt := none } }.bell.lastAt = none) ∧
    ((sweeping 5).chain.following = true) ∧
    ({ (sweeping 5).chain with expect := some 4 }.expect ≠ none) ∧
    (Heard (node 5) true 5 ∧ Heard (node 5) false 5 ∧ (frame 0x20 3 []).bc = false ∧ (frame 0x20 3 []).dest ≠ 5 ∧
    (node 5).linkUp false = true ∧ (node 5).linkUp true = true) ∧
    ({ frame 0x10 3 [] with ending := FrameEnd.badCrc }.ending ≠ .good ∧ (frame 0x10 3 []).ending = .good) ∧
    (Heard (node 0) true 0) ∧
    (Heard (sweeping 0) true 0 ∧ (sweeping 0).chain.run.all (fun r => decide (r.first ≤ 5 ∧ 5 ≤ r.last)) = true ∧
      (sweeping 0).chain.run ≠ none) ∧
    ((frame 0x20 5 [4, 8]).bc = false ∧ (frame 0x20 5 [4, 8]).dest = 5 ∧ (node 5).isCls 3 .service = true ∧
    (at' (node 5).chain.rx 3).length < 32 ∧ (node 5).chain.seen = []) ∧
    ([((2, 3), (4 : Word))].find? (fun e => e.1 == (2, 3)) = some ((2, 3), 4)) ∧
    (Heard (sending 5) true 5 ∧ (sending 5).msgOf (frame 0x21 5 [4, 0]) ≠ none) ∧
    (Heard { asks (node 0) 3 0x0C02 [] with chain := { (node 0).chain with fetchFor := some (3, 2, 4, 0, 1) } } true 0 ∧
    ((asks (node 0) 3 0x0C02 []).box 3).pend ≠ none) ∧
    ((node 0).chain.sweep = none ∧ fld (0x00000009#32) 16 12 ≤ 0 ∧ 0 ≤ fld (0x00000009#32) 0 12 ∧
    poolFit (node 0).poolUsed (cdiv (16 * fld (0x07000003#32) 0 16) 1024) = some 0) ∧
    ((sweeping 0).chain.run.all (fun r => r.id == 4 && !r.posted) = true) ∧
    ((at' (sending 5).chain.tx 3).all (fun m => m.sent == some 0 && decide (0 + ms 250 ≤ (sending 5).now ∧
      3 ≤ m.tries)) = true ∧
    at' (sending 5).chain.tx 3 ≠ []) ∧
    ((sweeping 5).chain.sweep.all (fun x => !x.complete && !x.held && !x.lostStep && precedes
    ((sweeping 5).bell.bellno.setWidth 32 + (sweeping 5).chain.cbOff) (x.start + w32 ((x.done.length + 1) * x.stepBells)) == false) = true ∧
    (sweeping 5).chain.sweep ≠ none) ∧
    ((sweeping 0).chain.run.all (fun r => r.endAt == some 9) = true) := by
  and_intros <;> decide +kernel

end Sys2Proof.Tests
end

/-!
PROOFS. The identity page's BELLNO reads (01_architecture R45, R50): what a read of an identity-page word by a tenant's
port gives, what the two BELLNO words give and leave in the holding register, and O30 from the two.
-/

namespace Sys2Proof.Machine

/-! ### What a returned value and a restarted idle time leave -/

@[simp] theorem State.rdata_give (s : State) (t : Ten) (v : Word) : at' (s.give t v).ports.rdata t = v := at_upd _ _ _
@[simp] theorem State.ten_give (s : State) (t u : Ten) (v : Word) : (s.give t v).ten u = s.ten u := rfl
@[simp] theorem State.ten_touch (s : State) (t u : Ten) : (s.touch t).ten u = s.ten u := rfl

/-! ### The parts of BELLNO as words -/

theorem State.bn32_eq (s : State) : s.bn32 = s.bell.bellno.setWidth 32 := BitVec.ofNat_toNat 32 s.bell.bellno

/-- BELLNO[47:32] has 16 bits, so cutting it to its field loses nothing. -/
theorem State.bn_high (s : State) : s.bn / 2 ^ 32 = ((s.bell.bellno >>> 32).setWidth 16).toNat := by
  have hlt : s.bell.bellno.toNat < 2 ^ 48 := s.bell.bellno.isLt
  rw [BitVec.toNat_setWidth, BitVec.toNat_ushiftRight, Nat.shiftRight_eq_div_pow, State.bn, Nat.mod_eq_of_lt]
  omega

/-- The word of BELLNO_HI with STALE set: bit 31 lies above the 16-bit field, so their sum is their union. -/
theorem mkWord_stale (h : BitVec 16) : mkWord [(1, 31, 1), (h.toNat, 0, 16)] = 0x80000000#32 ||| h.setWidth 32 := by
  have hlt : h.toNat < 2 ^ 16 := h.isLt
  have hlt31 : h.toNat < 2 ^ 31 := by omega
  apply BitVec.eq_of_toNat_eq
  calc (mkWord [(1, 31, 1), (h.toNat, 0, 16)]).toNat
      = (0 + 1 % 2 ^ 1 * 2 ^ 31 + h.toNat % 2 ^ 16 * 2 ^ 0) % 2 ^ 32 := rfl
    _ = 2 ^ 31 * 1 + h.toNat := by omega
    _ = 2 ^ 31 * 1 ||| h.toNat := Nat.two_pow_add_eq_or_of_lt hlt31 1
    _ = (0x80000000#32).toNat ||| (h.setWidth 32).toNat := by
      rw [BitVec.toNat_setWidth_of_le (by decide)]; rfl
    _ = (0x80000000#32 ||| h.setWidth 32).toNat := (BitVec.toNat_or ..).symm

/-! ### The two BELLNO words -/

theorem State.bellnoLo_some (s : State) (t : Ten) : s.bellnoLo (some t) = (s.bell.bellno.setWidth 32,
    s.modTen t (fun q => { q with hiHold := some ((s.bell.bellno >>> 32).setWidth 16) })) := by
  simp only [State.bellnoLo, s.bn32_eq, s.bn_high, BitVec.ofNat_toNat, BitVec.setWidth_eq]

theorem State.bellnoHi_held (s : State) (t : Ten) (h : BitVec 16) (hh : (s.ten t).hiHold = some h) :
    s.bellnoHi (some t) = (h.setWidth 32, s.modTen t (fun q => { q with hiHold := none })) := by
  simp only [State.bellnoHi, hh, w32, BitVec.ofNat_toNat]

theorem State.bellnoHi_stale (s : State) (t : Ten) (hh : (s.ten t).hiHold = none) :
    s.bellnoHi (some t) = (0x80000000#32 ||| ((s.bell.bellno >>> 32).setWidth 16).setWidth 32, s) := by
  simp only [State.bellnoHi, hh, s.bn_high, mkWord_stale]

/-! ### A read of the identity page by a tenant's port -/

/-- The identity page is served asleep and awake (R640): the tenant's port returns the word, and the access restarts the
idle time of its session (R505). -/
theorem State.portRegRead_idPage {s : State} {p : HostPort} {t : Ten} {addr : Nat} (hon : s.portsOn = true)
    (hp : s.portTen p = some t) (ha : addr < 4096) :
    s.portRegRead p addr = ((s.idRead (some t) addr).2.touch t).give t (s.idRead (some t) addr).1 := by
  have hpage : addr / 4096 = 0 := Nat.div_eq_of_lt ha
  have hoff : addr % 4096 = addr := Nat.mod_eq_of_lt ha
  have hserved : ¬ 4096 ≤ addr := Nat.not_le.mpr ha
  simp only [State.portRegRead, State.regRead, State.giveTo, hon, hp, hpage, hoff, hserved, Bool.not_true,
    Bool.false_eq_true, decide_false, Bool.and_false, if_false, if_true, Option.elim_some]

theorem exec_bellnoLoRead {s : State} {p : HostPort} {t : Ten} (hon : s.portsOn = true) (hp : s.portTen p = some t) :
    exec (.bellnoLoRead p) s =
      .next (((s.bellnoLo (some t)).2.touch t).give t (s.bellnoLo (some t)).1) :=
  congrArg Host.Outcome.next (State.portRegRead_idPage hon hp (by decide))

theorem exec_bellnoHiRead {s : State} {p : HostPort} {t : Ten} (hon : s.portsOn = true) (hp : s.portTen p = some t) :
    exec (.bellnoHiRead p) s =
      .next (((s.bellnoHi (some t)).2.touch t).give t (s.bellnoHi (some t)).1) :=
  congrArg Host.Outcome.next (State.portRegRead_idPage hon hp (by decide))

/-- Settles O30: each read is the identity-page read of its BELLNO word, and a HI read is split on what the reader's
holding register holds. -/
theorem bellnoReadsAreAtomic : Obligations.BellnoReadsAreAtomic := by
  intro s p t hon hp
  refine ⟨⟨_, exec_bellnoLoRead hon hp, ?_⟩, fun h hh => ⟨_, exec_bellnoHiRead hon hp, ?_⟩,
    fun hh => ⟨_, exec_bellnoHiRead hon hp, ?_⟩⟩
  · simp only [State.bellnoLo_some, State.rdata_give, State.ten_give, State.ten_touch, State.ten_modTen, and_self]
  · simp only [State.bellnoHi_held s t h hh, State.rdata_give, State.ten_give, State.ten_touch, State.ten_modTen,
      and_self]
  · simp only [State.bellnoHi_stale s t hh, State.rdata_give, State.ten_give, State.ten_touch, hh, and_self]

end Sys2Proof.Machine

/-!
PROOFS. What an instruction of a ring does when it may not retire (04_quagal_model R126, R130, R140 to R142): the command
of each instruction is `runOp` at its opcode with its meaning, `runOp` faults its ring with the lowest cause against the
instruction, or with BUDGET where there is none and the cost exceeds the budget left; and O9 from these.
-/

namespace Sys2Proof.Machine

/-- Each row of `ringOps` pairs a command with the opcode and the meaning that its execution uses. -/
theorem exec_ringOps : ∀ e ∈ ringOps, ∀ (r : RingId) (s : State), exec (e.1 r) s = .next (s.runOp r e.2.1 e.2.2) := by
  simp only [ringOps, List.cons_append, List.nil_append, List.forall_mem_cons, List.not_mem_nil,
    false_imp_iff, implies_true, and_true]
  and_intros <;> exact fun _ _ => rfl

theorem lowest_eq_some {cs : List Nat} {f : Nat} (hf : f ∈ cs) (hle : ∀ g ∈ cs, f ≤ g) : lowest cs = some f :=
  List.min?_eq_some_iff.mpr ⟨hf, hle⟩

/-- An instruction with a cause against it faults its ring with the lowest one (R141), unless it passes its decoding and
still waits for words. -/
theorem State.runOp_faults {s : State} {r : RingId} {op : Nat} {o : OpSem} {c : OpCtx} {f : Nat} (h : Stands s r op c)
    (hd : o.decodeCauses c s ≠ [] ∨ o.stall c s = false) (hf : lowest (o.allCauses c s) = some f) :
    s.runOp r op o = s.ringFault r f c.pos (some c.seq) := by
  obtain ⟨⟨ws, hat⟩, hop⟩ := h
  have hgo : ((o.decodeCauses c s).isEmpty && o.stall c s) = false := by
    rcases hd with hd | hs
    · rw [List.isEmpty_eq_false_iff.mpr hd, Bool.false_and]
    · rw [hs, Bool.and_false]
  simp [State.runOp, hat, hop, hgo, hf]

/-- An instruction that has passed every other check faults with BUDGET when its cost exceeds the budget left (R141). -/
theorem State.runOp_overBudget {s : State} {r : RingId} {op : Nat} {o : OpSem} {c : OpCtx} (h : Stands s r op c)
    (hc : o.allCauses c s = []) (hs : o.stall c s = false) (hb : (s.ring r).budget < o.cost c) :
    s.runOp r op o = s.ringFault r fBUDGET c.pos (some c.seq) := by
  obtain ⟨⟨ws, hat⟩, hop⟩ := h
  simp [State.runOp, hat, hop, hs, hc, hb, lowest]

/-- Settles O9: each command of `ringOps` is `runOp` at its opcode, which faults with the lowest cause, or with BUDGET. -/
theorem lowestCauseFaultsTheRing : Obligations.LowestCauseFaultsTheRing := by
  intro e he s r c hst
  rw [exec_ringOps e he]
  exact ⟨fun f hf hle hd => congrArg Host.Outcome.next (State.runOp_faults hst hd (lowest_eq_some hf hle)),
    fun hc hs hb => congrArg Host.Outcome.next (State.runOp_overBudget hst hc hs hb)⟩

end Sys2Proof.Machine

/-!
PROOFS. The two-half read of a Gallery counter (19_gallery R610, R611, R618): what a read of the tenant's own window by
its port gives, what the two halves of a view slot give and leave in the holding register, and O31 from the two.
-/

namespace Sys2Proof.Machine

/-! ### A tenant's view of the Gallery after a change of it, and after what every read does -/

@[simp] theorem State.galTen_modGal (s : State) (t : Ten) (f : GalTen → GalTen) :
    at' (s.modGal t f).gal.tens t = f (at' s.gal.tens t) := at_upd _ _ _
@[simp] theorem State.gal_touch (s : State) (t : Ten) : (s.touch t).gal = s.gal := rfl
@[simp] theorem State.gal_give (s : State) (t : Ten) (v : Word) : (s.give t v).gal = s.gal := rfl

/-! ### The halves of a 64-bit value as words -/

theorem w32_toNat (x : BitVec 64) : w32 x.toNat = x.setWidth 32 := BitVec.ofNat_toNat 32 x

theorem w32_toNat_div (x : BitVec 64) : w32 (x.toNat / 2 ^ 32) = (x >>> 32).setWidth 32 := by
  rw [← w32_toNat, BitVec.toNat_ushiftRight, Nat.shiftRight_eq_div_pow]

/-! ### The two halves of a view slot -/

theorem State.galLow_eq (s : State) (t : Ten) (v : Nat) : s.galLow t v = ((s.galView t v).setWidth 32,
    s.modGal t (fun g => { g with holding := some (galNumber t v, (s.galView t v >>> 32).setWidth 32) })) := by
  simp only [State.galLow, w32_toNat, w32_toNat_div]

theorem State.galHigh_held {s : State} {t : Ten} {v : Nat} {h : Word}
    (hh : (at' s.gal.tens t).holding = some (galNumber t v, h)) :
    s.galHigh t v = (h, s.modGal t (fun g => { g with holding := none, hstale := false })) := by
  simp only [State.galHigh, hh, if_true]

/-- The holding register is empty or is another counter's: the live high half, and HSTALE. -/
theorem State.galHigh_stale {s : State} {t : Ten} {v : Nat}
    (hh : ∀ h, (at' s.gal.tens t).holding ≠ some (galNumber t v, h)) :
    s.galHigh t v = ((s.galView t v >>> 32).setWidth 32, s.modGal t (fun g => { g with hstale := true })) := by
  rw [← w32_toNat_div]
  match hg : (at' s.gal.tens t).holding with
  | none => simp only [State.galHigh, hg]
  | some (n, h) =>
    have hn : n ≠ galNumber t v := fun e => hh h (e ▸ hg)
    simp only [State.galHigh, hg, if_neg hn]

/-! ### The counter view of a tenant's window -/

/-- The words from 0x400 up to 0x77F are the counter view, low and high halves by turns (R618). -/
theorem State.winRead_counterView (s : State) (t : Ten) {off : Nat} (hlo : 0x400 ≤ off) (hhi : off < 0x780) :
    s.winRead t off =
      if off / 4 % 2 = 0 then s.galLow t ((off - 0x400) / 8) else s.galHigh t ((off - 0x400) / 8) := by
  have hk : off / 4 % 1024 = off / 4 := Nat.mod_eq_of_lt (by omega)
  have hslot : (off / 4 - 0x100) / 2 = (off - 0x400) / 8 := by omega
  simp (disch := omega) only [State.winRead, hk, hslot, if_neg, if_pos]

theorem State.winRead_counterLow (s : State) (t : Ten) (v : Fin 112) :
    s.winRead t (0x400 + 8 * v.val) = s.galLow t v.val := by
  have hslot : (0x400 + 8 * v.val - 0x400) / 8 = v.val := by omega
  rw [State.winRead_counterView s t (by omega) (by omega), if_pos (by omega), hslot]

theorem State.winRead_counterHigh (s : State) (t : Ten) (v : Fin 112) :
    s.winRead t (0x404 + 8 * v.val) = s.galHigh t v.val := by
  have hslot : (0x404 + 8 * v.val - 0x400) / 8 = v.val := by omega
  rw [State.winRead_counterView s t (by omega) (by omega), if_neg (by omega), hslot]

/-! ### A read of the tenant's own window by its port -/

/-- An awake port returns the word of its tenant's window (R41), and the access restarts the idle time of the tenant's
session (R505). -/
theorem State.portRegRead_window {s : State} {p : HostPort} {t : Ten} {off : Nat} (ho : OpenAt s p t)
    (hoff : off < 4096) :
    s.portRegRead p (winAt t off) = ((s.winRead t off).2.touch t).give t (s.winRead t off).1 := by
  obtain ⟨⟨hon, hawake, -, halive⟩, hp⟩ := ho
  have hpage : winAt t off / 4096 = t.val + 1 := by unfold winAt; omega
  have hmod : winAt t off % 4096 = off := by unfold winAt; omega
  simp only [State.portRegRead, State.regRead, State.giveTo, hon, hawake, halive, hp, hpage, hmod, Nat.succ_ne_zero,
    Bool.not_true, Bool.false_eq_true, Bool.false_and, if_false, if_true, Option.elim_some]

theorem exec_counterLowRead {s : State} {p : HostPort} {t : Ten} (ho : OpenAt s p t) (v : Fin 112) :
    exec (.counterLowRead p v) s = .next (((s.galLow t v.val).2.touch t).give t (s.galLow t v.val).1) := by
  have hexec : exec (.counterLowRead p v) s = execCounterLowRead p v s := rfl
  have haddr : 4096 * (t.val + 1) + 0x400 + 8 * v.val = winAt t (0x400 + 8 * v.val) := Nat.add_assoc ..
  simp only [hexec, execCounterLowRead, ho.2, haddr]
  rw [State.portRegRead_window ho (by omega), State.winRead_counterLow]

theorem exec_counterHighRead {s : State} {p : HostPort} {t : Ten} (ho : OpenAt s p t) (v : Fin 112) :
    exec (.counterHighRead p v) s = .next (((s.galHigh t v.val).2.touch t).give t (s.galHigh t v.val).1) := by
  have hexec : exec (.counterHighRead p v) s = execCounterHighRead p v s := rfl
  have haddr : 4096 * (t.val + 1) + 0x404 + 8 * v.val = winAt t (0x404 + 8 * v.val) := Nat.add_assoc ..
  simp only [hexec, execCounterHighRead, ho.2, haddr]
  rw [State.portRegRead_window ho (by omega), State.winRead_counterHigh]

/-- Settles O31: each read is the window read of its half of the view slot, and a high-half read is split on whether the
reader's holding register holds that counter. -/
theorem counterReadsAreAtomic : Obligations.CounterReadsAreAtomic := by
  intro s p t v ho
  refine ⟨⟨_, exec_counterLowRead ho v, ?_⟩, fun h hh => ⟨_, exec_counterHighRead ho v, ?_⟩,
    fun hh => ⟨_, exec_counterHighRead ho v, ?_⟩⟩
  · simp only [State.galLow_eq, State.rdata_give, State.gal_give, State.gal_touch, State.galTen_modGal, and_self]
  · simp only [State.galHigh_held hh, State.rdata_give, State.gal_give, State.gal_touch, State.galTen_modGal, and_self]
  · simp only [State.galHigh_stale hh, State.rdata_give, State.gal_give, State.gal_touch, State.galTen_modGal, and_self]

end Sys2Proof.Machine

/-!
PROOFS. What every command keeps (log entry 1): each answers a next state with the queue as it was, the memories in
their canonical form, time not back and no fuse cleared. A command that does more than one operation of Machine/ has a
lemma of its own; `exec_kept` gathers them, one case per constructor.
-/

namespace Sys2Proof.Machine

/-- The outcome is a next state that keeps of `s` what every operation keeps. -/
def Kept (s : State) (o : Host.Outcome State Fault Refusal) : Prop := ∃ t, o = .next t ∧ Keeps s t

theorem Kept.next {s t : State} (h : Keeps s t) : Kept s (.next t) := ⟨t, rfl, h⟩

theorem execRegisterWrite_kept (p : HostPort) (addr : Nat) (be : BitVec 4) (v : Word) (s : State) : Kept s
    (execRegisterWrite p addr be v s) := by
  have ht (o : Option Ten) : Keeps s (o.elim s s.touch) := .elim (.refl s) fun t => State.touch_keeps _ t (.refl s)
  dsimp only [execRegisterWrite]
  refine .next ?_
  repeat' split
  · exact .refl s
  · exact State.holdPf_keeps _ _ _ (ht _)
  · exact State.bar0Write_keeps _ _ _ _ _ (ht _)
  · exact State.regWrite_keeps _ _ _ _ _ (ht _)
  · exact State.holdWord_keeps _ _ _ _ (ht _)
  · exact ht _

theorem execBellAnnounce_kept (x : AnnIn) (s : State) : Kept s (execBellAnnounce x s) := by
  dsimp only [execBellAnnounce]
  refine .next ?_
  repeat' split
  all_goals simp [Keeps.refl]

theorem execKeystoneLatch_kept (s : State) : Kept s (execKeystoneLatch s) := by
  dsimp only [execKeystoneLatch]
  refine .next ?_
  repeat' split
  all_goals simp [Keeps.refl]

theorem execBellFire_kept (x : CellIn) (s : State) : Kept s (execBellFire x s) := by
  dsimp only [execBellFire]
  refine .next ?_
  split
  · exact State.bellFire_keeps _ _ (State.cellsTurn_keeps _ _ (State.passTo_keeps _ _ (.refl s)))
  · exact .refl s

theorem execChimeTick_kept (g : Fin 4) (x : ChimeIn) (s : State) : Kept s (execChimeTick g x s) := by
  dsimp only [execChimeTick]
  refine .next ?_
  repeat' split
  all_goals simp [Keeps.refl]

theorem execWaitb_kept (r : RingId) (s : State) : Kept s (execWaitb r s) :=
  .next (State.runWait_keeps _ _ _ _ _ semWaitb_keeps (.refl s))

theorem execFence_kept (r : RingId) (s : State) : Kept s (execFence r s) :=
  .next (State.runWait_keeps _ _ _ _ _ semFence_keeps (.refl s))

theorem execDoorbellProduce_kept (t : Ten) (r : RingId) (idx : Nat) (s : State) : Kept s
    (execDoorbellProduce t r idx s) :=
  .next (State.ownWrite_keeps _ _ _ _ (.refl s))

theorem execDoorbellRestart_kept (t : Ten) (r : RingId) (idx : Nat) (s : State) : Kept s
    (execDoorbellRestart t r idx s) :=
  .next (State.ownWrite_keeps _ _ _ _ (.refl s))

theorem execDoorbellRebind_kept (t : Ten) (r : RingId) (idx : Nat) (s : State) : Kept s
    (execDoorbellRebind t r idx s) :=
  .next (State.ownWrite_keeps _ _ _ _ (.refl s))

theorem execRingRestarted_kept (s : State) : Kept s (execRingRestarted s) :=
  .next (forEach_keeps _ (.refl s) fun r x => State.ringRestarted_keeps x r)

theorem execRebindDone_kept (s : State) : Kept s (execRebindDone s) :=
  .next (forEach_keeps _ (.refl s) fun r x => State.rebindDone_keeps x r)

theorem execTenantResetEffect_kept (s : State) : Kept s (execTenantResetEffect s) :=
  .next (State.floorTaken_keeps _ (forEach_keeps _ (.refl s) fun t x => State.tenReset_keeps x t))

theorem execTenantWatchdogExpiry_kept (s : State) : Kept s (execTenantWatchdogExpiry s) :=
  .next (forEach_keeps _ (State.passFirst_keeps _ _ (.refl s)) fun t x => State.wdogExpiry_keeps x t)

theorem execHostLinkLost_kept (s : State) : Kept s (execHostLinkLost s) :=
  .next (forEach_keeps _ (State.passFirst_keeps _ _ (.refl s)) fun t x => State.hostLost_keeps x t)

theorem execCaptureDone_kept (s : State) : Kept s (execCaptureDone s) :=
  .next (forEach_keeps _ (State.choirDrain_keeps _ _ (.refl s)) fun i x => State.captureDone_keeps x i)

theorem execMr4Read_kept (v : Nat) (s : State) : Kept s (execMr4Read v s) := by
  dsimp only [execMr4Read]
  refine .next ?_
  repeat' split
  all_goals simp [Keeps.refl]

theorem execDqsDriftRead_kept (n : Vector (BitVec 16) 4) (s : State) : Kept s (execDqsDriftRead n s) :=
  .next (.ite (fun _ => .mk_keeps (State.passTo_keeps _ _ (.refl s)) rfl rfl (Nat.le_refl _)) (fun _ => .refl s))

theorem execSelfRefreshEntry_kept (s : State) : Kept s (execSelfRefreshEntry s) := by
  dsimp only [execSelfRefreshEntry]
  refine .next ?_
  repeat' split
  all_goals simp [Keeps.refl]

theorem execSelfRefreshExit_kept (x : TolIn) (s : State) : Kept s (execSelfRefreshExit x s) := by
  have h := State.tolTake_keeps s x (.refl s)
  dsimp only [execSelfRefreshExit]
  refine .next ?_
  repeat' split
  · exact h
  · exact State.lpRequest_keeps _ h
  · exact State.lpRequest_keeps _ (State.passTo_keeps _ _ h)
  · exact h

theorem execFlattenEntryFree_kept (s : State) : Kept s (execFlattenEntryFree s) :=
  .next (.mk_keeps (.refl s) rfl rfl (Nat.le_refl _))

theorem execBayEccError_kept (b : Fin 4) (c : Chap) (x : BlkIn) (s : State) : Kept s (execBayEccError b c x s) := by
  have h := State.ueCount_keeps s 1 1 (.refl s)
  dsimp only [execBayEccError]
  refine .next ?_
  repeat' split
  · exact .refl s
  · exact State.bayFail_keeps _ _ _ _ h
  · exact State.bayFail_keeps _ _ _ _ (State.bandFail_keeps _ _ _ h)
  · exact .mk_keeps (State.bayFail_keeps _ _ _ _ h) rfl rfl (Nat.le_refl _)

theorem execArraySlotStart_kept (x : SlotIn) (s : State) : Kept s (execArraySlotStart x s) :=
  .next (State.thenOpen_keeps _ _ _ _ (fun y => State.bgSlot_keeps y _) (State.arraySlot_keeps _ _ _ (.refl s))
    (.refl s))

theorem execScanLineStart_kept (c : Chap) (left : Bool) (s : State) : Kept s (execScanLineStart c left s) :=
  .next (State.thenOpen_keeps _ _ _ _ (fun y => State.bgLine_keeps y _) (State.scanLine_keeps _ _ _ (.refl s))
    (.refl s))

theorem execChQuery_kept (t : Ten) (s : State) : Kept s (execChQuery t s) := by
  dsimp only [execChQuery]
  refine .next ?_
  repeat' split
  all_goals simp [Keeps.refl]

theorem execStartTimeout_kept (s : State) : Kept s (execStartTimeout s) :=
  .next (forEach_keeps _ (State.passFirst_keeps _ _ (.refl s)) fun t x => State.startTimeout_keeps x t)

theorem execEngineReadyLoss_kept (c : Chap) (s : State) : Kept s (execEngineReadyLoss c s) := by
  refine .next (.ite (fun _ => State.safeStop_keeps _ _ _ _ (State.modPower_saves _ _ (.refl s) ?_))
    (fun _ => .refl s))
  intro p hp v hv
  obtain ⟨w, hw, rfl⟩ := Option.map_eq_some_iff.mp hv
  exact hp w hw

theorem execFastAxisFreqFault_kept (c : Chap) (s : State) : Kept s (execFastAxisFreqFault c s) := by
  dsimp only [execFastAxisFreqFault]
  refine .next ?_
  repeat' split
  all_goals simp [Keeps.refl]

theorem execMirrorOverrunStop_kept (s : State) : Kept s (execMirrorOverrunStop s) :=
  .next (forEach_keeps _ (State.choirDrain_keeps _ _ (.refl s)) fun i x => State.mirrorStop_keeps x i)

theorem execLoopHeld_kept (s : State) : Kept s (execLoopHeld s) :=
  .next (forEach_keeps _ (State.choirDrain_keeps _ _ (.refl s)) fun i x => State.loopHeld_keeps x i)

theorem execRailFault_kept (r : Fin 2) (volt : Bool) (s : State) : Kept s (execRailFault r volt s) := by
  dsimp only [execRailFault]
  refine .next ?_
  repeat' split
  all_goals simp [Keeps.refl]

theorem execDrvQuery_kept (t : Ten) (s : State) : Kept s (execDrvQuery t s) := by
  dsimp only [execDrvQuery]
  refine .next ?_
  repeat' split
  all_goals simp [Keeps.refl]

theorem execKmQuery_kept (t : Ten) (s : State) : Kept s (execKmQuery t s) := by
  dsimp only [execKmQuery]
  refine .next ?_
  repeat' split
  all_goals simp [Keeps.refl]

theorem execRailRestart_kept (t : Ten) (s : State) : Kept s (execRailRestart t s) := by
  dsimp only [execRailRestart]
  refine .next ?_
  repeat' split
  case h_2.isFalse.isFalse =>
    exact State.answer_keeps _ _ _ _ (forEach_keeps _ (State.modRail_keeps _ _ _ (.refl s))
      fun o x => State.modOut_keeps x o _)
  all_goals simp [Keeps.refl]

theorem execCalBankWrite_kept (s : State) : Kept s (execCalBankWrite s) :=
  .next (.ite (fun _ => .mk_keeps (.refl s) rfl rfl (Nat.le_refl _)) (fun _ => .refl s))

theorem execClQuery_kept (t : Ten) (s : State) : Kept s (execClQuery t s) := by
  dsimp only [execClQuery]
  refine .next ?_
  repeat' split
  all_goals simp [Keeps.refl]

theorem execCapRead_kept (t : Ten) (s : State) : Kept s (execCapRead t s) := by
  dsimp only [execCapRead]
  refine .next ?_
  repeat' split
  all_goals simp [Keeps.refl]

theorem execCalQuery_kept (t : Ten) (s : State) : Kept s (execCalQuery t s) := by
  dsimp only [execCalQuery]
  refine .next ?_
  repeat' split
  all_goals simp [Keeps.refl]

theorem execKwReserved_kept (k : Pd) (s : State) : Kept s (execKwReserved k s) := by
  dsimp only [execKwReserved]
  refine .next ?_
  repeat' split
  all_goals simp [Keeps.refl]

theorem execKwQuery_kept (t : Ten) (s : State) : Kept s (execKwQuery t s) := by
  dsimp only [execKwQuery]
  refine .next ?_
  repeat' split
  all_goals simp [Keeps.refl]

theorem execKwCal_kept (t : Ten) (s : State) : Kept s (execKwCal t s) := by
  dsimp only [execKwCal]
  refine .next ?_
  repeat' split
  case h_2.isFalse.isFalse => exact State.answer_keeps _ _ _ _ (.mk_keeps (.refl s) rfl rfl (Nat.le_refl _))
  all_goals simp [Keeps.refl]

theorem execWakeDetect_kept (w : WakeSrc) (s : State) : Kept s (execWakeDetect w s) := by
  have h := State.cryptComplete_keeps s (.refl s)
  exact .next (.ite (fun _ => State.suppliesUp_keeps _ (State.wake_keeps _ _ h)) fun _ => h)

theorem execStart_kept (x : StartIn) (s : State) : Kept s (execStart x s) :=
  .next (State.startUp_keeps _ _ (State.startWait_keeps _ (.refl s)))

theorem execReliquaryFlush_kept (s : State) : Kept s (execReliquaryFlush s) := by
  dsimp only [execReliquaryFlush]
  refine .next ?_
  repeat' split
  all_goals simp [Keeps.refl]

theorem execPwrQuery_kept (t : Ten) (s : State) : Kept s (execPwrQuery t s) := by
  dsimp only [execPwrQuery]
  refine .next ?_
  repeat' split
  all_goals simp [Keeps.refl]

theorem execPrimeWrite_kept (t : Ten) (s : State) : Kept s (execPrimeWrite t s) := by
  dsimp only [execPrimeWrite]
  refine .next (State.primeReq_keeps (hkf := fun a => ?_) (hk := .refl s) ..)
  repeat' split
  all_goals simp [Keeps.refl]

theorem execPrimeSet_kept (t : Ten) (s : State) : Kept s (execPrimeSet t s) := by
  dsimp only [execPrimeSet]
  refine .next (State.primeReq_keeps (hkf := fun a => ?_) (hk := .refl s) ..)
  simp [Keeps.refl]

theorem execPrimeRead_kept (t : Ten) (s : State) : Kept s (execPrimeRead t s) := by
  dsimp only [execPrimeRead]
  refine .next (State.primeReq_keeps (hkf := fun a => ?_) (hk := .refl s) ..)
  repeat' split
  all_goals simp [Keeps.refl]

theorem execMemoryHoldCheck_kept (v : Nat) (s : State) : Kept s (execMemoryHoldCheck v s) := by
  have h := State.refEnd_keeps _ (State.passTo_keeps s (s.thermal.holdRead + ms 1000) (.refl s))
  have h1 := State.mr4Take_keeps { (s.passTo (s.thermal.holdRead + ms 1000)).refEnd with
    thermal := { (s.passTo (s.thermal.holdRead + ms 1000)).refEnd.thermal with
      holdRead := (s.passTo (s.thermal.holdRead + ms 1000)).refEnd.now } } v (.mk_keeps h rfl rfl (Nat.le_refl _))
  exact .next (.ite
    (fun _ => .ite (fun _ => .mk_keeps h1 rfl rfl (Nat.le_refl _)) fun _ => State.refBegin_keeps _ h1)
    fun _ => .refl s)

theorem execThQuery_kept (t : Ten) (s : State) : Kept s (execThQuery t s) := by
  dsimp only [execThQuery]
  refine .next ?_
  repeat' split
  all_goals simp [Keeps.refl]

theorem execCloQuery_kept (t : Ten) (s : State) : Kept s (execCloQuery t s) := by
  dsimp only [execCloQuery]
  refine .next (State.cloReq_keeps (hkf := fun a => ?_) (hk := .refl s) ..)
  simp [Keeps.refl]

theorem execProvision_kept (t : Ten) (s : State) : Kept s (execProvision t s) := by
  dsimp only [execProvision]
  refine .next (State.cloReq_keeps (hkf := fun a => ?_) (hk := .refl s) ..)
  repeat' split
  · exact State.answer_keeps _ _ _ _ (.refl s)
  · exact State.answer_keeps _ _ _ _ (.refl s)
  · exact State.answer_keeps _ _ _ _ (.refl s)
  · exact State.answer_keeps _ _ _ _ (.refl s)
  · exact State.answer_keeps _ _ _ _ (.refl s)
  · exact State.answer_keeps _ _ _ _ (State.transition_keeps _ (State.provProgram_keeps _ _ _ _ _
      (State.drawScalar_keeps _ (State.reseed_keeps _ (.refl s)))))
  · exact State.answer_keeps _ _ _ _ (.refl s)
  · exact State.answer_keeps _ _ _ _ (State.transition_keeps _ (State.provProgram_keeps _ _ _ _ _
      (State.drawScalar_keeps _ (State.reseed_keeps _ (.refl s)))))
  · exact State.answer_keeps _ _ _ _ (.refl s)

theorem execLock_kept (t : Ten) (s : State) : Kept s (execLock t s) := by
  dsimp only [execLock]
  refine .next (State.cloReq_keeps (hkf := fun a => ?_) (hk := .refl s) ..)
  repeat' split
  · exact State.answer_keeps _ _ _ _ (.refl s)
  · exact State.answer_keeps _ _ _ _ (.refl s)
  · exact State.answer_keeps _ _ _ _ (.refl s)
  · exact State.answer_keeps _ _ _ _ (State.useNonce_keeps _ _ (.refl s))
  · exact State.answer_keeps _ _ _ _ (State.useNonce_keeps _ _ (.refl s))
  · exact State.answer_keeps _ _ _ _ (State.transition_keeps _ (State.otpStep_keeps _ _ (State.useNonce_keeps _ _
      (.refl s))))

theorem execCloChallenge_kept (t : Ten) (s : State) : Kept s (execCloChallenge t s) := by
  dsimp only [execCloChallenge]
  refine .next (State.cloReq_keeps (hkf := fun a => ?_) (hk := .refl s) ..)
  repeat' split
  · exact State.answer_keeps _ _ _ _ (.refl s)
  · exact State.answer_keeps _ _ _ _ (.refl s)
  · exact State.answer_keeps _ _ _ _ (State.modClo_keeps _ _ _ (State.draw_keeps _ _ (State.reseed_keeps _
      (.refl s))))

theorem execCloResponse_kept (t : Ten) (s : State) : Kept s (execCloResponse t s) := by
  dsimp only [execCloResponse]
  refine .next (State.cloReq_keeps (hkf := fun a => ?_) (hk := .refl s) ..)
  repeat' split
  · exact State.answer_keeps _ _ _ _ (.refl s)
  · exact State.answer_keeps _ _ _ _ (.of_snd ‹_› (State.sessTry_keeps _ _ _ _ (.refl s)))
  · exact State.answer_keeps _ _ _ _ (State.authFailPost_keeps _ _ _ (State.sessFail_keeps _ _ (.refl s)))

theorem execCloAttest_kept (t : Ten) (s : State) : Kept s (execCloAttest t s) := by
  dsimp only [execCloAttest]
  refine .next (State.cloReq_keeps (hkf := fun a => ?_) (hk := .refl s) ..)
  repeat' split
  · exact State.answer_keeps _ _ _ _ (.refl s)
  · exact State.answer_keeps _ _ _ _ (State.fresh_keeps _ _ (State.fresh_keeps _ _ (.refl s)))

theorem execReturn_kept (t : Ten) (s : State) : Kept s (execReturn t s) := by
  dsimp only [execReturn]
  refine .next (State.cloReq_keeps (hkf := fun a => ?_) (hk := .refl s) ..)
  repeat' split
  · exact State.answer_keeps _ _ _ _ (.refl s)
  · exact State.answer_keeps _ _ _ _ (.refl s)
  · exact State.answer_keeps _ _ _ _ (.refl s)
  · exact State.answer_keeps _ _ _ _ (State.useNonce_keeps _ _ (.refl s))
  · exact State.answer_keeps _ _ _ _ (State.useNonce_keeps _ _ (.refl s))
  · exact State.answer_keeps _ _ _ _ (State.transition_keeps _ (State.otpStep_keeps _ _ (State.otpSet_keeps _ _ _
      (State.useNonce_keeps _ _ (.refl s)))))
  · exact State.answer_keeps _ _ _ _ (State.transition_keeps _ (State.otpStep_keeps _ _ (State.otpStep_keeps _ _
      (State.otpSet_keeps _ _ _ (State.useNonce_keeps _ _ (.refl s))))))

theorem execOwnerRotate_kept (t : Ten) (s : State) : Kept s (execOwnerRotate t s) := by
  dsimp only [execOwnerRotate]
  refine .next (State.cloReq_keeps (hkf := fun a => ?_) (hk := .refl s) ..)
  repeat' split
  · exact State.answer_keeps _ _ _ _ (.refl s)
  · exact State.answer_keeps _ _ _ _ (.refl s)
  · exact State.answer_keeps _ _ _ _ (State.useNonce_keeps _ _ (.refl s))
  · exact State.answer_keeps _ _ _ _ (State.useNonce_keeps _ _ (.refl s))
  · exact State.answer_keeps _ _ _ _ (State.useNonce_keeps _ _ (.refl s))
  · exact State.answer_keeps _ _ _ _ (State.otpSet_keeps _ _ _ (State.otpSet_keeps _ _ _ (State.useNonce_keeps _ _
      (.refl s))))
  · exact State.answer_keeps _ _ _ _ (.refl s)

theorem execRngRead_kept (t : Ten) (s : State) : Kept s (execRngRead t s) := by
  dsimp only [execRngRead]
  refine .next (State.cloReq_keeps (hkf := fun a => ?_) (hk := .refl s) ..)
  repeat' split
  · exact State.answer_keeps _ _ _ _ (.refl s)
  · exact State.answer_keeps _ _ _ _ (.refl s)
  · exact State.answer_keeps _ _ _ _ (State.draw_keeps _ _ (.refl s))

theorem execDrbgReseed_kept (s : State) : Kept s (execDrbgReseed s) := by
  dsimp only [execDrbgReseed]
  refine .next ?_
  repeat' split
  all_goals simp [Keeps.refl]

theorem execSessionEnd_kept (s : State) : Kept s (execSessionEnd s) :=
  .next (forEach_keeps _ (State.passFirst_keeps _ _ (.refl s)) fun q x => State.modClo_keeps x q _)

theorem execChallengeLockoutEnd_kept (s : State) : Kept s (execChallengeLockoutEnd s) :=
  .next (forEach_keeps _ (State.passFirst_keeps _ _ (.refl s)) fun q x => State.modClo_keeps x q _)

theorem execUpdQuery_kept (t : Ten) (s : State) : Kept s (execUpdQuery t s) := by
  dsimp only [execUpdQuery]
  refine .next ?_
  repeat' split
  all_goals simp [Keeps.refl]

theorem execUpdBegin_kept (t : Ten) (s : State) : Kept s (execUpdBegin t s) := by
  dsimp only [execUpdBegin]
  refine .next (State.updReq_keeps (hkf := fun a => ?_) (hk := .refl s) ..)
  repeat' split
  · exact State.answer_keeps _ _ _ _ (.refl s)
  · exact State.answer_keeps _ _ _ _ (.of_snd ‹_› (State.updBegin_keeps _ _ _ (.refl s)))
  · exact State.answer_keeps _ _ _ _ (.of_snd ‹_› (State.updBegin_keeps _ _ _ (.refl s)))

theorem execUpdChunk_kept (t : Ten) (s : State) : Kept s (execUpdChunk t s) := by
  dsimp only [execUpdChunk]
  refine .next (State.updReq_keeps (hkf := fun a => ?_) (hk := .refl s) ..)
  repeat' split
  · exact State.answer_keeps _ _ _ _ (.refl s)
  · exact State.answer_keeps _ _ _ _ (.refl s)
  · exact State.answer_keeps _ _ _ _ (.of_snd ‹_› (State.updChunk_keeps _ _ _ (.refl s)))
  · exact State.answer_keeps _ _ _ _ (.of_snd ‹_› (State.updChunk_keeps _ _ _ (.refl s)))
  · exact State.answer_keeps _ _ _ _ (.of_snd ‹_› (State.updChunk_keeps _ _ _ (.refl s)))
  · exact State.answer_keeps _ _ _ _ (.of_snd ‹_› (State.updChunk_keeps _ _ _ (.refl s)))

theorem execUpdCheck_kept (t : Ten) (s : State) : Kept s (execUpdCheck t s) := by
  dsimp only [execUpdCheck]
  refine .next (State.updReq_keeps (hkf := fun a => ?_) (hk := .refl s) ..)
  repeat' split
  all_goals simp [Keeps.refl]

theorem execUpdArm_kept (t : Ten) (s : State) : Kept s (execUpdArm t s) := by
  dsimp only [execUpdArm]
  refine .next (State.updReq_keeps (hkf := fun a => ?_) (hk := .refl s) ..)
  repeat' split
  all_goals simp [Keeps.refl]

theorem execUpdLoad_kept (t : Ten) (s : State) : Kept s (execUpdLoad t s) := by
  dsimp only [execUpdLoad]
  refine .next (State.updReq_keeps (hkf := fun a => ?_) (hk := .refl s) ..)
  repeat' split
  all_goals simp [Keeps.refl]

theorem execUdsSessionTimeout_kept (s : State) : Kept s (execUdsSessionTimeout s) :=
  .next (.ite (fun _ => State.modUds_keeps _ _ (State.passTo_keeps _ _ (.refl s))) (fun _ => .refl s))

theorem execRelStatus_kept (t : Ten) (s : State) : Kept s (execRelStatus t s) := by
  dsimp only [execRelStatus]
  refine .next ?_
  repeat' split
  all_goals simp [Keeps.refl]

theorem execRelRead_kept (t : Ten) (s : State) : Kept s (execRelRead t s) := by
  dsimp only [execRelRead]
  refine .next ?_
  repeat' split
  all_goals simp [Keeps.refl]

theorem execRelFreeze_kept (t : Ten) (s : State) : Kept s (execRelFreeze t s) := by
  dsimp only [execRelFreeze]
  refine .next ?_
  repeat' split
  all_goals simp [Keeps.refl]

theorem execRelThaw_kept (t : Ten) (s : State) : Kept s (execRelThaw t s) := by
  dsimp only [execRelThaw]
  refine .next ?_
  repeat' split
  all_goals simp [Keeps.refl]

theorem execRelErase_kept (t : Ten) (s : State) : Kept s (execRelErase t s) := by
  dsimp only [execRelErase]
  refine .next ?_
  repeat' split
  all_goals simp [Keeps.refl]

theorem execRelMetric_kept (t : Ten) (s : State) : Kept s (execRelMetric t s) := by
  dsimp only [execRelMetric]
  refine .next ?_
  repeat' split
  all_goals simp [Keeps.refl]

theorem execMsgTimeout_kept (s : State) : Kept s (execMsgTimeout s) :=
  .next (forEach_keeps _ (State.passFirst_keeps _ _ (.refl s)) fun t x => State.msgTimeout_keeps x t)

theorem execHalQuery_kept (t : Ten) (s : State) : Kept s (execHalQuery t s) := by
  dsimp only [execHalQuery]
  refine .next ?_
  repeat' split
  all_goals simp [Keeps.refl]

theorem execSweepFetch_kept (t : Ten) (s : State) : Kept s (execSweepFetch t s) := by
  dsimp only [execSweepFetch]
  refine .next ?_
  repeat' split
  all_goals simp [Keeps.refl]

theorem execSweepRelease_kept (t : Ten) (s : State) : Kept s (execSweepRelease t s) := by
  dsimp only [execSweepRelease]
  refine .next ?_
  repeat' split
  all_goals simp [Keeps.refl]

theorem execCounterLowRead_kept (p : HostPort) (v : Fin 112) (s : State) : Kept s (execCounterLowRead p v s) := by
  dsimp only [execCounterLowRead]
  refine .next ?_
  repeat' split
  all_goals simp [Keeps.refl]

theorem execCounterHighRead_kept (p : HostPort) (v : Fin 112) (s : State) : Kept s (execCounterHighRead p v s) := by
  dsimp only [execCounterHighRead]
  refine .next ?_
  repeat' split
  all_goals simp [Keeps.refl]

theorem execGalQuery_kept (t : Ten) (s : State) : Kept s (execGalQuery t s) := by
  dsimp only [execGalQuery]
  refine .next ?_
  repeat' split
  all_goals simp [Keeps.refl]

theorem execGalAssign_kept (t : Ten) (s : State) : Kept s (execGalAssign t s) := by
  dsimp only [execGalAssign]
  refine .next ?_
  repeat' split
  case h_2.isFalse.isFalse =>
    exact State.answer_keeps _ _ _ _ (.mk_keeps (State.modGal_keeps _ _ _ (.refl s)) rfl rfl (Nat.le_refl _))
  all_goals simp [Keeps.refl]

theorem execGalTrace_kept (t : Ten) (s : State) : Kept s (execGalTrace t s) := by
  dsimp only [execGalTrace]
  refine .next ?_
  repeat' split
  all_goals simp [Keeps.refl]

theorem execMbCmd_kept (t : Ten) (v : Word) (s : State) : Kept s (execMbCmd t v s) := by
  dsimp only [execMbCmd]
  refine .next ?_
  repeat' split
  all_goals simp [Keeps.refl]

theorem execMbData_kept (t : Ten) (w : Option Word) (s : State) : Kept s (execMbData t w s) := by
  have ht := State.touch_keeps s t (.refl s)
  dsimp only [execMbData]
  refine .next ?_
  repeat' split
  · exact State.boxWrite_keeps _ _ _ ht
  · exact State.give_keeps _ _ _ (State.boxRead_keeps _ _ ht)
  · exact State.ownWrite_keeps _ _ _ _ (.refl s)
  · exact State.give_keeps _ _ _ (.refl s)
  · exact .refl s
  · exact .refl s

theorem execMbDone_kept (t : Ten) (v : Word) (s : State) : Kept s (execMbDone t v s) := by
  dsimp only [execMbDone]
  refine .next ?_
  repeat' split
  all_goals simp [Keeps.refl]

theorem execHpQuery_kept (t : Ten) (s : State) : Kept s (execHpQuery t s) := by
  dsimp only [execHpQuery]
  refine .next ?_
  repeat' split
  all_goals simp [Keeps.refl]

theorem execPcieFlr_kept (n : Ten) (s : State) : Kept s (execPcieFlr n s) := by
  have h := State.modPf_keeps s n (fun f => { f with
    mse := false, msix := Vector.replicate 2 (0, 0, true), pba := Vector.replicate 2 false }) (.refl s)
  exact .next (.ite (fun _ => State.linkLost_keeps _ _ (State.markLost_keeps _ _ _ h)) (fun _ => h))

theorem execPciePerst_kept (low : Bool) (s : State) : Kept s (execPciePerst low s) := by
  dsimp only [execPciePerst]
  refine .next ?_
  split
  · exact State.pcieLost_keeps _ (.mk_keeps (.refl s) rfl rfl (Nat.le_refl _))
  · exact .mk_keeps (.refl s) rfl rfl (Nat.le_refl _)

theorem execCanBusOff_kept (n : Fin 2) (s : State) : Kept s (execCanBusOff n s) := by
  dsimp only [execCanBusOff]
  refine .next ?_
  split
  · exact State.linkLost_keeps _ _ (State.markLost_keeps _ _ _ (.mk_keeps (.refl s) rfl rfl (Nat.le_refl _)))
  · exact .mk_keeps (.refl s) rfl rfl (Nat.le_refl _)

theorem execCanBusoffRecovery_kept (n : Fin 2) (s : State) : Kept s (execCanBusoffRecovery n s) :=
  .next (.ite (fun _ => .mk_keeps (.refl s) rfl rfl (Nat.le_refl _)) (fun _ => .refl s))

theorem execVaonLow_kept (s : State) : Kept s (execVaonLow s) := by
  dsimp only [execVaonLow]
  refine .next ?_
  repeat' split
  all_goals simp [Keeps.refl]

theorem execRefclkFault_kept (s : State) : Kept s (execRefclkFault s) := by
  have h := State.accClose_keeps _ (fun _ => true) (State.freezeEnd_keeps _ 4 (State.lightsOut_keeps s (.refl s)))
  exact .next (.ite (fun _ => State.downNow_keeps _ h) fun _ => .refl s)

theorem execLpddr4xTrainingDone_kept (ok : Bool) (s : State) : Kept s (execLpddr4xTrainingDone ok s) := by
  dsimp only [execLpddr4xTrainingDone]
  refine .next ?_
  repeat' split
  all_goals simp [Keeps.refl]

theorem execStandbyAisleReady_kept (s : State) : Kept s (execStandbyAisleReady s) := by
  dsimp only [execStandbyAisleReady]
  refine .next ?_
  repeat' split
  all_goals simp [Keeps.refl]

theorem execPrimeSetDone_kept (ok : Bool) (s : State) : Kept s (execPrimeSetDone ok s) := by
  dsimp only [execPrimeSetDone]
  refine .next ?_
  repeat' split
  · exact .refl s
  · exact State.primeState_keeps _ _ _ _ _
      (.mk_keeps (State.moaPut_keeps _ _ _ (.mk_keeps (.refl s) rfl rfl (Nat.le_refl _))) rfl rfl (Nat.le_refl _))
  · exact State.primeState_keeps _ _ _ _ _ (.mk_keeps (.refl s) rfl rfl (Nat.le_refl _))

theorem execVaonReturn_kept (s : State) : Kept s (execVaonReturn s) := by
  dsimp only [execVaonReturn]
  refine .next ?_
  repeat' split
  all_goals simp [Keeps.refl]

theorem execPcieLinkDown_kept (hot : Bool) (s : State) : Kept s (execPcieLinkDown hot s) := by
  dsimp only [execPcieLinkDown]
  refine .next ?_
  split
  · exact State.pcieLost_keeps _ (.mk_keeps (.refl s) rfl rfl (Nat.le_refl _))
  · exact .mk_keeps (.refl s) rfl rfl (Nat.le_refl _)

theorem execPcieLinkUp_kept (speed width : Nat) (s : State) : Kept s (execPcieLinkUp speed width s) :=
  .next (.ite (fun _ => .mk_keeps (.refl s) rfl rfl (Nat.le_refl _)) (fun _ => .refl s))

theorem execPcieBar2Write_kept (n : Ten) (off : Nat) (bs : List (Option Byte)) (s : State) : Kept s
    (execPcieBar2Write n off bs s) := by
  have ht (o : Option Ten) : Keeps s (o.elim s fun t => (s.touch t).tally 11 2 0 1) :=
    .elim (.refl s) fun t => State.tally_keeps _ _ _ _ _ (State.touch_keeps _ t (.refl s))
  exact .next (.ite (fun _ => .refl s) fun _ => .ite (fun _ => State.holdPf_keeps _ _ _ (.refl s)) fun _ =>
    State.bar2Write_keeps _ _ _ _ (ht _))

theorem execPcieBar2Read_kept (n : Ten) (off len : Nat) (s : State) : Kept s (execPcieBar2Read n off len s) := by
  have ht (t n) : Keeps s (((s.touch t).tally 11 2 0 1).outside t n) :=
    State.outside_keeps _ _ _ (State.tally_keeps _ _ _ _ _ (State.touch_keeps _ _ (.refl s)))
  dsimp only [execPcieBar2Read]
  refine .next ?_
  repeat' split
  · exact .refl s
  · exact .refl s
  · exact State.modPf_keeps _ _ _ (.refl s)
  · exact State.modPf_keeps _ _ _ (State.hostRead_keeps _ _ _ _ (ht _ _))
  · exact State.modPf_keeps _ _ _ (ht _ _)

/-- Every command answers a next state and keeps what every operation keeps. -/
theorem exec_kept (i : Instr) (s : State) : Kept s (exec i s) := by
  cases i with
  | registerWrite p addr be v => exact execRegisterWrite_kept _ _ _ _ _
  | bellnoLoRead p => exact .next (State.portRegRead_keeps _ _ _ (.refl s))
  | bellnoHiRead p => exact .next (State.portRegRead_keeps _ _ _ (.refl s))
  | bellAnnounce x => exact execBellAnnounce_kept _ _
  | keystoneLatch => exact execKeystoneLatch_kept _
  | bellFire x => exact execBellFire_kept _ _
  | chimeTick g x => exact execChimeTick_kept _ _ _
  | waitb r => exact execWaitb_kept _ _
  | atq r => exact .next (State.runOp_keeps _ _ _ _ (.refl s) semAt_keeps)
  | fence r => exact execFence_kept _ _
  | commit r => exact .next (State.runOp_keeps _ _ _ _ (.refl s) semCommit_keeps)
  | bpart r => exact .next (State.runOp_keeps _ _ _ _ (.refl s) semBpart_keeps)
  | bwin r => exact .next (State.runOp_keeps _ _ _ _ (.refl s) semBwin_keeps)
  | chime r => exact .next (State.runOp_keeps _ _ _ _ (.refl s) semChime_keeps)
  | aisleWatchdogExpiry ecc => exact .next (State.aisleStop_keeps _ _ (.refl s))
  | aisleTakeover => exact .next (State.aisleTake_keeps _ (.refl s))
  | doorbellProduce t r idx => exact execDoorbellProduce_kept _ _ _ _
  | doorbellRestart t r idx => exact execDoorbellRestart_kept _ _ _ _
  | doorbellRebind t r idx => exact execDoorbellRebind_kept _ _ _ _
  | ringRestarted => exact execRingRestarted_kept _
  | rebindDone => exact execRebindDone_kept _
  | tenantResetReq t v => exact .next (State.ownWrite_keeps _ _ _ _ (.refl s))
  | tenantResetEffect => exact execTenantResetEffect_kept _
  | tenKick t v => exact .next (State.ownWrite_keeps _ _ _ _ (.refl s))
  | tenantWatchdogExpiry => exact execTenantWatchdogExpiry_kept _
  | hostLinkLost => exact execHostLinkLost_kept _
  | evqRdWrite t v => exact .next (State.ownWrite_keeps _ _ _ _ (.refl s))
  | evqOverflow t => exact .next (State.evqOverflow_keeps _ _ (.refl s))
  | packetStart r => exact .next (State.packetStart_keeps _ _ (.refl s))
  | lecternFault r => exact .next (State.lecternFault_keeps _ _ (.refl s))
  | nop r => exact .next (State.runOp_keeps _ _ _ _ (.refl s) semNop_keeps)
  | br r => exact .next (State.runOp_keeps _ _ _ _ (.refl s) semBr_keeps)
  | djnz r => exact .next (State.runOp_keeps _ _ _ _ (.refl s) semDjnz_keeps)
  | sig r => exact .next (State.runOp_keeps _ _ _ _ (.refl s) semSig_keeps)
  | add r => exact .next (State.runOp_keeps _ _ _ _ (.refl s) semAdd_keeps)
  | sub r => exact .next (State.runOp_keeps _ _ _ _ (.refl s) semSub_keeps)
  | mul r => exact .next (State.runOp_keeps _ _ _ _ (.refl s) semMul_keeps)
  | andd r => exact .next (State.runOp_keeps _ _ _ _ (.refl s) semAnd_keeps)
  | orr r => exact .next (State.runOp_keeps _ _ _ _ (.refl s) semOr_keeps)
  | xorr r => exact .next (State.runOp_keeps _ _ _ _ (.refl s) semXor_keeps)
  | shl r => exact .next (State.runOp_keeps _ _ _ _ (.refl s) semShl_keeps)
  | shr r => exact .next (State.runOp_keeps _ _ _ _ (.refl s) semShr_keeps)
  | sar r => exact .next (State.runOp_keeps _ _ _ _ (.refl s) semSar_keeps)
  | minu r => exact .next (State.runOp_keeps _ _ _ _ (.refl s) semMinu_keeps)
  | maxu r => exact .next (State.runOp_keeps _ _ _ _ (.refl s) semMaxu_keeps)
  | mins r => exact .next (State.runOp_keeps _ _ _ _ (.refl s) semMins_keeps)
  | maxs r => exact .next (State.runOp_keeps _ _ _ _ (.refl s) semMaxs_keeps)
  | addi r => exact .next (State.runOp_keeps _ _ _ _ (.refl s) semAddi_keeps)
  | muli r => exact .next (State.runOp_keeps _ _ _ _ (.refl s) semMuli_keeps)
  | andi r => exact .next (State.runOp_keeps _ _ _ _ (.refl s) semAndi_keeps)
  | ori r => exact .next (State.runOp_keeps _ _ _ _ (.refl s) semOri_keeps)
  | xori r => exact .next (State.runOp_keeps _ _ _ _ (.refl s) semXori_keeps)
  | shli r => exact .next (State.runOp_keeps _ _ _ _ (.refl s) semShli_keeps)
  | shri r => exact .next (State.runOp_keeps _ _ _ _ (.refl s) semShri_keeps)
  | sari r => exact .next (State.runOp_keeps _ _ _ _ (.refl s) semSari_keeps)
  | movi r => exact .next (State.runOp_keeps _ _ _ _ (.refl s) semMovi_keeps)
  | movhi r => exact .next (State.runOp_keeps _ _ _ _ (.refl s) semMovhi_keeps)
  | movw r => exact .next (State.runOp_keeps _ _ _ _ (.refl s) semMovw_keeps)
  | cmp r => exact .next (State.runOp_keeps _ _ _ _ (.refl s) semCmp_keeps)
  | cmpi r => exact .next (State.runOp_keeps _ _ _ _ (.refl s) semCmpi_keeps)
  | rds r => exact .next (State.runOp_keeps _ _ _ _ (.refl s) semRds_keeps)
  | sdef r => exact .next (State.runOp_keeps _ _ _ _ (.refl s) semSdef_keeps)
  | sref r => exact .next (State.runOp_keeps _ _ _ _ (.refl s) semSref_keeps)
  | sgen r => exact .next (State.runOp_keeps _ _ _ _ (.refl s) semSgen_keeps)
  | sfree r => exact .next (State.runOp_keeps _ _ _ _ (.refl s) semSfree_keeps)
  | sput r => exact .next (State.runOp_keeps _ _ _ _ (.refl s) semSput_keeps)
  | lnew r => exact .next (State.runOp_keeps _ _ _ _ (.refl s) semLnew_keeps)
  | ldel r => exact .next (State.runOp_keeps _ _ _ _ (.refl s) semLdel_keeps)
  | lsrc r => exact .next (State.runOp_keeps _ _ _ _ (.refl s) semLsrc_keeps)
  | ldst r => exact .next (State.runOp_keeps _ _ _ _ (.refl s) semLdst_keeps)
  | ldstr r => exact .next (State.runOp_keeps _ _ _ _ (.refl s) semLdstr_keeps)
  | lvis r => exact .next (State.runOp_keeps _ _ _ _ (.refl s) semLvis_keeps)
  | lfall r => exact .next (State.runOp_keeps _ _ _ _ (.refl s) semLfall_keeps)
  | lflat r => exact .next (State.runOp_keeps _ _ _ _ (.refl s) semLflat_keeps)
  | lvid r => exact .next (State.runOp_keeps _ _ _ _ (.refl s) semLvid_keeps)
  | bgcol r => exact .next (State.runOp_keeps _ _ _ _ (.refl s) semBgcol_keeps)
  | chkr r => exact .next (State.runOp_keeps _ _ _ _ (.refl s) semChkr_keeps)
  | chkv r => exact .next (State.runOp_keeps _ _ _ _ (.refl s) semChkv_keeps)
  | lblend r => exact .next (State.runOp_keeps _ _ _ _ (.refl s) semLblend_keeps)
  | lscale r => exact .next (State.runOp_keeps _ _ _ _ (.refl s) semLscale_keeps)
  | dith r => exact .next (State.runOp_keeps _ _ _ _ (.refl s) semDith_keeps)
  | lpri r => exact .next (State.runOp_keeps _ _ _ _ (.refl s) semLpri_keeps)
  | drvtgt r => exact .next (State.runOp_keeps _ _ _ _ (.refl s) semDrvtgt_keeps)
  | drvduty r => exact .next (State.runOp_keeps _ _ _ _ (.refl s) semDrvduty_keeps)
  | drvdim r => exact .next (State.runOp_keeps _ _ _ _ (.refl s) semDrvdim_keeps)
  | drvderate r => exact .next (State.runOp_keeps _ _ _ _ (.refl s) semDrvderate_keeps)
  | drvrail r => exact .next (State.runOp_keeps _ _ _ _ (.refl s) semDrvrail_keeps)
  | clset r => exact .next (State.runOp_keeps _ _ _ _ (.refl s) semClset_keeps)
  | clcoef r => exact .next (State.runOp_keeps _ _ _ _ (.refl s) semClcoef_keeps)
  | clmode r => exact .next (State.runOp_keeps _ _ _ _ (.refl s) semClmode_keeps)
  | cllim r => exact .next (State.runOp_keeps _ _ _ _ (.refl s) semCllim_keeps)
  | clrep r => exact .next (State.runOp_keeps _ _ _ _ (.refl s) semClrep_keeps)
  | clsave r => exact .next (State.runOp_keeps _ _ _ _ (.refl s) semClsave_keeps)
  | tinj r => exact .next (State.runOp_keeps _ _ _ _ (.refl s) semTinj_keeps)
  | tcap r => exact .next (State.runOp_keeps _ _ _ _ (.refl s) semTcap_keeps)
  | trel r => exact .next (State.runOp_keeps _ _ _ _ (.refl s) semTrel_keeps)
  | captureDone => exact execCaptureDone_kept _
  | kset r => exact .next (State.runOp_keeps _ _ _ _ (.refl s) semKset_keeps)
  | ksetm r => exact .next (State.runOp_keeps _ _ _ _ (.refl s) semKsetm_keeps)
  | kmap r => exact .next (State.runOp_keeps _ _ _ _ (.refl s) semKmap_keeps)
  | kload r => exact .next (State.runOp_keeps _ _ _ _ (.refl s) semKload_keeps)
  | kloadCopyComplete c q => exact .next (State.kloadDone_keeps _ _ _ (.refl s))
  | kwit r => exact .next (State.runOp_keeps _ _ _ _ (.refl s) semKwit_keeps)
  | kprime r => exact .next (State.runOp_keeps _ _ _ _ (.refl s) semKprime_keeps)
  | primeStored ok => exact .next (State.primeStored_keeps _ _ (.refl s))
  | rtag r => exact .next (State.runOp_keeps _ _ _ _ (.refl s) semRtag_keeps)
  | rval r => exact .next (State.runOp_keeps _ _ _ _ (.refl s) semRval_keeps)
  | rclk r => exact .next (State.runOp_keeps _ _ _ _ (.refl s) semRclk_keeps)
  | ptol r => exact .next (State.runOp_keeps _ _ _ _ (.refl s) semPtol_keeps)
  | hsend r => exact .next (State.runOp_keeps _ _ _ _ (.refl s) semHsend_keeps)
  | hrecv r => exact .next (State.runOp_keeps _ _ _ _ (.refl s) semHrecv_keeps)
  | hsweep r => exact .next (State.runOp_keeps _ _ _ _ (.refl s) semHsweep_keeps)
  | uact r => exact .next (State.runOp_keeps _ _ _ _ (.refl s) semUact_keeps)
  | uconf r => exact .next (State.runOp_keeps _ _ _ _ (.refl s) semUconf_keeps)
  | udisc r => exact .next (State.runOp_keeps _ _ _ _ (.refl s) semUdisc_keeps)
  | uallow r => exact .next (State.runOp_keeps _ _ _ _ (.refl s) semUallow_keeps)
  | mr4Read v => exact execMr4Read_kept _ _
  | dqsDriftRead n => exact execDqsDriftRead_kept _ _
  | selfRefreshEntry => exact execSelfRefreshEntry_kept _
  | selfRefreshExit x => exact execSelfRefreshExit_kept _ _
  | scrubRead => exact .next (State.scrubRead_keeps _ (.refl s))
  | flattenEntryFree => exact execFlattenEntryFree_kept _
  | bayEccError b c x => exact execBayEccError_kept _ _ _ _
  | bayRetire => exact .next (State.bayRetire_keeps _ (.refl s))
  | csiFrameEnd f => exact .next (State.csiEnd_keeps _ _ (.refl s))
  | bandReadPoint c band x => exact .next (State.bandRead_keeps _ _ _ _ _ (.refl s))
  | fetchLate c n => exact .next (State.fetchLate_keeps _ _ _ (.refl s))
  | arraySlotStart x => exact execArraySlotStart_kept _ _
  | scanLineStart c left => exact execScanLineStart_kept _ _ _
  | frameDone c x => exact .next (State.frameDone_keeps _ _ _ (.refl s))
  | chStart t => exact .next (State.chapRequest_keeps _ _ _ (.refl s))
  | chStop t => exact .next (State.chapRequest_keeps _ _ _ (.refl s))
  | chReconf t => exact .next (State.chapRequest_keeps _ _ _ (.refl s))
  | chQuery t => exact execChQuery_kept _ _
  | chapelStartSequence c x => exact .next (State.chapStart_keeps _ _ _ (.refl s))
  | chapelStartComplete c => exact .next (State.startComplete_keeps _ _ (.refl s))
  | startTimeout => exact execStartTimeout_kept _
  | orderlyStop c => exact .next (State.orderlyStop_keeps _ _ (.refl s))
  | chapelParked c => exact .next (State.chapParked_keeps _ _ (.refl s))
  | interlockTrip c x => exact .next (State.interlock_keeps _ _ _ (.refl s))
  | engineReadyLoss c => exact execEngineReadyLoss_kept _ _
  | fastAxisFreqFault c => exact execFastAxisFreqFault_kept _ _
  | mirrorOverrunStop => exact execMirrorOverrunStop_kept _
  | loopHeld => exact execLoopHeld_kept _
  | dimPeriodReload o => exact .next (State.dimReload_keeps _ _ (.refl s))
  | railStep r h => exact .next (State.railStep_keeps _ _ _ (.refl s))
  | railFault r volt => exact execRailFault_kept _ _ _
  | lampSensorRead x => exact .next (State.lampSensors_keeps _ _ (.refl s))
  | matrixRowSlot x => exact .next (State.rowSlot_keeps _ _ (.refl s))
  | drvQuery t => exact execDrvQuery_kept _ _
  | kmQuery t => exact execKmQuery_kept _ _
  | railRestart t => exact execRailRestart_kept _ _
  | calBankWrite => exact execCalBankWrite_kept _
  | calBankWriteDone ok => exact .next (State.bankWritten_keeps _ _ (.refl s))
  | clQuery t => exact execClQuery_kept _ _
  | capRead t => exact execCapRead_kept _ _
  | calQuery t => exact execCalQuery_kept _ _
  | kwReserved k => exact execKwReserved_kept _ _
  | kwQuery t => exact execKwQuery_kept _ _
  | kwCal t => exact execKwCal_kept _ _
  | kwCalDone => exact .next (State.kwCalDone_keeps _ (.refl s))
  | vigilEntry => exact .next (State.vigilEntry_keeps _ (.refl s))
  | cryptEntry => exact .next (State.cryptEntry_keeps _ (.refl s))
  | wakeDetect w => exact execWakeDetect_kept _ _
  | vigilExit => exact .next (State.vigilExit_keeps _ (.refl s))
  | startUp x => exact execStart_kept _ _
  | powerFail => exact .next (State.powerFail_keeps _ (.refl s))
  | reliquaryFlush => exact execReliquaryFlush_kept _
  | powerReturn => exact .next (State.powerReturn_keeps _ (.refl s))
  | vbakLost => exact .next (State.vbakLost_keeps _ (.refl s))
  | pwrQuery t => exact execPwrQuery_kept _ _
  | primeWrite t => exact execPrimeWrite_kept _ _
  | primeSet t => exact execPrimeSet_kept _ _
  | primeRead t => exact execPrimeRead_kept _ _
  | thermalSample x => exact .next (State.thSample_keeps _ _ (.refl s))
  | comparatorTrip m => exact .next (State.compTrip_keeps _ _ (.refl s))
  | tripHoldEnd cool => exact .next (State.tripHoldEnd_keeps _ _ (.refl s))
  | memoryHoldCheck v => exact execMemoryHoldCheck_kept _ _
  | thQuery t => exact execThQuery_kept _ _
  | cloQuery t => exact execCloQuery_kept _ _
  | provision t => exact execProvision_kept _ _
  | lock t => exact execLock_kept _ _
  | cloChallenge t => exact execCloChallenge_kept _ _
  | cloResponse t => exact execCloResponse_kept _ _
  | cloAttest t => exact execCloAttest_kept _ _
  | ownerRotate t => exact execOwnerRotate_kept _ _
  | rngRead t => exact execRngRead_kept _ _
  | trngHealthFail prop => exact .next (State.trngFail_keeps _ _ (.refl s))
  | drbgReseed => exact execDrbgReseed_kept _
  | sessionEnd => exact execSessionEnd_kept _
  | challengeLockoutEnd => exact execChallengeLockoutEnd_kept _
  | glitchDetect supply => exact .next (State.glitch_keeps _ _ (.refl s))
  | updQuery t => exact execUpdQuery_kept _ _
  | updBegin t => exact execUpdBegin_kept _ _
  | updChunk t => exact execUpdChunk_kept _ _
  | updCheck t => exact execUpdCheck_kept _ _
  | updCheckDone => exact .next (State.updCheckDone_keeps _ (.refl s))
  | updArm t => exact execUpdArm_kept _ _
  | updLoad t => exact execUpdLoad_kept _ _
  | loadBreak => exact .next (State.loadBreak_keeps _ (.refl s))
  | handoverBell => exact .next (State.handoverBell_keeps _ (.refl s))
  | handoverAbandon => exact .next (State.handoverAbandon_keeps _ (.refl s))
  | updatePauseBegin => exact .next (State.pauseBegin_keeps _ (.refl s))
  | updatePauseEnd => exact .next (State.pauseLoaded_keeps _ (.refl s))
  | swapUnit => exact .next (State.swapUnit_keeps _ (.refl s))
  | udsSessionControl m => exact .next (State.udsSession_keeps _ _ (.refl s))
  | udsSessionTimeout => exact execUdsSessionTimeout_kept _
  | udsReadData m => exact .next (State.udsRead_keeps _ _ (.refl s))
  | udsRequestSeed m => exact .next (State.udsSeed_keeps _ _ (.refl s))
  | udsSendKey m => exact .next (State.udsKey_keeps _ _ (.refl s))
  | udsRoutineBegin m => exact .next (State.udsBegin_keeps _ _ (.refl s))
  | udsRoutineCheck m => exact .next (State.udsCheck_keeps _ _ (.refl s))
  | udsRoutineArm m => exact .next (State.udsArm_keeps _ _ (.refl s))
  | udsRoutineActivate m => exact .next (State.udsAct_keeps _ _ (.refl s))
  | udsRoutineConfirm m => exact .next (State.udsConfirm_keeps _ _ (.refl s))
  | udsRoutineDiscard m => exact .next (State.udsDiscard_keeps _ _ (.refl s))
  | udsRoutineResults m => exact .next (State.udsResults_keeps _ _ (.refl s))
  | udsRequestDownload m => exact .next (State.udsDownload_keeps _ _ (.refl s))
  | udsTransferData m => exact .next (State.udsTransfer_keeps _ _ (.refl s))
  | udsTransferExit m => exact .next (State.udsExit_keeps _ _ (.refl s))
  | udsTesterPresent m => exact .next (State.udsPresent_keeps _ _ (.refl s))
  | udsUnsupportedService m => exact .next (State.udsOther_keeps _ _ (.refl s))
  | udsVigilFrame f => exact .next (State.udsVigil_keeps _ _ (.refl s))
  | accumulatorClose => exact .next (State.accumulatorClose_keeps _ (.refl s))
  | bufferLost => exact .next (State.bufferLost_keeps _ (.refl s))
  | relStatus t => exact execRelStatus_kept _ _
  | relRead t => exact execRelRead_kept _ _
  | relFreeze t => exact execRelFreeze_kept _ _
  | relThaw t => exact execRelThaw_kept _ _
  | freezeExpiry => exact .next (State.freezeExpiry_keeps _ (.refl s))
  | relErase t => exact execRelErase_kept _ _
  | relMetric t => exact execRelMetric_kept _ _
  | linkUp d delay => exact .next (State.chLinkUp_keeps _ _ _ (.refl s))
  | linkDown d => exact .next (State.chLinkDown_keeps _ _ (.refl s))
  | enum v => exact .next (State.chEnum_keeps _ _ (.refl s))
  | enumTail d f => exact .next (State.chEnumTail_keeps _ _ _ (.refl s))
  | announceMark => exact .next (State.chAnnounceMark_keeps _ (.refl s))
  | bellMark => exact .next (State.chBellMark_keeps _ (.refl s))
  | announceFrame d f => exact .next (State.chAnnounceFrame_keeps _ _ _ (.refl s))
  | floorFrame d f => exact .next (State.chFloorFrame_keeps _ _ _ (.refl s))
  | breakFrame d f => exact .next (State.chBreak_keeps _ _ _ (.refl s))
  | chainBellLoss => exact .next (State.chainBellLoss_keeps _ (.refl s))
  | msg d f => exact .next (State.chMsg_keeps _ _ _ (.refl s))
  | ack d f => exact .next (State.chAck_keeps _ _ _ (.refl s))
  | unreach d f => exact .next (State.chUnreach_keeps _ _ _ (.refl s))
  | msgTimeout => exact execMsgTimeout_kept _
  | sweepStart d f => exact .next (State.chSweepStart_keeps _ _ _ (.refl s))
  | sweepStepLatch => exact .next (State.sweepStepLatch_keeps _ (.refl s))
  | sweepDone d f => exact .next (State.chSweepDone_keeps _ _ _ (.refl s))
  | sweepEndTimeout => exact .next (State.sweepEndTimeout_keeps _ (.refl s))
  | fetch d f => exact .next (State.chFetch_keeps _ _ _ (.refl s))
  | data d f => exact .next (State.chData_keeps _ _ _ (.refl s))
  | echo d rt => exact .next (State.chEcho_keeps _ _ _ (.refl s))
  | halQuery t => exact execHalQuery_kept _ _
  | sweepFetch t => exact execSweepFetch_kept _ _
  | sweepRelease t => exact execSweepRelease_kept _ _
  | counterLowRead p v => exact execCounterLowRead_kept _ _ _
  | counterHighRead p v => exact execCounterHighRead_kept _ _ _
  | galQuery t => exact execGalQuery_kept _ _
  | galAssign t => exact execGalAssign_kept _ _
  | galTrace t => exact execGalTrace_kept _ _
  | wr p q => exact .next (State.framed_keeps _ _ _ (.refl s))
  | rd p q => exact .next (State.framed_keeps _ _ _ (.refl s))
  | ring p q => exact .next (State.framed_keeps _ _ _ (.refl s))
  | mwr p q => exact .next (State.framed_keeps _ _ _ (.refl s))
  | mrd p q => exact .next (State.framed_keeps _ _ _ (.refl s))
  | evq p q => exact .next (State.framed_keeps _ _ _ (.refl s))
  | framedNop p q => exact .next (State.framed_keeps _ _ _ (.refl s))
  | load p q => exact .next (State.framed_keeps _ _ _ (.refl s))
  | mbCmd t v => exact execMbCmd_kept _ _ _
  | mbData t w => exact execMbData_kept _ _ _
  | mbDone t v => exact execMbDone_kept _ _ _
  | hpQuery t => exact execHpQuery_kept _ _
  | pcieFlr n => exact execPcieFlr_kept _ _
  | pciePerst low => exact execPciePerst_kept _ _
  | canBusOff n => exact execCanBusOff_kept _ _
  | canBusoffRecovery n => exact execCanBusoffRecovery_kept _ _
  | vaonLow => exact execVaonLow_kept _
  | aonPorEnd clk test => exact .next (State.porEnd_keeps _ _ _ (.refl s))
  | pwrGoodTimeout => exact .next (State.pwrGoodTimeout_keeps _ (.refl s))
  | refclkFault => exact execRefclkFault_kept _
  | lpddr4xTrainingDone ok => exact execLpddr4xTrainingDone_kept _ _
  | standbyAisleReady => exact execStandbyAisleReady_kept _
  | primeSetDone ok => exact execPrimeSetDone_kept _ _
  | witnessAdcSlot v => exact .next (State.adcSlot_keeps _ _ (.refl s))
  | vaonReturn => exact execVaonReturn_kept _
  | vbakMvSample mv => exact .next (State.vbakSample_keeps _ _ (.refl s))
  | pcieLinkDown hot => exact execPcieLinkDown_kept _ _
  | pcieLinkUp speed width => exact execPcieLinkUp_kept _ _ _
  | pcieBar2Write n off bs => exact execPcieBar2Write_kept _ _ _ _
  | pcieBar2Read n off len => exact execPcieBar2Read_kept _ _ _ _
  | vigilEntryComplete => exact .next (State.vigilEnter_keeps _ (.refl s))
  -- The command that is left is RETURN, whose constructor bears a keyword of Lean.
  | _ => exact execReturn_kept _ _

end Sys2Proof.Machine

/-!
PROOFS. The statements about the whole machine: O1 and O3 to O8 from what every command and the passing of time keep,
O7 with what the OTP's numbers do under fuses that stay (15_cloister R471, R472).
-/

namespace Sys2Proof.Machine

/-! ### The rollback floor and the lifecycle state under fuses that stay -/

theorem nbit_eq_testBit (n i : Nat) : nbit n i = n.testBit i := by
  rw [nbit, Nat.testBit_eq_decide_div_mod_eq]; rfl

theorem testBit_ofLe_cons (b : Byte) (bs : List Byte) (j : Nat) :
    (ofLe (b :: bs)).testBit j = if j < 8 then b.toNat.testBit j else (ofLe bs).testBit (j - 8) := by
  rw [ofLe, Nat.add_comm]
  exact Nat.testBit_two_pow_mul_add (i := 8) _ b.isLt j

/-- Where every byte of one memory is part of the same byte of another, so are the numbers they spell. -/
theorem ofLe_readN_and {m k : Mem} (h : ∀ a, Memory.read m a &&& Memory.read k a = Memory.read m a) (a n : Nat) :
    ofLe (Memory.readN m a n) &&& ofLe (Memory.readN k a n) = ofLe (Memory.readN m a n) := by
  induction n generalizing a with
  | zero => exact Nat.and_self 0
  | succ n ih =>
    refine Nat.eq_of_testBit_eq fun j => ?_
    simp only [Memory.readN, Nat.testBit_and, testBit_ofLe_cons]
    split
    · rw [← Nat.testBit_and, ← BitVec.toNat_and, h a]
    · rw [← Nat.testBit_and, ih (a + 1)]

theorem nbit_of_and {n m i : Nat} (h : n &&& m = n) (hn : nbit n i = true) : nbit m i = true := by
  rw [nbit_eq_testBit] at hn ⊢
  rw [← h, Nat.testBit_and, Bool.and_eq_true] at hn
  exact hn.2

theorem b2n_nbit_le {n m : Nat} (h : n &&& m = n) (i : Nat) : b2n (nbit n i) ≤ b2n (nbit m i) := by
  cases hn : nbit n i with
  | false => exact Nat.zero_le _
  | true => exact Nat.le_of_eq (by rw [nbit_of_and h hn])

theorem State.fusesKept.otpTop_le {s t : State} (h : s.fusesKept t)
    (off n : Nat) : s.otpTop off n ≤ t.otpTop off n := by
  have hle : ofLe (Memory.readN s.cloister.otp off n) ≤ ofLe (Memory.readN t.cloister.otp off n) := by
    rw [← ofLe_readN_and h off n]
    exact Nat.and_le_right
  unfold State.otpTop
  dsimp only
  split
  · exact Nat.zero_le _
  · rw [if_neg (by omega)]
    exact Nat.succ_le_succ ((Nat.le_log2 (by omega)).mpr (Nat.le_trans (Nat.log2_self_le (by omega)) hle))

theorem State.fusesKept.rbFloor_le {s t : State} (h : s.fusesKept t) : s.rbFloor ≤ t.rbFloor :=
  Nat.max_le.mpr ⟨Nat.le_trans (h.otpTop_le 0x30 16) (Nat.le_max_left _ _),
    Nat.le_trans (h.otpTop_le 0x40 16) (Nat.le_max_right _ _)⟩

theorem State.fusesKept.lifeStep {s t : State} (h : s.fusesKept t) {k : Nat} (hk : s.lifeStep k = true) :
    t.lifeStep k = true := by
  have hb : ∀ i, b2n (nbit s.otpLife i) ≤ b2n (nbit t.otpLife i) := b2n_nbit_le (ofLe_readN_and h 0x2C 2)
  exact decide_eq_true (Nat.le_trans (of_decide_eq_true hk) (Nat.add_le_add (Nat.add_le_add (hb _) (hb _)) (hb _)))

/-- The lifecycle state counts the steps taken without a gap, and a step taken stays taken. -/
theorem State.fusesKept.lifeOf_le {s t : State} (h : s.fusesKept t) : s.lifeOf ≤ t.lifeOf := by
  have hs : ∀ k, s.lifeStep k = true → t.lifeStep k = true := fun k => h.lifeStep
  unfold State.lifeOf
  cases h0 : s.lifeStep 0
  · exact Nat.zero_le _
  · rw [hs 0 h0]
    cases h1 : s.lifeStep 1
    · cases t.lifeStep 1 <;> cases t.lifeStep 2 <;> simp
    · rw [hs 1 h1]
      cases h2 : s.lifeStep 2
      · cases t.lifeStep 2 <;> simp
      · exact Nat.le_of_eq (by rw [hs 2 h2])

/-! ### The statements about the whole machine -/

theorem exec_keeps {i : Instr} {s t : State} (h : exec i s = .next t) : Keeps s t := by
  obtain ⟨u, hu, hk⟩ := exec_kept i s
  cases h.symm.trans hu
  exact hk

/-- A step is time on an empty queue, or the front command on the state with the queue's rest: it keeps what an
operation keeps, the queue apart. -/
theorem step_keeps (s : State) : ∃ z t, step s = .next t ∧ Keeps z t ∧ z = { s with pending := z.pending } := by
  unfold step
  split
  · exact ⟨s, _, rfl, State.tick_keeps s (.refl s), rfl⟩
  · rename_i c _ _
    obtain ⟨t, ht, hk⟩ := exec_kept c s.rest
    exact ⟨s.rest, t, ht, hk, rfl⟩

theorem step_next_keeps {s t : State} (h : step s = .next t) : ∃ q, Keeps { s with pending := q } t := by
  obtain ⟨z, u, hu, hk, hz⟩ := step_keeps s
  cases h.symm.trans hu
  exact ⟨z.pending, hz ▸ hk⟩

/-- Settles O1: `step` on a queue with a command in front is `exec` of that command. -/
theorem stepRunsFrontCommand : Obligations.StepRunsFrontCommand := fun _ _ _ => rfl

/-- Settles O3: time on an empty queue, and every command (`exec_kept`), answers a next state. -/
theorem everyStepAnswersNext : Obligations.EveryStepAnswersNext := fun s =>
  let ⟨_, t, ht, _⟩ := step_keeps s
  ⟨t, ht⟩

/-- Settles O4: what every command keeps includes the queue. -/
theorem commandsLeaveTheQueue : Obligations.CommandsLeaveTheQueue := fun _ _ _ h => (exec_keeps h).pending

/-- Settles O5: what every step keeps includes the canonical form of the memories. -/
theorem stepsKeepMemoryForm : Obligations.StepsKeepMemoryForm := fun _ _ hm h =>
  let ⟨_, hk⟩ := step_next_keeps h
  hk.mem hm

/-- Settles O6: the reset state's memories hold no byte. -/
theorem resetMemoryForm : Obligations.ResetMemoryForm := by
  refine ⟨rfl, rfl, rfl, rfl, fun v hv => ?_⟩
  cases hv

/-- Settles O7: every step keeps the fuses, and the floor and the lifecycle state rise with them. -/
theorem fusesNeverClear : Obligations.FusesNeverClear := fun _ _ hm h =>
  let ⟨_, hk⟩ := step_next_keeps h
  have hf := hk.fuses hm
  ⟨hf, hf.rbFloor_le, hf.lifeOf_le⟩

/-- Settles O8: what every step keeps includes the direction of time. -/
theorem timeNeverGoesBack : Obligations.TimeNeverGoesBack := fun _ _ h =>
  let ⟨_, hk⟩ := step_next_keeps h
  hk.time

end Sys2Proof.Machine

/-!
PROOFS. What an instruction does that may retire (04_quagal_model R123, R131): it is paid for, takes its effect on the
state it has been paid for in, and completes its packet; and what that leaves of its ring.
-/

namespace Sys2Proof.Machine

/-! ### Numbers as indices, registers -/

theorem fin?_of_lt {n i : Nat} [NeZero n] (h : i < n) : fin? n i = some (Fin.ofNat n i) := by
  rw [fin?, dif_pos h]
  exact congrArg some (Fin.ext (Nat.mod_eq_of_lt h).symm)

theorem fld_lt {n : Nat} (x : BitVec n) (lo len : Nat) : fld x lo len < 2 ^ len := Nat.mod_lt _ (Nat.two_pow_pos len)

theorem OpCtx.reg_of_lt (c : OpCtx) {i : Nat} (h : i < 16) : c.reg i = at' c.g (Fin.ofNat 16 i) := by
  rw [OpCtx.reg, fin?_of_lt h]; rfl

theorem State.setReg_of_lt (s : State) (r : RingId) {i : Nat} (v : Word) (h : i < 16) :
    s.setReg r i v = s.modRing r (fun q => { q with g := upd q.g (Fin.ofNat 16 i) (fun _ => v) }) := by
  rw [State.setReg, fin?_of_lt h]

theorem State.setPred_of_lt (s : State) (r : RingId) {i : Nat} (b : Bool) (h : i < 4) :
    s.setPred r i b = s.modRing r (fun q => { q with p := upd q.p (Fin.ofNat 4 i) (fun _ => b) }) := by
  rw [State.setPred, fin?_of_lt h]

/-! ### Standing at an instruction -/

section
variable {s : State} {r : RingId} {op : Nat} {c : OpCtx}

theorem Stands.ring_eq (h : Stands s r op c) : c.ring = r := (State.atPc_op h.1.choose_spec).1
theorem Stands.g_eq (h : Stands s r op c) : c.g = (s.ring r).g := (State.atPc_op h.1.choose_spec).2.2.1
theorem Stands.pos_eq (h : Stands s r op c) : c.pos = (s.ring r).pc := (State.atPc_op h.1.choose_spec).2.2.2.1
theorem Stands.owner_eq (h : Stands s r op c) : (s.ring r).owner = some c.ten := (State.atPc_op h.1.choose_spec).2.1
theorem Stands.action_eq (h : Stands s r op c) : c.action = false := (State.atPc_op h.1.choose_spec).2.2.2.2.1
theorem Stands.wait_eq (h : Stands s r op c) : (s.ring r).wait = none :=
  (State.atPc_op h.1.choose_spec).2.2.2.2.2.2.2.1

theorem Stands.pkt_eq (h : Stands s r op c) :
    ∃ p, (s.ring r).pkt = some p ∧ c.seq = p.seq ∧ c.pos + opWords c.w ≤ p.len :=
  (State.atPc_op h.1.choose_spec).2.2.2.2.2.2.2.2

/-- A register that an operand of four bits names, in the context and in the ring. -/
theorem Stands.reg_eq (h : Stands s r op c) {i : Nat} (hi : i < 16) : c.reg i = gOf s r i := by
  rw [OpCtx.reg_of_lt c hi, h.g_eq, gOf]

theorem Stands.reg_fld (h : Stands s r op c) (lo : Nat) : c.reg (fld c.w lo 4) = gOf s r (fld c.w lo 4) :=
  h.reg_eq (fld_lt _ _ _)

end

/-! ### The ring that has been paid for -/

/-- A ring whose instruction is paid for: its words kept, its cost charged, its PC behind it. -/
def RingSt.paid (q : RingSt) (buf : Packet → List (Option Word)) (words cost : Nat) : RingSt :=
  { q with pkt := q.pkt.map (fun p => { p with buf := buf p }), budget := q.budget - cost, pc := q.pc + words }

theorem RingSt.packetDone_paid (q : RingSt) (buf : Packet → List (Option Word)) (words cost : Nat) :
    (q.paid buf words cost).packetDone = q.past buf words cost := by
  cases hp : q.pkt with
  | none => simp [RingSt.packetDone, RingSt.paid, RingSt.past, hp]
  | some p =>
    by_cases hl : q.pc + words = p.len <;> simp [RingSt.packetDone, RingSt.paid, RingSt.past, hp, hl, RingSt.words]

/-- A packet completes alike whatever the registers hold. -/
theorem RingSt.packetDone_g (q : RingSt) (g : Vector Word 16) :
    { q with g := g }.packetDone = { q.packetDone with g := g } := by
  cases hp : q.pkt with
  | none => simp [RingSt.packetDone, hp]
  | some p => by_cases hl : q.pc = p.len <;> simp [RingSt.packetDone, hp, hl, RingSt.words]

theorem RingSt.packetDone_p (q : RingSt) (x : Vector Bool 4) :
    { q with p := x }.packetDone = { q.packetDone with p := x } := by
  cases hp : q.pkt with
  | none => simp [RingSt.packetDone, hp]
  | some p => by_cases hl : q.pc = p.len <;> simp [RingSt.packetDone, hp, hl, RingSt.words]

theorem RingSt.packetDone_ats (q : RingSt) (x : List AtAct) :
    { q with ats := x }.packetDone = { q.packetDone with ats := x } := by
  cases hp : q.pkt with
  | none => simp [RingSt.packetDone, hp]
  | some p => by_cases hl : q.pc = p.len <;> simp [RingSt.packetDone, hp, hl, RingSt.words]

theorem RingSt.packetDone_wait (q : RingSt) (x : Option Wait) :
    { q with wait := x }.packetDone = { q.packetDone with wait := x } := by
  cases hp : q.pkt with
  | none => simp [RingSt.packetDone, hp]
  | some p => by_cases hl : q.pc = p.len <;> simp [RingSt.packetDone, hp, hl, RingSt.words]

@[simp] theorem RingSt.packetDone_keeps_g (q : RingSt) : q.packetDone.g = q.g := by
  unfold RingSt.packetDone
  repeat' split
  all_goals rfl

/-- A taken branch leaves the PC at its target. -/
theorem RingSt.packetDone_paid_pc (q : RingSt) (buf : Packet → List (Option Word)) (words cost n : Nat) :
    { q.paid buf words cost with pc := n }.packetDone = { q with pc := n }.past buf 0 cost :=
  RingSt.packetDone_paid { q with pc := n } buf 0 cost

/-! ### The state that has been paid for -/

theorem Stands.paid_noGal {s : State} {r : RingId} {op : Nat} {c : OpCtx} (h : Stands s r op c) (words cost : Nat) :
    (s.paid r c words cost).noGal = s.noGal.modRing r (fun q => q.paid (kept s r) words cost) := by
  simp only [State.paid, State.modRing_noGal, State.charge_noGal, State.keepFetched, h.ring_eq, State.modRing_modRing]
  refine State.modRing_congr _ _ _ _ ?_
  rw [h.pos_eq]
  rfl

theorem State.moved_noGal (s : State) (r : RingId) (words cost : Nat) :
    (s.moved r words cost).noGal = s.noGal.modRing r (fun q => q.past (kept s r) words cost) := rfl

/-- Behind an instruction, its packet completed, stands the state that has moved past it. -/
theorem Stands.paid_done_noGal {s : State} {r : RingId} {op : Nat} {c : OpCtx} (h : Stands s r op c)
    (words cost : Nat) :
    (s.paid r c words cost).noGal.modRing r RingSt.packetDone = (s.moved r words cost).noGal := by
  rw [h.paid_noGal, State.modRing_modRing, State.moved_noGal]
  exact congrArg _ (funext fun q => q.packetDone_paid _ _ _)

/-- An instruction that may retire is paid for, takes its effect, and completes its packet. -/
theorem Retires.runOp_eq {s : State} {r : RingId} {op : Nat} {o : OpSem} {c : OpCtx} (h : Retires s r op o c) :
    s.runOp r op o = (o.run c (s.paid r c (opWords c.w) (o.cost c))).packetEnd r := by
  obtain ⟨hst, hc, hs, hb⟩ := h
  obtain ⟨⟨ws, hat⟩, hop⟩ := hst
  rw [State.runOp_retires hat hop hc hs hb, State.retire, (State.atPc_op hat).1]
  rfl

/-- States equal but for what the Gallery counts and traces. -/
theorem Same.of_noGal {s t : State} (h : t.noGal = s.noGal) : Same s t := State.of_noGal h

theorem OnlyRing.of_noGal {s t : State} {r : RingId} {q : RingSt} {F : RingSt → RingSt}
    (h : t.noGal = s.noGal.modRing r F) (hq : F (s.ring r) = q) : OnlyRing s t r q := by
  have hF : s.noGal.modRing r F = s.noGal.modRing r (fun _ => q) := State.modRing_congr _ _ _ _ hq
  rw [hF, ← State.modRing_noGal] at h
  exact State.of_noGal h

/-- An instruction that changes its own ring alone leaves its ring changed and its packet completed. -/
theorem Retires.onlyRing {s : State} {r : RingId} {op : Nat} {o : OpSem} {c : OpCtx} {q : RingSt}
    (h : Retires s r op o c) (F : RingSt → RingSt)
    (hrun : ∀ x : State, x.noGal = s.noGal.modRing r (fun y => y.paid (kept s r) (opWords c.w) (o.cost c)) →
      (o.run c x).noGal = x.noGal.modRing r F)
    (hq : (F ((s.ring r).paid (kept s r) (opWords c.w) (o.cost c))).packetDone = q) :
    OnlyRing s (s.runOp r op o) r q := by
  have hp := h.1.paid_noGal (opWords c.w) (o.cost c)
  refine OnlyRing.of_noGal (F := fun y => (F (y.paid (kept s r) (opWords c.w) (o.cost c))).packetDone) ?_ hq
  rw [h.runOp_eq, State.packetEnd_noGal, hrun _ hp, hp, State.modRing_modRing, State.modRing_modRing]

/-! ### Decoding -/

/-- A word's RSV bits are 0: those outside the instruction's mask and its opcode. -/
theorem OpSem.decodeCauses_nil {o : OpSem} {c : OpCtx} {s : State}
    (hw : c.w &&& ~~~ (o.m0 ||| 0xFF000000#32) = 0) (h1 : opWords c.w < 2 ∨ o.m1 = 0xFFFFFFFF#32)
    (h2 : opWords c.w < 3) (hill : o.illegal c = false) (hop : opOf c.w < 0x30) : o.decodeCauses c s = [] := by
  have hbad : o.bad c = false := by
    have h1' : (decide (opWords c.w ≥ 2) && (c.e1 &&& ~~~ o.m1) != 0) = false := by
      rcases h1 with h1 | h1
      · simp [Nat.not_le.mpr h1]
      · simp [h1]
    have h2' : decide (opWords c.w ≥ 3) = false := decide_eq_false (by omega)
    rw [OpSem.bad, hw, h1', h2', hill]
    rfl
  have hcls : (opClasses (opOf c.w) (s.ofCls .safety).isEmpty).contains (s.ten c.ten).cfg.cls = true := by
    rw [opClasses, if_pos hop]
    cases (s.ten c.ten).cfg.cls <;> rfl
  rw [OpSem.decodeCauses, hbad, hcls]
  rfl

end Sys2Proof.Machine

/-!
PROOFS. The instructions that write their ring alone (04_quagal_model R123, R124, R128, R129; 05_quagal_reference R151,
R152): O10 from one lemma about `semAlu`, O11, O12 and O13.
-/

namespace Sys2Proof.Machine

/-! ### Values -/

theorem immSign_eq (w : Word) : i32 (sgn 16 (fld w 0 16)) = immSign w := by
  rw [immSign, i32, sgn, fld, Nat.pow_zero, Nat.div_one, Nat.mod_mod, BitVec.signExtend, BitVec.toInt_eq_toNat_cond,
    BitVec.toNat_setWidth]
  congr 1
  repeat' split
  all_goals omega

theorem immZero_eq (w : Word) : w32 (fld w 0 16) = immZero w := by
  apply BitVec.eq_of_toNat_eq
  rw [immZero, w32, BitVec.toNat_ofNat, BitVec.toNat_setWidth, BitVec.toNat_setWidth, fld, Nat.pow_zero, Nat.div_one]

theorem immZero_shift (w : Word) : (immZero w).toNat % 32 = w.toNat % 32 := by
  rw [immZero, BitVec.toNat_setWidth, BitVec.toNat_setWidth]
  omega

theorem sshiftRight_eq_asr (a : Word) (n : Nat) : a.sshiftRight n = BitVec.ofInt 32 (asr a.toInt n) := by
  rw [BitVec.sshiftRight, asr, Int.shiftRight_eq_div_pow]

/-! ### Arithmetic -/

theorem Stands.retires {s : State} {r : RingId} {op : Nat} {o : OpSem} {c : OpCtx} (h : Stands s r op c)
    (hd : o.decodeCauses c s = []) (hr : o.range c = false) (hc : o.causes c s = []) (hs : o.stall c s = false)
    (hb : o.cost c ≤ (s.ring r).budget) : Retires s r op o c := by
  refine ⟨h, ?_, hs, hb⟩
  rw [OpSem.allCauses, hd, hr, hc]
  rfl

/-- An instruction that writes one register leaves its ring with that register written, and moved past it. -/
theorem semAlu_onlyRing {s : State} {r : RingId} {op : Nat} {m0 m1 : Word} {f : OpCtx → Word} {c : OpCtx}
    (h : Stands s r op c) (hop : op < 0x30) (hw : c.w &&& ~~~ (m0 ||| 0xFF000000#32) = 0)
    (h1 : opWords c.w < 2 ∨ m1 = 0xFFFFFFFF#32) (h2 : opWords c.w < 3) (hb : 1 ≤ (s.ring r).budget) :
    OnlyRing s (s.runOp r op (semAlu m0 m1 f)) r
      { (s.ring r).past (kept s r) (opWords c.w) 1 with
        g := upd (s.ring r).g (Fin.ofNat 16 (fld c.w 20 4)) (fun _ => f c) } := by
  have hd : (semAlu m0 m1 f).decodeCauses c s = [] := OpSem.decodeCauses_nil hw h1 h2 rfl (h.2 ▸ hop)
  refine Retires.onlyRing (h.retires hd rfl rfl rfl hb)
    (fun q => { q with g := upd q.g (Fin.ofNat 16 (fld c.w 20 4)) (fun _ => f c) }) (fun x _ => ?_) ?_
  · change (x.setReg c.ring (fld c.w 20 4) (f c)).noGal = _
    rw [h.ring_eq, State.setReg_of_lt _ _ _ (fld_lt _ _ _), State.modRing_noGal]
  · rw [RingSt.packetDone_g, RingSt.packetDone_paid]
    rfl

/-- What O10 says of a row. -/
def AluRow.Writes (e : AluRow) : Prop :=
  ∀ (s : State) (r : RingId) (c : OpCtx), Stands s r e.op c → c.w &&& e.rsv = 0 → 1 ≤ (s.ring r).budget →
    ∃ t, exec (e.cmd r) s = .next t ∧ OnlyRing s t r
      { (s.ring r).past (kept s r) (opWords c.w) 1 with
        g := upd (s.ring r).g (Fin.ofNat 16 (fld c.w 20 4)) (fun _ =>
          e.value (gOf s r (fld c.w 16 4)) (gOf s r (fld c.w 12 4)) c.w c.e1) }

/-- A row whose instruction means `semAlu` with the row's value and RSV bits. -/
theorem AluRow.writes_of_semAlu {e : AluRow} (m0 m1 : Word) (f : OpCtx → Word)
    (hx : ∀ r s, exec (e.cmd r) s = .next (s.runOp r e.op (semAlu m0 m1 f))) (hop : e.op < 0x30)
    (hrsv : e.rsv = ~~~ (m0 ||| 0xFF000000#32))
    (hw : ∀ w, opOf w = e.op → (opWords w < 2 ∨ m1 = 0xFFFFFFFF#32) ∧ opWords w < 3)
    (hf : ∀ c, f c = e.value c.A c.B c.w c.e1) : e.Writes := by
  intro s r c h h0 hb
  have hval := hf c
  rw [OpCtx.A, OpCtx.B, h.reg_fld, h.reg_fld] at hval
  rw [← hval]
  exact ⟨_, hx r s, semAlu_onlyRing h hop (hrsv ▸ h0) (hw _ h.2).1 (hw _ h.2).2 hb⟩

theorem OpCtx.immS_eq (c : OpCtx) : c.immS = immSign c.w := immSign_eq c.w
theorem OpCtx.immZ_eq (c : OpCtx) : c.immZ = immZero c.w := immZero_eq c.w

theorem aluRows_write : ∀ e ∈ aluRows, e.Writes := by
  simp only [aluRows, List.forall_mem_cons, List.not_mem_nil, false_imp_iff, implies_true, and_true]
  and_intros <;> refine AluRow.writes_of_semAlu _ _ _ (fun _ _ => rfl) (by decide) (by decide)
      (fun w hw => by simp only at hw; simp [opWords, hw]) (fun c => ?_)
  all_goals simp only [OpCtx.immS_eq, OpCtx.immZ_eq, immZero_shift, sshiftRight_eq_asr]

/-- Settles O10: each row's command is `semAlu` with the row's value, RSV bits and words. -/
theorem arithmeticWritesDst : Obligations.ArithmeticWritesDst :=
  fun e he => aluRows_write e he

/-! ### Compare -/

theorem condHolds_eq (n : Nat) (a b : Word) : condHolds n a b = Cond n a b := by
  match n with
  | 0 | 1 | 2 | 3 | 4 | 5 | 6 | 7 | 8 | 9 | 10 | _ + 11 => rfl

/-- A compare that is assigned writes its predicate, and its ring moves past it. -/
theorem setPred_onlyRing {s : State} {r : RingId} {op : Nat} {o : OpSem} {c : OpCtx} (h : Stands s r op c)
    {i : Nat} {b : Bool} (hi : i < 4) (hop : op < 0x30) (hw : c.w &&& ~~~ (o.m0 ||| 0xFF000000#32) = 0)
    (h1 : opWords c.w = 1) (hill : o.illegal c = false) (hr : o.range c = false) (hc : o.causes c s = [])
    (hs : o.stall c s = false) (hcost : o.cost c = 1) (hb : 1 ≤ (s.ring r).budget)
    (hrun : ∀ x, o.run c x = x.setPred r i b) :
    OnlyRing s (s.runOp r op o) r
      { (s.ring r).past (kept s r) 1 1 with p := upd (s.ring r).p (Fin.ofNat 4 i) (fun _ => b) } := by
  have hd : o.decodeCauses c s = [] := OpSem.decodeCauses_nil hw (.inl (by omega)) (by omega) hill (h.2 ▸ hop)
  refine Retires.onlyRing (h.retires hd hr hc hs (by omega))
    (fun q => { q with p := upd q.p (Fin.ofNat 4 i) (fun _ => b) }) (fun x _ => ?_) ?_
  · rw [hrun, State.setPred_of_lt _ _ _ hi, State.modRing_noGal]
  · rw [RingSt.packetDone_p, RingSt.packetDone_paid, h1, hcost]
    rfl

/-- IMM14, extended by sign for the signed conditions and by zero for the others. -/
theorem OpCtx.imm14_eq (c : OpCtx) : c.imm14 =
    if 6 ≤ fld c.w 20 4 ∧ fld c.w 20 4 ≤ 9 then (c.w.setWidth 14).signExtend 32
    else (c.w.setWidth 14).setWidth 32 := by
  rw [OpCtx.imm14, OpCtx.cond]
  refine ite_congr (by rw [Bool.and_eq_true, decide_eq_true_iff, decide_eq_true_iff]) (fun _ => ?_) (fun _ => ?_)
  · rw [i32, sgn, fld, Nat.pow_zero, Nat.div_one, Nat.mod_mod, BitVec.signExtend, BitVec.toInt_eq_toNat_cond,
      BitVec.toNat_setWidth]
    congr 1
    repeat' split
    all_goals omega
  · apply BitVec.eq_of_toNat_eq
    rw [w32, BitVec.toNat_ofNat, BitVec.toNat_setWidth, BitVec.toNat_setWidth, fld, Nat.pow_zero, Nat.div_one]

/-- Settles O11: both instructions write the predicate `setPred` names, with `Cond`. -/
theorem compareWritesPredicate : Obligations.CompareWritesPredicate := by
  unfold Obligations.CompareWritesPredicate
  intro s r c hcond hb
  have hill : decide (c.cond ≥ 12) = false := decide_eq_false (Nat.not_le.mpr hcond)
  refine ⟨fun h hrsv => ⟨_, rfl, ?_⟩, fun h => ⟨_, rfl, ?_⟩⟩
  · refine setPred_onlyRing h (fld_lt _ _ _) (by decide) hrsv (by simp [opWords, h.2]) hill rfl rfl rfl rfl hb
      fun x => ?_
    change x.setPred c.ring (fld c.w 14 2) (condHolds (fld c.w 20 4) c.A (c.reg (fld c.w 10 4))) = _
    rw [condHolds_eq, OpCtx.A, h.reg_fld, h.reg_fld, h.ring_eq]
  · have hrsv : c.w &&& ~~~ (semCmpi.m0 ||| 0xFF000000#32) = 0 := BitVec.and_zero
    refine setPred_onlyRing h (fld_lt _ _ _) (by decide) hrsv (by simp [opWords, h.2]) hill rfl rfl rfl rfl hb
      fun x => ?_
    change x.setPred c.ring (fld c.w 14 2) (condHolds (fld c.w 20 4) c.A c.imm14) = _
    rw [condHolds_eq, OpCtx.A, h.reg_fld, c.imm14_eq, h.ring_eq]

/-! ### Flow -/

/-- The condition of BR's MODE, on a ring whose predicates are read. -/
theorem brTaken_iff {c : OpCtx} {s : State} (h : fld c.w 22 2 ≠ 3) :
    brTaken c s = true ↔ fld c.w 22 2 = 0 ∨
      (fld c.w 22 2 = 1 ∧ at' (s.ring c.ring).p (Fin.ofNat 4 (fld c.w 20 2)) = true) ∨
      (fld c.w 22 2 = 2 ∧ at' (s.ring c.ring).p (Fin.ofNat 4 (fld c.w 20 2)) = false) := by
  have hlt : fld c.w 22 2 < 4 := fld_lt _ _ _
  have hp : fin? 4 (fld c.w 20 2) = some (Fin.ofNat 4 (fld c.w 20 2)) := fin?_of_lt (fld_lt c.w 20 2)
  rw [brTaken, hp]
  generalize fld c.w 22 2 = m at *
  match m, hlt with
  | 0, _ | 1, _ | 2, _ => simp
  | 3, _ => exact absurd rfl h

/-- An instruction without RSV bits set, with no cause against it, that does not stall. -/
theorem Stands.retires_of_rsv {s : State} {r : RingId} {op : Nat} {o : OpSem} {c : OpCtx} (h : Stands s r op c)
    (hop : op < 0x30) (hw : c.w &&& ~~~ (o.m0 ||| 0xFF000000#32) = 0) (h1 : opWords c.w = 1)
    (hill : o.illegal c = false) (hr : o.range c = false) (hc : o.causes c s = []) (hs : o.stall c s = false)
    (hb : o.cost c ≤ (s.ring r).budget) : Retires s r op o c :=
  h.retires (OpSem.decodeCauses_nil hw (.inl (by omega)) (by omega) hill (h.2 ▸ hop)) hr hc hs hb

theorem State.modRing_id (s : State) (r : RingId) : s.modRing r id = s := by
  rw [State.modRing, upd_same _ _ _ rfl]

/-- What a branch does that has a target: it moves PC there, or goes on. -/
theorem Retires.branch {s : State} {r : RingId} {op : Nat} {o : OpSem} {c : OpCtx} (h : Retires s r op o c)
    (F : RingSt → RingSt) (taken : Bool) (n : Nat) (h1 : opWords c.w = 1) (hcost : o.cost c = 1)
    (hrun : ∀ x : State, x.noGal = s.noGal.modRing r (fun y => y.paid (kept s r) 1 1) →
      (o.run c x).noGal = if taken then x.noGal.modRing r (fun q => { F q with pc := n }) else x.noGal.modRing r F)
    (hF : ∀ q a w k, F (RingSt.paid q a w k) = RingSt.paid (F q) a w k) :
    (taken = true → OnlyRing s (s.runOp r op o) r ({ F (s.ring r) with pc := n }.past (kept s r) 0 1)) ∧
    (taken = false → OnlyRing s (s.runOp r op o) r ((F (s.ring r)).past (kept s r) 1 1)) := by
  refine ⟨fun ht => h.onlyRing (fun q => { F q with pc := n }) (fun x hx => ?_) ?_,
    fun ht => h.onlyRing F (fun x hx => ?_) ?_⟩
  · rw [h1, hcost] at hx
    rw [hrun x hx, if_pos ht]
  · simp only [hF, RingSt.packetDone_paid_pc, hcost]
  · rw [h1, hcost] at hx
    rw [hrun x hx, ht, if_neg Bool.false_ne_true]
  · rw [hF, h1, hcost, RingSt.packetDone_paid]

/-- Settles O12: `Retires.branch` for BR and DJNZ. -/
theorem flowInstructions : Obligations.FlowInstructions := by
  unfold Obligations.FlowInstructions
  intro s r c hb
  refine ⟨fun h hrsv => ⟨_, rfl, ?_⟩, fun h hrsv hmode ht => ?_, fun h hrsv ht => ?_⟩
  · have h1 : opWords c.w = 1 := by simp [opWords, h.2]
    refine Retires.onlyRing (h.retires_of_rsv (by decide) hrsv h1 rfl rfl rfl rfl hb) id
      (fun x _ => (x.noGal.modRing_id r).symm) ?_
    simp only [id, RingSt.packetDone_paid, h1]
    rfl
  · have h1 : opWords c.w = 1 := by simp [opWords, h.2]
    have hret : Retires s r 0x01 semBr c := h.retires_of_rsv (by decide) hrsv h1 (decide_eq_false hmode) rfl
      (by simp [semBr, h.ring_eq, ht, when']) (by simp [semBr, h.ring_eq, ht]) hb
    obtain ⟨hyes, hno⟩ := hret.branch id (brTaken c s) (fld c.w 0 8) h1 rfl (fun x hx => by
      have hp : brTaken c x = brTaken c s := by
        have hring : x.ring r = (s.ring r).paid (kept s r) 1 1 := by
          have hring := congrArg (fun y => State.ring y r) hx
          rwa [State.ring_modRing] at hring
        simp only [brTaken, h.ring_eq, hring]
        rfl
      simp only [semBr, hp, h.ring_eq]
      cases brTaken c s
      · exact (x.noGal.modRing_id r).symm
      · rfl) (fun _ _ _ _ => rfl)
    have hiff := brTaken_iff (s := s) hmode
    rw [h.ring_eq] at hiff
    exact ⟨_, rfl, fun htk => hyes (hiff.mpr htk), fun htk => hno (Bool.eq_false_iff.mpr (mt hiff.mp htk))⟩
  · have h1 : opWords c.w = 1 := by simp [opWords, h.2]
    have hret : Retires s r 0x02 semDjnz c := h.retires_of_rsv (by decide) hrsv h1 rfl rfl
      (by simp [semDjnz, h.ring_eq, ht, when']) (by simp [semDjnz, h.ring_eq, ht]) hb
    obtain ⟨hyes, hno⟩ := hret.branch
      (fun q => { q with g := upd q.g (Fin.ofNat 16 (fld c.w 20 4)) (fun _ => gOf s r (fld c.w 20 4) - 1) })
      (gOf s r (fld c.w 20 4) - 1 != 0) (fld c.w 0 8) h1 rfl (fun x hx => by
        simp only [semDjnz, OpCtx.dst, h.ring_eq, h.reg_fld]
        rw [State.setReg_of_lt _ _ _ (fld_lt c.w 20 4)]
        cases gOf s r (fld c.w 20 4) - 1 != 0
        · rfl
        · exact congrArg State.noGal (x.modRing_modRing r _ _)) (fun _ _ _ _ => rfl)
    exact ⟨_, rfl, fun hv => hyes (bne_iff_ne.mpr hv), fun hv => hno (bne_eq_false_iff_eq.mpr hv)⟩

/-! ### System reads -/

theorem State.bn_word_high (s : State) : w32 (s.bn / 2 ^ 32) = (s.bell.bellno >>> 32).setWidth 32 := by
  apply BitVec.eq_of_toNat_eq
  rw [w32, BitVec.toNat_ofNat, BitVec.toNat_setWidth, BitVec.toNat_ushiftRight, Nat.shiftRight_eq_div_pow, State.bn]

/-- The system values that RDS reads, once it has been paid for. -/
theorem State.sysValue_paid {s x : State} {r : RingId} {op : Nat} {c : OpCtx} (h : Stands s r op c) {words sel : Nat}
    (hx : x.noGal = s.noGal.modRing r (fun y => y.paid (kept s r) words 1)) (hsel : 1 ≤ sel) :
    x.sysValue c sel = sysRead s r c sel := by
  have hring : x.ring r = (s.ring r).paid (kept s r) words 1 := by
    have hring := congrArg (fun y => State.ring y r) hx
    rwa [State.ring_modRing] at hring
  have hpend : (x.ring r).pending = (s.ring r).pending := by
    rw [hring, RingSt.pending, RingSt.pending, RingSt.paid]
    cases (s.ring r).pkt <;> rfl
  have hten : x.ten c.ten = s.ten c.ten := (congrArg (fun y => State.ten y c.ten) hx :)
  have hbell : x.bellNow = s.bellNow := (congrArg State.bellNow hx :)
  unfold State.sysValue sysRead
  dsimp only
  rw [h.ring_eq, hten, hbell, hpend, hring]
  match sel, hsel with
  | 1, _ | 2, _ | 3, _ | 4, _ | 5, _ | 6, _ | _ + 7, _ => rfl

theorem Stands.rds_retires {s : State} {r : RingId} {c : OpCtx} (h : Stands s r 0x2E c)
    (hrsv : c.w &&& 0xFFFF#32 = 0) (hill : semRds.illegal c = false) (hb : 1 ≤ (s.ring r).budget) :
    Retires s r 0x2E semRds c :=
  h.retires_of_rsv (by decide) hrsv (by simp [opWords, h.2]) hill rfl rfl rfl hb

/-- Settles O13: `semRds` on the state that has paid for it. -/
theorem systemReads : Obligations.SystemReads := by
  unfold Obligations.SystemReads
  intro s r c hb h hrsv
  have h1 : opWords c.w = 1 := by simp [opWords, h.2]
  have hdst : fld c.w 20 4 < 16 := fld_lt c.w 20 4
  refine ⟨fun h0 heven => ⟨_, rfl, ?_⟩, fun hlo hhi => ⟨_, rfl, ?_⟩⟩
  · have hill : semRds.illegal c = false := by simp [semRds, OpCtx.dst, h0, heven]
    have hdst' : fld c.w 20 4 + 1 < 16 := by omega
    refine (h.rds_retires hrsv hill hb).onlyRing (fun q => { q with
      g := upd (upd q.g (Fin.ofNat 16 (fld c.w 20 4)) (fun _ => s.bell.bellno.setWidth 32))
        (Fin.ofNat 16 (fld c.w 20 4 + 1)) (fun _ => (s.bell.bellno >>> 32).setWidth 32) }) (fun x hx => ?_) ?_
    · have hbell : x.bell = s.bell := (congrArg State.bell hx :)
      simp only [semRds, h0, if_true, OpCtx.dst, h.ring_eq, State.bn32_eq, State.bn_word_high, hbell]
      rw [State.setReg_of_lt _ _ _ hdst, State.setReg_of_lt _ _ _ hdst', State.modRing_modRing, State.modRing_noGal]
    · rw [RingSt.packetDone_g, RingSt.packetDone_paid, h1]
      rfl
  · have hill : semRds.illegal c = false := by
      simp [semRds, Nat.not_le.mpr hhi, Nat.one_le_iff_ne_zero.mp hlo]
    refine (h.rds_retires hrsv hill hb).onlyRing (fun q => { q with
      g := upd q.g (Fin.ofNat 16 (fld c.w 20 4)) (fun _ => sysRead s r c (fld c.w 16 4)) }) (fun x hx => ?_) ?_
    · simp only [semRds, Nat.one_le_iff_ne_zero.mp hlo, if_false, OpCtx.dst, h.ring_eq]
      rw [State.sysValue_paid h hx hlo, State.setReg_of_lt _ _ _ hdst, State.modRing_noGal]
    · rw [RingSt.packetDone_g, RingSt.packetDone_paid, h1]
      rfl

end Sys2Proof.Machine

/-!
PROOFS. The instructions whose effect lies beside their ring (05_quagal_reference R153 to R156, R161 to R163): a row of
a table holds where the meaning and the row's effect agree on the state that has been paid for, and the effect does not
ask for a packet's completion. O14 to O20 are its uses.
-/

namespace Sys2Proof.Machine

/-! ### Fields -/

theorem bit_eq_getLsbD {n : Nat} (x : BitVec n) (i : Nat) : bit x i = x.getLsbD i := by
  rw [← BitVec.testBit_toNat, bit, Nat.testBit_eq_decide_div_mod_eq]
  exact Bool.beq_eq_decide_eq _ _

theorem lidChap_lid (c : OpCtx) : lidChap c.lid = Fin.ofNat 4 (fld c.w 22 2) := by
  rw [lidChap, OpCtx.lid, fld, fld]
  congr 1
  omega

theorem lidZ_lid (c : OpCtx) : lidZ c.lid = Fin.ofNat 32 (fld c.w 17 5) := by
  apply Fin.ext
  simp only [lidZ, OpCtx.lid, fld, Fin.ofNat]
  omega

/-- A field of a word, read with its sign. -/
theorem sgn_fld (w : Word) (lo len : Nat) (h : 0 < len) : sgn len (fld w lo len) = ((w >>> lo).setWidth len).toInt := by
  rw [sgn, fld, Nat.mod_mod, BitVec.toInt_eq_toNat_cond, BitVec.toNat_setWidth, BitVec.toNat_ushiftRight,
    Nat.shiftRight_eq_div_pow]
  have hpow : 2 ^ len = 2 * 2 ^ (len - 1) := by rw [← Nat.pow_succ', Nat.succ_eq_add_one, Nat.sub_add_cancel h]
  exact ite_congr (propext (by omega)) (fun _ => rfl) (fun _ => rfl)

/-! ### Rows -/

/-- `x` is `s` once the instruction at ring `r` has been paid for, but for what the Gallery counts and traces. -/
def PaidFor (s : State) (r : RingId) (words cost : Nat) (x : State) : Prop :=
  x.noGal = s.noGal.modRing r (fun q => q.paid (kept s r) words cost)

namespace PaidFor
variable {s x : State} {r : RingId} {words cost : Nat}

theorem ring_self (h : PaidFor s r words cost x) : x.ring r = (s.ring r).paid (kept s r) words cost := by
  have hring := congrArg (fun y => State.ring y r) h
  rwa [State.ring_modRing] at hring

/-- What is not of the rings nor the Gallery's stands in it as before. -/
theorem eq {α : Type} (h : PaidFor s r words cost x) (f : State → α) (hg : ∀ y, f y.noGal = f y)
    (hr : ∀ y F, f (State.modRing y r F) = f y) : f x = f s := by
  rw [← hg x, h, hr, hg]

end PaidFor

/-- An effect beside the ring `r`: of the ring it reads the registers alone, and it commutes with what leaves them. -/
def Beside (r : RingId) (f : State → State) : Prop :=
  ∀ (x y : State) (F : RingSt → RingSt), (∀ q, (F q).g = q.g) → y.noGal = x.noGal.modRing r F →
    (f y).noGal = (f x).noGal.modRing r F

/-- `x` with its ring changed, and with what a Gallery `g` counts and traces. -/
def State.modRingGal (x : State) (r : RingId) (F : RingSt → RingSt) (g : GallerySt) : State :=
  { x.modRing r F with gal := { g with tens := x.gal.tens, off := x.gal.off } }

theorem Beside.of_modRing {r : RingId} {f : State → State}
    (h : ∀ (x : State) (F : RingSt → RingSt) (g : GallerySt), (∀ i, gOf (x.modRingGal r F g) r i = gOf x r i) →
      (f (x.modRingGal r F g)).noGal = (f x).noGal.modRing r F) : Beside r f := by
  intro x y F hF hy
  have hg : ∀ i, gOf (x.modRingGal r F y.gal) r i = gOf x r i := fun i => by
    change at' ((x.modRing r F).ring r).g _ = _
    rw [State.ring_modRing, hF, gOf]
  rw [State.of_noGal (s := x.modRing r F) hy]
  exact h x F y.gal hg

/-- The opcode fixes how many words an instruction has, but for WAITB and AT. -/
theorem opWords_of_op {w : Word} {op : Nat} (hop : op ≠ 0x30 ∧ op ≠ 0x31 ∧ op < 0x100) (h : opOf w = op) :
    opWords w = opWords (w32 (0x1000000 * op)) := by
  have h' : opOf (w32 (0x1000000 * op)) = op := by
    simp only [opOf, fld, w32, BitVec.toNat_ofNat]
    omega
  simp only [opWords, h, h', hop.1, hop.2.1, if_false]

/-- An instruction whose meaning is an effect beside its ring leaves that effect on the state moved past it. -/
theorem Retires.beside {s : State} {r : RingId} {op : Nat} {o : OpSem} {c : OpCtx} {f : State → State} {words cost : Nat}
    (h : Retires s r op o c) (hw : opWords c.w = words) (hcost : o.cost c = cost)
    (hrun : (o.run c (s.paid r c words cost)).noGal = (f (s.paid r c words cost)).noGal) (hbes : Beside r f) :
    Same (f (s.moved r words cost)) (s.runOp r op o) := by
  refine State.of_noGal ?_
  rw [h.runOp_eq, State.packetEnd_noGal, hw, hcost, hrun]
  exact (hbes _ _ _ RingSt.packetDone_keeps_g (h.1.paid_done_noGal _ _).symm).symm

/-- A row holds whose meaning and effect agree on the state that has been paid for, its effect beside its ring. -/
theorem EffRow.Holds.of_beside {e : EffRow} (hx : ∀ r s, exec (e.cmd r) s = .next (s.runOp r e.op e.sem))
    (hop : e.op ≠ 0x30 ∧ e.op ≠ 0x31 ∧ e.op < 0x100) (hw : opWords (w32 (0x1000000 * e.op)) = e.words)
    (hcost : ∀ c, e.sem.cost c = e.cost c)
    (hrun : ∀ s r c x, Retires s r e.op e.sem c → e.pre c s → c.ring = r →
      PaidFor s r e.words (e.cost c) x → (e.sem.run c x).noGal = (e.eff c x).noGal)
    (hbes : ∀ c, Beside c.ring (e.eff c)) : e.Holds := by
  intro s r c h hp
  obtain rfl := h.1.ring_eq
  exact ⟨_, hx c.ring s, h.beside ((opWords_of_op hop h.1.2).trans hw) (hcost c)
    (hrun s c.ring c _ h hp rfl (h.1.paid_noGal _ _)) (hbes c)⟩

/-- A word of a ring whose instruction has been paid for: its registers are those of the context. -/
theorem Stands.gOf_paid {s x : State} {r : RingId} {op words cost i : Nat} {c : OpCtx} (h : Stands s r op c)
    (hx : PaidFor s r words cost x) (hi : i < 16) : gOf x c.ring i = c.reg i := by
  rw [h.ring_eq, gOf, hx.ring_self, h.reg_eq hi, gOf]
  rfl

/-! ### What a retirement says of its instruction -/

@[simp] theorem when'_eq_nil {b : Bool} {n : Nat} : when' b n = [] ↔ b = false := by
  cases b <;> simp [when']

section
variable {s : State} {r : RingId} {op : Nat} {o : OpSem} {c : OpCtx}

theorem Retires.not_bad (h : Retires s r op o c) : o.bad c = false := by
  have hc := h.2.1
  simp only [OpSem.allCauses, OpSem.decodeCauses, List.append_eq_nil_iff, when'_eq_nil] at hc
  exact hc.1.1.1

theorem Retires.legal (h : Retires s r op o c) : o.illegal c = false := by
  have hb := h.not_bad
  simp only [OpSem.bad, Bool.or_eq_false_iff] at hb
  exact hb.2

theorem Retires.in_range (h : Retires s r op o c) : o.range c = false := by
  have hc := h.2.1
  simp only [OpSem.allCauses, List.append_eq_nil_iff, when'_eq_nil] at hc
  exact hc.1.2

theorem Retires.no_cause (h : Retires s r op o c) : o.causes c s = [] := by
  have hc := h.2.1
  simp only [OpSem.allCauses, List.append_eq_nil_iff] at hc
  exact hc.2

end

/-! ### Surfaces (O14) -/

/-- An SPUT that may retire: its surface lies in LPDDR4X, it has words, and their registers are there. -/
theorem Retires.sput {s : State} {r : RingId} {c : OpCtx} (h : Retires s r 0x44 semSput c) :
    ∃ x, s.surf c.ten (fld c.w 16 8) = some x ∧ x.prime = false ∧ 0 < fld c.w 8 4 ∧
      fld c.w 12 4 + fld c.w 8 4 ≤ 16 := by
  have hc := h.no_cause
  have hl := h.legal
  have hr := h.in_range
  simp only [semSput, Bool.or_eq_false_iff, decide_eq_false_iff_not] at hl hr
  simp only [semSput, surfCauses, OpCtx.sid16, List.append_eq_nil_iff, when'_eq_nil] at hc
  obtain ⟨hsome, hx⟩ := hc
  cases hsf : s.surf c.ten (fld c.w 16 8) with
  | none => simp [hsf] at hsome
  | some x =>
    simp only [hsf, List.append_eq_nil_iff, when'_eq_nil] at hx
    exact ⟨x, rfl, hx.2, by omega, by omega⟩

/-- The words of an SPUT are those of its registers. -/
theorem OpCtx.regs_eq (c : OpCtx) {i n : Nat} (hi : i + n ≤ 16) :
    (List.range n).map (fun k => c.reg (i + k)) = (List.range n).map (fun k => at' c.g (Fin.ofNat 16 (i + k))) :=
  List.map_congr_left fun k hk => OpCtx.reg_of_lt c (by have := List.mem_range.mp hk; omega)

theorem length_wordsBytes (ws : List Word) : (wordsBytes ws).length = 4 * ws.length := by
  induction ws with
  | nil => rfl
  | cons w ws ih => simp [wordsBytes, wordBytes, leBytes, ih]; omega

/-- Words inside the tenant's region, with LPDDR4X awake, are written. -/
theorem State.sputWords_inside {s : State} {t : Ten} {a : Nat} {ws : List Word} (hself : s.memc.selfRef = false)
    (hlo : (s.ten t).cfg.regBase ≤ a) (hhi : a + 4 * ws.length ≤ (s.ten t).cfg.regBase + (s.ten t).cfg.regSize)
    (hn : ws ≠ []) : s.sputWords t a ws = s.lpWrite a (wordsBytes ws) := by
  have hpos : 0 < ws.length := List.length_pos_iff.mpr hn
  have hmin : min ws.length (((s.ten t).cfg.regBase + (s.ten t).cfg.regSize - a) / 4) = ws.length := by omega
  have hreq : s.lpRequest = s := by simp [State.lpRequest, hself]
  simp only [State.sputWords, Nat.not_lt.mpr hlo, if_false, hmin, Nat.ne_of_gt hpos, hreq, List.take_length,
    Nat.sub_self, State.outsideWrite, if_true]

theorem Surface.addr_of_not_prime {x : Surface} (h : x.prime = false) : x.addr = 64 * x.base := by
  rw [Surface.addr, h, if_neg Bool.false_ne_true, Nat.add_zero, Nat.mul_comm]

theorem surfRows_hold : ∀ e ∈ surfRows, e.Holds := by
  simp only [surfRows, List.forall_mem_cons, List.not_mem_nil, false_imp_iff, implies_true, and_true]
  refine ⟨?_, ?_, ?_, ?_, ?_⟩
  · exact .of_beside (fun _ _ => rfl) (by decide) (by decide) (fun _ => rfl) (fun _ _ _ _ _ _ _ _ => rfl)
      (fun c => .of_modRing fun _ _ _ _ => rfl)
  · exact .of_beside (fun _ _ => rfl) (by decide) (by decide) (fun _ => rfl) (fun _ _ _ _ _ _ _ _ => rfl)
      (fun c => .of_modRing fun _ _ _ _ => rfl)
  · refine .of_beside (fun _ _ => rfl) (by decide) (by decide) (fun _ => rfl) (fun s r c x h _ _ hx => ?_)
      (fun c => .of_modRing fun _ _ _ hg => by simp only [hg]; rfl)
    simp only [h.1.gOf_paid hx (fld_lt c.w 12 4)]
    rfl
  · exact .of_beside (fun _ _ => rfl) (by decide) (by decide) (fun _ => rfl) (fun _ _ _ _ _ _ _ _ => rfl)
      (fun c => .of_modRing fun _ _ _ _ => rfl)
  · refine .of_beside (fun _ _ => rfl) (by decide) (by decide) (fun _ => rfl) (fun s r c x h hp _ hx => ?_)
      (fun c => .of_modRing fun x F g _ => ?_)
    · obtain ⟨y, hy, hprime, hn, hi⟩ := h.sput
      obtain ⟨hself, hin⟩ := hp
      obtain ⟨hlo, hhi⟩ := hin y hy
      have hy' : x.surf c.ten (fld c.w 16 8) = some y := by
        rw [State.surf, hx.eq State.surfs (fun _ => rfl) (fun _ _ => rfl), ← hy, State.surf]
      have hten : x.ten c.ten = s.ten c.ten := hx.eq (State.ten · c.ten) (fun _ => rfl) (fun _ _ => rfl)
      have hself' : x.memc.selfRef = false := hself ▸ hx.eq (·.memc.selfRef) (fun _ => rfl) (fun _ _ => rfl)
      have hrun : semSput.run c x = x.lpWrite (64 * y.base + c.e1.toNat) (regBytes c (fld c.w 12 4) (fld c.w 8 4)) := by
        simp only [semSput, OpCtx.sid16, hy', c.regs_eq hi, Surface.addr_of_not_prime hprime]
        exact State.sputWords_inside hself' (hten ▸ hlo) (by simpa [hten] using hhi) (by simp [Nat.ne_of_gt hn])
      rw [State.surf] at hy'
      simp only [hrun, hy', State.lpWrite, ueLeft, regBytes, length_wordsBytes, List.length_map, List.length_range]
    · have hs : (x.modRingGal c.ring F g).surfs = x.surfs := rfl
      simp only [hs]
      cases (at' x.surfs c.ten).lookup (fld c.w 16 8) <;> rfl

theorem sputEdge_runs : sputEdge.Runs := by
  intro s r c (h : Retires s r 0x44 semSput c) _
  obtain ⟨y, hy, hprime, hn, hi⟩ := h.sput
  obtain rfl := h.1.ring_eq
  have hw : opWords c.w = 2 := by simp [opWords, h.1.2]
  have hx := h.1.paid_noGal 2 (fld c.w 8 4)
  have hy' : (s.paid c.ring c 2 (fld c.w 8 4)).surf c.ten (fld c.w 16 8) = some y := by
    rw [State.surf, PaidFor.eq hx State.surfs (fun _ => rfl) (fun _ _ => rfl), ← hy, State.surf]
  change Host.Outcome.next (s.runOp c.ring 0x44 semSput) = _
  rw [h.runOp_eq, hw]
  simp only [semSput, sputEdge, OpCtx.sid16, hy', c.regs_eq hi, Surface.addr_of_not_prime hprime, State.sputWords,
    List.length_map, List.length_range, State.outsideWrite]

/-- Settles O14: each row's meaning is its effect, on the state that has been paid for. -/
theorem surfaceInstructions : Obligations.SurfaceInstructions :=
  ⟨surfRows_hold, sputEdge_runs⟩

end Sys2Proof.Machine

/-!
PROOFS. What a fault leaves (03_tenants_rings R107 to R111): a tenant's fault and a ring's fault touch no more than their
tenant, their ring and what is posted.
-/

namespace Sys2Proof.Machine

/-- `t` is `s` but for its tenants and what was posted, recorded and counted. -/
def Tenants (s t : State) : Prop :=
  t = { s with
    free := t.free
    tens := t.tens
    gal := t.gal
    reliq := t.reliq
    ports := t.ports
    memc := t.memc
    lp := t.lp
    under := t.under }

namespace Tenants

theorem refl (s : State) : Tenants s s := rfl

theorem trans {s t u : State} (h : Tenants s t) (k : Tenants t u) : Tenants s u := by
  unfold Tenants at *
  rw [h] at k
  exact k

theorem of_posts {s t : State} (h : Posts s t) : Tenants s t := h.rest

theorem rings {s t : State} (h : Tenants s t) : t.rings = s.rings := (congrArg State.rings h :)
theorem chaps {s t : State} (h : Tenants s t) : t.chaps = s.chaps := (congrArg State.chaps h :)

end Tenants

/-- `t` is `s` but for its records and what was posted. -/
def Records (s t : State) : Prop := ∃ q, Posts { s with reliq := q } t

namespace Records

theorem tenants {s t : State} : Records s t → Tenants s t := fun ⟨_, h⟩ =>
  Tenants.trans (t := { s with reliq := _ }) rfl h.rest

theorem ten {s t : State} : Records s t → ∀ n, t.ten n = { s.ten n with evq := (t.ten n).evq } := fun ⟨_, h⟩ => h.ten

end Records

theorem State.freezeEnd_records (s : State) (why : Nat) : Records s (s.freezeEnd why) := by
  unfold State.freezeEnd
  split
  · exact ⟨s.reliq, Posts.refl _⟩
  · exact ⟨_, State.post_posts _ _ _ _ _ (State.relAppend_posts _ (forEach_posts _ (Posts.refl _) fun _ _ k =>
      State.relAppend_posts _ k))⟩

theorem State.freezeEndOf_records (s : State) (t : Ten) (why : Nat) : Records s (s.freezeEndOf t why) := by
  unfold State.freezeEndOf
  split
  · split
    · exact State.freezeEnd_records _ _
    · exact ⟨s.reliq, Posts.refl _⟩
  · exact ⟨s.reliq, Posts.refl _⟩

/-- A tenant's fault: nothing, where it is faulted or bound to no port; else its cause is set. -/
theorem State.tenFault_cases (s : State) (t : Ten) (cause ring : Nat) :
    (((s.ten t).cfg.bound = false ∨ (s.ten t).faulted = true) ∧ s.tenFault t cause ring = s) ∨
    ((s.ten t).cfg.bound = true ∧ (s.ten t).faulted = false ∧ Tenants s (s.tenFault t cause ring) ∧
      ∀ n, ∃ e, (s.tenFault t cause ring).ten n = { (s.modTen t (fun q => { q with
        faulted := true, faultCause := cause, faultRing := ring, wdogFrom := none })).ten n with evq := e }) := by
  unfold State.tenFault
  dsimp only
  split
  · rename_i h
    exact .inl ⟨by simpa using h, rfl⟩
  · rename_i h
    simp only [Bool.or_eq_true, Bool.not_eq_eq_eq_not, Bool.not_true, not_or, Bool.not_eq_true] at h
    refine .inr ⟨by simpa using h.1, h.2, ?_, fun n => ?_⟩
    · exact .trans (t := s.modTen t _) rfl (.trans (State.post_posts _ _ _ _ _ (Posts.refl _)).rest
        (State.freezeEndOf_records _ _ _).tenants)
    · have hfreeze := (State.freezeEndOf_records ((s.modTen t (fun q => { q with
        faulted := true, faultCause := cause, faultRing := ring, wdogFrom := none })).post t 0x0011 0xF0
          (s.ten t).frozen [w32 cause, w32 ring, (s.ten t).frozen.getD 0]) t 3).ten n
      rw [(State.post_posts _ _ _ _ _ (Posts.refl _)).ten n] at hfreeze
      exact ⟨_, hfreeze⟩

theorem State.tenFault_tenants (s : State) (t : Ten) (cause ring : Nat) : Tenants s (s.tenFault t cause ring) := by
  obtain ⟨-, h⟩ | ⟨-, -, h, -⟩ := s.tenFault_cases t cause ring
  · rw [h]
    exact .refl s
  · exact h

/-- The tenant of a fault is in the fault state with the fault's cause. -/
theorem State.tenFault_self {s : State} {t : Ten} (cause ring : Nat) (hb : (s.ten t).cfg.bound = true)
    (hf : (s.ten t).faulted = false) :
    ((s.tenFault t cause ring).ten t).faulted = true ∧ ((s.tenFault t cause ring).ten t).faultCause = cause ∧
      ((s.tenFault t cause ring).ten t).faultRing = ring := by
  obtain ⟨h, -⟩ | ⟨-, -, -, h⟩ := s.tenFault_cases t cause ring
  · simp [hb, hf] at h
  · obtain ⟨e, he⟩ := h t
    rw [he, State.ten_modTen]
    exact ⟨rfl, rfl, rfl⟩

/-- What a ring is once it has faulted. -/
def RingSt.faulted (q : RingSt) (cause pos : Nat) : RingSt :=
  { q with state := .fault, cause := cause, ats := [], wait := none, pkt := none, pc := pos }

/-- A fault of a tenant's ring: the ring faults, and where it is FATAL its tenant with it. -/
theorem State.ringFault_eq {s : State} {r : RingId} {t : Ten} (h : (s.ring r).owner = some t) (cause pos : Nat)
    (seq : Option Word) :
    ∃ u, Posts (s.modRing r (·.faulted cause pos)) u ∧
      s.ringFault r cause pos seq = if (s.ring r).fatal then u.tenFault t 3 r.val else u := by
  refine ⟨((s.modRing r (·.faulted cause pos)).gfix (32 + r.val) 1).post t 0x0010 r.val seq
    [w32 r.val, w32 cause, w32 pos, w32 (s.ring r).ats.length],
    State.post_posts _ _ _ _ _ (State.gfix_posts _ _ (Posts.refl _)), ?_⟩
  rw [State.ringFault, h]
  rfl

theorem State.ringFault_tenants {s : State} {r : RingId} {t : Ten} (h : (s.ring r).owner = some t) (cause pos : Nat)
    (seq : Option Word) : Tenants (s.modRing r (·.faulted cause pos)) (s.ringFault r cause pos seq) := by
  obtain ⟨u, hu, he⟩ := State.ringFault_eq h cause pos seq
  rw [he]
  split
  · exact .trans hu.rest (State.tenFault_tenants ..)
  · exact hu.rest

/-! ### The fault of a Lectern (O23) -/

/-- Whose fault a ring's fault is: its tenant's where the ring is FATAL, no one's where it is not. -/
theorem State.ringFault_faulted {s : State} {r : RingId} {t : Ten} (h : (s.ring r).owner = some t) (cause pos : Nat)
    (seq : Option Word) :
    ((s.ring r).fatal = true → (s.ten t).cfg.bound = true → (s.ten t).faulted = false →
      ((s.ringFault r cause pos seq).ten t).faulted = true ∧
      ((s.ringFault r cause pos seq).ten t).faultCause = 3 ∧
      ((s.ringFault r cause pos seq).ten t).faultRing = r.val) ∧
    ((s.ring r).fatal = false → ∀ k, ((s.ringFault r cause pos seq).ten k).faulted = (s.ten k).faulted) := by
  obtain ⟨u, hu, he⟩ := State.ringFault_eq h cause pos seq
  refine ⟨fun hfatal hb hf => ?_, fun hfatal k => ?_⟩
  · rw [he, hfatal, if_pos rfl]
    refine State.tenFault_self _ _ ?_ ?_
    · rw [hu.ten]
      exact hb
    · rw [hu.ten]
      exact hf
  · rw [he, hfatal, if_neg Bool.false_ne_true, hu.ten]
    rfl

/-- A ring that the fault of its Lectern has changed. -/
theorem RingSt.lecternOut_faulted (q : RingSt) (pos : Nat) :
    q.lecternOut.faulted 2 pos = { q with
      state := .fault, cause := 2, ats := [], wait := none, pkt := none, pc := pos
      pend := match q.pend with
        | some (false, _, _) => none
        | x => x } := by
  rcases hp : q.pend with _ | ⟨_ | _, i, b⟩ <;> simp only [RingSt.lecternOut, RingSt.faulted, hp]

/-- A ring that waits for its REBIND goes on waiting, whatever its Lectern does. -/
def State.rebinding (s : State) (b : Bool) (r : RingId) : State :=
  if b then s.modRing r (fun q => { q with state := .rebindPend }) else s

theorem State.rebinding_rings (s : State) (b : Bool) (r : RingId) :
    (s.rebinding b r).rings = upd s.rings r (fun q => { q with state := if b then .rebindPend else q.state }) := by
  cases b
  · exact (upd_same _ _ _ rfl).symm
  · rfl

theorem State.rebinding_ten (s : State) (b : Bool) (r : RingId) (n : Ten) : (s.rebinding b r).ten n = s.ten n := by
  cases b <;> rfl

theorem lecternOut_ring (s : State) (r : RingId) :
    ((s.modRing r RingSt.lecternOut).ring r).owner = (s.ring r).owner ∧
    ((s.modRing r RingSt.lecternOut).ring r).fatal = (s.ring r).fatal := by
  rw [State.ring_modRing, RingSt.lecternOut]
  split <;> exact ⟨rfl, rfl⟩

/-- Settles O23: the Lectern's fault is the ring's fault, on the ring without its RESTART. -/
theorem ringFaultState : Obligations.RingFaultState := by
  unfold Obligations.RingFaultState
  intro s r
  refine ⟨fun n hn hc => ⟨_, rfl, ?_⟩, fun h => ?_⟩
  · obtain ⟨howner, hfatal⟩ := lecternOut_ring s r
    have ho := howner.trans hn
    obtain ⟨hyes, hno⟩ := State.ringFault_faulted ho 2 (s.ring r).pc ((s.ring r).pkt.map (·.seq))
    rw [hfatal] at hyes hno
    have hrings := (State.ringFault_tenants ho 2 (s.ring r).pc ((s.ring r).pkt.map (·.seq))).rings
    have hif : ((s.ring r).owner.isSome && (s.ring r).cause != fLECTERN) = true := by simp [hn, fLECTERN, hc]
    have heq : s.lecternFault r = State.rebinding ((s.modRing r RingSt.lecternOut).ringFault r 2 (s.ring r).pc
        ((s.ring r).pkt.map (·.seq))) ((s.ring r).state == .rebindPend) r := by
      rw [State.lecternFault, hif, if_pos rfl]
      rfl
    rw [heq]
    simp only [State.rebinding_ten]
    refine ⟨?_, hyes, hno⟩
    rw [State.rebinding_rings, hrings, State.modRing_modRing, State.modRing, upd_upd]
    refine upd_congr _ _ _ _ ?_
    rw [RingSt.lecternOut_faulted]
    cases hst : (at' s.rings r).state <;> simp [State.ring, hst] <;> rfl
  · have hif : ((s.ring r).owner.isSome && (s.ring r).cause != fLECTERN) = false := by
      rcases h with h | h <;> simp [h, fLECTERN]
    change Host.Outcome.next (s.lecternFault r) = _
    rw [State.lecternFault, hif, if_neg Bool.false_ne_true]

end Sys2Proof.Machine

/-!
PROOFS. The layer instructions (05_quagal_reference R148, R153, R157, R161, R162, R697): O15.
-/

namespace Sys2Proof.Machine

/-! ### Naming a layer -/

theorem State.modLayer_lid (s : State) (c : OpCtx) (f : Layer → Layer) : s.modLayer c.lid f = onLayer c s f := by
  rw [State.modLayer, lidChap_lid, lidZ_lid]
  rfl

theorem State.editLayer_lid (s : State) (c : OpCtx) (f : LayerCfg → LayerCfg) : s.editLayer c.lid f = onWork c s f :=
  s.modLayer_lid c _

theorem setDst_eq (a b : Word) (v : LayerCfg) : setDst a b v = dstOf a b v := by
  rw [setDst, hiHalf, loHalf, sgn_fld _ _ _ (by decide), sgn_fld _ _ _ (by decide)]
  rfl

theorem onWork_beside (c : OpCtx) (f : LayerCfg → LayerCfg) : Beside c.ring (fun s => onWork c s f) :=
  .of_modRing fun _ _ _ _ => rfl

/-- LFALL names its fallback with two bits, of which 3 is not assigned. -/
theorem fallOf_eq {n : Nat} (h : n ≠ 3) (hn : n < 4) : fallOf n = match (generalizing := false) n with
    | 0 => .transparent
    | 1 => .hold
    | _ => .background := by
  match n, hn with
  | 0, _ | 1, _ | 2, _ => rfl
  | 3, _ => exact absurd rfl h

theorem layerRows_hold : ∀ e ∈ layerRows, e.Holds := by
  simp only [layerRows, List.forall_mem_cons, List.not_mem_nil, false_imp_iff, implies_true, and_true]
  refine ⟨?_, ?_, ?_, ?_, ?_, ?_, ?_, ?_, ?_, ?_, ?_⟩
  · exact .of_beside (fun _ _ => rfl) (by decide) (by decide) (fun _ => rfl)
      (fun _ _ c x _ _ _ _ => congrArg State.noGal (x.modLayer_lid c _))
      (fun c => .of_modRing fun _ _ _ _ => rfl)
  · exact .of_beside (fun _ _ => rfl) (by decide) (by decide) (fun _ => rfl)
      (fun _ _ c x _ _ _ _ => congrArg State.noGal (x.editLayer_lid c _))
      (fun c => onWork_beside c _)
  · exact .of_beside (fun _ _ => rfl) (by decide) (by decide) (fun _ => rfl)
      (fun _ _ c x _ _ _ _ => (congrArg State.noGal (x.editLayer_lid c _)).trans
        (congrArg (fun f => (onWork c x f).noGal) (funext (setDst_eq c.e1 c.e2))))
      (fun c => onWork_beside c _)
  · refine .of_beside (fun _ _ => rfl) (by decide) (by decide) (fun _ => rfl) (fun s r c x h _ _ hx => ?_)
      (fun c => .of_modRing fun _ _ _ hg => by simp only [hg]; rfl)
    have heven : fld c.w 12 4 % 2 ≠ 1 := by simpa [semLdstr] using h.legal
    have hlt : fld c.w 12 4 < 16 := fld_lt c.w 12 4
    simp only [h.1.gOf_paid hx hlt, h.1.gOf_paid hx (show fld c.w 12 4 + 1 < 16 by omega)]
    exact (congrArg State.noGal (x.editLayer_lid c _)).trans
      (congrArg (fun f => (onWork c x f).noGal) (funext (setDst_eq _ _)))
  · exact .of_beside (fun _ _ => rfl) (by decide) (by decide) (fun _ => rfl)
      (fun _ _ c x _ _ _ _ => (congrArg State.noGal (x.editLayer_lid c _)).trans
        (congrArg (fun b => (onWork c x (fun v => { v with vis := b })).noGal) (bit_eq_getLsbD c.w 16)))
      (fun c => onWork_beside c _)
  · refine .of_beside (fun _ _ => rfl) (by decide) (by decide) (fun _ => rfl) (fun s r c x h _ _ hx => ?_)
      (fun c => onWork_beside c _)
    have h3 : fld c.w 15 2 ≠ 3 := by simpa [semLfall, semEdit] using h.legal
    exact (congrArg State.noGal (x.editLayer_lid c _)).trans
      (congrArg (fun b => (onWork c x (fun v => { v with fall := b })).noGal) (fallOf_eq h3 (fld_lt c.w 15 2)))
  · exact .of_beside (fun _ _ => rfl) (by decide) (by decide) (fun _ => rfl)
      (fun _ _ c x _ _ _ _ => (congrArg State.noGal (x.editLayer_lid c _)).trans
        (congrArg (fun b => (onWork c x (fun v => { v with static := b })).noGal) (bit_eq_getLsbD c.w 16)))
      (fun c => onWork_beside c _)
  · exact .of_beside (fun _ _ => rfl) (by decide) (by decide) (fun _ => rfl)
      (fun _ _ c x _ _ _ _ => (congrArg State.noGal (x.editLayer_lid c _)).trans
        (congrArg (fun b => (onWork c x (fun v => { v with 
          vc := if b then some (Fin.ofNat 4 (fld c.w 14 2)) else none })).noGal) (bit_eq_getLsbD c.w 16)))
      (fun c => onWork_beside c _)
  · exact .of_beside (fun _ _ => rfl) (by decide) (by decide) (fun _ => rfl)
      (fun _ _ c x _ _ _ _ => congrArg State.noGal (x.editLayer_lid c _))
      (fun c => onWork_beside c _)
  · exact .of_beside (fun _ _ => rfl) (by decide) (by decide) (fun _ => rfl)
      (fun _ _ c x _ _ _ _ => congrArg State.noGal (x.editLayer_lid c _))
      (fun c => onWork_beside c _)
  · exact .of_beside (fun _ _ => rfl) (by decide) (by decide) (fun _ => rfl)
      (fun _ _ c x _ _ _ _ => congrArg State.noGal (x.editLayer_lid c _))
      (fun c => onWork_beside c _)

/-! ### LNEW (R148, R153) -/

theorem State.layer_modLayer (s : State) (lid : Nat) (f : Layer → Layer) :
    (s.modLayer lid f).layer lid = f (s.layer lid) := by
  rw [State.layer, State.modLayer, State.chap, State.modChap, at_upd, at_upd]
  rfl

/-- LNEW on a layer that no one holds claims it. -/
theorem lnew_free {s : State} {r : RingId} {c : OpCtx} (h : Retires s r 0x48 semLnew c)
    (hfree : (s.layer c.lid).holder = none) :
    ∃ k, k.at' = s.now ∧ k.ring = r ∧ Same (onLayer c (s.moved r 1 2) (fun _ =>
      { holder := some c.ten, claim := some k, work := some { pri := fld c.w 12 5 } })) (s.runOp r 0x48 semLnew) := by
  obtain rfl := h.1.ring_eq
  have hx : PaidFor s c.ring 1 2 (s.paid c.ring c 1 2) := h.1.paid_noGal 1 2
  generalize hxe : s.paid c.ring c 1 2 = x at hx
  have hnow : x.now = s.now := hx.eq State.now (fun _ => rfl) (fun _ _ => rfl)
  have hfree' : (x.layer c.lid).holder = none :=
    (congrArg Layer.holder (hx.eq (State.layer · c.lid) (fun _ => rfl) (fun _ _ => rfl))).trans hfree
  have hlost : x.claimLost c.lid = x := by rw [State.claimLost, hfree']
  obtain ⟨k, hclaim, hat, hring⟩ : ∃ k, x.claimOf c = some k ∧ k.at' = x.now ∧ k.ring = c.ring :=
    ⟨_, by rw [State.claimOf, h.1.action_eq, if_neg Bool.false_ne_true], rfl, rfl⟩
  have hw : opWords c.w = 1 := by simp [opWords, h.1.2]
  refine ⟨k, hat.trans hnow, hring, h.beside (f := fun s => onLayer c s (fun _ =>
    { holder := some c.ten, claim := some k, work := some { pri := fld c.w 12 5 } })) hw rfl ?_
    (.of_modRing fun _ _ _ _ => rfl)⟩
  rw [hxe]
  change ((x.claimLost c.lid).modLayer c.lid _).noGal = _
  rw [hlost, hclaim, State.modLayer_lid]

/-- A tie of two claims is no other once the later one has been paid for. -/
theorem PaidFor.claimTie {s x : State} {r : RingId} {lid words cost : Nat} {k : LayerClaim} (hx : PaidFor s r words cost x)
    (h : s.claimTie lid = some k) (hk : k.ring ≠ r) : x.claimTie lid = some k := by
  have hlayer : x.layer lid = s.layer lid := hx.eq (State.layer · lid) (fun _ => rfl) (fun _ _ => rfl)
  have hnow : x.now = s.now := hx.eq State.now (fun _ => rfl) (fun _ _ => rfl)
  have hring : x.ring k.ring = s.ring k.ring := by
    rw [← State.ring_noGal, hx, State.ring_modRing_ne _ _ _ _ hk, State.ring_noGal]
  rw [State.claimTie, Option.filter_eq_some_iff] at h ⊢
  refine ⟨hlayer ▸ h.1, ?_⟩
  rw [State.claimNow, hring, hnow]
  exact h.2

/-- The ring that loses the tie is put back to its LNEW and faults there. -/
theorem State.claimLost_tie {x : State} {lid : Nat} {k : LayerClaim} (hheld : (x.layer lid).holder ≠ none)
    (hk : x.claimTie lid = some k) (hko : k.before.owner ≠ none) :
    ∃ y, x.claimLost lid = y ∧ y.rings = upd x.rings k.ring (fun _ => k.before.faulted 12 k.before.pc) ∧
      y.chaps = x.chaps := by
  obtain ⟨o, ho⟩ := Option.ne_none_iff_exists'.mp hko
  obtain ⟨t, ht⟩ := Option.ne_none_iff_exists'.mp hheld
  have ho' : ((x.modRing k.ring (fun _ => k.before)).ring k.ring).owner = some o := by rw [State.ring_modRing, ho]
  have hten := State.ringFault_tenants ho' 12 k.before.pc (k.before.pkt.map (·.seq))
  refine ⟨_, by rw [State.claimLost, ht, hk]; rfl, ?_, hten.chaps⟩
  rw [hten.rings, State.modRing_modRing]
  rfl

/-- LNEW on a layer claimed on the same edge takes it, and the ring that had claimed it faults. -/
theorem lnew_tie {s : State} {r : RingId} {c : OpCtx} {k : LayerClaim} (h : Retires s r 0x48 semLnew c)
    (hheld : (s.layer c.lid).holder ≠ none) (hk : s.claimTie c.lid = some k) (hkr : k.ring ≠ r)
    (hko : k.before.owner ≠ none) :
    let t := s.runOp r 0x48 semLnew
    (t.layer c.lid).holder = some c.ten ∧ (t.layer c.lid).work = some { pri := fld c.w 12 5 } ∧
      (t.ring k.ring).state = .fault ∧ (t.ring k.ring).cause = 12 ∧ t.ring r = (s.ring r).past (kept s r) 1 2 := by
  obtain rfl := h.1.ring_eq
  have hw : opWords c.w = 1 := by simp [opWords, h.1.2]
  have hx : PaidFor s c.ring 1 2 (s.paid c.ring c 1 2) := h.1.paid_noGal 1 2
  have hrun : s.runOp c.ring 0x48 semLnew = (semLnew.run c (s.paid c.ring c 1 2)).packetEnd c.ring := by
    rw [h.runOp_eq, hw]
    rfl
  generalize s.paid c.ring c 1 2 = x at hx hrun
  have hlayer : x.layer c.lid = s.layer c.lid := hx.eq (State.layer · c.lid) (fun _ => rfl) (fun _ _ => rfl)
  obtain ⟨y, hy, hrings, hz⟩ := State.claimLost_tie (hlayer ▸ hheld) (hx.claimTie hk hkr) hko
  have hrun' : semLnew.run c x = onLayer c y (fun _ =>
      { holder := some c.ten, claim := x.claimOf c, work := some { pri := fld c.w 12 5 } }) := by
    rw [← State.modLayer_lid, ← hy]
    rfl
  intro t
  have ht : t.noGal = (onLayer c y (fun _ =>
      { holder := some c.ten, claim := x.claimOf c, work := some { pri := fld c.w 12 5 } })).noGal.modRing c.ring
        RingSt.packetDone := by
    rw [← State.packetEnd_noGal, ← hrun', ← hrun]
  have hlay : t.layer c.lid = { holder := some c.ten, claim := x.claimOf c, work := some { pri := fld c.w 12 5 } } := by
    have hl := congrArg (fun z => State.layer z c.lid) ht
    rw [← State.modLayer_lid] at hl
    exact hl.trans (State.layer_modLayer y _ _)
  have hring : ∀ q, t.ring q = at' (upd y.rings c.ring RingSt.packetDone) q := fun q =>
    (congrArg (fun z => State.ring z q) ht :)
  have hlost : t.ring k.ring = k.before.faulted 12 k.before.pc := by
    rw [hring, at_upd_ne _ _ _ _ hkr, hrings, at_upd]
  refine ⟨by rw [hlay], by rw [hlay], by rw [hlost]; rfl, by rw [hlost]; rfl, ?_⟩
  rw [hring, at_upd, hrings, at_upd_ne _ _ _ _ hkr.symm]
  exact (congrArg RingSt.packetDone hx.ring_self).trans (RingSt.packetDone_paid _ _ _ _)

/-- Settles O15: each row edits the layer that its LID names; LNEW by its two cases. -/
theorem layerInstructions : Obligations.LayerInstructions := by
  refine ⟨layerRows_hold, fun s r c h => ⟨fun hfree => ?_, fun k hheld hk hkr hko => ⟨_, rfl, lnew_tie h hheld hk hkr hko⟩⟩⟩
  obtain ⟨k, hat, hring, hsame⟩ := lnew_free h hfree
  exact ⟨_, k, rfl, hat, hring, hsame⟩

end Sys2Proof.Machine

/-!
PROOFS. The instructions of a Chapel as a whole, the light, the loops, the Keystone and the tenant
(05_quagal_reference R153, R159 to R171, R175, R178, R182): O16 to O20.
-/

namespace Sys2Proof.Machine

/-! ### Chapels (O16) -/

/-- Settles O16: each row edits the Chapel's settings, or the rectangle, that its fields name. -/
theorem chapelWideInstructions : Obligations.ChapelWideInstructions := by
  unfold Obligations.ChapelWideInstructions
  simp only [chapelRows, List.forall_mem_cons, List.not_mem_nil, false_imp_iff, implies_true, and_true]
  refine ⟨?_, ?_, ?_, ?_⟩
  · exact .of_beside (fun _ _ => rfl) (by decide) (by decide) (fun _ => rfl) (fun _ _ _ _ _ _ _ _ => rfl)
      (fun c => .of_modRing fun _ _ _ _ => rfl)
  · exact .of_beside (fun _ _ => rfl) (by decide) (by decide) (fun _ => rfl) (fun _ _ _ _ _ _ _ _ => rfl)
      (fun c => .of_modRing fun _ _ _ _ => rfl)
  · refine .of_beside (fun _ _ => rfl) (by decide) (by decide) (fun _ => rfl) (fun _ _ c x _ _ _ _ => ?_)
      (fun c => .of_modRing fun _ _ _ _ => rfl)
    exact congrArg (fun b : Bool => (onRect c x (fun x => if b then { x with
      owner := .ten c.ten
      work := some { x := fld c.e1 16 16, y := fld c.e1 0 16, w := fld c.e2 16 16, h := fld c.e2 0 16 } }
      else if x.frozen.isNone then {} else { x with work := none })).noGal) (bit_eq_getLsbD c.w 17)
  · refine .of_beside (fun _ _ => rfl) (by decide) (by decide) (fun _ => rfl) (fun s r c x h _ _ hx => ?_)
      (fun c => .of_modRing fun _ _ _ hg => by simp only [hg]; rfl)
    simp only [h.1.gOf_paid hx (fld_lt c.w 14 4)]
    rfl

/-! ### Light (O17) -/

theorem outOf_eq {n : Nat} {o : OutId} (h : outOf n = some o) : o = Fin.ofNat 14 n := by
  unfold outOf fin? at h
  split at h
  · cases h
  · split at h
    · rename_i hlt
      cases h
      exact Fin.ext (Nat.mod_eq_of_lt hlt).symm
    · cases h

theorem outOf_of_lt {n : Nat} (h : n < 6) : outOf n = some (Fin.ofNat 14 n) := by
  have hn : (n = 6 || n = 7) = false := by simp; omega
  rw [outOf, hn, if_neg Bool.false_ne_true, fin?_of_lt (by omega)]

theorem OutCopy.put_eq (x : OutCopy) (w : OutWrite) : x.put w = {
    code := w.code.getD x.code
    duty := w.duty.getD x.duty
    period := (w.dim.map (·.1)).getD x.period
    scramble := (w.dim.map (·.2)).getD x.scramble } := by
  cases hd : w.dim <;> simp [OutCopy.put, hd]

/-- A write of an output's fields, in the reload window or out of it, is that of R314. -/
theorem State.outWrite_noGal (s : State) (c : OpCtx) (w : OutWrite) :
    (s.outWrite (Fin.ofNat 14 (fld c.w 20 4)) w).noGal = (putOut c s w).noGal := by
  have hput := funext fun q : OutSt => congrArg (fun x => { q with shadow := x, pend := q.pend ++ [w] })
    (q.shadow.put_eq w)
  unfold State.outWrite putOut
  cases hr : s.nextReload (Fin.ofNat 14 (fld c.w 20 4)) with
  | none => simp [onOut, State.modOut, hput]
  | some x => 
    by_cases hw : (x ≤ s.now + 4 && s.now < x) = true
    · simp [onOut, State.modOut, hw]
    · simp [onOut, State.modOut, hw, hput]

/-- What an instruction does on an output, its number in range. -/
theorem OpCtx.onOut_eq {c : OpCtx} (h : c.out.isSome = true) (s : State) (f : OutId → State) :
    c.onOut s f = f (Fin.ofNat 14 (fld c.w 20 4)) := by
  obtain ⟨o, ho⟩ := Option.isSome_iff_exists.mp h
  rw [OpCtx.onOut, ho, outOf_eq ho]
  rfl

theorem OpCtx.out_of_lt {c : OpCtx} (h : ¬ 6 ≤ c.outN) : c.out.isSome = true := by
  rw [OpCtx.out, outOf_of_lt (Nat.not_le.mp h)]
  rfl

theorem lightRows_hold : ∀ e ∈ lightRows, e.Holds := by
  simp only [lightRows, List.forall_mem_cons, List.not_mem_nil, false_imp_iff, implies_true, and_true]
  refine ⟨?_, ?_, ?_, ?_, ?_⟩
  · refine .of_beside (fun _ _ => rfl) (by decide) (by decide) (fun _ => rfl) (fun _ _ c x h _ _ _ => ?_)
      (fun c => .of_modRing fun _ _ _ _ => rfl)
    have ho : c.out.isSome = true := by simpa [semDrvtgt] using h.in_range
    exact (congrArg State.noGal (OpCtx.onOut_eq ho x _)).trans (x.outWrite_noGal c _)
  · refine .of_beside (fun _ _ => rfl) (by decide) (by decide) (fun _ => rfl) (fun _ _ c x h _ _ _ => ?_)
      (fun c => .of_modRing fun _ _ _ _ => rfl)
    have ho := OpCtx.out_of_lt (c := c) (of_decide_eq_false h.in_range)
    exact (congrArg State.noGal (OpCtx.onOut_eq ho x _)).trans (x.outWrite_noGal c _)
  · refine .of_beside (fun _ _ => rfl) (by decide) (by decide) (fun _ => rfl) (fun _ _ c x h _ _ _ => ?_)
      (fun c => .of_modRing fun _ _ _ _ => rfl)
    have hr : (decide (6 ≤ c.outN) || decide (8 ≤ fld c.w 16 4)) = false := h.in_range
    have ho := OpCtx.out_of_lt (c := c) (of_decide_eq_false (Bool.or_eq_false_iff.mp hr).1)
    exact ((congrArg State.noGal (OpCtx.onOut_eq ho x _)).trans (x.outWrite_noGal c _)).trans
      (congrArg (fun b => (putOut c x { dim := some (fld c.w 16 4, b), seq := c.seq }).noGal) (bit_eq_getLsbD c.w 15))
  · refine .of_beside (fun _ _ => rfl) (by decide) (by decide) (fun _ => rfl) (fun _ _ c x h _ _ _ => ?_)
      (fun c => .of_modRing fun _ _ _ _ => rfl)
    have ho := OpCtx.out_of_lt (c := c) (of_decide_eq_false h.in_range)
    exact (congrArg State.noGal (OpCtx.onOut_eq ho x _)).trans
      (congrArg (fun a => (Machine.onOut c x (fun q => { q with
        pendDerate := some (a, fld c.e1 16 8, fld c.e1 0 14) })).noGal) (sgn_fld c.e1 24 8 (by decide)))
  · refine .of_beside (fun _ _ => rfl) (by decide) (by decide) (fun _ => rfl) (fun _ _ c x h _ _ _ => ?_)
      (fun c => .of_modRing fun _ _ _ _ => rfl)
    have hlt : fld c.w 22 2 < 2 := by
      have hr := h.in_range
      simp only [semDrvrail, Bool.or_eq_false_iff, decide_eq_false_iff_not] at hr
      omega
    exact congrArg (fun o => State.noGal (o.elim x (fun r => x.modRail r (fun q => { q with
      pendHead := some (fld c.w 0 12) })))) (fin?_of_lt hlt)

/-- Settles O17: an output's write is `putOut`, a rail's its own. -/
theorem lightTargetInstructions : Obligations.LightTargetInstructions := lightRows_hold

/-! ### Loops (O18) -/

theorem loopState_eq (n : Nat) : loopState n = match n with
    | 1 => .run
    | 2 => .hold
    | _ => .off := by
  match n with
  | 0 | 1 | 2 | _ + 3 => rfl

/-- A loop's change out of a ring waits behind those that wait already. -/
theorem loopChange_eq {c : OpCtx} (h : c.action = false) (s : State) (e : LoopEdit) :
    loopChange c s c.slot e = queueEdit c s e := by
  have hany : (s.choir.late.any (fun x => x.1 == c.slot && x.2.2.2 == some (s.bn + 1))) = true ↔
      ∃ x ∈ s.choir.late, x.1 = Fin.ofNat 16 (fld c.w 20 4) ∧ x.2.2.2 = some (s.bell.bellno.toNat + 1) := by
    simp [List.any_eq_true, OpCtx.slot, State.bn]
  simp only [loopChange, queueEdit, h, Bool.not_false, Bool.true_and, hany, Bool.false_eq_true, if_false]
  rfl

theorem queueEdit_beside (c : OpCtx) (e : LoopEdit) : Beside c.ring (fun s => queueEdit c s e) :=
  .of_modRing fun _ _ _ _ => rfl

/-- The channel and the value of a CLSET operand. -/
theorem clsetVal_eq {q : LoopSt} {v : Word} {ch : Option (Fin 3)} {n : Nat} (h : clsetVal q v = some (ch, n)) :
    ch = (if q.cfg.kind.three then if fld v 30 2 = 3 then none else some (Fin.ofNat 3 (fld v 30 2)) else some 0) ∧
      n = fld v 0 14 := by
  unfold clsetVal at h
  split at h <;> rename_i hk <;> split at h
  · cases h
  · cases h
    rw [if_pos hk]
    exact ⟨rfl, rfl⟩
  · cases h
  · cases h
    rw [if_neg hk]
    exact ⟨rfl, rfl⟩

/-- The operand of a CLSET that may retire has its form. -/
theorem Retires.clset {s : State} {r : RingId} {c : OpCtx} (h : Retires s r 0x80 semClset c) :
    (clsetVal (s.slot c.slot) (c.reg (fld c.w 16 4))).isSome = true := by
  have hc := h.no_cause
  simp only [semClset, slotCauses, List.append_eq_nil_iff] at hc
  obtain ⟨hen, hval⟩ := hc
  cases he : (s.slot c.slot).cfg.en
  · simp [he] at hen
  · rw [he, Bool.not_true, if_neg Bool.false_ne_true] at hval
    simp only [List.append_eq_nil_iff, when'_eq_nil] at hval
    simpa using hval.1

theorem loopRows_hold : ∀ e ∈ loopRows, e.Holds := by
  simp only [loopRows, List.forall_mem_cons, List.not_mem_nil, false_imp_iff, implies_true, and_true]
  refine ⟨?_, ?_, ?_, ?_, ?_, ?_, ?_, ?_, ?_⟩
  · refine .of_beside (fun _ _ => rfl) (by decide) (by decide) (fun _ => rfl) (fun s r c x h _ _ hx => ?_)
      (fun c => .of_modRing fun _ _ _ hg => by simp only [hg]; rfl)
    obtain ⟨⟨ch, n⟩, hv⟩ := Option.isSome_iff_exists.mp (Retires.clset h)
    have hslot : x.slot c.slot = s.slot c.slot := hx.eq (State.slot · c.slot) (fun _ => rfl) (fun _ _ => rfl)
    have hv' : clsetVal (x.slot c.slot) (c.reg (fld c.w 16 4)) = some (ch, n) := hslot ▸ hv
    have hrun : semClset.run c x = queueEdit c x (.set ch n) := by
      simp only [semClset, hv', loopChange_eq h.1.action_eq]
    obtain ⟨hch, hn⟩ := clsetVal_eq hv'
    simp only [hrun, h.1.gOf_paid hx (fld_lt c.w 16 4), hch, hn]
    rfl
  · refine .of_beside (fun _ _ => rfl) (by decide) (by decide) (fun _ => rfl) (fun s r c x h _ _ _ => ?_)
      (fun c => queueEdit_beside c _)
    have hi : fld c.w 16 4 < 9 := by
      have hr := h.in_range
      simp only [semClcoef, Bool.or_eq_false_iff, decide_eq_false_iff_not] at hr
      omega
    have hsgn : sgn 20 (fld c.e1 0 20) = (c.e1.setWidth 20).toInt := sgn_fld c.e1 0 20 (by decide)
    have hrun : semClcoef.run c x = queueEdit c x (.coef (Fin.ofNat 9 (fld c.w 16 4)) (c.e1.setWidth 20).toInt) := by
      simp only [semClcoef, fin?_of_lt hi, hsgn, loopChange_eq h.1.action_eq]
    exact congrArg State.noGal hrun
  · refine .of_beside (fun _ _ => rfl) (by decide) (by decide) (fun _ => rfl) (fun s r c x h _ _ _ => ?_)
      (fun c => queueEdit_beside c _)
    have hrun : semClmode.run c x = queueEdit c x (.mode (loopState (fld c.w 18 2)) (Fin.ofNat 4 (fld c.w 16 2))
        (c.w.getLsbD 15) (c.w.getLsbD 14) (c.w.getLsbD 13)) := by
      simp only [semClmode, bit_eq_getLsbD, loopChange_eq h.1.action_eq]
    exact congrArg State.noGal (hrun.trans (congrArg (fun b => queueEdit c x (.mode b (Fin.ofNat 4 (fld c.w 16 2))
      (c.w.getLsbD 15) (c.w.getLsbD 14) (c.w.getLsbD 13))) (loopState_eq (fld c.w 18 2))))
  · refine .of_beside (fun _ _ => rfl) (by decide) (by decide) (fun _ => rfl) (fun s r c x h _ _ _ => ?_)
      (fun c => queueEdit_beside c _)
    exact congrArg State.noGal (loopChange_eq h.1.action_eq x _)
  · refine .of_beside (fun _ _ => rfl) (by decide) (by decide) (fun _ => rfl) (fun s r c x h _ _ _ => ?_)
      (fun c => queueEdit_beside c _)
    exact congrArg State.noGal (loopChange_eq h.1.action_eq x _)
  · exact .of_beside (fun _ _ => rfl) (by decide) (by decide) (fun _ => rfl) (fun _ _ _ _ _ _ _ _ => rfl)
      (fun c => .of_modRing fun _ _ _ _ => rfl)
  · exact .of_beside (fun _ _ => rfl) (by decide) (by decide) (fun _ => rfl) (fun _ _ _ _ _ _ _ _ => rfl)
      (fun c => .of_modRing fun _ _ _ _ => rfl)
  · refine .of_beside (fun _ _ => rfl) (by decide) (by decide) (fun _ => rfl) (fun _ _ _ _ _ _ _ _ => rfl)
      (fun c => .of_modRing fun x F g _ => ?_)
    have hpool : (x.modRingGal c.ring F g).poolUsed = x.poolUsed := rfl
    simp only [hpool]
    split <;> rfl
  · exact .of_beside (fun _ _ => rfl) (by decide) (by decide) (fun _ => rfl) (fun _ _ _ _ _ _ _ _ => rfl)
      (fun c => .of_modRing fun _ _ _ _ => rfl)

/-- Settles O18: each row queues its change, or edits its slot. -/
theorem loopInstructions : Obligations.LoopInstructions := loopRows_hold

end Sys2Proof.Machine

/-!
PROOFS. The instructions of the Keystone and of the tenant (05_quagal_reference R171, R175, R178, R182): O19 and O20.
-/

namespace Sys2Proof.Machine

/-! ### The Keystone (O19) -/

/-- KMAP with EN = 1, as the row says it. -/
theorem State.keyPlace_eq (s : State) (m : KMap) :
    s.keyPlace m =
      let old := s.key.maps.find? (fun x => x.seg == m.seg && x.chap == m.chap)
      let s1 := ownRect (old.elim s (fun o => ownRect s m.chap o.rect .free)) m.chap m.rect (.key m.seg)
      let a := keyEntry m.chap m.rect
      { s1 with
        key := { s.key with
          maps := { m with wit := old.bind (·.wit) } :: s.key.maps.filter (fun x => !(x.seg == m.seg && x.chap == m.chap)) }
        memc := { s.memc with
          ueUnder := s.memc.ueUnder.filter (fun w => !(a ≤ 8 * w && 8 * w + 8 ≤ a + 16)) } } := by
  unfold State.keyPlace KStore.mapOf
  cases s.key.maps.find? (fun x => x.seg == m.seg && x.chap == m.chap) <;> rfl

/-- KMAP with EN = 0, as the row says it. -/
theorem State.keyRemove_eq (s : State) (g : Seg) (k : Chap) :
    s.keyRemove g k = (s.key.maps.find? (fun x => x.seg == g && x.chap == k)).elim s (fun o =>
      { ownRect s k o.rect (.keyFreed g) with
        key := { s.key with maps := s.key.maps.filter (fun x => !(x.seg == g && x.chap == k)) } }) := by
  unfold State.keyRemove KStore.mapOf
  cases s.key.maps.find? (fun x => x.seg == g && x.chap == k) <;> rfl

/-- The segments with those of word `h`, up to `n` of them, that `m` names set as in `v`. -/
def wordSegs (on : Vector Bool 96) (v m : Word) (h n : Nat) : Vector Bool 96 :=
  Vector.ofFn (fun g =>
    if g.val / 32 = h ∧ g.val % 32 < n ∧ m.getLsbD (g.val % 32) then v.getLsbD (g.val % 32) else at' on g)

theorem wordSegs_full (on : Vector Bool 96) (v m : Word) (h : Nat) :
    wordSegs on v m h 32 = Vector.ofFn (fun g =>
      if g.val / 32 = h ∧ m.getLsbD (g.val % 32) then v.getLsbD (g.val % 32) else at' on g) := by
  simp only [wordSegs, Nat.mod_lt _ (show 0 < 32 by decide), true_and]

theorem Beside.of_key (c : OpCtx) (i j : Nat) (f : KStore → Word → Word → KStore) :
    Beside c.ring (fun s => { s with key := f s.key (gOf s c.ring i) (gOf s c.ring j) }) :=
  .of_modRing fun _ _ _ hg => by
    simp only [hg]
    rfl

theorem at_ofFn {α : Type} {n : Nat} (f : Fin n → α) (i : Fin n) : at' (Vector.ofFn f) i = f i := by
  simp [at']

theorem wordSegs_zero (on : Vector Bool 96) (v m : Word) (h : Nat) : wordSegs on v m h 0 = on := by
  simp [wordSegs, at']

/-- One segment more. -/
theorem wordSegs_succ (on : Vector Bool 96) (v m : Word) {h n : Nat} (hn : n < 32) (hi : 32 * h + n < 96) :
    wordSegs on v m h (n + 1) =
      if m.getLsbD n then upd (wordSegs on v m h n) (Fin.ofNat 96 (32 * h + n)) (fun _ => v.getLsbD n)
      else wordSegs on v m h n := by
  have hval : (Fin.ofNat 96 (32 * h + n)).val = 32 * h + n := Nat.mod_eq_of_lt hi
  have hon : ∀ g : Fin 96, at' (wordSegs on v m h (n + 1)) g =
      if g = Fin.ofNat 96 (32 * h + n) ∧ m.getLsbD n then v.getLsbD n else at' (wordSegs on v m h n) g := fun g => by
    simp only [wordSegs, at_ofFn, Fin.ext_iff, hval]
    by_cases hg : g.val = 32 * h + n
    · have h1 : g.val / 32 = h := by omega
      have h2 : g.val % 32 = n := by omega
      rw [h1, h2]
      simp [hg]
    · have hiff : (g.val / 32 = h ∧ g.val % 32 < n + 1) ↔ (g.val / 32 = h ∧ g.val % 32 < n) := by omega
      simp only [hg, false_and, if_false, ← and_assoc, hiff]
  refine Vector.ext fun i hlt => (hon ⟨i, hlt⟩).trans ?_
  cases hb : m.getLsbD n
  · rw [if_neg (fun h => Bool.false_ne_true h.2), if_neg Bool.false_ne_true]
    rfl
  · rw [if_pos rfl]
    by_cases hg : (⟨i, hlt⟩ : Fin 96) = Fin.ofNat 96 (32 * h + n)
    · rw [if_pos ⟨hg, rfl⟩, ← hg]
      exact (at_upd (wordSegs on v m h n) (⟨i, hlt⟩ : Fin 96) (fun _ => v.getLsbD n)).symm
    · rw [if_neg (fun h => hg h.1)]
      exact (at_upd_ne _ _ (⟨i, hlt⟩ : Fin 96) _ hg).symm

/-- KSETM on the first `n` segments of its word. -/
theorem setOn_forEach (k : KStore) (v m : Word) {h : Nat} (hh : h < 3) {n : Nat} (hn : n ≤ 32) :
    forEach (List.range n) (fun i k => if bit m i then k.setOn (32 * h + i) (bit v i) else k) k =
      { k with on := wordSegs k.on v m h n } := by
  induction n with
  | zero => rw [wordSegs_zero]; rfl
  | succ n ih =>
    have ih := ih (by omega)
    have hi : 32 * h + n < 96 := by omega
    rw [forEach] at ih ⊢
    rw [List.range_succ, List.foldl_append, ih, List.foldl_cons, List.foldl_nil, wordSegs_succ _ _ _ (by omega) hi,
      bit_eq_getLsbD, bit_eq_getLsbD, KStore.setOn, fin?_of_lt hi]
    cases m.getLsbD n <;> rfl

/-- KPRIME writes KS_VALID to 0 and keeps the store for PRIME_STORED. -/
theorem kprime_run (c : OpCtx) (s : State) : semKprime.run c s = { s with
    moa := Memory.writeN s.moa 0x1700006 [0]
    memc := { s.memc with ueMoa := s.memc.ueMoa.filter (fun w =>
      !(0x1700006 ≤ 8 * w && 8 * w + 8 ≤ 0x1700006 + 1)) }
    prime := { s.prime with kprime := some (c.seq, c.ring, s.keyWritten) } } := by
  have ha : primeBase + 6 = 0x1700006 := by decide
  simp only [semKprime, State.moaWrite, ueLeft, ha, List.length_singleton]

theorem keyRows_hold : ∀ e ∈ keyRows, e.Holds := by
  simp only [keyRows, List.forall_mem_cons, List.not_mem_nil, false_imp_iff, implies_true, and_true]
  refine ⟨?_, ?_, ?_, ?_, ?_⟩
  · refine .of_beside (fun _ _ => rfl) (by decide) (by decide) (fun _ => rfl) (fun s r c x h _ _ hx => ?_)
      (fun c => .of_modRing fun x F g _ => ?_)
    · cases hb : c.w.getLsbD 9 <;>
        simp only [semKmap, bit_eq_getLsbD, hb, if_true, if_false, Bool.false_eq_true, State.keyPlace_eq,
          State.keyRemove_eq] <;>
        rfl
    · have hkey : (x.modRingGal c.ring F g).key = x.key := rfl
      simp only [hkey]
      cases c.w.getLsbD 9 <;>
        cases x.key.maps.find? (fun m => m.seg == Fin.ofNat 96 (fld c.w 16 7) && m.chap == Fin.ofNat 4 (fld c.w 14 2)) <;>
        rfl
  · refine .of_beside (fun _ _ => rfl) (by decide) (by decide) (fun _ => rfl) (fun s r c x h _ _ _ => ?_)
      (fun c => .of_modRing fun _ _ _ _ => rfl)
    have hlt : fld c.w 16 7 < 96 := Nat.not_le.mp (of_decide_eq_false h.in_range)
    have hrun : semKset.run c x = { x with key := { x.key with
        on := upd x.key.on (Fin.ofNat 96 (fld c.w 16 7)) (fun _ => c.w.getLsbD 23) } } := by
      simp only [semKset, State.modKey, KStore.setOn, OpCtx.segN, fin?_of_lt hlt, bit_eq_getLsbD]
    exact congrArg State.noGal hrun
  · refine .of_beside (fun _ _ => rfl) (by decide) (by decide) (fun _ => rfl) (fun s r c x h _ _ hx => ?_)
      (fun c => Beside.of_key c (fld c.w 16 4) (fld c.w 12 4) (fun k v m => { k with on := Vector.ofFn (fun g =>
        if g.val / 32 = fld c.w 22 2 ∧ m.getLsbD (g.val % 32) then v.getLsbD (g.val % 32) else at' k.on g) }))
    have h3 : fld c.w 22 2 < 3 := by
      have hl : fld c.w 22 2 ≠ 3 := of_decide_eq_false h.legal
      have hlt : fld c.w 22 2 < 4 := fld_lt c.w 22 2
      omega
    simp only [h.1.gOf_paid hx (fld_lt c.w 16 4), h.1.gOf_paid hx (fld_lt c.w 12 4)]
    have hset := setOn_forEach x.key c.A c.B h3 (Nat.le_refl 32)
    rw [wordSegs_full] at hset
    exact congrArg (fun k => ({ x with key := k } : State).noGal) hset
  · refine .of_beside (fun _ _ => rfl) (by decide) (by decide) (fun _ => rfl) (fun s r c x h _ _ hx => ?_)
      (fun c => .of_modRing fun x F g _ => ?_)
    · exact congrArg (fun b : Bool => State.noGal (match x.key.mapAt c.chap22 c.rect18 with
        | some m => x.modKey (fun k => k.putMap { m with wit := if b then some c.arm else none })
        | none => x)) (bit_eq_getLsbD c.w 14)
    · have hkey : (x.modRingGal c.ring F g).key = x.key := rfl
      simp only [hkey]
      split <;> rfl
  · exact .of_beside (fun _ _ => rfl) (by decide) (by decide) (fun _ => rfl)
      (fun _ _ c x _ _ _ _ => congrArg State.noGal (kprime_run c x)) (fun c => .of_modRing fun _ _ _ _ => rfl)

/-- Settles O19: each row's meaning is its effect on the store as last written. -/
theorem keystoneInstructions : Obligations.KeystoneInstructions := keyRows_hold

/-! ### The tenant (O20) -/

/-- BPART takes part through its ring, or takes no part. -/
theorem bpart_run (c : OpCtx) (s : State) : semBpart.run c s = { s with tens := upd s.tens c.ten (fun q =>
    if c.w.getLsbD 23 then { q with part := true, cring := fld c.w 16 4 } else { q with part := false }) } := by
  simp only [semBpart, State.modTen, bit_eq_getLsbD]
  cases c.w.getLsbD 23 <;> rfl

/-- Settles O20: each row sets what its instruction asks for its tenant. -/
theorem tenantInstructions : Obligations.TenantInstructions := by
  unfold Obligations.TenantInstructions
  simp only [tenantRows, List.forall_mem_cons, List.not_mem_nil, false_imp_iff, implies_true, and_true]
  refine ⟨?_, ?_, ?_, ?_, ?_⟩
  · refine .of_beside (fun _ _ => rfl) (by decide) (by decide) (fun _ => rfl) (fun _ _ c x _ _ _ _ => ?_)
      (fun c => .of_modRing fun _ _ _ _ => rfl)
    exact congrArg State.noGal (bpart_run c x)
  · exact .of_beside (fun _ _ => rfl) (by decide) (by decide) (fun _ => rfl) (fun _ _ _ _ _ _ _ _ => rfl)
      (fun c => .of_modRing fun _ _ _ _ => rfl)
  · exact .of_beside (fun _ _ => rfl) (by decide) (by decide) (fun _ => rfl) (fun _ _ _ _ _ _ _ _ => rfl)
      (fun c => .of_modRing fun _ _ _ _ => rfl)
  · exact .of_beside (fun _ _ => rfl) (by decide) (by decide) (fun _ => rfl) (fun _ _ _ _ _ _ _ _ => rfl)
      (fun c => .of_modRing fun _ _ _ _ => rfl)
  · exact .of_beside (fun _ _ => rfl) (by decide) (by decide) (fun _ => rfl) (fun _ _ _ _ _ _ _ _ => rfl)
      (fun c => .of_modRing fun _ _ _ _ => rfl)

end Sys2Proof.Machine

/-!
PROOFS. Packets, waits and actions of a ring (02_bell R79, R80; 03_tenants_rings R94, R96; 04_quagal_model R136, R140):
O22 and O24 to O27.
-/

namespace Sys2Proof.Machine

/-! ### The start of a packet (O22) -/

theorem high_bits : ∀ i : Fin 32, (0xFFFFFF00#32).getLsbD i.val = decide (8 ≤ i.val) := by decide

theorem and_high_eq (h : Word) : h &&& 0xFFFFFF00#32 = (h >>> 8) <<< 8 := by
  refine BitVec.eq_of_getLsbD_eq fun i hi => ?_
  rw [BitVec.getLsbD_and, high_bits ⟨i, hi⟩, BitVec.getLsbD_shiftLeft, BitVec.getLsbD_ushiftRight, decide_eq_true hi]
  by_cases h8 : 8 ≤ i
  · rw [decide_eq_true h8, decide_eq_false (Nat.not_lt.mpr h8), Nat.add_sub_cancel' h8]
    exact Bool.and_comm _ _
  · rw [decide_eq_false h8, decide_eq_true (Nat.not_le.mp h8), Bool.and_false] <;> rfl

/-- A packet header is well formed when its high 24 bits are A00000 and its LEN is one. -/
theorem headerLen_eq (h : Word) :
    headerLen h = if h &&& 0xFFFFFF00#32 = 0xA0000000#32 ∧ 1 ≤ fld h 0 8 ∧ fld h 0 8 ≤ 252 then some (fld h 0 8)
      else none := by
  have hlt : h.toNat < 2 ^ 32 := h.isLt
  have hiff : h &&& 0xFFFFFF00#32 = 0xA0000000#32 ↔ fld h 28 4 = 0xA ∧ fld h 8 20 = 0 := by
    rw [and_high_eq, ← BitVec.toNat_inj, BitVec.toNat_shiftLeft, BitVec.toNat_ushiftRight, Nat.shiftRight_eq_div_pow,
      Nat.shiftLeft_eq, fld, fld, BitVec.toNat_ofNat]
    omega
  rw [headerLen]
  refine ite_congr (propext ?_) (fun _ => rfl) (fun _ => rfl)
  rw [hiff, Bool.and_eq_true, Bool.and_eq_true, Bool.and_eq_true, decide_eq_true_iff, decide_eq_true_iff,
    decide_eq_true_iff, decide_eq_true_iff, and_assoc, and_assoc]

/-- A request for LPDDR4X ends a self-refresh, at its time, and does nothing else. -/
theorem State.lpRequest_noGal (s : State) :
    s.lpRequest = s ∨
      ∃ d, s.lpRequest.noGal = { s with now := d, memc := { s.memc with selfRef := false } }.noGal := by
  unfold State.lpRequest
  split
  · rename_i h
    refine .inr ⟨(s.passTo (s.memc.selfRefAt + us 1)).now, ?_⟩
    have hwake : ((s.passTo (s.memc.selfRefAt + us 1)).memc.selfRef && (s.passTo (s.memc.selfRefAt + us 1)).live &&
        !(s.passTo (s.memc.selfRefAt + us 1)).thermal.hold) = true := by
      unfold State.passTo
      split <;> exact h
    rw [State.lpWake, if_pos hwake, State.refEnd, State.tally_noGal, State.passTo]
    split <;> rfl
  · exact .inl rfl

theorem State.lpRequest_rings (s : State) : s.lpRequest.rings = s.rings := by
  obtain h | ⟨d, h⟩ := s.lpRequest_noGal
  · rw [h]
  · exact (congrArg State.rings h :)

theorem State.lpRequest_ringWord (s : State) (q : RingSt) (i : Nat) : s.lpRequest.ringWord q i = s.ringWord q i := by
  obtain h | ⟨d, h⟩ := s.lpRequest_noGal
  · rw [h]
  · exact (congrArg (fun y => State.ringWord y q i) h :)

/-- The state on which a packet is fetched: LPDDR4X is awake where the ring lies in it. -/
def State.ringAwake (s : State) (r : RingId) : State := if (s.ring r).under then s else s.lpRequest

theorem State.ringAwake_rings (s : State) (r : RingId) : (s.ringAwake r).rings = s.rings := by
  unfold State.ringAwake
  split
  · rfl
  · exact s.lpRequest_rings

theorem State.ringAwake_ringWord (s : State) (r : RingId) : (s.ringAwake r).ringWord = s.ringWord := by
  unfold State.ringAwake
  split
  · rfl
  · exact funext fun q => funext fun i => s.lpRequest_ringWord q i

section
variable {s : State} {r : RingId} {h q : Word} (hready : s.ringReady r = true)
    (hpkt : (s.ring r).pkt = none) (havail : 2 ≤ (s.ring r).avail)
    (hh : s.ringWord (s.ring r) (s.ring r).rd = some h) (hq : s.ringWord (s.ring r) ((s.ring r).rd + 1) = some q)
include hready hpkt havail hh

theorem packetStart_bad (hlen : headerLen h = none) :
    s.packetStart r = (s.ringAwake r).ringFault r fHDR 0 none := by
  have hgo : (!s.ringReady r || (s.ring r).pkt.isSome || decide ((s.ring r).avail = 0)) = false := by
    simp [hready, hpkt]
    omega
  have hs0 : (if (s.ring r).under = true then s else s.lpRequest) = s.ringAwake r := rfl
  simp only [State.packetStart, hgo, Bool.false_eq_true, if_false, hs0, s.ringAwake_ringWord r, hh, hlen]

include hq

theorem packetStart_good {len : Nat} (hlen : headerLen h = some len) :
    s.packetStart r =
      if (∀ l, (s.ring r).lastSeq = some l → precedes l q = true) then
        (s.ringAwake r).modRing r (fun x => { x with
          pkt := some { len := len, seq := q, buf := s.fetched x { len := len, seq := q, buf := [] } }
          pc := 0
          lastSeq := some q })
      else (s.ringAwake r).ringFault r fSEQ 0 (some q) := by
  have hgo : (!s.ringReady r || (s.ring r).pkt.isSome || decide ((s.ring r).avail = 0)) = false := by
    simp [hready, hpkt]
    omega
  have hs0 : (if (s.ring r).under = true then s else s.lpRequest) = s.ringAwake r := rfl
  have hfetch : (s.ringAwake r).fetched = s.fetched := by
    funext x p
    simp only [State.fetched, s.ringAwake_ringWord r]
  simp only [State.packetStart, hgo, Bool.false_eq_true, if_false, hs0, s.ringAwake_ringWord r, hh, hlen, hq, hfetch,
    Nat.not_lt.mpr havail]
  cases (s.ring r).lastSeq with
  | none => simp
  | some l => cases hp : precedes l q <;> simp [hp]

end

/-- Settles O22: the header's form and its SEQ decide. -/
theorem packetStartChecksHeader : Obligations.PacketStartChecksHeader := by
  unfold Obligations.PacketStartChecksHeader
  intro s r h q hready hpkt havail hh hq ok later s0
  have hs0 : s0 = s.ringAwake r := rfl
  have hlen := headerLen_eq h
  refine ⟨fun hok => ?_, fun hok hlater => ?_, fun hok hlater => ?_⟩
  · rw [if_neg hok] at hlen
    exact congrArg Host.Outcome.next (packetStart_bad hready hpkt havail hh hlen)
  · rw [if_pos hok] at hlen
    exact congrArg Host.Outcome.next ((packetStart_good hready hpkt havail hh hq hlen).trans (if_neg hlater))
  · rw [if_pos hok] at hlen
    refine congrArg Host.Outcome.next (((packetStart_good hready hpkt havail hh hq hlen).trans (if_pos hlater)).trans ?_)
    rw [hs0, State.modRing, s.ringAwake_rings r]
    have hupd := upd_congr s.rings r (fun x => { x with
        pkt := some { len := fld h 0 8, seq := q, buf := s.fetched x { len := fld h 0 8, seq := q, buf := [] } }
        pc := 0
        lastSeq := some q }) (fun x => { x with
        pkt := some { len := fld h 0 8, seq := q, buf := kept s r { len := fld h 0 8, seq := q, buf := [] } }
        pc := 0
        lastSeq := some q }) rfl
    rw [hupd]

/-! ### Points of a Bell -/

theorem State.passed_iff (s : State) (pt : BellPoint) (b : Nat) : s.passed pt b = true ↔ Passed s pt b := by
  unfold State.passed
  rw [Bool.or_eq_true, Bool.and_eq_true, Bool.and_eq_true, decide_eq_true_iff, decide_eq_true_iff,
    Option.isSome_iff_ne_none, and_assoc]
  cases pt <;> simp [Passed, State.bn]

theorem State.passed_eq_false (s : State) (pt : BellPoint) (b : Nat) : s.passed pt b = false ↔ ¬ Passed s pt b := by
  rw [← State.passed_iff, Bool.not_eq_true]

/-- The point of a Bell passes no earlier than that of the Bell before. -/
theorem Passed.mono {s : State} {pt : BellPoint} {a b : Nat} (h : Passed s pt b) (hab : a ≤ b) : Passed s pt a := by
  obtain h | ⟨h, hann, hpt⟩ := h
  · exact .inl (by omega)
  · by_cases ha : a ≤ s.bell.bellno.toNat
    · exact .inl ha
    · exact .inr ⟨by omega, hann, hpt⟩

/-- The next Bell whose point has not passed. -/
theorem State.nextPoint_spec (s : State) (pt : BellPoint) :
    ¬ Passed s pt (s.nextPoint pt) ∧ Passed s pt (s.nextPoint pt - 1) ∧ 1 ≤ s.nextPoint pt := by
  unfold State.nextPoint
  split
  · rename_i h
    refine ⟨fun hp => ?_, (s.passed_iff pt _).mp h, by omega⟩
    obtain hp | ⟨hp, -⟩ := hp <;> simp only [State.bn] at hp <;> omega
  · rename_i h
    exact ⟨fun hp => h ((s.passed_iff pt _).mpr hp), .inl (by simp only [State.bn]; omega), by omega⟩

theorem Passed.lt_nextPoint {s : State} {pt : BellPoint} {x : Nat} (h : Passed s pt x) : x < s.nextPoint pt :=
  Nat.lt_of_not_le fun hle => s.nextPoint_spec pt |>.1 (h.mono hle)

/-- The points of a Bell are those of the state of the Bell. -/
theorem Passed.congr {s x : State} (h : x.bell = s.bell) {pt : BellPoint} {b : Nat} : x.passed pt b = s.passed pt b := by
  have hbn : x.bn = s.bn := congrArg (fun b => b.bellno.toNat) h
  unfold State.passed
  rw [hbn, h]

theorem bellOf_eq (c : OpCtx) : targetOf c.e1 c.e2 = bellOf c := by
  rw [targetOf, bellOf, fld, Nat.pow_zero, Nat.div_one, Nat.mul_comm] <;> rfl

/-! ### Waits (O24 to O26) -/

/-- A WAITB or FENCE that may retire goes on at once where its wait has ended, and else waits. -/
theorem Retires.runWait_eq {s : State} {r : RingId} {op : Nat} {o : OpSem} {c : OpCtx} (h : Retires s r op o c)
    (wait : OpCtx → State → Wait) :
    s.runWait r op o wait = if s.waitDone (s.ring r) (wait c s) then s.runOp r op o else Waits s r (wait c s) := by
  obtain ⟨⟨⟨ws, hat⟩, hop⟩, hc, -, -⟩ := h
  have hwait := (State.atPc_op hat).2.2.2.2.2.2.2.1
  rw [State.runWait, hwait, hat]
  simp only [hop, hc, bne_self_eq_false, List.isEmpty_nil, Bool.not_true, Bool.or_self, Bool.false_or]
  congr 1
  rw [State.keepFetched, State.modRing_modRing]
  exact State.modRing_congr _ _ _ _ rfl

theorem State.waitDone_bell (s : State) (q : RingSt) (pt : BellPoint) (b : Nat) (p : Fin 4) :
    s.waitDone q (.bell pt b p) = s.passed pt b := rfl

theorem waitOf_eq (c : OpCtx) (s : State) : waitOf c s = .bell (pointOf c)
    (if c.w.getLsbD 21 then bellOf c else s.nextPoint (pointOf c) + fld c.w 0 16 - 1) (Fin.ofNat 4 (fld c.w 19 2)) := by
  rw [← bit_eq_getLsbD, ← bellOf_eq]
  rfl

/-- Settles O24: WAITB waits for the point `waitOf` names, unless that has passed. -/
theorem waitbWaits : Obligations.WaitbWaits := by
  unfold Obligations.WaitbWaits
  intro s r c h pt pred
  have hrun := h.runWait_eq waitOf
  rw [waitOf_eq, State.waitDone_bell] at hrun
  refine ⟨fun hbit hp => ?_, fun hbit hp => ?_, fun hbit => ?_⟩
  · rw [hbit, if_pos rfl, if_pos ((s.passed_iff pt _).mpr hp)] at hrun
    have hw : opWords c.w = 3 := by simp [opWords, h.1.2, bit_eq_getLsbD, hbit]
    refine ⟨_, congrArg Host.Outcome.next hrun, h.onlyRing (fun q => { q with p := upd q.p pred (fun _ => false) })
      (fun x _ => ?_) ?_⟩
    · change (x.setPred c.ring (fld c.w 19 2) false).noGal = _
      rw [h.1.ring_eq, State.setPred_of_lt _ _ _ (fld_lt _ _ _), State.modRing_noGal]
    · rw [RingSt.packetDone_p, RingSt.packetDone_paid, hw]
      rfl
  · rw [hbit, if_pos rfl, if_neg (fun hd => hp ((s.passed_iff pt _).mp hd))] at hrun
    exact congrArg Host.Outcome.next hrun
  · have hcount : fld c.w 0 16 ≠ 0 := by
      have hl := h.legal
      simp only [semWaitb, bit_eq_getLsbD, hbit, Bool.or_eq_false_iff] at hl
      simpa using hl.2
    obtain ⟨hnot, hprev, hpos⟩ := s.nextPoint_spec pt
    have hb : ¬ Passed s pt (s.nextPoint pt + fld c.w 0 16 - 1) := fun hp => hnot (hp.mono (by omega))
    rw [hbit, if_neg Bool.false_ne_true, if_neg (fun hd => hb ((s.passed_iff pt _).mp hd))] at hrun
    refine ⟨_, congrArg Host.Outcome.next hrun, fun x hx => ?_, ?_⟩
    · have hlt : x < s.nextPoint pt := hx.lt_nextPoint
      change x + fld c.w 0 16 ≤ s.nextPoint pt + fld c.w 0 16 - 1
      omega
    · have heq : s.nextPoint pt + fld c.w 0 16 - 1 - fld c.w 0 16 = s.nextPoint pt - 1 := by omega
      exact heq ▸ hprev

/-- A wait for a point lets its ring go on. -/
theorem letGo_iff (s : State) (pt : BellPoint) (b : Nat) (p : Fin 4) :
    LetGo s pt b ↔ s.passed pt b = true ∧ s.released (.bell pt b p) = true := by
  rw [LetGo, State.passed_iff]
  refine and_congr_right fun _ => ?_
  cases pt with
  | fire => simp [State.released]
  | announce => simp [State.released]
  | latch =>
    unfold State.released
    rw [Bool.or_eq_true, decide_eq_true_iff]
    cases s.bell.ann <;> simp [State.bn]

/-- The end of a WAITB, decoded again, has nothing against it. -/
theorem semEndWait_decode (w : Wait) (c : OpCtx) (s : State) (hop : opOf c.w = 0x30) :
    (semEndWait w).decodeCauses c s = [] := by
  have hbad : (semEndWait w).bad c = false := by
    simp [OpSem.bad, semEndWait]
  have hcls : (opClasses (opOf c.w) (s.ofCls .safety).isEmpty).contains (s.ten c.ten).cfg.cls = true := by
    rw [hop, opClasses]
    cases (s.ten c.ten).cfg.cls <;> rfl
  rw [OpSem.decodeCauses, hbad, hcls]
  rfl

/-- A wait that has ended is taken from its ring, and its instruction retires. -/
theorem State.endWait_eq {s : State} {r : RingId} {w : Wait} (h : (s.ring r).wait = some w)
    (hready : s.ringReady r = true) {c : OpCtx} {ws : List Word}
    (hat : (s.modRing r (fun q => { q with wait := none })).atPc r = .op c ws) :
    s.endWait r = if s.waitDone (s.ring r) w && s.released w then
      (s.modRing r (fun q => { q with wait := none })).runOp r (opOf c.w) (semEndWait w) else s := by
  unfold State.endWait
  rw [h]
  simp only [hready, hat, Bool.not_true, Bool.false_or]
  cases s.waitDone (s.ring r) w <;> cases s.released w <;> rfl

theorem State.ringReady_wait (s : State) (r : RingId) (w : Option Wait) :
    (s.modRing r (fun q => { q with wait := w })).ringReady r = s.ringReady r := by
  unfold State.ringReady
  rw [State.ring_modRing]
  rfl

theorem OnlyRing.of_modRing {s t : State} {r : RingId} {f : RingSt → RingSt} {q : RingSt}
    (h : OnlyRing (s.modRing r f) t r q) : OnlyRing s t r q := by
  rw [OnlyRing, State.modRing, upd_upd] at h
  exact h

theorem State.setPred_val (s : State) (r : RingId) (i : Fin 4) (b : Bool) :
    s.setPred r i.val b = s.modRing r (fun q => { q with p := upd q.p i (fun _ => b) }) := by
  rw [State.setPred, fin?, dif_pos i.isLt]

theorem RingSt.past_wait (q : RingSt) (buf : Packet → List (Option Word)) (words cost : Nat) :
    { q with wait := none }.past buf words cost = { q.past buf words cost with wait := none } := by
  rw [← RingSt.packetDone_paid, ← RingSt.packetDone_paid, ← RingSt.packetDone_wait]
  rfl

theorem kept_wait (s : State) (r : RingId) : kept (s.modRing r (fun q => { q with wait := none })) r = kept s r := by
  unfold kept
  rw [State.ring_modRing]
  rfl

/-- Settles O25: the WAITB ends by `semEndWait`, on the ring without its wait. -/
theorem waitbEnds : Obligations.WaitbEnds := by
  unfold Obligations.WaitbEnds
  intro s r c pt b pred hwait hst hb
  obtain ⟨s1, hs1⟩ : ∃ x, x = s.modRing r (fun q => { q with wait := none }) := ⟨_, rfl⟩
  have hst : Stands s1 r 0x30 c := by
    rw [hs1]
    exact hst
  obtain ⟨⟨ws, hat⟩, hop⟩ := id hst
  have hready : s.ringReady r = true :=
    (s.ringReady_wait r none).symm.trans (hs1 ▸ (State.atPc_op hat).2.2.2.2.2.2.1)
  have hend := State.endWait_eq hwait hready (hs1 ▸ hat)
  have hrun : s.runWait r 0x30 semWaitb waitOf = s.endWait r := by
    unfold State.runWait
    rw [hwait]
  have hgo := letGo_iff s pt b pred
  rw [State.waitDone_bell, ← hs1, hop] at hend
  refine ⟨fun hn => ?_, fun hl => ?_⟩
  · refine congrArg Host.Outcome.next (hrun.trans (hend.trans (if_neg ?_)))
    rw [Bool.and_eq_true]
    exact fun h => hn (hgo.mpr h)
  · rw [if_pos (by rw [Bool.and_eq_true]; exact hgo.mp hl)] at hend
    have hret : Retires s1 r 0x30 (semEndWait (.bell pt b pred)) c :=
      hst.retires (semEndWait_decode _ _ _ hop) rfl rfl rfl (by rw [hs1, State.ring_modRing]; exact hb)
    refine ⟨_, congrArg Host.Outcome.next (hrun.trans hend), ?_⟩
    have honly := hret.onlyRing (q := { (s.ring r).past (kept s r) (opWords c.w) 1 with
        wait := none
        p := upd (s.ring r).p pred (fun _ => true) }) (fun q => { q with p := upd q.p pred (fun _ => true) })
      (fun x _ => ?_) ?_
    · subst hs1
      exact honly.of_modRing
    · change (x.setPred c.ring pred.val true).noGal = _
      rw [hst.ring_eq, State.setPred_val, State.modRing_noGal]
    · rw [RingSt.packetDone_p, RingSt.packetDone_paid, hs1, kept_wait, State.ring_modRing, RingSt.past_wait]
      rfl

theorem State.commitBell_eq (s : State) : s.commitBell =
    if Passed s .announce (s.bell.bellno.toNat + 1) then s.bell.bellno.toNat + 2 else s.bell.bellno.toNat + 1 := by
  rw [State.commitBell, State.nextPoint]
  exact ite_congr (propext (s.passed_iff .announce _)) (fun _ => rfl) (fun _ => rfl)

theorem fenceOf_eq (c : OpCtx) (s : State) : fenceOf c s = .fence (fld c.w 22 2)
    (if (s.ten c.ten).commit = none then (s.ten c.ten).frozenBell
      else if Passed s .announce (s.bell.bellno.toNat + 1) then s.bell.bellno.toNat + 2
      else s.bell.bellno.toNat + 1) := by
  rw [← s.commitBell_eq, fenceOf]
  cases (s.ten c.ten).commit <;> rfl

theorem fenceDone_iff (s : State) (q : RingSt) (b : Nat) {scope : Nat} (h : scope < 4) :
    s.waitDone q (.fence scope b) = true ↔ scope = 0 ∨ (scope = 1 ∧ Passed s .announce b) ∨
      (scope = 2 ∧ Passed s .fire b) ∨ (scope = 3 ∧ q.ats = []) := by
  match scope, h with
  | 0, _ => simp [State.waitDone]
  | 1, _ => simpa [State.waitDone] using s.passed_iff .announce b
  | 2, _ => simpa [State.waitDone] using s.passed_iff .fire b
  | 3, _ => simp [State.waitDone]

/-- Settles O26: the FENCE's wait has ended when its scope's point has passed. -/
theorem fenceWaits : Obligations.FenceWaits := by
  unfold Obligations.FenceWaits
  intro s r c h b scope open'
  have hw : opWords c.w = 1 := by simp [opWords, h.1.2]
  have hlt : scope < 4 := fld_lt c.w 22 2
  have hb : fenceOf c s = .fence scope b := fenceOf_eq c s
  have hdone : s.waitDone (s.ring r) (.fence scope b) = true ↔ open' := fenceDone_iff s (s.ring r) b hlt
  have hrun := h.runWait_eq fenceOf
  rw [hb] at hrun
  refine ⟨fun ho => ⟨_, congrArg Host.Outcome.next (hrun.trans (if_pos (hdone.mpr ho))), ?_⟩,
    fun ho => congrArg Host.Outcome.next (hrun.trans (if_neg (mt hdone.mp ho)))⟩
  refine h.onlyRing id (fun x _ => (x.noGal.modRing_id r).symm) ?_
  rw [id, RingSt.packetDone_paid, hw]
  rfl

/-! ### Actions (O27) -/

theorem atTarget_eq (c : OpCtx) (s : State) :
    atTarget c s = if c.w.getLsbD 22 then bellOf c else s.bell.bellno.toNat + fld c.w 0 16 := by
  rw [atTarget, bit_eq_getLsbD, bellOf_eq]
  rfl

theorem atWords_eq (c : OpCtx) : atWords c = if c.w.getLsbD 22 then c.acts.drop 2 else c.acts := by
  rw [atWords, bit_eq_getLsbD]

/-- An AT that is not late and strict queues its action. -/
theorem Retires.at_queues {s : State} {r : RingId} {c : OpCtx} (h : Retires s r 0x31 semAt c)
    (hm : atMissed c s = false) :
    OnlyRing s (s.runOp r 0x31 semAt) r { (s.ring r).past (kept s r) (opWords c.w) (2 + fld c.w 16 6) with
      ats := (s.ring r).ats ++ [AtAct.mk (atTarget c s) (s.latchFor (atTarget c s)) (c.w.getLsbD 23) c.seq (atWords c)
        c.g] } := by
  refine h.onlyRing (fun q => { q with ats := q.ats ++ [AtAct.mk (atTarget c s) (s.latchFor (atTarget c s))
    (c.w.getLsbD 23) c.seq (atWords c) c.g] }) (fun x hx => ?_) ?_
  · have hbell : x.bell = s.bell := (congrArg State.bell hx :)
    have hpass : ∀ b, x.passed .latch b = s.passed .latch b := fun b => Passed.congr hbell
    have hbn : x.bn = s.bn := congrArg (fun b => b.bellno.toNat) hbell
    have htarget : atTarget c x = atTarget c s := by rw [atTarget, atTarget, hbn]
    have hlatch : x.latchFor (atTarget c s) = s.latchFor (atTarget c s) := by
      rw [State.latchFor, State.latchFor, State.nextPoint, State.nextPoint, hpass, hpass, hbn]
    have hm' : atMissed c x = false := by rw [atMissed, htarget, hpass]; exact hm
    simp only [semAt, htarget, hlatch, hm', Bool.false_eq_true, if_false, bit_eq_getLsbD, h.1.ring_eq,
      State.modRing_noGal]
  · rw [RingSt.packetDone_ats, RingSt.packetDone_paid]
    rfl

/-- A late AT with STRICT tells of it and queues nothing. -/
theorem Retires.at_missed {s : State} {r : RingId} {c : OpCtx} (h : Retires s r 0x31 semAt c)
    (hm : atMissed c s = true) : (s.runOp r 0x31 semAt).rings = upd s.rings r (fun q =>
      q.past (kept s r) (opWords c.w) (2 + fld c.w 16 6)) := by
  have hx := h.1.paid_noGal (opWords c.w) (semAt.cost c)
  rw [h.runOp_eq]
  generalize s.paid r c (opWords c.w) (semAt.cost c) = x at hx
  have hbell : x.bell = s.bell := (congrArg State.bell hx :)
  have hbn : x.bn = s.bn := congrArg (fun b => b.bellno.toNat) hbell
  have htarget : atTarget c x = atTarget c s := by rw [atTarget, atTarget, hbn]
  have hm' : atMissed c x = true := by rw [atMissed, htarget, Passed.congr hbell]; exact hm
  have hposts : Posts x (semAt.run c x) := by
    simp only [semAt, hm', if_true]
    exact State.post_posts _ _ _ _ _ (State.tally_posts _ _ _ _ (Posts.refl _))
  have hrings : (semAt.run c x).rings = x.rings := (congrArg State.rings hposts.rest :)
  have hend : ((semAt.run c x).packetEnd r).rings = upd (semAt.run c x).rings r RingSt.packetDone :=
    (congrArg State.rings (State.packetEnd_noGal (semAt.run c x) r) :)
  have hpaid : x.rings = upd s.rings r (fun q => q.paid (kept s r) (opWords c.w) (semAt.cost c)) :=
    (congrArg State.rings hx :)
  rw [hend, hrings, hpaid, upd_upd]
  exact congrArg _ (funext fun q => q.packetDone_paid _ _ _)

/-- Settles O27: the target's point decides when the action runs, STRICT whether a late one does. -/
theorem atQueuesItsAction : Obligations.AtQueuesItsAction := by
  unfold Obligations.AtQueuesItsAction
  intro s r c h target words
  have ht : atTarget c s = target := atTarget_eq c s
  have hws : atWords c = words := atWords_eq c
  have hmiss : atMissed c s = (c.w.getLsbD 23 && s.passed .latch target) := by
    rw [atMissed, bit_eq_getLsbD, ht]
  have hq := h.at_queues
  rw [ht, hws] at hq
  refine ⟨fun hp => ⟨_, rfl, ?_⟩, fun hp hstrict => ?_, fun hp hstrict => ⟨_, rfl, ?_⟩⟩
  · have hp' : s.passed .latch target = false := (s.passed_eq_false .latch target).mpr hp
    have hlatch : s.latchFor target = target := by rw [State.latchFor, hp', if_neg Bool.false_ne_true]
    rw [hlatch] at hq
    exact hq (by rw [hmiss, hp', Bool.and_false])
  · have hp' : s.passed .latch target = true := (s.passed_iff .latch target).mpr hp
    obtain ⟨hnot, hprev, -⟩ := s.nextPoint_spec .latch
    have hlatch : s.latchFor target = s.nextPoint .latch := by rw [State.latchFor, hp', if_pos rfl]
    rw [hlatch, hstrict] at hq
    exact ⟨_, _, rfl, hnot, hprev, hq (by rw [hmiss, hstrict, Bool.false_and])⟩
  · have hp' : s.passed .latch target = true := (s.passed_iff .latch target).mpr hp
    exact h.at_missed (by rw [hmiss, hstrict, hp']; rfl)

end Sys2Proof.Machine

/-!
PROOFS. Register writes (00_scope R21, R22; 03_tenants_rings R116 to R121; 20_host_ports R640, R645): what a write of a
word of the tenant's own window is, through its port or by the command of the register, and O28, O29, O33, O34 and O36.
-/

namespace Sys2Proof.Machine

/-! ### The access and the window -/

/-- An awake port writes its register on the state in which the access has restarted the session's idle time (R505). -/
theorem exec_registerWrite {s : State} {p : HostPort} {t : Ten} {addr : Nat} (hon : s.portsOn = true)
    (haw : s.asleep = false) (hp : s.portTen p = some t) (ha : addr < 0x5000) (be : BitVec 4) (v : Word) :
    exec (.registerWrite p addr be v) s =
      .next ((s.touch t).regWrite (some t) addr (be == 0xF#4 && addr % 4 = 0) v) := by
  have hexec : exec (.registerWrite p addr be v) s = execRegisterWrite p addr be v s := rfl
  rw [hexec]
  cases p with
  | pf n =>
    have hpf : s.pfTen n = some t := hp
    have hpf' : (s.touch t).pfTen n = some t := hp
    simp only [execRegisterWrite, hon, haw, hpf, Bool.not_true, Bool.false_eq_true, if_false, Option.elim_some,
      State.bar0Write, ha, if_true, hpf']
  | _ =>
    simp only [execRegisterWrite, hon, haw, hp, Bool.not_true, Bool.not_false, Bool.false_eq_true, if_false, if_true,
      Option.elim_some]

/-- A write of a word of the tenant's own window. -/
theorem State.regWrite_window {s : State} {t : Ten} {off : Nat} (hd : s.dead = false) (hoff : off < 4096) (v : Word) :
    s.regWrite (some t) (winAt t off) true v = s.winWrite t off v := by
  have hpage : winAt t off / 4096 = t.val + 1 := by unfold winAt; omega
  have hmod : winAt t off % 4096 = off := by unfold winAt; omega
  simp only [State.regWrite, hpage, hmod, hd, Nat.succ_ne_zero, if_false, if_true, Bool.not_true, Bool.false_eq_true,
    Bool.false_and]

theorem exec_windowWrite {s : State} {p : HostPort} {t : Ten} {off : Nat} (ho : OpenAt s p t) (hoff : off < 4096)
    (h4 : off % 4 = 0) (v : Word) :
    exec (.registerWrite p (winAt t off) 0xF#4 v) s = .next ((s.touch t).winWrite t off v) := by
  obtain ⟨⟨hon, haw, -, hd⟩, hp⟩ := ho
  have haddr : winAt t off < 0x5000 := by unfold winAt; omega
  have hwhole : ((0xF#4 == 0xF#4) && decide (winAt t off % 4 = 0)) = true := by
    have h0 : winAt t off % 4 = 0 := by unfold winAt; omega
    simp [h0]
  rw [exec_registerWrite hon haw hp haddr, hwhole, State.regWrite_window (s := s.touch t) hd hoff]

/-- A register of the tenant's own window that a command writes. -/
theorem State.ownWrite_eq {s : State} {t : Ten} {off : Nat} (ho : Opened s t) (hoff : off < 4096) (v : Word) :
    s.ownWrite t off v = (s.touch t).winWrite t off v := by
  obtain ⟨hon, haw, hb, hd⟩ := ho
  have hreach : s.reached t = true := by simp [State.reached, hb, hd]
  have haddr : 4096 * (t.val + 1) + off = winAt t off := rfl
  simp only [State.ownWrite, hon, haw, hreach, Bool.not_true, Bool.or_self, Bool.false_eq_true, if_false, haddr]
  rw [State.regWrite_window (s := s.touch t) hd hoff]

/-! ### Foreign windows (O28) -/

theorem Same.gfix (s : State) (i n : Nat) : Same s (s.gfix i n) := Same.of_noGal (State.gfix_noGal s i n)

/-- A write that is not of a whole word of the port's own window is dropped, and counted at most. -/
theorem State.regWrite_foreign {s : State} {t : Ten} {addr : Nat} {whole : Bool} (ha : addr < 0x5000)
    (h : addr / 4096 ≠ t.val + 1 ∨ whole = false) (v : Word) : Same s (s.regWrite (some t) addr whole v) := by
  have hpage : addr / 4096 ≤ 4 := by omega
  simp only [State.regWrite, State.discardWrite]
  split
  · cases whole
    · exact Same.gfix ..
    · rfl
  · split
    · rename_i _ hown
      rw [h.resolve_left (not_not_intro hown)]
      exact Same.gfix ..
    · exact Same.gfix ..

/-- Settles O28: `regWrite` drops what is not of a whole word of the own window. -/
theorem foreignWindowsAreInert : Obligations.ForeignWindowsAreInert := by
  unfold Obligations.ForeignWindowsAreInert
  intro s p t addr be v hon haw hp ha h
  refine ⟨_, exec_registerWrite hon haw hp ha be v, State.regWrite_foreign ha ?_ v⟩
  rcases h with h | h | h
  · exact .inl h
  · exact .inr (by simp [h])
  · exact .inr (by simp [h])

/-! ### Words of the own window (O29) -/

theorem State.winWrite_even (s : State) (t : Ten) (c : Chap) (v : Word) :
    s.winWrite t (0x310 + 4 * c.val) v = s.modChap c (fun q => { q with
      even := upd q.even t (fun _ => v &&& 0xE0000FFF#32) }) := by
  match c with
  | 0 | 1 | 2 | 3 => rfl

/-- Settles O29: each offset names its word of the window. -/
theorem windowWrites : Obligations.WindowWrites := by
  unfold Obligations.WindowWrites
  intro s p t v ho w s1
  refine ⟨?_, ?_, fun c => ?_, ?_, ?_⟩
  · exact (exec_windowWrite ho (by decide) (by decide) v).trans (by simp [State.winWrite, bit_eq_getLsbD, s1])
  · exact (exec_windowWrite ho (by decide) (by decide) v).trans (by simp [State.winWrite, bit_eq_getLsbD, s1])
  · exact (exec_windowWrite ho (by omega) (by omega) v).trans (by rw [State.winWrite_even])
  · exact (exec_windowWrite ho (by decide) (by decide) v).trans (by simp [State.winWrite, s1])
  · exact (exec_windowWrite ho (by decide) (by decide) v).trans (by simp [State.winWrite, s1])

/-! ### Doorbells (O33, O34) -/

theorem fld_mkWord_doorbell {op idx : Nat} (hop : op < 4) (hidx : idx < 2 ^ 20) :
    fld (doorbellWord op idx) 30 2 = op ∧ fld (doorbellWord op idx) 0 20 = idx ∧
      doorbellWord op idx = w32 (2 ^ 30 * op + idx) := by
  have hsum : (0 + op % 2 ^ 2 * 2 ^ 30 + idx % 2 ^ 20 * 2 ^ 0) = 2 ^ 30 * op + idx := by omega
  have hw : doorbellWord op idx = w32 (2 ^ 30 * op + idx) := by
    simp only [doorbellWord, mkWord, List.foldl_cons, List.foldl_nil, hsum]
    rfl
  rw [hw]
  refine ⟨?_, ?_, rfl⟩ <;> simp only [fld, w32, BitVec.toNat_ofNat] <;> omega

/-- A doorbell word is a write of its ring's word, with its code and its index. -/
theorem State.winWrite_doorbell (s : State) (t : Ten) (r : RingId) {op idx : Nat} (hop : op < 4) (hidx : idx < 2 ^ 20) :
    s.winWrite t (0x100 + 4 * r.val) (doorbellWord op idx) = s.doorbell t r op idx := by
  obtain ⟨hcode, hindex, -⟩ := fld_mkWord_doorbell hop hidx
  have hr := r.isLt
  have hk : (0x100 + 4 * r.val) / 4 % 1024 = 0x40 + r.val := by omega
  have hfin : fin? 16 (0x40 + r.val - 0x40) = some r := by
    rw [Nat.add_sub_cancel_left, fin?, dif_pos r.isLt]
  have hin : (decide (0x40 ≤ 0x40 + r.val) && decide (0x40 + r.val < 0x50)) = true := by simp; omega
  have h2 : ¬ 0x40 + r.val = 2 := by omega
  have h3 : ¬ 0x40 + r.val = 3 := by omega
  simp only [State.winWrite, hk, hfin, hin, h2, h3, if_true, if_false, hcode, hindex]

/-- What the three doorbell commands do on an open port, but for the idle time: the doorbell's access. -/
theorem ownWrite_doorbell {s : State} {t : Ten} (ho : Opened s t) (r : RingId) {op idx : Nat} (hop : op < 4)
    (hidx : idx < 2 ^ 20) :
    s.ownWrite t (0x100 + 4 * r.val) (doorbellWord op idx) = (s.touch t).doorbell t r op idx := by
  have hr := r.isLt
  rw [State.ownWrite_eq ho (by omega), State.winWrite_doorbell _ _ _ hop hidx]

theorem State.doorbell_refused {s : State} {t : Ten} {r : RingId} {op idx why : Nat} (ho : (s.ring r).owner = some t)
    (h : s.doorbellReason t r op idx = some why) :
    s.doorbell t r op idx = s.post t 0x0015 r.val none [w32 r.val, w32 op, w32 why] := by
  simp only [State.doorbell, ho, h, bne_self_eq_false, Bool.false_eq_true, if_false]

theorem State.doorbell_taken {s : State} {t : Ten} {r : RingId} {op idx : Nat} (ho : (s.ring r).owner = some t)
    (h : s.doorbellReason t r op idx = none) : s.doorbell t r op idx = s.doorbellTake r op idx := by
  simp only [State.doorbell, ho, h, bne_self_eq_false, Bool.false_eq_true, if_false]

/-- An access leaves every requester's session open or closed. -/
theorem State.inSession_touch (s : State) (t : Ten) (q : Fin 5) : (s.touch t).inSession q = s.inSession q := by
  unfold State.inSession State.touch State.modClo
  by_cases h : q = tenReq t
  · subst h
    rw [at_upd]
    cases (at' s.cloister.reqs (tenReq t)).session <;> rfl
  · rw [at_upd_ne _ _ _ _ h]

theorem State.needsSession_touch (s : State) (t u : Ten) : (s.touch t).needsSession u = s.needsSession u := by
  unfold State.needsSession
  rw [State.inSession_touch]
  rfl

theorem State.doorbellReason_touch (s : State) (t u : Ten) (r : RingId) (op idx : Nat) :
    (s.touch t).doorbellReason u r op idx = s.doorbellReason u r op idx := by
  unfold State.doorbellReason
  rw [State.needsSession_touch]
  rfl

theorem State.sparesFree_eq (s : State) : s.sparesFree = freeSpares s := by
  refine List.filter_congr fun l _ => ?_
  rw [State.sparesHeld, Bool.not_inj_iff, Bool.eq_iff_iff]
  simp [-Vector.any_toList]

/-- What refuses a doorbell, in the order of R119. -/
theorem State.doorbellReason_faulted {s : State} {t : Ten} (h : (s.ten t).faulted = true) (r : RingId) (op idx : Nat) :
    s.doorbellReason t r op idx = some 6 := by
  simp only [State.doorbellReason, h, Bool.true_or, if_true]

section
variable {s : State} {t : Ten} (hf : (s.ten t).faulted = false) (hr : (s.ten t).resetAt = none)
  (hn : s.needsSession t = false)
include hf hr hn

theorem State.doorbellReason_running {op : Nat} (hop : op ≠ 3) (r : RingId) (idx : Nat) :
    s.doorbellReason t r op idx =
      if (s.ring r).words ≤ idx then some 4
      else if op != 0 && (s.ring r).state != .fault then some 1
      else if op = 1 && (s.ring r).cause = fLECTERN then some 3
      else if op = 2 && s.sparesFree.isEmpty then some 2
      else none := by
  simp only [State.doorbellReason, Tenant.resetting, hf, hr, hn, hop, Option.isSome_none, Bool.or_self,
    Bool.false_eq_true, if_false]

end

/-- An accepted doorbell writes its word, and moves its ring as its code asks. -/
theorem State.doorbellTake_noGal (s : State) (r : RingId) {op idx : Nat} (hop : op < 4) (hidx : idx < 2 ^ 20) :
    (s.doorbellTake r op idx).noGal = (s.modRing r (fun q =>
      if op = 0 then { q with doorbell := w32 (2 ^ 30 * op + idx), prod := idx }
      else if op = 1 then { q with doorbell := w32 (2 ^ 30 * op + idx), pend := some (false, idx, s.bn + 1) }
      else { q with
        doorbell := w32 (2 ^ 30 * op + idx), state := .rebindPend, pend := some (true, idx, s.bn + 1)
        spare := s.sparesFree.min? })).noGal := by
  rw [← (fld_mkWord_doorbell hop hidx).2.2, State.doorbellTake]
  split
  · simp only [State.modRing_noGal, State.tally_noGal, State.modRing_modRing, doorbellWord]
  · split <;> simp only [State.modRing_noGal, State.tally_noGal, State.modRing_modRing, doorbellWord]

/-- Settles O33: nothing refuses the doorbell, and it is taken. -/
theorem doorbellsTaken : Obligations.DoorbellsTaken := by
  unfold Obligations.DoorbellsTaken
  intro s t r idx ho howner hf hr hn hidx hidx'
  have hwords : ¬ (s.ring r).words ≤ idx := Nat.not_le.mpr hidx
  have htake : ∀ op, op < 3 → s.doorbellReason t r op idx = none →
      s.ownWrite t (0x100 + 4 * r.val) (doorbellWord op idx) = (s.touch t).doorbellTake r op idx := fun op hop h => by
    rw [ownWrite_doorbell ho r (by omega) hidx']
    exact State.doorbell_taken howner ((s.doorbellReason_touch t t r op idx).trans h)
  refine ⟨⟨_, congrArg Host.Outcome.next (htake 0 (by decide) ?_), .of_noGal ?_⟩, fun hst hc =>
    ⟨_, congrArg Host.Outcome.next (htake 1 (by decide) ?_), .of_noGal ?_⟩, fun l hst hl =>
    ⟨_, congrArg Host.Outcome.next (htake 2 (by decide) ?_), .of_noGal ?_⟩⟩
  · rw [State.doorbellReason_running hf hr hn (by decide)]
    simp [hwords]
  · exact (State.doorbellTake_noGal _ r (by decide) hidx').trans (by simp)
  · rw [State.doorbellReason_running hf hr hn (by decide)]
    simp [hwords, hst, hc, fLECTERN]
  · exact (State.doorbellTake_noGal _ r (by decide) hidx').trans rfl
  · rw [State.doorbellReason_running hf hr hn (by decide)]
    have hne : s.sparesFree.isEmpty = false := by
      rw [s.sparesFree_eq]
      cases hfree : freeSpares s <;> simp_all
    simp [hwords, hst, hne]
  · refine (State.doorbellTake_noGal _ r (by decide) hidx').trans ?_
    have hspare : (s.touch t).sparesFree.min? = some l := (congrArg List.min? s.sparesFree_eq).trans hl
    rw [hspare]
    rfl

/-- Settles O34: the first reason that applies, in the order of R119. -/
theorem doorbellsRefused : Obligations.DoorbellsRefused := by
  unfold Obligations.DoorbellsRefused
  intro s t r idx ho howner hidx refused
  have hrefuse : ∀ op why, op < 3 → s.doorbellReason t r op idx = some why →
      Host.Outcome.next (s.ownWrite t (0x100 + 4 * r.val) (doorbellWord op idx)) = refused op why := fun op why hop h => by
    rw [ownWrite_doorbell ho r (by omega) hidx]
    exact congrArg Host.Outcome.next
      (State.doorbell_refused howner ((s.doorbellReason_touch t t r op idx).trans h))
  refine ⟨fun hf => hrefuse 0 6 (by decide) (State.doorbellReason_faulted hf r 0 idx), fun hf hr hn => ⟨fun hidx => ?_,
    fun hidx => ⟨fun hst => ⟨?_, ?_⟩, fun hst hc => ?_, fun hst hs => ?_⟩⟩⟩
  · refine hrefuse 0 4 (by decide) ?_
    rw [State.doorbellReason_running hf hr hn (by decide)]
    exact if_pos hidx
  all_goals have hwords : ¬ (s.ring r).words ≤ idx := Nat.not_le.mpr hidx
  · refine hrefuse 1 1 (by decide) ?_
    rw [State.doorbellReason_running hf hr hn (by decide)]
    simp [hwords, hst]
  · refine hrefuse 2 1 (by decide) ?_
    rw [State.doorbellReason_running hf hr hn (by decide)]
    simp [hwords, hst]
  · refine hrefuse 1 3 (by decide) ?_
    rw [State.doorbellReason_running hf hr hn (by decide)]
    simp [hwords, hst, hc, fLECTERN]
  · refine hrefuse 2 2 (by decide) ?_
    rw [State.doorbellReason_running hf hr hn (by decide)]
    simp [hwords, hst, s.sparesFree_eq, hs]

/-! ### TENANT_RESET, TEN_KICK and EVQ_RD (O36) -/

/-- Telling a port's host changes no tenant. -/
theorem State.notify_tens (s : State) (t : Ten) (v : Fin 2) : (s.notify t v).tens = s.tens := by
  have htally : (s.tally 11 (s.ten t).cfg.port.code 2 1).tens = s.tens := (congrArg State.tens (State.tally_noGal ..) :)
  unfold State.notify
  dsimp only
  split
  · exact htally
  · exact htally
  · exact htally
  · unfold State.modPort
    split <;> exact htally

/-- An EVQ_RD write, and what tells the port's host of it, change no tenant's state but the index. -/
theorem State.evqRdWrite_tens {s : State} {t : Ten} {v : Word} (hb : (s.ten t).cfg.bound = true)
    (hn : fld v 0 12 < (s.ten t).cfg.evqCap)
    (hr : (fld v 0 12 + (s.ten t).cfg.evqCap - (s.ten t).evq.rd) % (s.ten t).cfg.evqCap ≤
      ((s.ten t).evq.wr + (s.ten t).cfg.evqCap - (s.ten t).evq.rd) % (s.ten t).cfg.evqCap) :
    (s.evqRdWrite t v).tens = upd s.tens t (fun q => { q with evq := { q.evq with rd := fld v 0 12 } }) := by
  have hgo : ((s.ten t).cfg.bound && decide (fld v 0 12 < (s.ten t).cfg.evqCap) &&
      decide ((fld v 0 12 + (s.ten t).cfg.evqCap - (s.ten t).evq.rd) % (s.ten t).cfg.evqCap ≤
        ((s.ten t).evq.wr + (s.ten t).cfg.evqCap - (s.ten t).evq.rd) % (s.ten t).cfg.evqCap)) = true := by
    simp [hb, hn, hr]
  rw [State.evqRdWrite]
  simp only [hgo, if_true]
  split
  · rw [State.notify_tens]
    rfl
  · rfl

theorem State.evqRdWrite_out {s : State} {t : Ten} {v : Word}
    (h : (s.ten t).cfg.evqCap ≤ fld v 0 12 ∨
      ((s.ten t).evq.wr + (s.ten t).cfg.evqCap - (s.ten t).evq.rd) % (s.ten t).cfg.evqCap <
        (fld v 0 12 + (s.ten t).cfg.evqCap - (s.ten t).evq.rd) % (s.ten t).cfg.evqCap) :
    s.evqRdWrite t v = s := by
  rw [State.evqRdWrite]
  refine if_neg ?_
  rw [Bool.and_eq_true, Bool.and_eq_true, decide_eq_true_iff, decide_eq_true_iff]
  omega

/-- A TENANT_RESET write requests one reset, where none is requested. -/
theorem State.resetReq_eq {s : State} {t : Ten} (hb : (s.ten t).cfg.bound = true) (v : Word) :
    s.resetReq t v = if v.getLsbD 0 = true ∧ (s.ten t).resetAt = none then
      s.modTen t (fun q => { q with resetAt := some (s.bell.bellno.toNat + (if s.bell.ann = none then 1 else 2)) })
    else s := by
  have hann : (if s.bell.ann.isSome = true then 2 else 1) = if s.bell.ann = none then 1 else 2 := by
    cases s.bell.ann <;> rfl
  rw [State.resetReq, hann]
  refine ite_congr (propext ?_) (fun _ => rfl) (fun _ => rfl)
  rw [Bool.and_eq_true, Bool.and_eq_true, bit_eq_getLsbD, Option.isNone_iff_eq_none]
  simp only [hb, and_true]

/-- A TEN_KICK write restarts a watchdog period that runs. -/
theorem State.kick_eq {s : State} {t : Ten} (hb : (s.ten t).cfg.bound = true) (v : Word) :
    s.kick t v = if v.getLsbD 0 = true ∧ (s.ten t).faulted = false ∧ (s.ten t).resetAt = none ∧
        (s.ten t).wdogFrom ≠ none then
      s.modTen t (fun q => { q with wdogFrom := some s.now }) else s := by
  rw [State.kick]
  refine ite_congr (propext ?_) (fun _ => rfl) (fun _ => rfl)
  rw [Bool.and_eq_true, Bool.and_eq_true, Bool.and_eq_true, Bool.and_eq_true, bit_eq_getLsbD,
    Option.isSome_iff_ne_none, Tenant.resetting]
  simp only [hb, and_true, and_assoc, Bool.not_eq_true', Option.isSome_eq_false_iff, Option.isNone_iff_eq_none]

/-- Settles O36: each register's write on the open window. -/
theorem tenantRegisterWrites : Obligations.TenantRegisterWrites := by
  unfold Obligations.TenantRegisterWrites
  intro s t v ho s1 q
  obtain ⟨-, -, hb, -⟩ := id ho
  have hreset : s.ownWrite t 0x008 v = _ := (State.ownWrite_eq ho (by decide) v).trans (State.resetReq_eq (s := s1) hb v)
  have hkick : s.ownWrite t 0x00C v = _ := (State.ownWrite_eq ho (by decide) v).trans (State.kick_eq (s := s1) hb v)
  have hrd : s.ownWrite t 0x20C v = s1.evqRdWrite t v :=
    (State.ownWrite_eq ho (by decide) v).trans (by simp [State.winWrite, s1])
  refine ⟨fun hv hr => congrArg Host.Outcome.next (hreset.trans (if_pos ⟨hv, hr⟩)),
    fun h => congrArg Host.Outcome.next (hreset.trans (if_neg fun hn => ?_)),
    fun hv hf hr hw => congrArg Host.Outcome.next (hkick.trans (if_pos ⟨hv, hf, hr, hw⟩)),
    fun h => congrArg Host.Outcome.next (hkick.trans (if_neg fun hn => ?_)),
    fun hn hle => ⟨_, congrArg Host.Outcome.next hrd, State.evqRdWrite_tens (s := s1) hb hn hle⟩,
    fun h => congrArg Host.Outcome.next (hrd.trans (State.evqRdWrite_out (s := s1) h))⟩
  · obtain ⟨hv, hr⟩ := hn
    rcases h with h | h
    · rw [h] at hv
      cases hv
    · exact h hr
  · obtain ⟨hv, hf, hr, hw⟩ := hn
    rcases h with h | h | h | h
    · exact Bool.false_ne_true (hf.symm.trans h)
    · exact h hr
    · exact hw h
    · rw [h] at hv
      cases hv

end Sys2Proof.Machine

/-!
PROOFS. What takes effect ring by ring or tenant by tenant (03_tenants_rings R114, R118, R122; 20_host_ports R629, R635,
R638, R645 to R649): O35, O38 and O32.
-/

namespace Sys2Proof.Machine

/-! ### A change of one thing among many -/

theorem forEach_holds {α σ : Type} {P : σ → Prop} {f : α → σ → σ} (xs : List α) {s : σ} (hs : P s)
    (h : ∀ x ∈ xs, ∀ s, P s → P (f x s)) : P (forEach xs f s) := by
  unfold forEach
  induction xs generalizing s with
  | nil => exact hs
  | cons x xs ih =>
    exact ih (h x (List.mem_cons_self ..) s hs) fun y hy => h y (List.mem_cons_of_mem _ hy)

/-- What holds up to the turn of `x`, and what its turn brings and the others keep. -/
theorem forEach_at {α σ : Type} {P Q : σ → Prop} {f : α → σ → σ} {xs : List α} {x : α} (hx : x ∈ xs) (hnd : xs.Nodup)
    {s : σ} (hs : P s) (hP : ∀ y, y ≠ x → ∀ s, P s → P (f y s)) (hPQ : ∀ s, P s → Q (f x s))
    (hQ : ∀ y, y ≠ x → ∀ s, Q s → Q (f y s)) : Q (forEach xs f s) := by
  obtain ⟨a, b, rfl⟩ := List.append_of_mem hx
  have hnd' := List.nodup_append.mp hnd
  have ha : ∀ y ∈ a, y ≠ x := fun y hy => hnd'.2.2 y hy x (List.mem_cons_self ..)
  have hb : ∀ y ∈ b, y ≠ x := fun y hy h => (List.nodup_cons.mp hnd'.2.1).1 (h ▸ hy)
  have hsplit : forEach (a ++ x :: b) f s = forEach b f (f x (forEach a f s)) := by
    simp only [forEach, List.foldl_append, List.foldl_cons]
  rw [hsplit]
  exact forEach_holds b (hPQ _ (forEach_holds a hs fun y hy => hP y (ha y hy))) fun y hy => hQ y (hb y hy)

theorem mem_allFin {n : Nat} (i : Fin n) : i ∈ allFin n := List.mem_finRange i
theorem nodup_allFin (n : Nat) : (allFin n).Nodup := List.nodup_finRange n

/-! ### RESTART and REBIND (O35) -/

/-- What a RESTART leaves of its ring. -/
def RingSt.restartedAt (q : RingSt) (idx : Nat) : RingSt :=
  { q with state := .run, cause := 0, rd := idx, prod := idx, lastSeq := none, pkt := none, pc := 0, pend := none }

/-- What a REBIND leaves of its ring, at the Lectern `l`. -/
def RingSt.reboundAt (q : RingSt) (idx l : Nat) : RingSt :=
  { q.restartedAt idx with spare := none, lectern := l, g := Vector.replicate 16 0, p := Vector.replicate 4 false }

theorem State.post_ring (s : State) (t : Ten) (code src : Nat) (seq : Option Word) (p : List Word) (r : RingId) :
    (s.post t code src seq p).ring r = s.ring r :=
  congrArg (at' · r) (congrArg State.rings (State.post_posts t code src seq p (Posts.refl s)).rest :)

theorem State.post_bell (s : State) (t : Ten) (code src : Nat) (seq : Option Word) (p : List Word) :
    (s.post t code src seq p).bell = s.bell :=
  (congrArg State.bell (State.post_posts t code src seq p (Posts.refl s)).rest :)

theorem State.post_spares (s : State) (t : Ten) (code src : Nat) (seq : Option Word) (p : List Word) :
    (s.post t code src seq p).spares = s.spares :=
  (congrArg State.spares (State.post_posts t code src seq p (Posts.refl s)).rest :)

theorem State.ringRestarted_bell (s : State) (r : RingId) : (s.ringRestarted r).bell = s.bell := by
  unfold State.ringRestarted
  dsimp only
  repeat' split
  · rw [State.post_bell]
    rfl
  · rfl
  · rfl

theorem State.ringRestarted_ne (s : State) {r q : RingId} (h : q ≠ r) : (s.ringRestarted r).ring q = s.ring q := by
  unfold State.ringRestarted
  dsimp only
  repeat' split
  · rw [State.post_ring, State.ring_modRing_ne _ _ _ _ h]
  · rfl
  · rfl

theorem State.ringRestarted_self {s : State} {r : RingId} {t : Ten} {idx b : Nat} (ho : (s.ring r).owner = some t)
    (hp : (s.ring r).pend = some (false, idx, b)) (hb : b ≤ s.bell.bellno.toNat) :
    (s.ringRestarted r).ring r = (s.ring r).restartedAt idx := by
  have hb' : b ≤ s.bn := hb
  simp only [State.ringRestarted, ho, hp, hb', if_true]
  rw [State.post_ring, State.ring_modRing]
  rfl

/-- A ring that no REBIND waits for is not rebound. -/
theorem State.rebindDone_none {s : State} {r : RingId} (h : ∀ i b, (s.ring r).pend ≠ some (true, i, b)) :
    s.rebindDone r = s := by
  unfold State.rebindDone
  dsimp only
  split
  · rename_i hp _
    exact absurd hp (h _ _)
  · rfl

theorem State.rebindDone_self {s : State} {r : RingId} {t : Ten} {idx b l : Nat} (ho : (s.ring r).owner = some t)
    (hp : (s.ring r).pend = some (true, idx, b)) (hl : (s.ring r).spare = some l) (hb : b ≤ s.bell.bellno.toNat) :
    (s.rebindDone r).ring r = (s.ring r).reboundAt idx l ∧ (∀ q, q ≠ r → (s.rebindDone r).ring q = s.ring q) ∧
      (s.rebindDone r).spares = s.spares.filter (fun x => x != l) ++
        (if (s.ring r).cause = fLECTERN then [] else [(s.ring r).lectern]) := by
  have hb' : b ≤ s.bn := hb
  simp only [State.rebindDone, ho, hp, hl, hb', if_true]
  refine ⟨?_, fun q hq => ?_, ?_⟩
  · rw [State.post_ring, State.ring_modRing]
    rfl
  · rw [State.post_ring, State.ring_modRing_ne _ _ _ _ hq]
    rfl
  · rw [State.post_spares]
    rfl

/-- Settles O35: the ring's own turn is the one that changes it. -/
theorem restartAndRebind : Obligations.RestartAndRebind := by
  unfold Obligations.RestartAndRebind
  intro s t r idx b ho hb
  refine ⟨fun hp => ⟨_, rfl, ?_⟩, fun l hp hl hother => ⟨_, rfl, ?_⟩⟩
  · exact forEach_at (P := fun s' : State => s'.ring r = s.ring r ∧ s'.bell = s.bell)
      (Q := fun s' : State => s'.ring r = (s.ring r).restartedAt idx) (mem_allFin r) (nodup_allFin 16) ⟨rfl, rfl⟩
      (fun q hq s' ⟨hr, hbell⟩ => ⟨(s'.ringRestarted_ne hq.symm).trans hr, (s'.ringRestarted_bell q).trans hbell⟩)
      (fun s' ⟨hr, hbell⟩ => (State.ringRestarted_self (hr ▸ ho) (hr ▸ hp) (hbell ▸ hb)).trans (by rw [hr]))
      (fun q hq s' h => (s'.ringRestarted_ne hq.symm).trans h)
  · obtain ⟨hring, hne, hspares⟩ := State.rebindDone_self ho hp hl hb
    have hstate : forEach (allFin 16) (fun r s => State.rebindDone s r) s = s.rebindDone r :=
      forEach_at (P := fun s' => s' = s) (Q := fun s' => s' = s.rebindDone r) (mem_allFin r) (nodup_allFin 16) rfl
        (fun q hq s' h => by rw [h, State.rebindDone_none (hother q hq)])
        (fun s' h => by rw [h])
        (fun q hq s' h => by rw [h]; exact State.rebindDone_none (fun i b' => by rw [hne q hq]; exact hother q hq i b'))
    rw [hstate]
    refine ⟨hring, fun x => ?_⟩
    rw [hspares, List.mem_append, List.mem_filter]
    by_cases hc : (s.ring r).cause = 2 <;> simp [hc, fLECTERN]

/-! ### Links (O38) -/

theorem at_mapTab {α β : Type} {n : Nat} (f : α → β) (v : Vector α n) (i : Fin n) : at' (mapTab f v) i = f (at' v i) := by
  simp [at', mapTab]

/-- Settles O38: what each command writes of the ports. -/
theorem linkState : Obligations.LinkState := by
  unfold Obligations.LinkState
  intro s
  refine ⟨fun n hn => ⟨_, rfl, ?_⟩, ⟨_, rfl, rfl⟩, ⟨_, rfl, rfl, rfl⟩, fun speed width hon hperst => ⟨_, rfl, ?_⟩,
    fun n hoff => ⟨_, rfl, ?_⟩⟩
  · simp only [hn, Bool.false_and, Bool.false_eq_true, if_false, State.modPf, at_upd]
    exact ⟨trivial, rfl⟩
  · simp only [hon, hperst, Bool.not_false, Bool.and_self, if_true]
    exact ⟨trivial, trivial, trivial, fun n => by simp [at_mapTab]⟩
  · simp only [hoff, if_true, at_upd]
    exact ⟨trivial, trivial⟩

/-! ### Mailboxes (O32) -/

/-- The answer to a request that waits stands in its mailbox. -/
theorem State.answer_box {s : State} {t : Ten} {code tok : Nat} {args : List Word} {n : Time} {c : Nat}
    (h : (s.box t).pend = some (c, tok, args, n)) (data : List Word) :
    (s.answer t code data).box t = { s.box t with
      busy := false, ready := true, alen := data.length, token := tok, answer := code, pend := none
      buf := data ++ (s.box t).buf.drop data.length } := by
  unfold State.answer
  rw [h]
  rw [(State.notify_posts t 1 (Posts.refl _)).box, State.box, State.modBox, at_upd]
  rfl

/-- A buffer filled up with zeros holds the same words. -/
theorem getD_padTo (xs : List Word) (n k : Nat) (hn : xs.length ≤ n) : (padTo n 0 xs).getD k 0 = xs.getD k 0 := by
  simp only [padTo, List.getD_eq_getElem?_getD, List.getElem?_take]
  split
  · by_cases hk : k < xs.length
    · rw [List.getElem?_append_left hk]
    · rw [List.getElem?_append_right (by omega), List.getElem?_eq_none (l := xs) (by omega)]
      simp only [List.getElem?_replicate]
      split <;> rfl
  · rw [List.getElem?_eq_none (l := xs) (by omega)]

theorem length_padTo {α : Type} (xs : List α) (n : Nat) (d : α) (hn : xs.length ≤ n) : (padTo n d xs).length = n := by
  simp [padTo]
  omega

/-- Settles O32: each register of the open mailbox, by what its write or read is. -/
theorem mailboxCommands : Obligations.MailboxCommands := by
  unfold Obligations.MailboxCommands
  intro s t v ho b s1
  obtain ⟨hon, haw, hb, hd⟩ := ho
  have hopen : s.boxOpen t = true := by simp [State.boxOpen, State.reached, hon, haw, hb, hd]
  have hcmd : exec (.mbCmd t v) s = .next (s1.mbCmd t v) := congrArg Host.Outcome.next (if_pos hopen)
  have hdone : exec (.mbDone t v) s = .next (s1.mbDone t v) := congrArg Host.Outcome.next (if_pos hopen)
  have hfree : ∀ {x : Bool}, x = false → ∀ {y : Bool}, y = false → (x || y) = false := fun hx _ hy => by rw [hx, hy]; rfl
  refine ⟨fun hbusy hready hcode hsess hlen => hcmd.trans (congrArg Host.Outcome.next ?_), fun h => ⟨_, hcmd, ?_⟩,
    fun hbusy hready hcode hrun => ⟨_, hcmd, ?_⟩, hdone.trans (congrArg Host.Outcome.next ?_), fun hidx => ⟨?_, ?_⟩⟩
  · have hbusy' : ((s1.box t).busy || (s1.box t).ready) = false := hfree hbusy hready
    have hcode' : requestCodes.contains (fld v 16 16) = true := List.contains_iff_mem.mpr hcode
    have hsess' : s1.needsSession t = false := (s.needsSession_touch t t).trans hsess
    have hlen' : decide (1040 < (s1.box t).len) = false := decide_eq_false (Nat.not_lt.mpr hlen)
    simp only [State.mbCmd, hbusy', hcode', hsess', hlen', Bool.not_true, Bool.false_and, Bool.false_eq_true, if_false]
    rfl
  · have hbusy' : ((s1.box t).busy || (s1.box t).ready) = true := by
      rcases h with h | h
      · have h' : (s1.box t).busy = true := h
        rw [h', Bool.true_or]
      · have h' : (s1.box t).ready = true := h
        rw [h', Bool.or_true]
    rw [State.mbCmd]
    simp only [hbusy', if_true]
    exact Same.of_noGal (State.tally_noGal ..)
  · have hbusy' : ((s1.box t).busy || (s1.box t).ready) = false := hfree hbusy hready
    have hcode' : requestCodes.contains (fld v 16 16) = false := by simpa using hcode
    have hrun' : s1.aisleRuns = true := hrun
    simp only [State.mbCmd, hbusy', hcode', hrun', Bool.not_false, Bool.true_and, Bool.false_eq_true, if_false, if_true]
    rw [State.answer_box (by rw [State.box_modBox])]
    exact ⟨rfl, rfl, rfl, rfl⟩
  · rw [State.mbDone, bit_eq_getLsbD]
  · refine ⟨_, congrArg Host.Outcome.next (if_pos hopen), ?_⟩
    have hidx' : (s1.box t).idx < 1040 := hidx
    have hread : s1.boxRead t = (b.buf.getD b.idx 0, s1.modBox t Mailbox.next) := by
      simp only [State.boxRead, hidx', if_true]
      rfl
    rw [hread]
    refine ⟨at_upd _ _ _, ?_⟩
    change ((s1.modBox t Mailbox.next).box t).idx = _
    rw [State.box_modBox]
    rfl
  · refine ⟨_, congrArg Host.Outcome.next (if_pos hopen), ?_⟩
    have hbox : (s1.boxWrite t v).box t =
        { b with buf := (padTo (max b.buf.length (b.idx + 1)) 0 b.buf).set b.idx v }.next := by
      rw [State.boxWrite, State.box_modBox]
      exact congrArg Mailbox.next (if_pos hidx)
    have hlen : b.idx < (padTo (max b.buf.length (b.idx + 1)) (0 : Word) b.buf).length := by
      rw [length_padTo _ _ _ (by omega)]
      omega
    rw [hbox]
    refine ⟨?_, fun k hk => ?_, rfl⟩
    · simp only [Mailbox.next, List.getD_eq_getElem?_getD, List.getElem?_set_self hlen, Option.getD_some]
    · simp only [Mailbox.next, List.getD_eq_getElem?_getD, List.getElem?_set_ne hk.symm]
      rw [← List.getD_eq_getElem?_getD, getD_padTo _ _ _ (by omega), List.getD_eq_getElem?_getD]

end Sys2Proof.Machine

/-!
PROOFS. What faults a tenant from outside (20_host_ports R638, 03_tenants_rings R108, R109, R691): O37.
-/

namespace Sys2Proof.Machine

/-! ### Posting leaves the time of a port's last frame as it was -/

/-- The ports of `t` show their links as those of `z` do: what the link loss table of R638 looks at. -/
def SameLinks (z t : State) : Prop :=
  t.ports.cfg = z.ports.cfg ∧ t.ports.canSt = z.ports.canSt ∧ t.ports.dllUp = z.ports.dllUp ∧
    t.ports.dllDownAt = z.ports.dllDownAt ∧ ∀ p, (t.portSt p).map (·.lastOk) = (z.portSt p).map (·.lastOk)

namespace SameLinks

theorem refl (s : State) : SameLinks s s := ⟨rfl, rfl, rfl, rfl, fun _ => rfl⟩

theorem of_ports {z s t : State} (h : SameLinks z s) (k : t.ports = s.ports) : SameLinks z t := by
  have hp : t.portSt = s.portSt := by
    funext p
    simp only [State.portSt, k]
  unfold SameLinks
  rw [k, hp]
  exact h

end SameLinks

theorem PortSt.note_lastOk (p : PortSt) (now : Time) : (p.note now).lastOk = p.lastOk := by
  unfold PortSt.note
  split
  · rfl
  · split <;> rfl

theorem State.gfix_ports (s : State) (i n : Nat) : (s.gfix i n).ports = s.ports := by
  unfold State.gfix
  split
  · rfl
  · split <;> rfl

theorem State.tally_ports (s : State) (b u e n : Nat) : (s.tally b u e n).ports = s.ports := by
  unfold State.tally
  split <;> rfl

theorem State.trace_ports (s : State) (ty : Nat) (p : List Byte) : (s.trace ty p).ports = s.ports := by
  unfold State.trace
  split
  · rfl
  · dsimp only
    repeat' split
    all_goals rw [State.gfix_ports]

theorem State.traceEvent_ports (s : State) (t : Ten) (b : List Byte) : (s.traceEvent t b).ports = s.ports := by
  unfold State.traceEvent
  split
  · exact s.trace_ports _ _
  · rfl

theorem State.lpWake_ports (s : State) : s.lpWake.ports = s.ports := by
  unfold State.lpWake
  split
  · exact State.tally_ports ..
  · rfl

theorem State.memWrite_ports (s : State) (u : Bool) (a : Nat) (b : List Byte) : (s.memWrite u a b).ports = s.ports := by
  unfold State.memWrite
  split <;> rfl

/-- A change of one of the ports of a kind leaves each of them with the time of its last frame. -/
theorem lastOk_upd {n : Nat} (v : Vector PortSt n) (i k : Fin n) {f : PortSt → PortSt} (hf : ∀ x, (f x).lastOk = x.lastOk) :
    (at' (upd v i f) k).lastOk = (at' v k).lastOk := by
  by_cases h : k = i
  · rw [h, at_upd, hf]
  · rw [at_upd_ne _ _ _ _ h]

/-- A change of a framed port that keeps the time of its last frame. -/
theorem SameLinks.of_modPort {z s : State} (h : SameLinks z s) (p : HostPort) {f : PortSt → PortSt}
    (hf : ∀ x, (f x).lastOk = x.lastOk) : SameLinks z (s.modPort p f) := by
  obtain ⟨h1, h2, h3, h4, h5⟩ := h
  have hports : SameLinks s (s.modPort p f) := by
    cases p <;> refine ⟨rfl, rfl, rfl, rfl, fun k => ?_⟩ <;> cases k <;>
      simp only [State.modPort, State.portSt, Option.map_some, Option.map_none, lastOk_upd _ _ _ hf, hf]
  obtain ⟨k1, k2, k3, k4, k5⟩ := hports
  exact ⟨k1.trans h1, k2.trans h2, k3.trans h3, k4.trans h4, fun k => (k5 k).trans (h5 k)⟩

section
variable {z s : State}

theorem State.notify_sameLinks (t : Ten) (v : Fin 2) (h : SameLinks z s) : SameLinks z (s.notify t v) := by
  have h' : SameLinks z (s.tally 11 (s.ten t).cfg.port.code 2 1) := h.of_ports (State.tally_ports ..)
  unfold State.notify
  dsimp only
  split
  · exact h'
  · exact h'
  · exact h'
  · exact h'.of_modPort _ fun x => x.note_lastOk _

theorem State.evqPut_sameLinks (t : Ten) (b : List Byte) (h : SameLinks z s) : SameLinks z (s.evqPut t b) := by
  have hw : SameLinks z (if (s.ten t).cfg.evqUnder then s else s.lpWake) := by
    split
    · exact h
    · exact h.of_ports s.lpWake_ports
  have hm := hw.of_ports (State.memWrite_ports _ (s.ten t).cfg.evqUnder ((s.ten t).cfg.evqBase + 32 * (s.ten t).evq.wr) b)
  unfold State.evqPut
  dsimp only
  split
  · exact State.notify_sameLinks _ _ hm
  · exact hm

theorem State.evqOverflow_sameLinks (t : Ten) (h : SameLinks z s) : SameLinks z (s.evqOverflow t) := by
  unfold State.evqOverflow
  dsimp only
  split
  · exact (State.evqPut_sameLinks (s := (s.evqSeq t).modTen t _) t _ h).of_ports (State.traceEvent_ports ..)
  · exact h

theorem State.postNow_sameLinks (t : Ten) (code src : Nat) (all : Bool) (cseq : Option Word) (p : List Word)
    (h : SameLinks z s) : SameLinks z (s.postNow t code src all cseq p) := by
  have h' := State.evqOverflow_sameLinks t h
  unfold State.postNow
  dsimp only
  split
  · exact h'
  · split
    · exact h'.of_ports (State.traceEvent_ports ..)
    · exact State.evqPut_sameLinks _ _ (h'.of_ports (State.traceEvent_ports ..))

theorem State.postRaw_sameLinks (t : Ten) (code src : Nat) (all : Bool) (cseq : Option Word) (p : List Word)
    (h : SameLinks z s) : SameLinks z (s.postRaw t code src all cseq p) := by
  unfold State.postRaw
  split
  · exact h
  · exact State.postNow_sameLinks _ _ _ _ _ _ h

theorem State.relAppendView_sameLinks (r : RelRec) (h : SameLinks z s) : SameLinks z (s.relAppendView r) := by
  have htally : ∀ {x : State} {e : Nat}, x.ports = s.ports → SameLinks z (x.tally 10 0 e 1) :=
    fun hx => h.of_ports ((State.tally_ports ..).trans hx)
  unfold State.relAppendView
  dsimp only
  generalize (if s.reliq.onVbak = true then 1105 else 1024) = room
  split
  · exact htally rfl
  split
  · exact htally rfl
  split
  · exact htally rfl
  split
  · exact forEach_holds _ (htally rfl) fun _ _ _ k => State.postRaw_sameLinks _ _ _ _ _ _ k
  · exact htally rfl

theorem State.relAppend_sameLinks (r : RelRec) (h : SameLinks z s) : SameLinks z (s.relAppend r) := by
  unfold State.relAppend
  split
  · exact h
  split
  · split
    · exact h
    · exact h.of_ports (State.tally_ports ..)
  split
  · exact State.relAppendView_sameLinks _ h
  · split <;> exact h

theorem State.post_sameLinks (t : Ten) (code src : Nat) (cseq : Option Word) (p : List Word) (h : SameLinks z s) :
    SameLinks z (s.post t code src cseq p) := by
  have h' := State.postRaw_sameLinks t code src false cseq p h
  unfold State.post State.noticeEv
  split
  · exact State.relAppend_sameLinks _ h'
  · exact h'

theorem State.freezeEndOf_sameLinks (t : Ten) (why : Nat) (h : SameLinks z s) : SameLinks z (s.freezeEndOf t why) := by
  unfold State.freezeEndOf State.freezeEnd
  split
  · split
    · split
      · exact h
      · exact State.post_sameLinks _ _ _ _ _ (State.relAppend_sameLinks _ (forEach_holds _ h fun _ _ _ k =>
          State.relAppend_sameLinks _ k))
    · exact h
  · exact h

theorem State.tenFault_sameLinks (t : Ten) (cause ring : Nat) (h : SameLinks z s) : SameLinks z (s.tenFault t cause ring) := by
  unfold State.tenFault
  dsimp only
  split
  · exact h
  · exact State.freezeEndOf_sameLinks _ _ (State.post_sameLinks _ _ _ _ _ h)

end

/-! ### Links -/

/-- A link that is gone stays gone while time passes. -/
theorem SameLinks.linkGone {z s : State} (h : SameLinks z s) (hn : z.now ≤ s.now) (p : HostPort)
    (hg : z.linkGone p = true) : s.linkGone p = true := by
  obtain ⟨hcfg, hcan, hup, hdown, hlast⟩ := h
  have hms : s.linkMs p = z.linkMs p := by
    unfold State.linkMs
    rw [hcfg]
  have hlater : ∀ {o o' : Option Time} {d : Nat}, o' = o → o.elim false (fun a => decide (a + d ≤ z.now)) = true →
      o'.elim false (fun a => decide (a + d ≤ s.now)) = true := by
    rintro (_ | a) _ d rfl ha
    · exact ha
    · exact decide_eq_true (Nat.le_trans (of_decide_eq_true ha) hn)
  have helim : ∀ (o : Option PortSt) (d : Nat) (m : Time), o.elim false (fun q => decide (q.lastOk + d ≤ m)) =
      (o.map (·.lastOk)).elim false (fun a => decide (a + d ≤ m)) := by
    rintro (_ | a) d m <;> rfl
  cases p <;> simp only [State.linkGone, hcan, hup, hdown, hms, helim, Bool.and_eq_true, Bool.or_eq_true] at hg ⊢
  case pf => exact hg.imp_right (hlater rfl)
  all_goals exact hg.imp_right fun hd => hd.imp_right (hlater (hlast _))

/-! ### A fault of one tenant among four -/

/-- A fault of another tenant leaves a tenant as it was but for its events. -/
theorem State.tenFault_other (s : State) {t n : Ten} (cause ring : Nat) (h : n ≠ t) :
    ∃ e, (s.tenFault t cause ring).ten n = { s.ten n with evq := e } := by
  obtain ⟨-, hs⟩ | ⟨-, -, -, hten⟩ := s.tenFault_cases t cause ring
  · exact ⟨(s.ten n).evq, by rw [hs]⟩
  · obtain ⟨e, he⟩ := hten n
    exact ⟨e, he.trans (by rw [State.ten_modTen_ne _ _ _ _ h])⟩

/-- `u` follows `s` with the links as they were, and with tenant `t` as it was but for its events. -/
structure Undisturbed (t : Ten) (s u : State) : Prop where
  power : u.power = s.power
  now : s.now ≤ u.now
  links : SameLinks s u
  ten : ∃ e, u.ten t = { s.ten t with evq := e }

namespace Undisturbed

theorem refl (t : Ten) (s : State) : Undisturbed t s s := ⟨rfl, Nat.le_refl _, .refl s, _, rfl⟩

theorem live {t : Ten} {s u : State} (h : Undisturbed t s u) : u.live = s.live := by
  unfold State.live
  rw [h.power]

theorem portOf {t : Ten} {s u : State} (h : Undisturbed t s u) : u.portOf t = s.portOf t := by
  obtain ⟨e, he⟩ := h.ten
  unfold State.portOf
  rw [he]

theorem cfg {t : Ten} {s u : State} (h : Undisturbed t s u) : (u.ten t).cfg = (s.ten t).cfg := by
  obtain ⟨e, he⟩ := h.ten
  rw [he]

theorem faulted {t : Ten} {s u : State} (h : Undisturbed t s u) : (u.ten t).faulted = (s.ten t).faulted := by
  obtain ⟨e, he⟩ := h.ten
  rw [he]

theorem trans {t : Ten} {s u v : State} (h : Undisturbed t s u) (k : Undisturbed t u v) : Undisturbed t s v := by
  obtain ⟨e, he⟩ := h.ten
  obtain ⟨e', he'⟩ := k.ten
  obtain ⟨h1, h2, h3, h4, h5⟩ := h.links
  obtain ⟨k1, k2, k3, k4, k5⟩ := k.links
  exact ⟨k.power.trans h.power, Nat.le_trans h.now k.now,
    ⟨k1.trans h1, k2.trans h2, k3.trans h3, k4.trans h4, fun p => (k5 p).trans (h5 p)⟩, e', by rw [he', he]⟩

theorem passFirst (t : Ten) (s : State) (ds : List Time) : Undisturbed t s (s.passFirst ds) := by
  unfold State.passFirst
  cases ds.min? with
  | none => exact .refl t s
  | some d =>
    change Undisturbed t s (s.passTo d)
    unfold State.passTo
    split
    · exact ⟨rfl, Nat.le_of_lt (by assumption), .refl s, _, rfl⟩
    · exact .refl t s

theorem tenFault {t y : Ten} (s : State) (cause ring : Nat) (h : t ≠ y) : Undisturbed t s (s.tenFault y cause ring) := by
  have hs := s.tenFault_tenants y cause ring
  exact ⟨(congrArg State.power hs :), Nat.le_of_eq (congrArg State.now hs :).symm, State.tenFault_sameLinks _ _ _ (.refl s),
    s.tenFault_other cause ring h⟩

theorem markLost (t : Ten) (s : State) (p : HostPort) (b : Bool) : Undisturbed t s (s.markLost p b) := by
  cases p
  case pf => exact ⟨rfl, Nat.le_refl _, ⟨rfl, rfl, rfl, rfl, fun p => by cases p <;> rfl⟩, _, rfl⟩
  all_goals exact ⟨rfl, Nat.le_refl _, (SameLinks.refl s).of_modPort _ fun _ => rfl, _, rfl⟩

theorem endSession (t : Ten) (s : State) (q : Fin 5) : Undisturbed t s (s.endSession q) :=
  ⟨rfl, Nat.le_refl _, .refl s, _, rfl⟩

theorem linkLost {t y : Ten} (s : State) (p : HostPort) (h : t ≠ y) :
    Undisturbed t s ((s.markLost p true).linkLost y) :=
  ((markLost t s p true).trans (endSession t _ _)).trans (tenFault _ 1 0 h)

end Undisturbed

/-- Tenant `t` is in the fault state with that cause. -/
def Faulted (t : Ten) (why : Nat) (u : State) : Prop := (u.ten t).faulted = true ∧ (u.ten t).faultCause = why

theorem Faulted.keep {t : Ten} {why : Nat} {u v : State} (h : Faulted t why u) (k : Undisturbed t u v) : Faulted t why v := by
  obtain ⟨e, he⟩ := k.ten
  unfold Faulted
  rw [he]
  exact h

/-- A fault of an unfaulted tenant that some port serves. -/
theorem Undisturbed.faults {t : Ten} {s u : State} (h : Undisturbed t s u) (hb : (s.ten t).cfg.bound = true)
    (hf : (s.ten t).faulted = false) (cause : Nat) : Faulted t cause (u.tenFault t cause 0) := by
  obtain ⟨hfault, hcause, -⟩ := State.tenFault_self (s := u) (t := t) cause 0 (by rw [h.cfg, hb]) (by rw [h.faulted, hf])
  exact ⟨hfault, hcause⟩

/-- A lost link of an unfaulted tenant that some port serves. -/
theorem Undisturbed.losesLink {t : Ten} {s u : State} (h : Undisturbed t s u) (hb : (s.ten t).cfg.bound = true)
    (hf : (s.ten t).faulted = false) (p : HostPort) : Faulted t 1 ((u.markLost p true).linkLost t) :=
  ((h.trans (.markLost t u p true)).trans (.endSession t _ _)).faults hb hf 1

theorem State.hostLost_other (s : State) {t y : Ten} (h : t ≠ y) : Undisturbed t s (s.hostLost y) := by
  unfold State.hostLost
  split
  · exact .linkLost _ _ h
  · exact .refl t s

theorem State.wdogExpiry_other (s : State) {t y : Ten} (h : t ≠ y) : Undisturbed t s (s.wdogExpiry y) := by
  unfold State.wdogExpiry
  dsimp only
  generalize (if s.wdogRuns = true then (s.ten y).wdogFrom else none) = o
  cases o with
  | none => exact .refl t s
  | some f =>
    dsimp only
    split
    · exact .tenFault s _ _ h
    · exact .refl t s

/-- Every tenant of a PCIe function loses its link, in its own turn. -/
theorem State.pcieLost_faulted {s u : State} {t : Ten} (h : Undisturbed t s u) (hb : (s.ten t).cfg.bound = true)
    (hf : (s.ten t).faulted = false) (hp : (s.ten t).cfg.port = .pcie) : Faulted t 1 u.pcieLost := by
  have hmem : t ∈ u.bound := List.mem_filter.mpr ⟨mem_allFin t, by rw [h.cfg, hb]⟩
  refine forEach_at (P := Undisturbed t s) (Q := Faulted t 1) hmem ((nodup_allFin 4).filter _) h
    (fun y hy u' k => ?_) (fun u' k => ?_) (fun y hy u' k => ?_)
  · split
    · exact k.trans (.linkLost _ _ hy.symm)
    · exact k
  · rw [k.cfg, hp]
    exact k.losesLink hb hf _
  · split
    · exact k.keep (.linkLost _ _ hy.symm)
    · exact k

/-- A CAN channel goes off its bus. -/
def State.setBusOff (s : State) (n : Fin 2) : State :=
  { s with ports := { s.ports with canSt := upd s.ports.canSt n (fun c => { c with busOff := true }) } }

/-- The link of a port's tenant, where the port has one, is lost. -/
theorem State.portLost_faulted {u : State} {t : Ten} {p : HostPort} (hb : (u.ten t).cfg.bound = true)
    (hf : (u.ten t).faulted = false) (hp : u.portTen p = some t) :
    Faulted t 1 (match u.portTen p with
      | some t => (u.markLost p true).linkLost t
      | none => u) := by
  rw [hp]
  exact Undisturbed.losesLink (.refl t u) hb hf p

/-- Settles O37: the turn of the tenant itself is the one that faults it. -/
theorem tenantFaults : Obligations.TenantFaults := by
  unfold Obligations.TenantFaults
  intro s t hb hf
  refine ⟨fun f hlive henter hfrom hms hpast => ⟨_, rfl, ?_⟩, fun hlive hgone => ⟨_, rfl, ?_⟩,
    fun hp => ⟨⟨_, rfl, ?_⟩, ⟨_, rfl, ?_⟩, ⟨_, rfl, ?_⟩⟩, fun n hn => ⟨_, rfl, ?_⟩⟩
  · refine forEach_at (P := Undisturbed t s) (Q := Faulted t 2) (mem_allFin t) (nodup_allFin 4) (.passFirst t s _)
      (fun y hy u k => k.trans (u.wdogExpiry_other hy.symm)) (fun u k => ?_)
      (fun y hy u k => k.keep (u.wdogExpiry_other hy.symm))
    have hruns : u.wdogRuns = true := by
      have hvigil : s.power.entering.any (fun e => e.1 == .vigil) = false := by
        cases he : s.power.entering with
        | none => rfl
        | some x =>
          obtain ⟨a, b⟩ := x
          exact beq_eq_false_iff_ne.mpr fun ha => henter b (ha ▸ he)
      rw [State.wdogRuns, k.live, hlive, k.power, hvigil]
      rfl
    obtain ⟨e, he⟩ := k.ten
    have hdue : ((s.ten t).cfg.wdogMs != 0 && decide (f + ms (s.ten t).cfg.wdogMs ≤ u.now)) = true := by
      simp [hms, Nat.le_trans hpast k.now]
    have hexp : u.wdogExpiry t = u.tenFault t 2 0 := by
      simp only [State.wdogExpiry, hruns, he, hfrom, hdue, if_true]
    rw [hexp]
    exact k.faults hb hf 2
  · refine forEach_at (P := Undisturbed t s) (Q := Faulted t 1) (mem_allFin t) (nodup_allFin 4) (.passFirst t s _)
      (fun y hy u k => k.trans (u.hostLost_other hy.symm)) (fun u k => ?_)
      (fun y hy u k => k.keep (u.hostLost_other hy.symm))
    have hgone' := k.links.linkGone k.now _ hgone
    have hlost : u.hostLost t = (u.markLost (s.portOf t) true).linkLost t := by
      simp only [State.hostLost, k.live, hlive, k.cfg, hb, k.portOf, hgone', Bool.and_self, if_true]
    rw [hlost]
    exact k.losesLink hb hf _
  · have hcls : (s.isCls t (s.ten t).cfg.cls && (s.ten t).cfg.port == .pcie) = true := by simp [State.isCls, hb, hp]
    simp only [hcls, if_true]
    exact Undisturbed.losesLink (s := s.modPf t _) (.refl t _) hb hf _
  · exact State.pcieLost_faulted (s := { s with ports := _ }) (.refl t _) hb hf hp
  · exact State.pcieLost_faulted (s := { s with ports := _ }) (.refl t _) hb hf hp
  · exact State.portLost_faulted (u := s.setBusOff n) hb hf hn

end Sys2Proof.Machine

/-!
PROOFS. Framed requests and PCIe accesses (20_host_ports R622 to R636): O39 to O42.
-/

namespace Sys2Proof.Machine

/-! ### A framed request and its response -/

/-- A request that a framed port of tenant `t` accepts: the port is heard, its session touched, the request counted. -/
def State.framedIn (s : State) (p : HostPort) (t : Ten) : State :=
  (((s.modPort p (fun x => { x with lastOk := s.now, lost := false })).touch t).modPort p
    (fun x => { x with accepted := x.accepted + 1 })).tally 11 p.code 0 1

/-- The response stands in its port, and goes out. -/
def State.framedOut (s : State) (p : HostPort) (q : FReq) (status flags : Nat) (data : List Word) : State :=
  (s.modPort p (fun x => { x with
    resp := some { op := q.op, tag := q.tag, status := status, flags := flags, data := data }
    errSince := false })).svcAnswer p q

theorem State.modPort_rest (s : State) (p : HostPort) (f : PortSt → PortSt) :
    s.modPort p f = { s with ports := (s.modPort p f).ports } := by
  cases p <;> rfl

theorem State.modPort_box (s : State) (p : HostPort) (f : PortSt → PortSt) : (s.modPort p f).ports.box = s.ports.box := by
  cases p <;> rfl

theorem State.modPort_portSt (s : State) (p : HostPort) (f : PortSt → PortSt) :
    (s.modPort p f).portSt p = (s.portSt p).map f := by
  cases p
  case svc => rfl
  case pf => rfl
  all_goals exact congrArg some (at_upd _ _ _)

theorem State.portSt_some (s : State) {p : HostPort} (hp : ∀ n, p ≠ .pf n) : ∃ x, s.portSt p = some x := by
  cases p
  case pf n => exact absurd rfl (hp n)
  all_goals exact ⟨_, rfl⟩

theorem State.framedIn_same (s : State) (p : HostPort) (t : Ten) :
    Same { s with ports := (s.framedIn p t).ports, cloister := (s.touch t).cloister } (s.framedIn p t) := by
  refine Same.of_noGal ?_
  unfold State.framedIn
  rw [State.tally_ports, State.tally_noGal]
  cases p <;> rfl

theorem State.framedIn_box (s : State) (p : HostPort) (t : Ten) : (s.framedIn p t).ports.box = s.ports.box := by
  unfold State.framedIn
  rw [State.tally_ports, State.modPort_box]
  exact State.modPort_box _ _ _

theorem State.svcSend_rest (s : State) (bs : List Byte) (b : Bool) :
    s.svcSend bs b = { s with free := (s.svcSend bs b).free, ports := (s.svcSend bs b).ports } ∧
      (s.svcSend bs b).portSt = s.portSt := by
  unfold State.svcSend
  dsimp only
  split
  · exact ⟨rfl, rfl⟩
  · split <;> exact ⟨rfl, rfl⟩

theorem State.svcAnswer_rest (s : State) (p : HostPort) (q : FReq) :
    s.svcAnswer p q = { s with free := (s.svcAnswer p q).free, ports := (s.svcAnswer p q).ports } ∧
      (s.svcAnswer p q).portSt = s.portSt := by
  unfold State.svcAnswer
  split
  · exact s.svcSend_rest _ _
  · exact ⟨rfl, rfl⟩

theorem State.framedOut_rest (s : State) (p : HostPort) (q : FReq) (status flags : Nat) (data : List Word) :
    s.framedOut p q status flags data = { s with
      free := (s.framedOut p q status flags data).free
      ports := (s.framedOut p q status flags data).ports } := by
  unfold State.framedOut
  rw [(State.svcAnswer_rest _ p q).1, State.modPort_rest s p]

theorem State.svcAnswer_box (s : State) (p : HostPort) (q : FReq) : (s.svcAnswer p q).ports.box = s.ports.box := by
  unfold State.svcAnswer State.svcSend
  dsimp only
  repeat' split
  all_goals rfl

theorem State.framedOut_box (s : State) (p : HostPort) (q : FReq) (status flags : Nat) (data : List Word) :
    (s.framedOut p q status flags data).ports.box = s.ports.box :=
  (State.svcAnswer_box ..).trans (s.modPort_box _ _)

theorem State.respOf_framedOut (s : State) {p : HostPort} (hp : ∀ n, p ≠ .pf n) (q : FReq) (status flags : Nat)
    (data : List Word) : respOf (s.framedOut p q status flags data) p = some ⟨q.op, q.tag, status, flags, data⟩ := by
  obtain ⟨x, hx⟩ := s.portSt_some hp
  unfold respOf State.framedOut
  rw [(State.svcAnswer_rest _ p q).2, State.modPort_portSt, hx]
  rfl

/-- A request in order that is no write of a sleeping device: its effect, and its response. -/
theorem State.framed_taken {s : State} {p : HostPort} {t : Ten} {q : FReq} (ho : OpenAt s p t) (hs : Sent s p q)
    (h0 : s.framedStatus p (some t) q = 0) : ∃ f, s.framed p q =
      ((s.framedIn p t).framedEffect (some t) q).2.framedOut p q 0 f ((s.framedIn p t).framedEffect (some t) q).1 := by
  obtain ⟨⟨hon, haw, hb, hd⟩, hp⟩ := ho
  obtain ⟨hcrc, hclas, hskip, hpf, hcan⟩ := hs
  obtain ⟨x, hx⟩ := s.portSt_some hpf
  have hoff : (p.can?).elim false (fun c => (at' s.ports.canSt c).busOff) = false := by
    cases hc : p.can? with
    | none => rfl
    | some c => exact hcan c hc
  refine ⟨((s.framedIn p t).framedEffect (some t) q).2.respFlags (some t) x.errSince, ?_⟩
  simp only [State.framed, hx, hon, hoff, hclas, hp, h0, haw, hskip, Bool.not_true, Bool.or_self, Bool.false_eq_true,
    if_false, Bool.false_and, Bool.not_false, if_true, Option.isSome_some, bne_self_eq_false]
  rfl

/-- A request of a code without PRODUCE and FIXED that its port takes, in the form of R623. -/
structure FReq.Formed (q : FReq) (p : HostPort) (k : Nat) : Prop where
  op : q.op = BitVec.ofNat 8 k
  range : 1 ≤ k ∧ k < 9
  max : q.nw ≤ p.nwMax
  len : q.data.length = if k = 1 ∨ k = 3 ∨ k = 4 ∨ k = 8 then q.nw else 0
  ring : k = 3 → fld q.addr 20 8 = 0
  region : k = 4 ∨ k = 5 → q.addr.toNat % 4 = 0
  evq : k = 6 → q.nw % 8 = 0
  nop : k = 7 → q.addr = 0 ∧ q.nw = 1
  load : k = 8 → p = .svc

theorem FReq.Formed.code {q : FReq} {p : HostPort} {k : Nat} (h : q.Formed p k) :
    q.code = k ∧ q.produce = false ∧ q.fixed = false ∧ fld q.op 4 2 = 0 := by
  obtain ⟨h1, h9⟩ := h.range
  unfold FReq.code FReq.produce FReq.fixed
  rw [h.op]
  have hall : ∀ j : Fin 9, fld (BitVec.ofNat 8 j.val) 0 4 = j.val ∧ bit (BitVec.ofNat 8 j.val) 7 = false ∧
      bit (BitVec.ofNat 8 j.val) 6 = false ∧ fld (BitVec.ofNat 8 j.val) 4 2 = 0 := by decide
  exact hall ⟨k, h9⟩

theorem FReq.Formed.format {q : FReq} {p : HostPort} {k : Nat} (h : q.Formed p k) : q.badFormat p = false := by
  obtain ⟨hcode, hprod, hfix, hz⟩ := h.code
  obtain ⟨⟨h1, h9⟩, hmax, hlen, hring, hregion, hevq, hnop, hload⟩ :=
    (⟨h.range, h.max, h.len, h.ring, h.region, h.evq, h.nop, h.load⟩ : _ ∧ _ ∧ _ ∧ _ ∧ _ ∧ _ ∧ _ ∧ _)
  have hmax' : decide (p.nwMax < q.nw) = false := decide_eq_false (Nat.not_lt.mpr hmax)
  have hdata : (if q.writes then q.data.length != q.nw else !q.data.isEmpty) = false := by
    by_cases hw : k = 1 ∨ k = 3 ∨ k = 4 ∨ k = 8
    · rw [if_pos hw] at hlen
      rw [if_pos (by simpa [FReq.writes, hcode, or_assoc] using hw), hlen, bne_self_eq_false]
    · rw [if_neg hw] at hlen
      rw [if_neg (by simpa [FReq.writes, hcode, or_assoc] using hw), List.length_eq_zero_iff.mp hlen]
      rfl
  simp only [FReq.badFormat, hcode, hprod, hfix, hz, hmax', hdata]
  have hk : k = 1 ∨ k = 2 ∨ k = 3 ∨ k = 4 ∨ k = 5 ∨ k = 6 ∨ k = 7 ∨ k = 8 := by omega
  rcases hk with rfl | rfl | rfl | rfl | rfl | rfl | rfl | rfl <;> simp_all

/-- A request in order is answered with status 0. -/
theorem State.framedStatus_zero {s : State} {p : HostPort} {t : Ten} {q : FReq} (ho : OpenAt s p t) (hs : Sent s p q)
    (hf : q.badFormat p = false) (hr : s.badRange t q = false) (hn : s.notReady (some t) q = false) :
    s.framedStatus p (some t) q = 0 := by
  obtain ⟨⟨hon, haw, hb, hd⟩, hp⟩ := ho
  obtain ⟨hcrc, -⟩ := hs
  simp only [State.framedStatus, hcrc, hf, hr, hn, haw, State.deadUnserved, hd, Bool.false_and, Bool.not_true,
    Bool.false_eq_true, if_false]

/-! ### What the requests write and read (O39, O40) -/

theorem State.lpRequest_lp (s : State) : s.lpRequest.lp = s.lp := by
  obtain h | ⟨d, h⟩ := s.lpRequest_noGal
  · rw [h]
  · exact (congrArg State.lp h :)

theorem readWs_eq_map (m : List Host.Cell) (a n : Nat) :
    Memory.readWs m a n = (List.range n).map (fun i => Memory.readW m (a + 4 * i)) := by
  induction n generalizing a with
  | zero => rfl
  | succ n ih =>
    rw [Memory.readWs, ih, List.range_succ_eq_map, List.map_cons, List.map_map]
    refine congrArg _ (List.map_congr_left fun i _ => ?_)
    simp only [Function.comp_apply, Nat.succ_eq_add_one]
    congr 1
    omega

/-- A host reads words of which none is uncorrectable. -/
theorem State.hostRead_clean {s : State} {under : Bool} {a n : Nat} (t : Ten)
    (h : Clean (if under then s.memc.ueUnder else s.memc.ueLp) a n) :
    (s.hostRead t under ((List.range n).map (fun i => some (a + 4 * i)))).1 =
      Memory.readWs (if under then s.under else s.lp) a n := by
  have hue : ∀ i ∈ List.range n, ueAt (if under then s.memc.ueUnder else s.memc.ueLp) (a + 4 * i) = false := fun i hi => by
    simpa [ueAt] using h i (List.mem_range.mp hi)
  rw [readWs_eq_map]
  refine (List.map_map ..).trans ?_
  refine List.map_congr_left fun i hi => ?_
  simp [hue i hi]

/-- The words of a tenant's region. -/
theorem TenCfg.regionWords_inside {c : TenCfg} {off n : Nat} (h : off + 4 * n ≤ c.regSize) :
    c.regionWords off n = (List.range n).map (fun i => some (c.regBase + off + 4 * i)) := by
  unfold TenCfg.regionWords
  refine List.map_congr_left fun i hi => if_pos ?_
  have := List.mem_range.mp hi
  omega

theorem State.outside_none (s : State) (t : Ten) {xs : List (Option Nat)} (h : ∀ x ∈ xs, x.isSome) :
    s.outside t (xs.filter (·.isNone)).length = s := by
  have hnone : xs.filter (·.isNone) = [] := List.filter_eq_nil_iff.mpr fun x hx => by
    obtain ⟨y, rfl⟩ := Option.isSome_iff_exists.mp (h x hx)
    exact Bool.false_ne_true
  rw [hnone]
  rfl

/-- A host writes words into its region. -/
theorem State.regionWrite_inside {s : State} {t : Ten} {off : Nat} {ws : List Word} (hu : s.lpUsable = true)
    (h : off + 4 * ws.length ≤ (s.ten t).cfg.regSize) :
    (s.regionWrite t off ws).lp = Memory.writeN s.lp ((s.ten t).cfg.regBase + off) (wordsBytes ws) := by
  have hkeep : min ws.length (((s.ten t).cfg.regSize - off) / 4) = ws.length := by omega
  simp only [State.regionWrite, hkeep, hu, Nat.sub_self, State.outsideWrite, if_true, List.take_length, Bool.true_and]
  cases ws with
  | nil => rfl
  | cons w ws =>
    rw [if_pos (by simp)]
    exact congrArg (fun m => Memory.writeN m _ _) s.lpRequest_lp

/-- A host writes words into a ring that holds them without a wrap. -/
theorem State.ringWords_inside {s : State} {r : RingId} {idx : Nat} {ws : List Word}
    (hu : (s.ring r).under = true) (hidx : idx < 256 * 2 ^ (s.ring r).size)
    (h : idx + ws.length ≤ 256 * 2 ^ (s.ring r).size) :
    (s.ringWords r idx ws).under = Memory.writeN s.under (1024 * (s.ring r).base + 4 * idx) (wordsBytes ws) := by
  have hmod : idx % (s.ring r).words = idx := Nat.mod_eq_of_lt hidx
  have htake : ws.take ((s.ring r).words - idx) = ws := List.take_of_length_le (by unfold RingSt.words; omega)
  have hdrop : ws.drop ((s.ring r).words - idx) = [] := List.drop_of_length_le (by unfold RingSt.words; omega)
  simp only [State.ringWords, hmod, htake, hdrop, List.isEmpty_nil, if_true, RingSt.addr, hu, Nat.mul_comm _ 1024]
  rfl

/-- What a request does, once its status is 0. -/
theorem exec_framed {s : State} {p : HostPort} {t : Ten} {q : FReq} {k : Nat} {c : HostPort → FReq → Instr}
    (hc : exec (c p q) s = .next (s.framed p q)) (ho : OpenAt s p t) (hs : Sent s p q) (hf : q.Formed p k)
    (hr : s.badRange t q = false) (hn : s.notReady (some t) q = false) {data : List Word}
    (hdata : ((s.framedIn p t).framedEffect (some t) q).1 = data) :
    ∃ u, exec (c p q) s = .next u ∧ (∃ f, respOf u p = some ⟨q.op, q.tag, 0, f, data⟩) ∧
      u = { ((s.framedIn p t).framedEffect (some t) q).2 with free := u.free, ports := u.ports } ∧
      u.ports.box = ((s.framedIn p t).framedEffect (some t) q).2.ports.box := by
  obtain ⟨f, hu⟩ := State.framed_taken ho hs (State.framedStatus_zero ho hs hf.format hr hn)
  obtain ⟨-, -, -, hpf, -⟩ := hs
  subst hdata
  refine ⟨_, hc, ?_⟩
  rw [hu]
  exact ⟨⟨f, State.respOf_framedOut _ hpf _ _ _ _⟩, State.framedOut_rest .., State.framedOut_box ..⟩

section
variable {s : State} {p : HostPort} {t : Ten} {q : FReq}

theorem State.badRange_other (hcode : q.code ≠ 3 ∧ q.code ≠ 6 ∧ q.code ≠ 8) : s.badRange t q = false := by
  obtain ⟨h3, h6, h8⟩ := hcode
  rw [State.badRange, if_neg h3, if_neg h6, if_neg h8]

theorem State.notReady_ready (haw : s.asleep = false) (h5 : q.code = 5 → s.lpUsable = true)
    (h6 : q.code = 6 → (s.ten t).cfg.evqUnder = true) : s.notReady (some t) q = false := by
  rw [State.notReady, haw]
  by_cases k5 : q.code = 5
  · simp [k5, h5 k5]
  · by_cases k6 : q.code = 6
    · simp [k6, h6 k6]
    · simp [k5, k6]

/-- A register of the own window, written by a request of one word. -/
theorem State.framedEffect_wr (hcode : q.code = 1) {v : Word} (hv : q.data = [v]) {off : Nat}
    (ha : q.addr.toNat = winAt t off) (h4 : off % 4 = 0) (hoff : off < 4096) (hd : s.dead = false) :
    s.framedEffect (some t) q = ([], s.winWrite t off v) := by
  have haddr : regAddr q 0 = winAt t off := by
    unfold regAddr
    rw [ha]
    split <;> rfl
  have hal : (winAt t off % 4 == 0) = true := by
    have : winAt t off % 4 = 0 := by unfold winAt; omega
    rw [this]
    rfl
  simp only [State.framedEffect, hcode, State.regWrites, hv, List.zipIdx_cons, List.zipIdx_nil, forEach, List.foldl_cons,
    List.foldl_nil, haddr, hal]
  rw [State.regWrite_window hd hoff]

/-- The first word of the identity page. -/
theorem State.framedEffect_devId (hcode : q.code = 2) (hnw : q.nw = 1) (ha : q.addr.toNat = 0) :
    (s.framedEffect (some t) q).1 = [0x07150003#32] := by
  have haddr : regAddr q 0 = 0 := by
    unfold regAddr
    rw [ha]
    split <;> rfl
  simp only [State.framedEffect, hcode, hnw, State.regReads, haddr]
  rfl

/-- Words of the tenant's region. -/
theorem State.framedEffect_mrd (hcode : q.code = 5) (hfit : q.addr.toNat + 4 * q.nw ≤ (s.ten t).cfg.regSize)
    (hclean : Clean s.memc.ueLp ((s.ten t).cfg.regBase + q.addr.toNat) q.nw) :
    (s.framedEffect (some t) q).1 = Memory.readWs s.lp ((s.ten t).cfg.regBase + q.addr.toNat) q.nw := by
  simp only [State.framedEffect, hcode]
  rw [TenCfg.regionWords_inside hfit, State.outside_none _ _ (by simp)]
  exact State.hostRead_clean t hclean

/-- One record of an event queue in the Undercroft. -/
theorem State.framedEffect_evq (hcode : q.code = 6) (hnw : q.nw = 8) (hu : (s.ten t).cfg.evqUnder = true)
    (hidx : q.addr.toNat < (s.ten t).cfg.evqCap)
    (hclean : Clean s.memc.ueUnder ((s.ten t).cfg.evqBase + 32 * q.addr.toNat) 8) :
    (s.framedEffect (some t) q).1 = Memory.readWs s.under ((s.ten t).cfg.evqBase + 32 * q.addr.toNat) 8 := by
  have haddr : (List.range 8).map (fun i => some ((s.ten t).cfg.evqBase +
      32 * ((q.addr.toNat + i / 8) % (s.ten t).cfg.evqCap) + 4 * (i % 8))) =
      (List.range 8).map (fun i => some ((s.ten t).cfg.evqBase + 32 * q.addr.toNat + 4 * i)) := by
    refine List.map_congr_left fun i hi => ?_
    have hi' := List.mem_range.mp hi
    rw [Nat.div_eq_of_lt hi', Nat.mod_eq_of_lt hi', Nat.add_zero, Nat.mod_eq_of_lt hidx]
  simp only [State.framedEffect, hcode, State.framedEvq, hnw, hu]
  rw [haddr]
  exact State.hostRead_clean t hclean

end

/-- Settles O39: the effect of each request, between its acceptance and its response. -/
theorem framedRequests : Obligations.FramedRequests := by
  unfold Obligations.FramedRequests
  intro s p t q ho hs c n a answered hn
  obtain ⟨hon, haw, hb, hd⟩ := ho.1
  have hin := s.framedIn_same p t
  have hten : (s.framedIn p t).ten t = s.ten t := (congrArg (State.ten · t) hin :)
  have hring : ∀ r, (s.framedIn p t).ring r = s.ring r := fun r => (congrArg (State.ring · r) hin :)
  have hlp : (s.framedIn p t).lp = s.lp := (congrArg State.lp hin :)
  have hunder : (s.framedIn p t).under = s.under := (congrArg State.under hin :)
  have hmemc : (s.framedIn p t).memc = s.memc := (congrArg State.memc hin :)
  have husable : (s.framedIn p t).lpUsable = s.lpUsable := (congrArg State.lpUsable hin :)
  have hdead : (s.framedIn p t).dead = false := (congrArg State.dead hin :).trans hd
  refine ⟨fun hop h1 hlen ha => ?_, fun hop h1 hdata ha => ?_, fun r hop hlen hr hz hown hund hfit => ?_,
    fun hop hlen h4 hfit hu => ?_, fun hop hdata h4 hfit hu hclean => ?_, fun hop hdata h8 hidx hund hclean => ?_,
    fun hop h1 hdata ha => ?_⟩
  · have hf : q.Formed p 1 := ⟨hop, by decide, hn, hlen.trans h1.symm, nofun, nofun, nofun, nofun, nofun⟩
    obtain ⟨hcode, -⟩ := hf.code
    obtain ⟨v, hv⟩ := List.length_eq_one_iff.mp hlen
    have heff := State.framedEffect_wr (s := s.framedIn p t) hcode hv ha (by decide) (by decide) hdead
    obtain ⟨u, hu, hans, -, hbox⟩ := exec_framed (c := .wr) rfl ho hs hf (State.badRange_other (by simp [hcode]))
      (State.notReady_ready haw (by simp [hcode]) (by simp [hcode])) (congrArg Prod.fst heff)
    refine ⟨u, hu, hans, ?_⟩
    rw [State.box, hbox, heff, hv]
    simp [State.winWrite, State.modBox]
  · have hf : q.Formed p 2 := ⟨hop, by decide, hn, by simp [hdata], nofun, by simp, nofun, nofun, nofun⟩
    obtain ⟨hcode, -⟩ := hf.code
    obtain ⟨u, hu, hans, -⟩ := exec_framed (c := .rd) rfl ho hs hf (State.badRange_other (by simp [hcode]))
      (State.notReady_ready haw (by simp [hcode]) (by simp [hcode])) (State.framedEffect_devId hcode h1 ha)
    exact ⟨u, hu, hans⟩
  · have hf : q.Formed p 3 := ⟨hop, by decide, hn, hlen, fun _ => hz, by simp, nofun, nofun, nofun⟩
    obtain ⟨hcode, hprod, -⟩ := hf.code
    have hfin : fin? 16 (fld q.addr 28 4) = some r := by simp [hr, fin?]
    have hidx : fld q.addr 0 20 < 256 * 2 ^ (s.ring r).size := by omega
    have hrange : s.badRange t q = false := by
      simp [State.badRange, hcode, hfin, hown, hund, RingSt.words]
      exact decide_eq_false (Nat.not_le.mpr hidx)
    have heff : (s.framedIn p t).framedEffect (some t) q =
        ([], (s.framedIn p t).ringWords r (fld q.addr 0 20) q.data) := by
      simp only [State.framedEffect, hcode, State.framedRing, hfin, hprod, Bool.false_eq_true, if_false]
    obtain ⟨u, hu, hans, hrest, -⟩ := exec_framed (c := .ring) rfl ho hs hf hrange
      (State.notReady_ready haw (by simp [hcode]) (by simp [hcode])) (congrArg Prod.fst heff)
    refine ⟨u, hu, hans, ?_⟩
    rw [heff] at hrest
    rw [hrest]
    have := State.ringWords_inside (s := s.framedIn p t) (r := r) (idx := fld q.addr 0 20) (ws := q.data)
      (by rw [hring, hund]) (by rw [hring]; exact hidx) (by rw [hring, hlen]; exact hfit)
    rw [hring, hunder] at this
    exact this
  · have hf : q.Formed p 4 := ⟨hop, by decide, hn, hlen, nofun, fun _ => h4, nofun, nofun, nofun⟩
    obtain ⟨hcode, -⟩ := hf.code
    have heff : (s.framedIn p t).framedEffect (some t) q = ([], (s.framedIn p t).regionWrite t a q.data) := by
      simp only [State.framedEffect, hcode, a]
    obtain ⟨u, hu', hans, hrest, -⟩ := exec_framed (c := .mwr) rfl ho hs hf (State.badRange_other (by simp [hcode]))
      (State.notReady_ready haw (by simp [hcode]) (by simp [hcode])) (congrArg Prod.fst heff)
    refine ⟨u, hu', hans, ?_⟩
    rw [heff] at hrest
    rw [hrest]
    have := State.regionWrite_inside (s := s.framedIn p t) (t := t) (off := a) (ws := q.data) (husable.trans hu)
      (by rw [hten, hlen]; exact hfit)
    rw [hten, hlp] at this
    exact this
  · have hf : q.Formed p 5 := ⟨hop, by decide, hn, by simp [hdata], nofun, fun _ => h4, nofun, nofun, nofun⟩
    obtain ⟨hcode, -⟩ := hf.code
    have heff := State.framedEffect_mrd (s := s.framedIn p t) (t := t) hcode (by rw [hten]; exact hfit)
      (by rw [hten, hmemc]; exact hclean)
    rw [hten, hlp] at heff
    obtain ⟨u, hu', hans, -⟩ := exec_framed (c := .mrd) rfl ho hs hf (State.badRange_other (by simp [hcode]))
      (State.notReady_ready haw (fun _ => hu) (by simp [hcode])) heff
    exact ⟨u, hu', hans⟩
  · have hf : q.Formed p 6 := ⟨hop, by decide, hn, by simp [hdata], nofun, nofun, fun _ => (congrArg (· % 8) h8 :), nofun, nofun⟩
    obtain ⟨hcode, -⟩ := hf.code
    have heff := State.framedEffect_evq (s := s.framedIn p t) (t := t) hcode h8 (by rw [hten]; exact hund)
      (by rw [hten]; exact hidx) (by rw [hten, hmemc]; exact hclean)
    rw [hten, hunder] at heff
    have hrange : s.badRange t q = false := by
      simp [State.badRange, hcode, TenCfg.evqCap]
      exact decide_eq_false (Nat.not_le.mpr hidx)
    obtain ⟨u, hu, hans, -⟩ := exec_framed (c := .evq) rfl ho hs hf hrange
      (State.notReady_ready haw (by simp [hcode]) (fun _ => hund)) heff
    exact ⟨u, hu, hans⟩
  · have hf : q.Formed p 7 := ⟨hop, by decide, hn, by simp [hdata], nofun, nofun, nofun,
      fun _ => ⟨BitVec.eq_of_toNat_eq ha, h1⟩, nofun⟩
    obtain ⟨hcode, -⟩ := hf.code
    obtain ⟨u, hu, hans, -⟩ := exec_framed (c := .framedNop) rfl ho hs hf (State.badRange_other (by simp [hcode]))
      (State.notReady_ready haw (by simp [hcode]) (by simp [hcode])) (data := []) (by simp [State.framedEffect, hcode])
    exact ⟨u, hu, hans⟩

/-- Settles O40: the service port takes a LOAD of the next bytes, and its effect is the update service's. -/
theorem framedLoad : Obligations.FramedLoad := by
  unfold Obligations.FramedLoad
  intro s t q l ho hs hop hlen hmax hl hten hgot
  have hf : q.Formed .svc 8 := ⟨hop, by decide, by rw [FReq.nw, ← hlen]; exact hmax, hlen, nofun, by simp, nofun, nofun,
    fun _ => rfl⟩
  obtain ⟨hcode, -⟩ := hf.code
  have hrange : s.badRange t q = false := by simp [State.badRange, hcode, hl, hten, hgot]
  obtain ⟨f, hu⟩ := State.framed_taken ho hs (State.framedStatus_zero ho hs hf.format hrange
    (State.notReady_ready ho.1.2.1 (by simp [hcode]) (by simp [hcode])))
  have heff : (s.framedIn .svc t).framedEffect (some t) q =
      ([], (s.framedIn .svc t).loadStream (wordsBytes q.data)) := by
    simp only [State.framedEffect, hcode, State.framedLoad]
  rw [heff] at hu
  exact ⟨s.framedIn .svc t, _, f, congrArg Host.Outcome.next hu, s.framedIn_same .svc t, rfl⟩

/-! ### A request that is refused (O41) -/

theorem State.modPort_noGal (s : State) (p : HostPort) (f : PortSt → PortSt) :
    (s.modPort p f).noGal = { s.noGal with ports := (s.modPort p f).ports } := by
  cases p <;> rfl

/-- A change of the ports follows one of the ports and of what the Gallery counts. -/
theorem Same.of_ports {s a b : State} (h : Same { s with ports := a.ports } a)
    (k : b = { a with free := b.free, ports := b.ports }) : Same { s with ports := b.ports, free := b.free } b := by
  have hgal : b.gal = a.gal := (congrArg State.gal k :)
  have hb := k.trans (congrArg (fun y : State => { y with free := b.free, ports := b.ports }) h)
  rw [Same, hgal]
  exact hb

/-- A request of a wrong check sequence or a wrong form: it is counted and answered, and that is all. -/
theorem State.framed_refused {s : State} {p : HostPort} {q : FReq} {st : Nat} (hon : s.portsOn = true)
    (hclas : q.classical = false) (hskip : q.skip = false) (hpf : ∀ n, p ≠ .pf n)
    (hcan : ∀ n, p.can? = some n → (at' s.ports.canSt n).busOff = false) (hst : st = 1 ∨ st = 2)
    (h : s.framedStatus p (s.portTen p) q = st) :
    ∃ f, respOf (s.framed p q) p = some ⟨q.op, q.tag, st, f, []⟩ ∧
      Same { s with ports := (s.framed p q).ports, free := (s.framed p q).free } (s.framed p q) := by
  obtain ⟨x, hx⟩ := s.portSt_some hpf
  have hoff : (p.can?).elim false (fun c => (at' s.ports.canSt c).busOff) = false := by
    cases hc : p.can? with
    | none => rfl
    | some c => exact hcan c hc
  have hst' : st ≠ 0 ∧ st ≠ 4 ∧ (st != 1 && st != 2) = false := by
    rcases hst with rfl | rfl <;> decide
  obtain ⟨h0, h4, hgood⟩ := hst'
  have hrefuse : s.framed p q =
      ((s.modPort p (fun x => { x with refused := x.refused + 1 })).tally 11 p.code 1 1).framedOut p q st (((s.modPort p (fun x => { x with refused := x.refused + 1 })).tally 11 p.code 1 1).respFlags (s.portTen p)
        x.errSince) [] := by
    simp only [State.framed, hx, hon, hoff, hclas, h, hgood, hskip, h0, h4, bne_iff_ne, ne_eq, not_false_eq_true,
      Bool.not_true, Bool.or_self, Bool.false_eq_true, if_false, Bool.false_and, Bool.not_false, if_true]
    rfl
  rw [hrefuse]
  refine ⟨_, State.respOf_framedOut _ hpf _ _ _ _, Same.of_ports (Same.of_noGal ?_) (State.framedOut_rest ..)⟩
  rw [State.tally_ports, State.tally_noGal]
  exact State.modPort_noGal s p _

/-- Settles O41: neither status reaches the session or the effect. -/
theorem framedErrors : Obligations.FramedErrors := by
  unfold Obligations.FramedErrors
  intro s p q c hc hon hclas hskip hpf hcan
  have hexec : exec (c p q) s = .next (s.framed p q) := by
    simp only [List.mem_cons, List.not_mem_nil, or_false] at hc
    rcases hc with rfl | rfl | rfl | rfl | rfl | rfl | rfl | rfl <;> rfl
  refine ⟨fun hcrc => ?_, fun hcrc hmax => ?_⟩
  · obtain ⟨f, h⟩ := State.framed_refused hon hclas hskip hpf hcan (.inl rfl)
      (show s.framedStatus p (s.portTen p) q = 1 by simp [State.framedStatus, hcrc])
    exact ⟨_, f, hexec, h⟩
  · have hbad : q.badFormat p = true := by
      have hnw : p.nwMax < q.nw := hmax
      simp [FReq.badFormat, hnw]
    obtain ⟨f, h⟩ := State.framed_refused hon hclas hskip hpf hcan (.inr rfl)
      (show s.framedStatus p (s.portTen p) q = 2 by simp [State.framedStatus, hcrc, hbad])
    exact ⟨_, f, hexec, h⟩

/-! ### BAR2 (O42) -/

theorem byteRuns_some (off : Nat) (b : Byte) (bs : List Byte) :
    byteRuns off ((b :: bs).map some) = [(off, b :: bs)] := by
  induction bs generalizing off b with
  | nil => rfl
  | cons b' bs ih =>
    rw [List.map_cons, byteRuns, ih (off + 1) b']
    exact if_pos rfl

/-- The state on which a function's access acts: its session touched, and the access counted. -/
theorem State.pfAccess_noGal (s : State) (t : Ten) :
    ((s.touch t).tally 11 2 0 1).noGal = (s.touch t).noGal := State.tally_noGal ..

/-- A posted write within the region. -/
theorem State.bar2Write_inside {s : State} {n t : Ten} {off : Nat} {bs : List Byte} (hp : s.pfTen n = some t)
    (hu : s.lpUsable = true) (h : off + bs.length ≤ (s.ten t).cfg.regSize) :
    (s.bar2Write n off (bs.map some)).lp = Memory.writeN s.lp ((s.ten t).cfg.regBase + off) bs := by
  have hkeep : min bs.length ((s.ten t).cfg.regSize - off) = bs.length := by omega
  have hnone : cdiv 0 4 = 0 := rfl
  have htake : (bs.map some).take bs.length = bs.map some := List.take_of_length_le (Nat.le_of_eq (List.length_map _))
  simp only [State.bar2Write, hp, List.length_map, hkeep, htake, hu, Nat.sub_self, if_true, State.outsideWrite, hnone]
  cases bs with
  | nil => exact s.lpRequest_lp
  | cons b bs =>
    rw [byteRuns_some]
    exact congrArg (fun m => Memory.writeN m _ _) s.lpRequest_lp

/-- Settles O42: both accesses compute their addresses from the tenant's region. -/
theorem pcieRegionAccess : Obligations.PcieRegionAccess := by
  unfold Obligations.PcieRegionAccess
  intro s t off ho hu
  obtain ⟨⟨hon, haw, hb, hd⟩, hp⟩ := ho
  have hpf : s.pfTen t = some t := hp
  have hacc := s.pfAccess_noGal t
  refine ⟨fun bs hfit => ?_, fun n hfit hclean => ?_⟩
  · refine ⟨_, rfl, ?_⟩
    simp only [hon, haw, hpf, Bool.not_true, Bool.false_eq_true, if_false, Option.elim_some]
    have hwrite := State.bar2Write_inside (s := (s.touch t).tally 11 2 0 1) (n := t) (t := t) (off := off) (bs := bs)
      ((congrArg (State.pfTen · t) hacc :).trans hpf) ((congrArg State.lpUsable hacc :).trans hu)
      (le_of_le_of_eq hfit (congrArg (fun y : State => (y.ten t).cfg.regSize) hacc :).symm)
    exact hwrite.trans (congrArg (fun y : State => Memory.writeN y.lp ((y.ten t).cfg.regBase + off) bs) hacc :)
  · refine ⟨_, rfl, ?_⟩
    have hn : cdiv (4 * n) 4 = n := by unfold cdiv; omega
    simp only [hon, haw, hpf, hu, hn, Bool.not_true, Bool.false_eq_true, if_false, if_true, TenCfg.regionWords_inside hfit]
    rw [State.outside_none _ _ (by simp)]
    refine (congrArg PfSt.rdata (at_upd _ _ _)).trans ?_
    refine (State.hostRead_clean (s := (s.touch t).tally 11 2 0 1) (under := false) t ?_).trans ?_
    · exact (congrArg (fun y : State => Clean y.memc.ueLp ((s.ten t).cfg.regBase + off) n) hacc :).mpr hclean
    · exact congrArg (fun m => Memory.readWs m _ _) (congrArg State.lp hacc :)

end Sys2Proof.Machine

/-!
PROOFS. Management queries (R573, R603, R619, R650 and the items of each block): O43 and O44.
-/

namespace Sys2Proof.Machine

/-! ### Answers -/

theorem State.request_pend {s : State} {t : Ten} {code : Nat} {a : List Word} (h : s.request t code = some a) :
    ∃ c tok n, (s.box t).pend = some (c, tok, a, n) := by
  unfold State.request at h
  split at h
  · rename_i c tok args n hp
    split at h
    · exact ⟨c, tok, n, by rw [hp, Option.some.inj h]⟩
    · cases h
  · cases h

/-- A command answers the request that it serves, on a state in which the request still waits. -/
theorem Answered.of_pend {c : Instr} {s s' : State} {t : Ten} {k code : Nat} {a data : List Word} (h : Asks s t k a)
    (hbox : (s'.box t).pend = (s.box t).pend) (hc : exec c s = .next (s'.answer t code data)) :
    Answered c s s' t code data := by
  obtain ⟨k', tok, n, hp⟩ := State.request_pend h
  have hans := State.answer_box (s := s') (code := code) (hbox.trans hp) data
  refine ⟨_, hc, rfl, ?_⟩
  rw [hans]
  exact ⟨rfl, rfl, rfl, rfl, rfl, List.take_left⟩

/-- A query answers on the state itself. -/
theorem Answered.of_exec {c : Instr} {s : State} {t : Ten} {k code : Nat} {a data : List Word} (h : Asks s t k a)
    (hc : exec c s = .next (s.answer t code data)) : Answered c s s t code data := .of_pend h rfl hc

theorem boolW_eq (b : Bool) : boolW b = w32 (b2n b) := by cases b <;> rfl

theorem armed_word (a b : Bool) : mkWord [(b2n a, 0, 1), (b2n b, 1, 1)] = (boolW a ||| boolW b <<< 1) := by
  cases a <;> cases b <;> decide

theorem fin?_val {n : Nat} (i : Fin n) {k : Nat} (h : k = i.val) : fin? n k = some i := by
  simp [h, fin?]

theorem fin?_none {n k : Nat} (h : n ≤ k) : fin? n k = none := dif_neg (Nat.not_lt.mpr h)

/-! ### The picture's queries (O43) -/

/-- The setpoints of a slot: three, and at most a free value is drawn for them. -/
theorem State.setpoints_rest (s : State) (q : LoopSt) :
    (s.setpoints q).2.choir = s.choir ∧ (s.setpoints q).2.ports = s.ports := by
  unfold State.setpoints
  split
  · dsimp only
    split <;> exact ⟨rfl, rfl⟩
  · exact ⟨rfl, rfl⟩
  · exact ⟨rfl, rfl⟩

/-- What CL_QUERY answers of a slot (R378). -/
def LoopSt.queryWords (q : LoopSt) (sp : Vector Nat 3) : List Word :=
  [w32 (if q.cfg.en then q.cfg.kind.code else 0), w32 q.cfg.target, w32 q.cfg.owner.val, w32 q.state.code,
    w32 q.group.val, w32 (b2n q.order), w32 (b2n q.rep)] ++ sp.toList.map w32 ++
    q.chan.toList.map (fun h => w32 h.u) ++ q.chan.toList.map (fun h => i32 h.x0) ++
    [mkWord ((q.chan.toList.zipIdx).map (fun e => (b2n (e.1.windup != 0), e.2, 1))), w32 q.overruns, w32 q.consec,
      w32 (b2n (q.shadow != q.active)), q.tableGen]

theorem toList_three {α : Type} (v : Vector α 3) : ∃ a b c, v.toList = [a, b, c] :=
  match v.toList, v.length_toList with
  | [a, b, c], _ => ⟨a, b, c, rfl⟩

theorem LoopSt.queryWords_parts (q : LoopSt) (sp : Vector Nat 3) :
    (q.queryWords sp).length = 21 ∧
    (q.queryWords sp).take 7 = [w32 (if q.cfg.en then q.cfg.kind.code else 0), w32 q.cfg.target, w32 q.cfg.owner.val,
      w32 q.state.code, w32 q.group.val, boolW q.order, boolW q.rep] ∧
    ((q.queryWords sp).drop 10).take 6 = q.chan.toList.map (fun h => w32 h.u) ++ q.chan.toList.map (fun h => i32 h.x0) ∧
    (q.queryWords sp).drop 17 = [w32 q.overruns, w32 q.consec, boolW (q.shadow != q.active), q.tableGen] := by
  obtain ⟨a, b, c, hchan⟩ := toList_three q.chan
  obtain ⟨x, y, z, hsp⟩ := toList_three sp
  unfold LoopSt.queryWords
  rw [hchan, hsp]
  simp only [boolW_eq]
  exact ⟨rfl, rfl, rfl, rfl⟩

/-- The mode word that DRV_QUERY answers first (R338). -/
def State.outModeWord (s : State) (o : OutId) : Word :=
  Config.outMode (if !(s.out o).cfg.en then 0 else if (s.pulseChap o).isSome then 1 else if isSink o then 2 else 3)

/-- Settles O43: each query answers with the items that its equation lists. -/
theorem pictureQueriesAnswer : Obligations.PictureQueriesAnswer := by
  unfold Obligations.PictureQueriesAnswer
  intro s t a
  refine ⟨fun c h hc hmay => .of_exec h (congrArg Host.Outcome.next ?_),
    fun h hmay => .of_exec h (congrArg Host.Outcome.next ?_),
    fun o h ho h14 h15 => ⟨s.outModeWord o, .of_exec h (congrArg Host.Outcome.next ?_)⟩,
    fun h => .of_exec h (congrArg Host.Outcome.next ?_),
    fun i h hi => ⟨(s.setpoints (s.slot i)).2, (s.slot i).queryWords (s.setpoints (s.slot i)).1, .of_pend h ?_ (congrArg Host.Outcome.next ?_), ?_⟩,
    fun h h16 => .of_exec h (congrArg Host.Outcome.next ?_),
    fun h => ?_, fun k h hk => .of_exec h (congrArg Host.Outcome.next ?_)⟩
  · simp only [h, hmay, fin?_val c hc, Bool.not_true, Bool.false_eq_true, if_false, armed_word]
    rfl
  · simp only [h, hmay, Bool.not_false, if_true]
    rfl
  · simp only [h, ho, h14, h15, decide_false, Bool.or_self, Bool.false_eq_true, if_false, boolW_eq]
    rfl
  · simp only [h]
    rfl
  · exact congrArg (fun p : PortsSt => (at' p.box t).pend) (s.setpoints_rest _).2
  · simp only [h, fin?_val i hi]
    rfl
  · refine ⟨(s.setpoints_rest _).1, (s.slot i).queryWords_parts _⟩
  · simp only [h, fin?_none h16]
    rfl
  · cases hb : s.activeBank with
    | none =>
      refine ⟨(s.fresh 32).2, (s.fresh 32).1, .of_pend h rfl (congrArg Host.Outcome.next ?_)⟩
      simp only [h, hb]
      rfl
    | some b =>
      refine .of_exec h (congrArg Host.Outcome.next ?_)
      simp only [h, hb]
      rfl
  · simp only [h, fin?_val k hk, boolW_eq]
    rfl

/-! ### The system's queries (O44) -/

/-- The conditions that hold the unit in its power state, as PWR_QUERY answers them: a bit of each (R443). -/
def State.blockingWord (s : State) : Word := mkWord ((List.range 9).map (fun i => (b2n (s.blocking.getD i false), i, 1)))

/-- The disagreement bits of a channel in TH_QUERY. -/
def ThChan.disWord (q : ThChan) : Word := mkWord [(b2n (at' q.dis 0 < 3), 0, 1), (b2n (at' q.dis 1 < 3), 1, 1)]

/-- The level and the ceiling of each scope, in order. -/
def ThermalSt.scopeWords (h : ThermalSt) : List Word := (allFin 9).flatMap (fun sc => [w32 (at' h.level sc), w32 (at' h.f sc)])

theorem ThermalSt.scopeWords_parts (h : ThermalSt) : h.scopeWords.length = 18 ∧
    ∀ k : Fin 9, h.scopeWords.getD (2 * k.val) 0 = w32 (at' h.level k) ∧
      h.scopeWords.getD (2 * k.val + 1) 0 = w32 (at' h.f k) := by
  refine ⟨rfl, fun k => ?_⟩
  match k with
  | 0 | 1 | 2 | 3 | 4 | 5 | 6 | 7 | 8 => exact ⟨rfl, rfl⟩

theorem State.linkErrors_rest (s : State) :
    s.linkErrors.tens = s.tens ∧ s.linkErrors.chaps = s.chaps ∧ s.linkErrors.ports.box = s.ports.box := ⟨rfl, rfl, rfl⟩

/-- Settles O44: each query answers with the items that its equation lists. -/
theorem systemQueriesAnswer : Obligations.SystemQueriesAnswer := by
  unfold Obligations.SystemQueriesAnswer
  intro s t a
  refine ⟨fun h => ⟨s.blockingWord, .of_exec h (congrArg Host.Outcome.next ?_)⟩,
    fun k h hk => ⟨(s.th k).disWord, .of_exec h (congrArg Host.Outcome.next ?_)⟩,
    fun h hff => ⟨s.thermal.scopeWords, .of_exec h (congrArg Host.Outcome.next ?_), s.thermal.scopeWords_parts⟩,
    fun h hcls => ⟨_, .of_exec h (congrArg Host.Outcome.next ?_), rfl⟩,
    fun k n h hk hn hcls h1 h16 hsum => .of_exec h (congrArg Host.Outcome.next ?_),
    fun c h hc hcode hcls m hm => .of_exec h (congrArg Host.Outcome.next ?_),
    fun n h hn => .of_exec h (congrArg Host.Outcome.next ?_),
    fun h => ⟨words2 (at' s.gal.fixed 13).toNat, .of_exec h (congrArg Host.Outcome.next ?_), rfl⟩,
    fun h => ⟨s.linkErrors, .of_pend h ?_ (congrArg Host.Outcome.next ?_), ?_⟩⟩
  · simp only [h]
    rfl
  · have hne : (a.getD 0 0).toNat ≠ 0xFF := by omega
    simp only [h, hne, if_false, fin?_val k hk, boolW_eq]
    rfl
  · simp only [h, hff, if_true, boolW_eq]
    rfl
  · simp only [h, hcls, Bool.not_true, Bool.false_eq_true, if_false, boolW_eq]
    cases s.reliq.freeze <;> rfl
  · have hrange : (decide (n < 1) || decide (16 < n) || decide (65536 < k + n)) = false := by
      simp only [Bool.or_eq_false_iff, decide_eq_false_iff_not]
      omega
    simp only [h, hcls, hk, hn, hrange, Bool.not_true, Bool.false_eq_true, if_false]
    rfl
  · have hmay : (!s.notApp t && metricTen c != some t) = false := by
      rcases hcls with hcls | hcls <;> simp [hcls]
    simp only [h, hc, hcode, hmay, hm, Bool.not_true, Bool.false_eq_true, if_false]
    rfl
  · simp only [h, hn, boolW_eq]
    rfl
  · simp only [h, boolW_eq]
    rfl
  · rfl
  · simp only [h]
    rfl
  · exact ⟨rfl, rfl⟩

end Sys2Proof.Machine

/-!
PROOFS. Requests that change something: to the Chapels (09_engine_ports R300, R305; O45), and to the light, the Witness,
the prime area, the recorder, the Gallery and the chain (O46).
-/

namespace Sys2Proof.Machine

/-! ### Chapel requests (O45) -/

section
variable {s : State} {t : Ten} {a : List Word} {c : Chap} {n : Nat}

/-- No request of the tenant's and of the kind waits. -/
theorem ChapSt.no_request {k : ChReqKind} (hfresh : ∀ x ∈ (s.chap c).reqs, x.ten = t → x.kind ≠ k) (b : ChReq → Bool) :
    (s.chap c).reqs.any (fun x => x.ten == t && x.kind == k && b x) = false := by
  rw [List.any_eq_false]
  intro x hx hand
  simp only [Bool.and_eq_true, beq_iff_eq] at hand
  exact hfresh x hx hand.1.1 hand.1.2

/-- A STOP stands where the Chapel's state takes it. -/
theorem State.chapRequest_stop (h : Asks s t 0x0302 a) (hmay : s.mayChapel t = true) (hc : (a.getD 0 0).toNat = c.val)
    (hfresh : ∀ x ∈ (s.chap c).reqs, x.ten = t → x.kind ≠ .stop) :
    s.chapRequest t .stop =
      if s.chapBars c .stop then s.answer t ansState [] else s.chapQueue c { kind := .stop, profile := 0, ten := t } := by
  have h' : s.request t (ChReqKind.code .stop) = some a := h
  simp only [State.chapRequest, h', hmay, fin?_val c hc, ChapSt.no_request hfresh, Bool.not_true, Bool.false_eq_true,
    if_false, beq_self_eq_true, if_true]

/-- A request that may stand waits. -/
theorem State.chapRequest_waits {k : ChReqKind} (h : Asks s t k.code a) (hmay : s.mayChapel t = true)
    (hc : (a.getD 0 0).toNat = c.val) (hn : (a.getD 1 0).toNat = n) (hk : k ≠ .stop)
    (hfresh : ∀ x ∈ (s.chap c).reqs, x.ten = t → x.kind ≠ k) (h4 : n < 4) (hbars : s.chapBars c k = false)
    (hsound : ∃ bs p, s.profile c n = some bs ∧ s.chapCheck c bs = .ok p) :
    s.chapRequest t k = s.chapQueue c { kind := k, profile := n, ten := t } := by
  obtain ⟨bs, p, hbs, hp⟩ := hsound
  simp only [State.chapRequest, h, hmay, fin?_val c hc, hn, ChapSt.no_request hfresh, beq_eq_false_iff_ne.mpr hk,
    Nat.not_le.mpr h4, hbars, hbs, hp, Bool.not_true, Bool.false_eq_true, if_false]

/-- A request that the Chapel's state or its heat bars. -/
theorem State.chapRequest_barred {k : ChReqKind} (h : Asks s t k.code a) (hmay : s.mayChapel t = true)
    (hc : (a.getD 0 0).toNat = c.val) (hn : (a.getD 1 0).toNat = n) (hk : k ≠ .stop)
    (hfresh : ∀ x ∈ (s.chap c).reqs, x.ten = t → x.kind ≠ k) (h4 : n < 4) (hbars : s.chapBars c k = true) :
    s.chapRequest t k = s.answer t ansState [] := by
  simp only [State.chapRequest, h, hmay, fin?_val c hc, hn, ChapSt.no_request hfresh, beq_eq_false_iff_ne.mpr hk,
    Nat.not_le.mpr h4, hbars, Bool.not_true, Bool.false_eq_true, if_false, if_true]

end

/-- A start or a reconfiguration stands in a state that takes it, where the Chapel is not hot. -/
theorem State.chapBars_good {s : State} {c : Chap} {k : ChReqKind} (hk : k ≠ .stop)
    (hacc : k.accepted (s.chap c).state = true) (hcold : s.chapHot c = false) : s.chapBars c k = false := by
  rw [State.chapBars, bne_iff_ne.mpr hk, hacc, hcold]
  rfl

theorem State.chapBars_bad {s : State} {c : Chap} {k : ChReqKind} (hk : k ≠ .stop)
    (h : k.accepted (s.chap c).state = false ∨ s.chapHot c = true) : s.chapBars c k = true := by
  rw [State.chapBars, bne_iff_ne.mpr hk]
  rcases h with h | h <;> simp [h]

/-- Settles O45: a request stands where its kind takes the state and, for a start, the Chapel is not hot. -/
theorem chapelRequestsWait : Obligations.ChapelRequestsWait := by
  unfold Obligations.ChapelRequestsWait
  intro s t a c n hmay hc hn st hot waits fresh sound
  refine ⟨fun h hf => ⟨fun hst => ⟨_, congrArg Host.Outcome.next ?_, rfl⟩,
      fun hst => .of_exec h (congrArg Host.Outcome.next ?_)⟩,
    fun h hf h4 => ⟨fun hst hcold hs => ⟨_, congrArg Host.Outcome.next ?_, rfl⟩,
      fun hst => .of_exec h (congrArg Host.Outcome.next ?_)⟩,
    fun h hf h4 => ⟨fun hst hcold hs => ⟨_, congrArg Host.Outcome.next ?_, rfl⟩,
      fun hst => .of_exec h (congrArg Host.Outcome.next ?_)⟩⟩
  · have hbars : s.chapBars c .stop = false := by
      rcases hst with hst | hst <;> simp [State.chapBars, ChReqKind.accepted, show (s.chap c).state = _ from hst]
    rw [State.chapRequest_stop h hmay hc hf, hbars]
    rfl
  · have hbars : s.chapBars c .stop = true := by
      rcases hst with hst | hst | hst <;> simp [State.chapBars, ChReqKind.accepted, show (s.chap c).state = _ from hst]
    rw [State.chapRequest_stop h hmay hc hf, hbars]
    rfl
  · exact State.chapRequest_waits (k := .start) h hmay hc hn (by decide) hf h4
      (State.chapBars_good (by decide) (by rcases hst with hst | hst <;> rw [show (s.chap c).state = _ from hst] <;> rfl)
        hcold) hs
  · refine State.chapRequest_barred (k := .start) h hmay hc hn (by decide) hf h4 (State.chapBars_bad (by decide) ?_)
    rcases hst with hst | hst | hst | hst
    · exact .inl ((congrArg (ChReqKind.accepted .start) hst).trans rfl)
    · exact .inl ((congrArg (ChReqKind.accepted .start) hst).trans rfl)
    · exact .inl ((congrArg (ChReqKind.accepted .start) hst).trans rfl)
    · exact .inr hst
  · exact State.chapRequest_waits (k := .reconf) h hmay hc hn (by decide) hf h4
      (State.chapBars_good (by decide) (by rcases hst with hst | hst <;> rw [show (s.chap c).state = _ from hst] <;> rfl)
        hcold) hs
  · refine State.chapRequest_barred (k := .reconf) h hmay hc hn (by decide) hf h4 (State.chapBars_bad (by decide) ?_)
    rcases hst with hst | hst | hst | hst
    · exact .inl ((congrArg (ChReqKind.accepted .reconf) hst).trans rfl)
    · exact .inl ((congrArg (ChReqKind.accepted .reconf) hst).trans rfl)
    · exact .inl ((congrArg (ChReqKind.accepted .reconf) hst).trans rfl)
    · exact .inr hst

/-! ### Posting an event leaves the recorder to its notice -/

section
variable (s : State)

theorem State.gfix_reliq (i n : Nat) : (s.gfix i n).reliq = s.reliq := (congrArg State.reliq (s.gfix_noGal i n) :)

theorem State.tally_reliq (b u e n : Nat) : (s.tally b u e n).reliq = s.reliq :=
  (congrArg State.reliq (s.tally_noGal b u e n) :)

theorem State.traceEvent_reliq (t : Ten) (b : List Byte) : (s.traceEvent t b).reliq = s.reliq := by
  unfold State.traceEvent
  split
  · exact (congrArg State.reliq (s.trace_noGal _ _) :)
  · rfl

theorem State.lpWake_reliq : s.lpWake.reliq = s.reliq := by
  unfold State.lpWake
  split
  · exact State.tally_reliq ..
  · rfl

theorem State.memWrite_reliq (u : Bool) (a : Nat) (b : List Byte) : (s.memWrite u a b).reliq = s.reliq := by
  unfold State.memWrite
  split <;> rfl

theorem State.modPort_reliq (p : HostPort) (f : PortSt → PortSt) : (s.modPort p f).reliq = s.reliq :=
  (congrArg State.reliq (s.modPort_rest p f) :)

theorem State.notify_reliq (t : Ten) (v : Fin 2) : (s.notify t v).reliq = s.reliq := by
  have h := s.tally_reliq 11 (s.ten t).cfg.port.code 2 1
  unfold State.notify
  dsimp only
  split
  · exact h
  · exact h
  · exact h
  · exact (State.modPort_reliq ..).trans h

theorem State.evqPut_reliq (t : Ten) (b : List Byte) : (s.evqPut t b).reliq = s.reliq := by
  have hw : (if (s.ten t).cfg.evqUnder then s else s.lpWake).reliq = s.reliq := by
    split
    · rfl
    · exact s.lpWake_reliq
  unfold State.evqPut
  dsimp only
  split
  · exact (State.notify_reliq ..).trans ((State.memWrite_reliq ..).trans hw)
  · exact (State.memWrite_reliq ..).trans hw

theorem State.evqOverflow_reliq (t : Ten) : (s.evqOverflow t).reliq = s.reliq := by
  unfold State.evqOverflow
  dsimp only
  split
  · exact (State.traceEvent_reliq ..).trans (State.evqPut_reliq ..)
  · rfl

theorem State.postNow_reliq (t : Ten) (code src : Nat) (all : Bool) (cseq : Option Word) (p : List Word) :
    (s.postNow t code src all cseq p).reliq = s.reliq := by
  have h := s.evqOverflow_reliq t
  unfold State.postNow
  dsimp only
  split
  · exact h
  · split
    · exact (State.traceEvent_reliq ..).trans h
    · exact (State.evqPut_reliq ..).trans ((State.traceEvent_reliq ..).trans h)

theorem State.postRaw_reliq (t : Ten) (code src : Nat) (all : Bool) (cseq : Option Word) (p : List Word) :
    (s.postRaw t code src all cseq p).reliq = s.reliq := by
  unfold State.postRaw
  split
  · rfl
  · exact State.postNow_reliq ..

end

/-! ### The end of a freeze -/

/-- No freeze holds records back. -/
def Thawed (s : State) : Prop := s.reliq.freeze = none ∧ s.reliq.hold = []

theorem Thawed.of_reliq {s u : State} (h : Thawed s) (k : u.reliq = s.reliq) : Thawed u := by
  unfold Thawed
  rw [k]
  exact h

theorem Thawed.relAppendView {s : State} (h : Thawed s) (r : RelRec) : Thawed (s.relAppendView r) := by
  have htally : ∀ {x : State} {e : Nat}, Thawed x → Thawed (x.tally 10 0 e 1) := fun hx => hx.of_reliq (State.tally_reliq ..)
  unfold State.relAppendView
  dsimp only
  generalize (if s.reliq.onVbak = true then 1105 else 1024) = room
  split
  · exact htally h
  split
  · exact htally h
  split
  · exact htally h
  split
  · exact forEach_holds _ (htally h) fun _ _ _ k => k.of_reliq (State.postRaw_reliq ..)
  · exact htally h

theorem Thawed.relAppend {s : State} (h : Thawed s) (r : RelRec) : Thawed (s.relAppend r) := by
  unfold State.relAppend
  split
  · exact h
  split
  · split
    · exact h
    · exact Thawed.of_reliq (s := s.modRel (fun q => { q with occLost := q.occLost + 1 })) h (State.tally_reliq ..)
  split
  · exact h.relAppendView r
  · rename_i hf
    rw [h.1] at hf
    cases hf

theorem Thawed.post {s : State} (h : Thawed s) (t : Ten) (code src : Nat) (cseq : Option Word) (p : List Word) :
    Thawed (s.post t code src cseq p) := by
  have h' : Thawed (s.postRaw t code src false cseq p) := h.of_reliq (State.postRaw_reliq ..)
  unfold State.post State.noticeEv
  split
  · exact h'.relAppend _
  · exact h'

theorem State.freezeEnd_thawed {s : State} {f : Freeze} (h : s.reliq.freeze = some f) (why : Nat) :
    Thawed (s.freezeEnd why) := by
  simp only [State.freezeEnd, h]
  exact Thawed.post (Thawed.relAppend (forEach_holds _ (P := Thawed) (And.intro rfl rfl) fun _ _ _ k => k.relAppend _) _) ..

/-! ### Control requests (O46) -/

theorem State.primeReq_ok {s : State} {t : Ten} {code : Nat} {ok : Bool} {a : List Word} (h : Asks s t code a)
    (hok : ok = true) (f : List Word → State) : s.primeReq t code ok f = f a := by
  simp only [State.primeReq, h, hok, if_true]

theorem State.moaPut_noGal (s : State) (a : Nat) (bs : List Byte) : (s.moaPut a bs).noGal = (s.moaWrite a bs).noGal :=
  State.tally_noGal ..

theorem State.moaPut_ports (s : State) (a : Nat) (bs : List Byte) : (s.moaPut a bs).ports = s.ports :=
  (congrArg State.ports (s.moaPut_noGal a bs) :)

/-- A rail that has stopped starts again, with its sinks. -/
theorem State.railRestarted (s : State) (r : Fin 2) (f : RailSt → RailSt) (hf : (f (s.rail r)).stopped = false)
    (hv : (f (s.rail r)).vSet = (s.rail r).vMin) :
    let u := forEach (s.railSinks r) (fun o s => s.modOut o (fun q => { q with stopped := false })) (s.modRail r f)
    (u.rail r).stopped = false ∧ (u.rail r).vSet = (s.rail r).vMin ∧ (∀ o ∈ s.railSinks r, (u.out o).stopped = false) ∧
      u.ports = s.ports := by
  intro u
  have hrail : u.rail r = f (s.rail r) ∧ u.ports = s.ports :=
    forEach_holds (P := fun x : State => x.rail r = f (s.rail r) ∧ x.ports = s.ports) _ ⟨at_upd _ _ _, rfl⟩ fun _ _ _ k => k
  refine ⟨hrail.1 ▸ hf, hrail.1 ▸ hv, fun o ho => ?_, hrail.2⟩
  exact forEach_at (P := fun _ => True) (Q := fun x : State => (x.out o).stopped = false) ho
    (List.Pairwise.filter _ (by decide)) trivial (fun _ _ _ _ => trivial) (fun x _ => by simp [State.out, State.modOut])
    (fun y hy x hx => by
      rw [State.out, State.modOut, at_upd_ne _ _ _ _ hy.symm]
      exact hx)

/-- A calibration of an input over some frames begins (R411). -/
def State.calBegun (s : State) (k : Pd) (t : Ten) (n : Nat) : State :=
  { s with witness := { s.witness with cal := some { pd := k, ten := t, left := n + 1, frames := n } } }

/-- A counter of a tenant is 0 and waits for its new code (R620). -/
def State.galAssigned (s : State) (t : Ten) (k : Fin 48) (code : Nat) : State :=
  let s1 := s.modGal t (fun g => { g with pend := putKey k code g.pend, codes := upd g.codes k (fun _ => 0) })
  { s1 with gal := { s1.gal with assign := upd s1.gal.assign t (fun v => upd v k (fun _ => 0)) } }

/-- A prime set begins with the next generation. -/
theorem State.primeSet_busy {s : State} (t : Ten) (h : s.prime.setBusy = none) : ∃ u : State,
    s.primeSet t = u.answer t ansOk [] ∧
    (∃ x, u.prime.setBusy = some x ∧ x.1 = s.manGen + 1) ∧ u.ports = s.ports := by
  refine ⟨_, if_neg (by simp [h]), ⟨_, rfl, rfl⟩, ?_⟩
  simp only [State.moaPut_ports]

theorem mem_putKey {κ α : Type} [BEq κ] (k : κ) (x : α) (xs : List (κ × α)) : (k, x) ∈ putKey k x xs :=
  List.mem_cons_self ..

/-- What an erase of the recorder leaves of it. -/
theorem State.relErase_reliq (s : State) (t : Ten) : (s.relErase t).reliq.era = (s.reliq.era + 1) % 65536 ∧
    (s.relErase t).reliq.next = 1 ∧ (s.relErase t).reliq.buf = [] ∧ (s.relErase t).reliq.accs = [] ∧
    (s.relErase t).ports = s.ports := by
  unfold State.relErase State.relWrite
  dsimp only
  rw [State.tally_reliq, State.tally_ports]
  exact ⟨rfl, rfl, rfl, rfl, rfl⟩

/-- Settles O46: each request's effect stands in the state that it answers on. -/
theorem controlRequests : Obligations.ControlRequests := by
  unfold Obligations.ControlRequests
  intro s t a
  have hbox : ∀ {u : State}, u.ports = s.ports → (u.box t).pend = (s.box t).pend :=
    fun hu => congrArg (fun p : PortsSt => (at' p.box t).pend) hu
  refine ⟨fun r h hr hen hown hstop hlevel => ?_,
    fun i c h hi hc ht hd h2 h1024 heven hfit => .of_exec h (congrArg Host.Outcome.next ?_),
    fun k h hcls hk h1 h64 hrole hrun hcal => ⟨s.calBegun k t (a.getD 1 0).toNat,
      .of_pend h rfl (congrArg Host.Outcome.next ?_), rfl⟩,
    fun h hcls h4 h1024 h0 hfit => ⟨s.primePut (primeBase + primeArea + (a.getD 0 0).toNat)
      (padTo (a.getD 1 0).toNat 0 (wordsBytes (a.drop 2))), .of_pend h (hbox (congrArg State.ports (State.moaPut_noGal ..) :))
      (congrArg Host.Outcome.next ?_), (congrArg State.moa (State.moaPut_noGal ..) :)⟩,
    fun h hcls hbusy => ?_,
    fun h hcls h4 h1024 hfit => .of_exec h (congrArg Host.Outcome.next ?_),
    fun n h hn hcls h1 h10000 hf hthaw => ⟨s.modRel (fun q => { q with
      freeze := some { ten := t, ms := n, start := s.now, startT := s.cal } }), .of_pend h rfl
      (congrArg Host.Outcome.next ?_), rfl⟩,
    fun f h hcls hf ht => ⟨s.freezeEnd 2, .of_pend h ?_ (congrArg Host.Outcome.next ?_), State.freezeEnd_thawed hf 2⟩,
    fun h hcls hlife hsess hf => ?_,
    fun k h hsess hk hval hall => ?_,
    fun h hsess h8 hall => ⟨s.modGal t (fun g => { g with trenPend := some (a.getD 0 0).toNat }), .of_pend h rfl
      (congrArg Host.Outcome.next ?_), congrArg GalTen.trenPend (at_upd ..)⟩,
    fun n id h haddr hn hid hcls h1 h64 => ⟨_, congrArg Host.Outcome.next ?_, rfl⟩,
    fun w h hcls hffff hlen hsweep hcomplete => ⟨s.modChain (fun c => { c with sweep := none }), .of_pend h rfl
      (congrArg Host.Outcome.next ?_), rfl⟩⟩
  · obtain ⟨hs, hv, hout, hports⟩ := s.railRestarted r (fun q => { q with
      stopped := false, restartAt := s.now, vSet := q.vMin, limitRun := 0, limitPosted := false }) rfl rfl
    refine ⟨_, .of_pend h (hbox hports) (congrArg Host.Outcome.next ?_), hs, hv, hout⟩
    simp only [h, fin?_val r hr, hen, hown, hstop, Nat.not_le.mpr hlevel, bne_self_eq_false, Bool.not_true, Bool.or_self,
      decide_false, Bool.false_eq_true, if_false]
    rfl
  · have hrange : (decide ((a.getD 2 0).toNat < 2) || decide (1024 < (a.getD 2 0).toNat) ||
        decide ((a.getD 2 0).toNat % 2 = 1) || decide (c.bytes < (a.getD 1 0).toNat + (a.getD 2 0).toNat)) = false := by
      simp only [Bool.or_eq_false_iff, decide_eq_false_iff_not]
      omega
    simp only [h, fin?_val i hi, hc, ht, hd, hrange, bne_self_eq_false, Bool.not_true, Bool.false_eq_true, if_false]
    rfl
  · have hrange : (decide ((a.getD 1 0).toNat = 0) || decide (64 < (a.getD 1 0).toNat)) = false := by
      simp only [Bool.or_eq_false_iff, decide_eq_false_iff_not]
      omega
    simp only [h, hcls, fin?_val k hk, hrange, beq_eq_false_iff_ne.mpr hrole, hrun, hcal, bne_self_eq_false, Bool.not_true,
      Option.isSome_none, Bool.or_self, Bool.false_eq_true, if_false]
    rfl
  · have hrange : (decide ((a.getD 1 0).toNat < 4) || decide (1024 < (a.getD 1 0).toNat) || (a.getD 1 0).toNat % 4 != 0 ||
        decide (primeSize - primeArea < (a.getD 0 0).toNat + (a.getD 1 0).toNat)) = false := by
      simp only [Bool.or_eq_false_iff, decide_eq_false_iff_not, bne_eq_false_iff_eq]
      omega
    refine (State.primeReq_ok h hcls _).trans ?_
    simp only [hrange, Bool.false_eq_true, if_false]
    rfl
  · obtain ⟨u, hu, hprime, hports⟩ := State.primeSet_busy t hbusy
    exact ⟨u, .of_pend h (hbox hports) (congrArg Host.Outcome.next ((State.primeReq_ok h hcls _).trans hu)), hprime⟩
  · have hrange : (decide ((a.getD 1 0).toNat < 4) || decide (1024 < (a.getD 1 0).toNat) ||
        decide (primeSize < (a.getD 0 0).toNat + (a.getD 1 0).toNat)) = false := by
      simp only [Bool.or_eq_false_iff, decide_eq_false_iff_not]
      omega
    have hcls' : (s.isCls t .safety || s.isCls t .service) = true := by simpa using hcls
    refine (State.primeReq_ok h hcls' _).trans ?_
    simp only [hrange, Bool.false_eq_true, if_false]
    rfl
  · have hrange : (decide (n < 1) || decide (10000 < n)) = false := by
      simp only [Bool.or_eq_false_iff, decide_eq_false_iff_not]
      omega
    simp only [h, hcls, hn, hrange, hf, Option.isSome_none, Bool.not_true, Bool.false_or, Bool.false_eq_true, if_false]
    cases hx : s.reliq.thawAt with
    | none => rfl
    | some x => exact if_neg (by simpa using hthaw x hx)
  · obtain ⟨q, hq⟩ := State.freezeEnd_records s 2
    exact congrArg Mailbox.pend (hq.box t)
  · simp only [h, hcls, hf, ht, Bool.not_true, Bool.false_eq_true, if_false, if_true]
    rfl
  · obtain ⟨hera, hnext, hbuf, haccs, hports⟩ := s.relErase_reliq t
    refine ⟨s.relErase t, .of_pend h (hbox hports) (congrArg Host.Outcome.next ?_), hera, hnext, hbuf, haccs⟩
    have hauth : (decide (s.cloister.life = 2) && !s.inSession (tenReq t)) = false := by
      by_cases h2 : s.cloister.life = 2
      · simp [hsess h2]
      · simp [h2]
    simp only [h, hcls, hlife, hauth, hf, Option.isSome_none, Bool.not_true, Bool.false_eq_true, if_false]
    rfl
  · refine ⟨s.galAssigned t k (a.getD 1 0).toNat, .of_pend h rfl (congrArg Host.Outcome.next ?_), ?_⟩
    · simp only [h, hsess, fin?_val k hk, hval, hall, Bool.not_true, Bool.false_eq_true, if_false]
      rfl
    · simp only [State.galAssigned, State.modGal, at_upd]
      exact ⟨mem_putKey .., trivial⟩
  · have hany : (List.range 3).any (fun i => nbit (a.getD 0 0).toNat i && !bit (s.ten t).cfg.obs (5 + i)) = false := by
      rw [List.any_eq_false]
      intro i hi hand
      rw [Bool.and_eq_true, Bool.not_eq_true'] at hand
      have hobs := hall i (List.mem_range.mp hi) ((bit_eq_getLsbD _ _).symm.trans hand.1)
      rw [bit_eq_getLsbD] at hand
      exact Bool.noConfusion (hand.2.symm.trans hobs)
    simp only [h, hsess, Nat.not_le.mpr h8, hany, Bool.false_eq_true, if_false]
    rfl
  · have hmay : (s.isCls t .safety || s.isCls t .service) = true := by simpa using hcls
    have hcount : (decide ((a.getD 3 0).toNat < 1) || decide (64 < (a.getD 3 0).toNat)) = false := by
      simp only [Bool.or_eq_false_iff, decide_eq_false_iff_not]
      omega
    simp only [h, State.sweepFetch, hn, hid, hmay, hcount, haddr, decide_true, Bool.and_self, Bool.not_true, Bool.and_false,
      Bool.false_eq_true, if_false, if_true]
  · simp only [h, State.sweepRelease, hcls, hffff, hsweep, hcomplete, hlen, decide_true, bne_self_eq_false, Bool.or_true,
      Bool.true_or, Bool.and_self, Bool.and_false, Bool.not_true, Bool.false_eq_true, if_false, if_true]
    rfl

end Sys2Proof.Machine

/-!
PROOFS. The Cloister's requests (15_cloister R477 to R510): O47.
-/

namespace Sys2Proof.Machine

/-! ### Bits of the OTP -/

theorem nbit_readN (m : Mem) (a n i : Nat) (hi : i < 8 * n) :
    nbit (ofLe (Memory.readN m a n)) i = (Memory.read m (a + i / 8)).getLsbD (i % 8) := by
  induction n generalizing a i with
  | zero => omega
  | succ n ih =>
    rw [nbit_eq_testBit, Memory.readN, testBit_ofLe_cons]
    by_cases h8 : i < 8
    · rw [if_pos h8, Nat.div_eq_of_lt h8, Nat.mod_eq_of_lt h8]
      rfl
    · rw [if_neg h8]
      have hdiv : a + 1 + (i - 8) / 8 = a + i / 8 := by omega
      have hmod : (i - 8) % 8 = i % 8 := by omega
      rw [← nbit_eq_testBit, ih (a + 1) (i - 8) (by omega), hdiv, hmod]

theorem getD_readN (m : Mem) (a n k : Nat) (h : k < n) : (Memory.readN m a n)[k]? = some (Memory.read m (a + k)) := by
  have hl : k < (Memory.readN m a n).length := by rw [Memory.readN_length]; exact h
  have hg := Memory.readN_getD m a n k h
  rw [List.getD_eq_getElem?_getD, List.getElem?_eq_getElem hl, Option.getD_some] at hg
  rw [List.getElem?_eq_getElem hl, hg]

/-- A programmed byte holds its old bits and the new ones. -/
theorem State.otpSet_read {s : State} (h : s.memOk) (off : Nat) (bs : List Byte) {j : Nat} (hj : j < bs.length) :
    Memory.read (s.otpSet off bs).cloister.otp (off + j) = Memory.read s.cloister.otp (off + j) ||| bs.getD j 0 := by
  obtain ⟨-, -, -, hotp, -⟩ := h
  have hlen : (List.zipWith (fun (x y : Byte) => x ||| y) (s.otpB off bs.length) bs).length = bs.length := by
    rw [List.length_zipWith, State.otpB, Memory.readN_length, Nat.min_self]
  have hsub : off + j - off = j := by omega
  rw [State.otpSet, Memory.read_writeN hotp, hlen, if_pos (by omega), hsub, List.getD_eq_getElem?_getD,
    List.getElem?_zipWith, State.otpB, getD_readN _ _ _ _ hj, List.getElem?_eq_getElem hj, List.getD_eq_getElem?_getD,
    List.getElem?_eq_getElem hj]
  rfl

/-- A bit of the OTP that programming sets. -/
theorem State.otpSet_nbit {s : State} (h : s.memOk) (off : Nat) (bs : List Byte) {n i : Nat} (hn : i < 8 * n)
    (hi : i < 8 * bs.length) (hb : (bs.getD (i / 8) 0).getLsbD (i % 8) = true) :
    nbit (ofLe ((s.otpSet off bs).otpB off n)) i = true := by
  rw [State.otpB, nbit_readN _ _ _ _ hn, State.otpSet_read h off bs (by omega), BitVec.getLsbD_or, hb, Bool.or_true]

/-- The step that is programmed is taken. -/
theorem State.otpStep_lifeStep {s : State} (h : s.memOk) {k : Nat} (hk : k < 3) : (s.otpStep k).lifeStep k = true := by
  have hbits : ∀ k d : Fin 3, 3 * k.val + d.val < 8 * (leBytes 2 (7 * 8 ^ k.val)).length ∧
      ((leBytes 2 (7 * 8 ^ k.val)).getD ((3 * k.val + d.val) / 8) 0).getLsbD ((3 * k.val + d.val) % 8) = true := by decide
  have hbit : ∀ d < 3, nbit (s.otpStep k).otpLife (3 * k + d) = true := fun d hd =>
    State.otpSet_nbit h 0x2C (leBytes 2 (7 * 8 ^ k)) (by omega) (hbits ⟨k, hk⟩ ⟨d, hd⟩).1 (hbits ⟨k, hk⟩ ⟨d, hd⟩).2
  have h0 := hbit 0 (by decide)
  have h1 := hbit 1 (by decide)
  have h2 := hbit 2 (by decide)
  rw [Nat.add_zero] at h0
  rw [State.lifeStep, h0, h1, h2]
  rfl

theorem State.otpSet_memOk {s : State} (h : s.memOk) (off : Nat) (bs : List Byte) : (s.otpSet off bs).memOk :=
  (State.otpSet_keeps s off bs (.refl s)).mem h

theorem State.otpStep_memOk {s : State} (h : s.memOk) (k : Nat) : (s.otpStep k).memOk :=
  (State.otpStep_keeps s k (.refl s)).mem h

/-! ### The DRBG's output -/

theorem aesExpand_words (n : Nat) (rc : Byte) (ws : List (List Byte)) (h : ∀ w ∈ ws, w.length = 4) (h8 : 8 ≤ ws.length) :
    (aesExpand n rc ws).length = ws.length + n ∧ ∀ w ∈ aesExpand n rc ws, w.length = 4 := by
  induction n generalizing rc ws with
  | zero => exact ⟨rfl, h⟩
  | succ n ih =>
    have hget : ∀ i < ws.length, (ws.getD i []).length = 4 := fun i hi => by
      rw [List.getD_eq_getElem?_getD, List.getElem?_eq_getElem hi]
      exact h _ (List.getElem_mem hi)
    have h0 := hget 0 (by omega)
    have hrot : ((ws.getD 0 []).drop 1 ++ (ws.getD 0 []).take 1).length = 4 := by
      rw [List.length_append, List.length_drop, List.length_take, h0]
      decide
    refine And.imp (fun hlen => hlen.trans ?count) id (ih _ _ (fun w hw => ?words) ?eight)
    case words =>
      rcases List.mem_cons.mp hw with rfl | hw
      · rw [List.length_zipWith, hget 7 (by omega)]
        split
        · split
          · rename_i x xs hx
            have hlen := congrArg List.length hx
            rw [List.length_map, hrot, List.length_cons] at hlen
            rw [List.length_cons]
            omega
          · rename_i hx
            have hlen := congrArg List.length hx
            rw [List.length_map, hrot] at hlen
            cases hlen
        · split
          · rw [List.length_map, h0]
            rfl
          · rw [h0]
            rfl
      · exact h w hw
    case count =>
      rw [List.length_cons]
      omega
    case eight =>
      rw [List.length_cons]
      omega

/-- The last round key has 16 bytes. -/
theorem aesKeys_last {key : List Byte} (h : key.length = 32) : ((aesKeys key).getD 14 []).length = 16 := by
  obtain ⟨w0, hw0⟩ : ∃ x, x = (List.range 8).map (fun i => (key.drop (4 * i)).take 4) := ⟨_, rfl⟩
  have hw : ∀ w ∈ w0.reverse, w.length = 4 := fun w hw => by
    rw [hw0] at hw
    obtain ⟨i, hi, rfl⟩ := List.mem_map.mp (List.mem_reverse.mp hw)
    have := List.mem_range.mp hi
    rw [List.length_take, List.length_drop]
    omega
  have hlen0 : w0.reverse.length = 8 := by rw [List.length_reverse, hw0, List.length_map, List.length_range]
  obtain ⟨hlen, hall⟩ := aesExpand_words 52 1 w0.reverse hw (by omega)
  obtain ⟨ws, hws⟩ : ∃ x, x = (aesExpand 52 1 w0.reverse).reverse := ⟨_, rfl⟩
  have hget : ∀ f : Nat → List Byte, ((List.range 15).map f).getD 14 [] = f 14 := fun _ => rfl
  have hkey : (aesKeys key).getD 14 [] = ((ws.drop 56).take 4).flatten := by
    rw [aesKeys, hget, hws, hw0]
  have hfour : ∀ w ∈ (ws.drop 56).take 4, w.length = 4 := fun w hw =>
    hall w (List.mem_reverse.mp (hws ▸ List.mem_of_mem_drop (List.mem_of_mem_take hw)))
  rw [hkey, List.length_flatten, List.map_congr_left hfour, List.map_const', List.sum_replicate_nat, List.length_take,
    List.length_drop, hws, List.length_reverse, hlen, hlen0]
  rfl

theorem aesBlock_length {keys : List (List Byte)} (h : (keys.getD 14 []).length = 16) (b : List Byte) :
    (aesBlock keys b).length = 16 := by
  simp only [aesBlock, List.length_zipWith, aesShift, List.length_map, List.length_range, h]
  rfl

theorem beBytes_length (n v : Nat) : (beBytes n v).length = n := by
  rw [beBytes, List.length_reverse]
  induction n generalizing v with
  | zero => rfl
  | succ n ih => rw [leBytes, List.length_cons, ih]

/-- The DRBG gives as many bytes as it is asked for. -/
theorem Drbg.generate_length (d : Drbg) (n : Nat) : (d.generate n).1.length = n := by
  have hblock : ∀ b, (aesBlock (aesKeys (beBytes 32 d.key.toNat)) b).length = 16 := fun b =>
    aesBlock_length (aesKeys_last (beBytes_length ..)) b
  simp only [Drbg.generate, ctrBlocks, List.length_take, List.length_flatMap, hblock, List.map_const', List.length_range,
    List.sum_replicate_nat, cdiv]
  omega

/-! ### Scalars and requests -/

theorem State.draw_ports (s : State) (n : Nat) : (s.draw n).2.ports = s.ports := by
  simp only [State.draw]

theorem State.draw_length (s : State) (n : Nat) : (s.draw n).1.length = n := by
  simp only [State.draw, Drbg.generate_length]

theorem State.drbgSeed_ports (s : State) (d : Drbg) : (s.drbgSeed d).ports = s.ports := by
  simp only [State.drbgSeed, State.fresh]

theorem State.otpSet_ports (s : State) (off : Nat) (bs : List Byte) : (s.otpSet off bs).ports = s.ports := by
  simp only [State.otpSet]

theorem State.provProgram_ports (s : State) (k : Nat) (rec' key : List Byte) (d : Nat) :
    (s.provProgram k rec' key d).ports = s.ports := by
  simp only [State.provProgram, State.otpStep, State.otpSet_ports]

theorem State.transition_ports (s : State) : s.transition.ports = s.ports := by
  simp only [State.transition]

theorem State.transition_lifeStep (s : State) (k : Nat) : s.transition.lifeStep k = s.lifeStep k := rfl

/-- An accepted PROVISION takes the first step. -/
theorem State.provProgram_lifeStep {s : State} (h : s.memOk) (k : Nat) (rec' key : List Byte) (d : Nat) :
    (s.provProgram k rec' key d).lifeStep 0 = true := by
  unfold State.provProgram
  refine State.otpStep_lifeStep ?_ (by decide)
  iterate 5 refine State.otpSet_memOk ?_ _ _
  exact h

theorem one_lt_ecN : 1 < ecN := by
  unfold ecN
  omega

theorem scalar_range (v : Nat) {n : Nat} (h : 1 < n) : 0 < 1 + v % (n - 1) ∧ 1 + v % (n - 1) < n := by
  have := Nat.mod_lt v (Nat.sub_pos_of_lt h)
  omega

/-- A drawn scalar lies from 1 to n - 1, and drawing it leaves the mailboxes alone. -/
theorem State.scalarFrom_spec (k : Nat) (s : State) :
    0 < (s.scalarFrom k).1 ∧ (s.scalarFrom k).1 < ecN ∧ (s.scalarFrom k).2.ports = s.ports := by
  induction k generalizing s with
  | zero =>
    have hv := scalar_range (s.fresh 256).1.toNat one_lt_ecN
    exact ⟨hv.1, hv.2, rfl⟩
  | succ k ih =>
    have hports := s.draw_ports 32
    rw [State.scalarFrom]
    generalize s.draw 32 = x at hports ⊢
    obtain ⟨b, s1⟩ := x
    dsimp only at hports ⊢
    split
    · rename_i h
      rw [Bool.and_eq_true, decide_eq_true_eq, decide_eq_true_eq] at h
      exact ⟨h.1, h.2, hports⟩
    · obtain ⟨hpos, hlt, hrest⟩ := ih s1
      exact ⟨hpos, hlt, hrest.trans hports⟩

theorem State.pend_of_ports {s u : State} (t : Ten) (h : u.ports = s.ports) : (u.box t).pend = (s.box t).pend := by
  rw [State.box, State.box, h]

theorem State.cloReq_served {s : State} {t : Ten} {code : Nat} {a : List Word} (h : AsksClo s t code a)
    (f : List Word → State) : s.cloReq t code f = f a := by
  obtain ⟨h, hg⟩ := h
  simp only [State.cloReq, h, Nat.not_le.mpr hg, decide_false, Bool.false_and, Bool.false_eq_true, if_false]

theorem State.nonce_useNonce (s : State) (q : Fin 5) : (s.useNonce q).nonce q = none := by
  simp [State.nonce, State.useNonce, State.modClo]

theorem State.ownerWord_ports (s : State) : s.ownerWord.2.ports = s.ports := by
  unfold State.ownerWord
  split <;> rfl

/-- The slot of the current owner key is one of four. -/
theorem State.ownerSlot_lt {s : State} {k : Nat} (h : s.ownerSlot = some k) : k < 4 := by
  have hmem := List.mem_of_find?_eq_some h
  simp only [List.mem_cons, List.not_mem_nil, or_false] at hmem
  omega

/-- A requester's session opens, and its nonce is used (R504). -/
def State.sessOpened (s : State) (q : Fin 5) (flags : Word) : State :=
  s.modClo q (fun x => { x with
    nonce := none
    fails := 0
    session := some { flags := flags, opened := s.now, last := s.now } })

section
variable {s : State} {t : Ten} {a : List Word}

/-- A response's session (R504 to R506). -/
theorem cloResponse_answers {n : List Byte} (h : AsksClo s t 0x0905 a) (hcls : s.isCls t .service = true)
    (hn : s.nonce (tenReq t) = some n) :
    if s.ownerSigned (s.sessMsg n (a.getD 0 0)) (wordsBytes (padTo 16 0 (a.drop 1))) = true then
      ∃ s1, Answered (.cloResponse t) s s1 t 0 [3600] ∧ s1.inSession (tenReq t) = true ∧ s1.nonce (tenReq t) = none
    else ∃ s1, Answered (.cloResponse t) s s1 t 7 [] ∧ s1.nonce (tenReq t) = none ∧
      (at' s1.cloister.reqs (tenReq t)).fails = (at' s.cloister.reqs (tenReq t)).fails + 1 := by
  split
  · rename_i hsig
    refine ⟨s.sessOpened (tenReq t) (a.getD 0 0), .of_pend h.1 rfl
      (congrArg Host.Outcome.next ((State.cloReq_served h _).trans ?_)), ?_⟩
    · simp only [hcls, State.sessTry, hn, hsig, Bool.not_true, Bool.false_eq_true, if_false, if_true]
      rfl
    · simp [State.sessOpened, State.inSession, State.nonce, State.modClo]
  · rename_i hsig
    have hposts := State.postTo_posts ((s.sessFail (tenReq t)).ofCls .safety ++
      [t].filter (fun t => !(s.sessFail (tenReq t)).isCls t .safety)) 0x00F2 0x90 none
      [w32 (tenReq t).val, w32 (at' (s.sessFail (tenReq t)).cloister.reqs (tenReq t)).fails,
        w32 (if 5 ≤ (at' (s.sessFail (tenReq t)).cloister.reqs (tenReq t)).fails then 60 else 0)]
      (Posts.refl (s.sessFail (tenReq t)))
    have hclo : ((s.sessFail (tenReq t)).authFailPost [t] (tenReq t)).cloister = (s.sessFail (tenReq t)).cloister :=
      (congrArg State.cloister hposts.rest :)
    refine ⟨(s.sessFail (tenReq t)).authFailPost [t] (tenReq t), .of_pend h.1 (congrArg Mailbox.pend (hposts.box t))
      (congrArg Host.Outcome.next ((State.cloReq_served h _).trans ?_)), ?_⟩
    · simp only [hcls, State.sessTry, hn, hsig, Bool.not_true, Bool.false_eq_true, if_false]
      rfl
    · rw [State.nonce, hclo]
      simp [State.sessFail, State.modClo]

/-- PROVISION of a record that it accepts (R479). -/
theorem provision_answers (hm : s.memOk) (h : AsksClo s t 0x0902 a) (ht : t = 3) (hlife : s.cloister.life = 0)
    (hrestart : s.power.restart = false) (htrng : s.cloister.trngError = false) (h0 : s.provValid 0 = false)
    (h1 : s.provValid 1 = false) (hfree : s.provFree 0 = true) :
    (provCheck ((wordsBytes (padTo 144 0 a)).take 512) s.lpU).elim
      (if s.otpReady = true then
        ∃ d s1, d = s.reseed.drawScalar.1 ∧ 0 < d ∧ d < ecN ∧ Answered (.provision t) s s1 t 0 (bytesWords (ecPub d)) ∧
          s1.power.restart = true ∧ s1.lifeStep 0 = true
       else Answered (.provision t) s s t 2 [])
      (fun o => Answered (.provision t) s s t 5 [w32 o]) := by
  have hclass : (t != 3) = false := by rw [ht]; rfl
  have hlife' : (s.cloister.life != 0) = false := by rw [hlife]; rfl
  cases hcheck : provCheck ((wordsBytes (padTo 144 0 a)).take 512) s.lpU with
  | some o =>
    refine .of_exec h.1 (congrArg Host.Outcome.next ((State.cloReq_served h _).trans ?_))
    simp only [hclass, hlife', hrestart, hcheck, Bool.or_self, Bool.false_eq_true, if_false]
    rfl
  | none =>
    have hvalid : [0, 1].find? s.provValid = none := by simp [h0, h1]
    have hslot : [0, 1].find? s.provFree = some 0 := by simp [hfree]
    change if s.otpReady = true then _ else _
    split
    · rename_i hready
      obtain ⟨hpos, hlt, hports⟩ := s.reseed.scalarFrom_spec 16
      have hm1 : s.reseed.drawScalar.2.memOk := (State.drawScalar_keeps _ (State.reseed_keeps s (.refl s))).mem hm
      have hdraw : s.reseed.scalarFrom 16 = s.reseed.drawScalar := rfl
      rw [hdraw] at hpos hlt hports
      have hports : s.reseed.drawScalar.2.ports = s.ports := hports.trans (s.drbgSeed_ports _)
      generalize hx : s.reseed.drawScalar = x at hpos hlt hports hm1
      obtain ⟨d, s1⟩ := x
      refine ⟨d, (s1.provProgram 0 ((wordsBytes (padTo 144 0 a)).take 512) ((wordsBytes (padTo 144 0 a)).drop 512) d).transition,
        rfl, hpos, hlt, .of_pend h.1 (State.pend_of_ports t ?_)
        (congrArg Host.Outcome.next ((State.cloReq_served h _).trans ?_)), rfl, ?_⟩
      · rw [State.transition_ports, State.provProgram_ports, hports]
      · simp only [hclass, hlife', hrestart, hcheck, htrng, hvalid, hslot, hready, hx, Bool.not_true, Bool.or_self,
          Bool.false_eq_true, if_false]
        rfl
      · rw [State.transition_lifeStep]
        exact State.provProgram_lifeStep hm1 ..
    · rename_i hready
      refine .of_exec h.1 (congrArg Host.Outcome.next ((State.cloReq_served h _).trans ?_))
      simp only [hclass, hlife', hrestart, hcheck, htrng, hvalid, hslot, hready, Bool.or_self, Bool.not_false,
        Bool.false_eq_true, if_false, if_true]
      rfl

/-- LOCK (R483). -/
theorem lock_answers {n : List Byte} (hm : s.memOk) (h : AsksClo s t 0x0903 a) (hcls : s.isCls t .service = true)
    (hlife : s.cloister.life = 1) (hrestart : s.power.restart = false) (hready : s.otpReady = true)
    (hn : s.nonce (tenReq t) = some n) : ∃ s1, s1.nonce (tenReq t) = none ∧
      if s.ownerSigned (s.lifeMsg [0x4C, 0x4F, 0x43, 0x4B] n) (wordsBytes (padTo 16 0 a)) = true then
        ∃ s2, Answered (.lock t) s s2 t 0 [] ∧ s2.nonce (tenReq t) = none ∧ s2.power.restart = true ∧ s2.lifeStep 1 = true
      else Answered (.lock t) s s1 t 7 [] := by
  have hlife' : (s.cloister.life != 1) = false := by rw [hlife]; rfl
  refine ⟨s.useNonce (tenReq t), s.nonce_useNonce _, ?_⟩
  split
  · rename_i hsig
    refine ⟨((s.useNonce (tenReq t)).otpStep 1).transition, .of_pend h.1 rfl
      (congrArg Host.Outcome.next ((State.cloReq_served h _).trans ?_)), s.nonce_useNonce _, rfl, ?_⟩
    · simp only [hcls, hlife', hrestart, hn, hsig, hready, Bool.not_true, Bool.or_self, Bool.false_eq_true, if_false]
      rfl
    · rw [State.transition_lifeStep]
      exact State.otpStep_lifeStep ((State.useNonce_keeps s _ (.refl s)).mem hm) (by decide)
  · rename_i hsig
    refine .of_pend h.1 rfl (congrArg Host.Outcome.next ((State.cloReq_served h _).trans ?_))
    simp only [hcls, hlife', hrestart, hn, hsig, Bool.not_true, Bool.not_false, Bool.or_self, Bool.false_eq_true, if_false,
      if_true]
    rfl

/-- What RETURN programs: DUK_KILL, the step Returned, and the step before it where it was not taken. -/
def State.returned (s : State) : State :=
  if ((s.otpSet 0x28 [0, 2]).otpStep 2).lifeStep 1 then (s.otpSet 0x28 [0, 2]).otpStep 2
  else ((s.otpSet 0x28 [0, 2]).otpStep 2).otpStep 1

theorem State.returned_lifeStep {s : State} (hm : s.memOk) : s.returned.lifeStep 2 = true := by
  have h2 := State.otpSet_memOk hm 0x28 [0, 2]
  have hstep := State.otpStep_lifeStep h2 (k := 2) (by decide)
  unfold State.returned
  split
  · exact hstep
  · exact ((State.otpStep_keeps _ 1 (.refl _)).fuses (State.otpStep_memOk h2 2)).lifeStep hstep

theorem State.returned_ports (s : State) : s.returned.ports = s.ports := by
  unfold State.returned
  split <;> rfl

/-- RETURN (R482). -/
theorem return_answers {n : List Byte} (hm : s.memOk) (h : AsksClo s t 0x0907 a) (hcls : s.isCls t .service = true)
    (hlife : s.cloister.life = 1 ∨ s.cloister.life = 2) (hrestart : s.power.restart = false) (hready : s.otpReady = true)
    (hn : s.nonce (tenReq t) = some n) : ∃ s1, s1.nonce (tenReq t) = none ∧
      if signedBy (s.otpB 0 32) (s.lifeMsg [0x52, 0x45, 0x54, 0x4E] n) (wordsBytes (padTo 16 0 a)) = true then
        ∃ s2, Answered (.return t) s s2 t 0 [] ∧ s2.power.restart = true ∧ s2.lifeStep 2 = true
      else Answered (.return t) s s1 t 7 [] := by
  have hlife' : (s.cloister.life != 1 && s.cloister.life != 2) = false := by rcases hlife with h | h <;> rw [h] <;> rfl
  refine ⟨s.useNonce (tenReq t), s.nonce_useNonce _, ?_⟩
  split
  · rename_i hsig
    refine ⟨(s.useNonce (tenReq t)).returned.transition, .of_pend h.1 (State.pend_of_ports t ?_)
      (congrArg Host.Outcome.next ((State.cloReq_served h _).trans ?_)), rfl, ?_⟩
    · rw [State.transition_ports, State.returned_ports]
      rfl
    · simp only [hcls, hlife', hrestart, hn, hsig, hready, Bool.not_true, Bool.or_self, Bool.false_eq_true, if_false]
      rfl
    · rw [State.transition_lifeStep]
      exact State.returned_lifeStep ((State.useNonce_keeps s _ (.refl s)).mem hm)
  · rename_i hsig
    refine .of_pend h.1 rfl (congrArg Host.Outcome.next ((State.cloReq_served h _).trans ?_))
    simp only [hcls, hlife', hrestart, hn, hsig, Bool.not_true, Bool.not_false, Bool.or_self, Bool.false_eq_true, if_false,
      if_true]
    rfl

/-- OWNER_ROTATE (R481). -/
theorem ownerRotate_answers {n : List Byte} {k : Nat} (hm : s.memOk) (h : AsksClo s t 0x0908 a)
    (hcls : s.isCls t .service = true) (hlife : s.cloister.life ≠ 0) (hready : s.otpReady = true)
    (hn : s.nonce (tenReq t) = some n) (hk : s.ownerSlot = some k) : ∃ s1, s1.nonce (tenReq t) = none ∧
      if signedBy (s.ownerHash k) ([0x52, 0x4F, 0x54, 0x4B] ++ s.devUid ++ n ++ (wordsBytes (padTo 32 0 a)).take 64)
        ((wordsBytes (padTo 32 0 a)).drop 64) = true then
        if (List.range 4).all s.ownerUsed = true then Answered (.ownerRotate t) s s1 t 11 []
        else ∃ s2 v, Answered (.ownerRotate t) s s2 t 0 [v] ∧ s2.ownerRevoked k = true
      else Answered (.ownerRotate t) s s1 t 7 [] := by
  have hm1 : (s.useNonce (tenReq t)).memOk := (State.useNonce_keeps s _ (.refl s)).mem hm
  have hk4 := State.ownerSlot_lt hk
  refine ⟨s.useNonce (tenReq t), s.nonce_useNonce _, ?_⟩
  split
  · rename_i hsig
    cases hfind : [0, 1, 2, 3].find? (fun k => !s.ownerUsed k) with
    | none =>
      have hall : (List.range 4).all s.ownerUsed = true := by
        rw [List.find?_eq_none] at hfind
        rw [List.all_eq_true]
        intro x hx
        simpa using hfind x hx
      rw [if_pos hall]
      refine .of_pend h.1 rfl (congrArg Host.Outcome.next ((State.cloReq_served h _).trans ?_))
      simp only [hcls, hlife, hn, hk, hsig, hfind, Bool.not_true, Bool.false_eq_true, if_false]
      rfl
    | some j =>
      have hsome : ¬ (List.range 4).all s.ownerUsed = true := fun hall => by
        have hused := List.find?_some hfind
        rw [List.all_eq_true.mp hall j (List.mem_of_find?_eq_some hfind)] at hused
        cases hused
      rw [if_neg hsome]
      refine ⟨((s.useNonce (tenReq t)).otpSet (0x50 + 32 * j)
        (sha256 ((wordsBytes (padTo 32 0 a)).take 64))).otpSet 0x28 [BitVec.ofNat 8 (2 ^ k)], w32 j, .of_pend h.1
        (State.pend_of_ports t ?_) (congrArg Host.Outcome.next ((State.cloReq_served h _).trans ?_)), ?_⟩
      · rw [State.otpSet_ports, State.otpSet_ports]
        rfl
      · simp only [hcls, hlife, hn, hk, hsig, hfind, hready, Bool.not_true, Bool.false_eq_true, if_false]
        rfl
      · refine State.otpSet_nbit (State.otpSet_memOk hm1 _ _) 0x28 _ (by omega) ?_ ?_
        · rw [List.length_singleton]
          omega
        · exact (by decide : ∀ j : Fin 4,
            ([BitVec.ofNat 8 (2 ^ j.val)].getD (j.val / 8) 0).getLsbD (j.val % 8) = true) ⟨k, hk4⟩
  · rename_i hsig
    refine .of_pend h.1 rfl (congrArg Host.Outcome.next ((State.cloReq_served h _).trans ?_))
    simp only [hcls, hlife, hn, hk, hsig, Bool.not_true, Bool.not_false, Bool.false_eq_true, if_false, if_true]
    rfl

/-- A nonce is drawn where no lockout runs (R501, R506). -/
theorem cloChallenge_answers (h : AsksClo s t 0x0904 a)
    (hfree : ∀ b, (at' s.cloister.reqs (tenReq t)).busyUntil = some b → b ≤ s.now) (htrng : s.cloister.trngError = false) :
    ∃ s1 n, Answered (.cloChallenge t) s s1 t 0 (bytesWords n) ∧ s1.nonce (tenReq t) = some n ∧ n.length = 32 := by
  have hbusy : (at' s.cloister.reqs (tenReq t)).busyUntil.any (fun b => decide (s.now < b)) = false := by
    cases hb : (at' s.cloister.reqs (tenReq t)).busyUntil with
    | none => rfl
    | some b => exact decide_eq_false (Nat.not_lt.mpr (hfree b hb))
  have hlen : (s.reseed.draw 32).1.length = 32 := State.draw_length _ 32
  have hports : (s.reseed.draw 32).2.ports = s.ports := (State.draw_ports _ 32).trans (s.drbgSeed_ports _)
  generalize hx : s.reseed.draw 32 = x at hlen hports
  obtain ⟨n, s1⟩ := x
  refine ⟨s1.modClo (tenReq t) (fun y => { y with nonce := some (n, s.now) }), n, .of_pend h.1 (State.pend_of_ports t hports)
    (congrArg Host.Outcome.next ((State.cloReq_served h _).trans ?_)), ?_, hlen⟩
  · simp only [hbusy, htrng, hx, Bool.false_eq_true, if_false]
    rfl
  · simp [State.nonce, State.modClo]

/-- RNG_READ. -/
theorem rngRead_answers {n : Nat} (h : AsksClo s t 0x0909 a) (hn : (a.getD 0 0).toNat = n) (h1 : 1 ≤ n) (h64 : n ≤ 64)
    (htrng : s.cloister.trngError = false) :
    ∃ s1 bs, Answered (.rngRead t) s s1 t 0 (bytesWords bs) ∧ bs.length = n := by
  have hrange : (decide (n < 1) || decide (64 < n)) = false := by
    simp only [Bool.or_eq_false_iff, decide_eq_false_iff_not]
    omega
  have hlen : (s.draw n).1.length = n := s.draw_length n
  have hports := s.draw_ports n
  generalize hx : s.draw n = x at hlen hports
  obtain ⟨bs, s1⟩ := x
  refine ⟨s1, bs, .of_pend h.1 (State.pend_of_ports t hports)
    (congrArg Host.Outcome.next ((State.cloReq_served h _).trans ?_)), hlen⟩
  simp only [hn, hrange, htrng, hx, Bool.false_eq_true, if_false]
  rfl

end

/-- Settles O47: each request of the Cloister by its conditions in their order. -/
theorem cloisterRequests : Obligations.CloisterRequests := by
  unfold Obligations.CloisterRequests
  intro s t a q hq hm sig noSig
  subst hq
  refine ⟨fun h => ⟨[s.lifecycle] ++ (bytesWords s.devUid ++ bytesWords s.dukPub ++
      [s.ownerWord.1, w32 (s.otpCtrl % 16), w32 (b2n s.cloister.trngError), w32 s.cloister.glitches.length,
        w32 (b2n (s.inSession (tenReq t)))]), .of_pend h.1 (State.pend_of_ports t s.ownerWord_ports)
      (congrArg Host.Outcome.next ((State.cloReq_served h _).trans ?_)), rfl⟩,
    fun h ht => .of_exec h.1 (congrArg Host.Outcome.next ((State.cloReq_served h _).trans ?_)),
    fun h ht hlife hrestart htrng h0 h1 hfree => provision_answers hm h ht hlife hrestart htrng h0 h1 hfree,
    fun n h hcls hlife hrestart hready hn => lock_answers hm h hcls hlife hrestart hready hn,
    fun h hfree htrng => cloChallenge_answers h hfree htrng,
    fun b h hb hlt => .of_exec h.1 (congrArg Host.Outcome.next ((State.cloReq_served h _).trans ?_)),
    fun n h hcls hn => cloResponse_answers h hcls hn,
    fun h hduk => ⟨((s.fresh 256).2.fresh 256).2, bytesOf 32 ((s.fresh 256).2.fresh 256).1,
      1 + (s.fresh 256).1.toNat % (ecN - 1), .of_pend h.1 rfl
      (congrArg Host.Outcome.next ((State.cloReq_served h _).trans ?_))⟩,
    fun n h hcls hlife hrestart hready hn => return_answers hm h hcls hlife hrestart hready hn,
    fun n k h hcls hlife hready hn hk => ownerRotate_answers hm h hcls hlife hready hn hk,
    fun n h hn h1 h64 htrng => rngRead_answers h hn h1 h64 htrng⟩
  · simp only [List.append_assoc]
    rfl
  · have hclass : (t != 3) = true := by simpa using ht
    simp only [hclass, if_true]
    rfl
  · have hbusy : (at' s.cloister.reqs (tenReq t)).busyUntil.any (fun b => decide (s.now < b)) = true := by
      rw [hb]
      exact decide_eq_true hlt
    simp only [hbusy, if_true]
    rfl
  · simp only [hduk, if_false]
    rfl

end Sys2Proof.Machine

/-!
PROOFS. The update requests (16_update R524 to R526, R533, R536, R549): O48.
-/

namespace Sys2Proof.Machine

/-! ### The journal and the store -/

theorem State.moaPut_rest (s : State) (a : Nat) (bs : List Byte) :
    (s.moaPut a bs).update = s.update ∧ (s.moaPut a bs).moa = Memory.writeN s.moa a bs :=
  ⟨(congrArg State.update (s.moaPut_noGal a bs) :), (congrArg State.moa (s.moaPut_noGal a bs) :)⟩

/-- A new journal record stands in the update service. -/
theorem State.jWrite_update (s : State) (f : JRec → JRec) :
    (s.jWrite f).update = { s.update with
      jrec := { f s.update.jrec with jseq := s.update.jrec.jseq + 1 }, jpos := (s.update.jpos + 1) % 1024 } ∧
    (s.jWrite f).ports = s.ports := by
  unfold State.jWrite
  dsimp only [State.modUpd]
  exact ⟨by rw [(State.moaPut_rest ..).1], State.moaPut_ports ..⟩

theorem State.mapClear_rest (s : State) : s.mapClear.update = s.update ∧ s.mapClear.ports = s.ports :=
  ⟨(State.moaPut_rest ..).1, State.moaPut_ports ..⟩

/-- An update event is posted, and no more. -/
theorem State.updPost_rest (s : State) (code : Nat) (p : List Word) :
    (s.updPost code p).update = s.update ∧ (s.updPost code p).moa = s.moa ∧
      (∀ t, ((s.updPost code p).box t).pend = (s.box t).pend) := by
  have h : Posts s (s.updPost code p) := State.postAll_posts _ _ _ _ (Posts.refl s)
  exact ⟨(congrArg State.update h.rest :), (congrArg State.moa h.rest :), fun t => congrArg Mailbox.pend (h.box t)⟩

theorem State.udsResult_update (s : State) (rid : Nat) (bs : List Byte) :
    (s.udsResult rid bs).update = { s.update with uds := (s.udsResult rid bs).update.uds } := rfl

theorem State.udsFinal_update (s : State) (bs : List Byte) :
    (s.udsFinal bs).update = { s.update with uds := (s.udsFinal bs).update.uds } := by
  unfold State.udsFinal
  split <;> rfl

theorem State.jIdle_update (s : State) :
    s.jIdle.update.jrec.state = .idle ∧ s.jIdle.update.check = s.update.check ∧ s.jIdle.update.load = s.update.load ∧
      s.jIdle.update.act = s.update.act ∧ s.jIdle.ports = s.ports := by
  unfold State.jIdle
  rw [(State.mapClear_rest _).1, (State.mapClear_rest _).2, (State.jWrite_update ..).1, (State.jWrite_update ..).2]
  exact ⟨rfl, rfl, rfl, rfl, rfl⟩

/-! ### Requests -/

theorem State.updReq_served {s : State} {t : Ten} {code : Nat} {a : List Word} (h : AsksUpd s t code a)
    (f : List Word → State) : s.updReq t code f = f a := by
  obtain ⟨h, hcls, hauth⟩ := h
  have hauth' : (decide (s.cloister.life = 2) && !(at' s.cloister.reqs (tenReq t)).session.any (fun x => bit x.flags 1)) =
      false := by
    by_cases h2 : s.cloister.life = 2
    · have hflag := hauth h2
      simp only [← bit_eq_getLsbD] at hflag
      rw [hflag, Bool.not_true, Bool.and_false]
    · rw [decide_eq_false h2, Bool.false_and]
  simp only [State.updReq, h, hcls, hauth', Bool.not_true, Bool.false_eq_true, if_false]

/-! ### A header (R524) -/

/-- The transfer that an accepted header begins. -/
def State.received (s : State) (h : List Byte) : State :=
  ((s.moaPut jHdrAddr h).mapClear).jWrite (fun j => { j with
    state := .receiving
    hdrHash := sha256 h
    verOther := if hdrType h = 2 then j.verOther else 0 })

theorem State.received_rest (s : State) (h : List Byte) : (s.received h).update.jrec.state = .receiving ∧
    (s.received h).update.jrec.hdrHash = sha256 h ∧ (s.received h).ports = s.ports := by
  unfold State.received
  rw [(State.jWrite_update ..).1, (State.jWrite_update ..).2, (State.mapClear_rest _).2, State.moaPut_ports]
  exact ⟨rfl, rfl, rfl⟩

section
variable {s : State} {route : Route} {h : List Byte}

theorem State.updBegin_resumed (hst : s.update.jrec.state = .receiving) (hhash : sha256 h = s.update.jrec.hdrHash) :
    s.updBegin route h = (none, s) := by
  rw [State.updBegin, hst, hhash, beq_self_eq_true, beq_self_eq_true, Bool.and_self, if_pos rfl]

theorem State.updBegin_refused {r : Nat} (hst : s.update.jrec.state ≠ .receiving) (hr : s.hdrCheck route h = some r) :
    s.updBegin route h = (some r, s.updPost 0x0111 [w32 r, w32 (hdrType h), hdrVersion h, w32 route.code]) := by
  rw [State.updBegin, beq_eq_false_iff_ne.mpr hst, Bool.false_and, if_neg Bool.false_ne_true, hr]

theorem State.updBegin_begun (hst : s.update.jrec.state ≠ .receiving) (hr : s.hdrCheck route h = none) :
    s.updBegin route h = (none, s.received h) := by
  rw [State.updBegin, beq_eq_false_iff_ne.mpr hst, Bool.false_and, if_neg Bool.false_ne_true, hr, State.received]

end

/-! ### A chunk (R525) -/

section
variable {s : State} {i : Nat} {bs : List Byte}

/-- The state after an accepted chunk: the content key is known, and a new chunk is stored and mapped. -/
def State.chunkTaken (s : State) (i : Nat) (p : List Byte) : State :=
  let s0 : State := if hdrEnc s.xferHdr then
    { s with cloister := { s.cloister with cek := some (s.cekOf s.xferHdr) } } else s
  if s0.mapAt i then s0
  else (s0.moaPut (s0.destOf s.xferHdr + 0x1000 + 4096 * i) p).moaPut (jMapAddr + i) [0xA5]

theorem State.chunkTaken_rest (s : State) (i : Nat) (p : List Byte) : (s.chunkTaken i p).ports = s.ports ∧
    (s.chunkTaken i p).moa = if s.mapAt i = true then s.moa else
      Memory.writeN (Memory.writeN s.moa (s.destOf s.xferHdr + 0x1000 + 4096 * i) p) (jMapAddr + i) [0xA5] := by
  have h : ∀ s0 : State, s0.ports = s.ports → s0.moa = s.moa → s0.mapAt i = s.mapAt i → s0.destOf s.xferHdr = s.destOf s.xferHdr →
      (if s0.mapAt i then s0 else (s0.moaPut (s0.destOf s.xferHdr + 0x1000 + 4096 * i) p).moaPut (jMapAddr + i) [0xA5]).ports =
        s.ports ∧
      (if s0.mapAt i then s0 else (s0.moaPut (s0.destOf s.xferHdr + 0x1000 + 4096 * i) p).moaPut (jMapAddr + i) [0xA5]).moa =
        if s.mapAt i = true then s.moa else
          Memory.writeN (Memory.writeN s.moa (s.destOf s.xferHdr + 0x1000 + 4096 * i) p) (jMapAddr + i) [0xA5] := by
    intro s0 hports hmoa hmap hdest
    rw [hmap, hdest]
    split
    · exact ⟨hports, hmoa⟩
    · rw [State.moaPut_ports, State.moaPut_ports, (State.moaPut_rest ..).2, (State.moaPut_rest ..).2, hmoa]
      exact ⟨hports, rfl⟩
  unfold State.chunkTaken
  dsimp only
  split
  · exact h _ rfl rfl rfl rfl
  · exact h _ rfl rfl rfl rfl

theorem State.updChunk_range (h : hdrChunks s.xferHdr ≤ i ∨ bs.length ≠ wireLen s.xferHdr i) :
    s.updChunk i bs = (.badIndex, s) ∨ s.updChunk i bs = (.badLength, s) := by
  unfold State.updChunk
  by_cases hi : hdrChunks s.xferHdr ≤ i
  · exact .inl (if_pos hi)
  · exact .inr ((if_neg hi).trans (if_pos (bne_iff_ne.mpr (h.resolve_left hi))))

variable (hi : i < hdrChunks s.xferHdr) (hlen : bs.length = wireLen s.xferHdr i)
include hi hlen

theorem State.updChunk_locked (h : s.destLocked s.xferHdr = true) : s.updChunk i bs = (.locked, s) := by
  simp only [State.updChunk, Nat.not_le.mpr hi, hlen, h, bne_self_eq_false, Bool.false_eq_true, if_false, if_true]

theorem State.updChunk_badTag (h : s.destLocked s.xferHdr = false) (hopen : s.chunkOpen s.xferHdr i bs = none) :
    s.updChunk i bs = (.badTag, s) := by
  simp only [State.updChunk, Nat.not_le.mpr hi, hlen, h, hopen, bne_self_eq_false, Bool.false_eq_true, if_false]

theorem State.updChunk_stored {p : List Byte} (h : s.destLocked s.xferHdr = false)
    (hopen : s.chunkOpen s.xferHdr i bs = some p) : s.updChunk i bs = (.stored, s.chunkTaken i p) := by
  simp only [State.updChunk, Nat.not_le.mpr hi, hlen, h, hopen, bne_self_eq_false, Bool.false_eq_true, if_false]
  unfold State.chunkTaken
  exact (apply_ite (Prod.mk ChunkRes.stored) _ _ _).symm

end

/-! ### The end of CHECK (R526) -/

/-- A routine's answer to UDS changes the update service's UDS part alone. -/
theorem State.udsAnswered_update (s : State) (b : Bool) (rid : Nat) (x y : List Byte) :
    (if b = true then (s.udsResult rid x).udsFinal y else s).update.check = s.update.check ∧
    (if b = true then (s.udsResult rid x).udsFinal y else s).update.jrec = s.update.jrec := by
  split
  · rw [State.udsFinal_update, State.udsResult_update]
    exact ⟨rfl, rfl⟩
  · exact ⟨rfl, rfl⟩

/-- CHECK ends: the image is staged where the digest of its body is that of its header, else the transfer ends. -/
theorem State.updCheckDone_update {s : State} {j : ChkJob} (h : s.update.check = some j) :
    s.updCheckDone.update.check = none ∧ s.updCheckDone.update.jrec.state =
      (if sha256 (Memory.readN s.moa (s.destOf s.xferHdr + 0x1000) (hdrSize s.xferHdr)) == hdrDigest s.xferHdr then .staged
        else .idle) := by
  simp only [State.updCheckDone, h]
  generalize (sha256 (Memory.readN s.moa (s.destOf s.xferHdr + 0x1000) (hdrSize s.xferHdr)) == hdrDigest s.xferHdr) = ok
  rw [(State.udsAnswered_update ..).1, (State.udsAnswered_update ..).2]
  cases ok
  · obtain ⟨hidle, hcheck, -⟩ := ((s.cekClear).modUpd (fun u => { u with check := none })).jIdle_update
    simp only [Bool.false_eq_true, if_false, (State.updPost_rest ..).1]
    exact ⟨hcheck, hidle⟩
  · simp only [if_true, (State.updPost_rest ..).1, (State.jWrite_update ..).1, (State.moaPut_rest ..).1]
    exact ⟨rfl, trivial⟩

section
variable {s : State} {t : Ten} {a : List Word}

/-- UPD_BEGIN (R524). -/
theorem updBegin_answers {hdr : List Byte} (h : AsksUpd s t 0x0A02 a) (hstep : s.updStep = false)
    (hhdr : wordsBytes (padTo 128 0 a) = hdr) :
    (s.update.jrec.state = .receiving → sha256 hdr = s.update.jrec.hdrHash →
      Answered (.updBegin t) s s t 0 [w32 (hdrChunks hdr), w32 (s.stored hdr)]) ∧
    (s.update.jrec.state ≠ .receiving → (s.hdrCheck .mailbox hdr).elim
      (∃ s1, Answered (.updBegin t) s s1 t 0 [w32 (hdrChunks hdr), w32 (s1.stored hdr)] ∧
        s1.update.jrec.state = .receiving ∧ s1.update.jrec.hdrHash = sha256 hdr)
      (fun r => ∃ s1, Answered (.updBegin t) s s1 t 12 [w32 r] ∧ s1.update = s.update ∧ s1.moa = s.moa)) := by
  refine ⟨fun hst hhash => .of_exec h.1 (congrArg Host.Outcome.next ((State.updReq_served h _).trans ?_)), fun hst => ?_⟩
  · simp only [hstep, hhdr, State.updBegin_resumed hst hhash, Bool.false_eq_true, if_false]
    rfl
  · cases hcheck : s.hdrCheck .mailbox hdr with
    | some r =>
      obtain ⟨hupd, hmoa, hpend⟩ := s.updPost_rest 0x0111 [w32 r, w32 (hdrType hdr), hdrVersion hdr, w32 Route.mailbox.code]
      refine ⟨_, .of_pend h.1 (hpend t) (congrArg Host.Outcome.next ((State.updReq_served h _).trans ?_)), hupd, hmoa⟩
      simp only [hstep, hhdr, State.updBegin_refused hst hcheck, Bool.false_eq_true, if_false]
      rfl
    | none =>
      obtain ⟨hrec, hhash, hports⟩ := s.received_rest hdr
      refine ⟨s.received hdr, .of_pend h.1 (State.pend_of_ports t hports)
        (congrArg Host.Outcome.next ((State.updReq_served h _).trans ?_)), hrec, hhash⟩
      simp only [hstep, hhdr, State.updBegin_begun hst hcheck, Bool.false_eq_true, if_false]
      rfl

/-- UPD_CHUNK (R525). -/
theorem updChunk_answers {i : Nat} {bs : List Byte} (h : AsksUpd s t 0x0A03 a) (hstep : s.updStep = false)
    (hst : s.update.jrec.state = .receiving) (hi : (a.getD 0 0).toNat = i) (hbs : wordsBytes (a.drop 1) = bs) :
    (hdrChunks s.xferHdr ≤ i ∨ bs.length ≠ wireLen s.xferHdr i → Answered (.updChunk t) s s t 5 []) ∧
    (i < hdrChunks s.xferHdr → bs.length = wireLen s.xferHdr i → s.destLocked s.xferHdr = true →
      Answered (.updChunk t) s s t 2 []) ∧
    (i < hdrChunks s.xferHdr → bs.length = wireLen s.xferHdr i → s.destLocked s.xferHdr = false →
      (s.chunkOpen s.xferHdr i bs).elim (Answered (.updChunk t) s s t 7 [])
      (fun p => ∃ s1, Answered (.updChunk t) s s1 t 0 [] ∧ s1.moa = if s.mapAt i = true then s.moa else
        Memory.writeN (Memory.writeN s.moa (s.destOf s.xferHdr + 0x1000 + 4096 * i) p) (jMapAddr + i) [0xA5])) := by
  have hst' : (s.update.jrec.state != .receiving) = false := by rw [hst]; rfl
  refine ⟨fun hr => .of_exec h.1 (congrArg Host.Outcome.next ((State.updReq_served h _).trans ?_)),
    fun hlt hlen hl => .of_exec h.1 (congrArg Host.Outcome.next ((State.updReq_served h _).trans ?_)),
    fun hlt hlen hl => ?_⟩
  · simp only [hstep, hst', hi, hbs, Bool.false_eq_true, if_false]
    rcases State.updChunk_range hr with he | he
    · rw [he]
      rfl
    · rw [he]
      rfl
  · simp only [hstep, hst', hi, hbs, State.updChunk_locked hlt hlen hl, Bool.false_eq_true, if_false]
    rfl
  · cases hopen : s.chunkOpen s.xferHdr i bs with
    | none =>
      refine .of_exec h.1 (congrArg Host.Outcome.next ((State.updReq_served h _).trans ?_))
      simp only [hstep, hst', hi, hbs, State.updChunk_badTag hlt hlen hl hopen, Bool.false_eq_true, if_false]
      rfl
    | some p =>
      obtain ⟨hports, hmoa⟩ := s.chunkTaken_rest i p
      refine ⟨s.chunkTaken i p, .of_pend h.1 (State.pend_of_ports t hports)
        (congrArg Host.Outcome.next ((State.updReq_served h _).trans ?_)), hmoa⟩
      simp only [hstep, hst', hi, hbs, State.updChunk_stored hlt hlen hl hopen, Bool.false_eq_true, if_false]
      rfl

end

/-- What UPD_QUERY answers (R549): the journal record, the chunks, the progress of an exchange, and the floor. -/
def State.updWords (s : State) : List Word :=
  s.jWords ++ [w32 (if s.xfer then hdrChunks s.xferHdr else 0), w32 (if s.xfer then s.stored s.xferHdr else 0),
    w32 s.update.jrec.unit, w32 s.rbFloor]

/-- Settles O48: each request by its conditions in their order. -/
theorem updateRequests : Obligations.UpdateRequests := by
  unfold Obligations.UpdateRequests
  intro s t a h
  refine ⟨fun hq => ⟨s.updWords, .of_exec hq (congrArg Host.Outcome.next ?_), List.getLast?_append ..⟩,
    fun hq hstep => updBegin_answers hq hstep rfl,
    fun hq hstep hst => updChunk_answers hq hstep hst rfl rfl,
    fun hq => ⟨fun hstep hcomplete => ⟨s.modUpd (fun u => { u with
        check := some { route := .mailbox, ten := some t, start := s.now } }), .of_pend hq.1 rfl
        (congrArg Host.Outcome.next ((State.updReq_served hq _).trans ?_)), rfl⟩,
      fun hno => .of_exec hq.1 (congrArg Host.Outcome.next ((State.updReq_served hq _).trans ?_))⟩,
    fun j hj => ⟨_, rfl, State.updCheckDone_update hj⟩,
    fun hq => ⟨fun harm hver => ⟨s.arm, .of_pend hq.1 (State.pend_of_ports t (State.jWrite_update ..).2)
        (congrArg Host.Outcome.next ((State.updReq_served hq _).trans ?_)), ?_⟩,
      fun hno => .of_exec hq.1 (congrArg Host.Outcome.next ((State.updReq_served hq _).trans ?_))⟩,
    fun hq hport hstep => ⟨s.modUpd (fun u => { u with load := some { ten := t, last := s.now } }), .of_pend hq.1 rfl
      (congrArg Host.Outcome.next ((State.updReq_served hq _).trans ?_)), rfl⟩⟩
  · simp only [hq]
    rfl
  · simp only [hstep, hcomplete, Bool.not_true, Bool.or_self, Bool.false_eq_true, if_false]
    rfl
  · have hbad : (s.updStep || !s.complete) = true := by rcases hno with hno | hno <;> simp [hno]
    simp only [hbad, if_true]
    rfl
  · simp only [harm, hver, beq_self_eq_true, Bool.and_self, if_true]
    rfl
  · rw [State.arm, (State.jWrite_update ..).1]
  · have hbad : (s.canArm (some t) && a.getD 0 0 == hdrVersion s.xferHdr) = false := by
      rcases hno with hno | hno
      · rw [hno, Bool.false_and]
      · rw [beq_eq_false_iff_ne.mpr hno, Bool.and_false]
    simp only [hbad, Bool.false_eq_true, if_false]
    rfl
  · simp only [hport, hstep, bne_self_eq_false, Bool.false_eq_true, if_false]
    rfl

end Sys2Proof.Machine

/-!
PROOFS. The Halser chain (18_halser_chain R578 to R593, R596 to R600, R603): O60.
-/

namespace Sys2Proof.Machine

/-! ### What posting and counting leave, and what the passing of time changes -/

theorem Posts.chain_eq {s u : State} (h : Posts s u) : u.chain = s.chain := (congrArg State.chain h.rest :)
theorem Posts.power_eq {s u : State} (h : Posts s u) : u.power = s.power := (congrArg State.power h.rest :)
theorem Posts.bell_eq {s u : State} (h : Posts s u) : u.bell = s.bell := (congrArg State.bell h.rest :)
theorem Posts.now_eq {s u : State} (h : Posts s u) : u.now = s.now := (congrArg State.now h.rest :)

theorem State.post_refl (s : State) (t : Ten) (code src : Nat) (seq : Option Word) (p : List Word) :
    Posts s (s.post t code src seq p) := State.post_posts _ _ _ _ _ (.refl s)
theorem State.postTo_refl (s : State) (ts : List Ten) (code src : Nat) (seq : Option Word) (p : List Word) :
    Posts s (s.postTo ts code src seq p) := State.postTo_posts _ _ _ _ _ (.refl s)
theorem State.postAll_refl (s : State) (code src : Nat) (seq : Option Word) (p : List Word) :
    Posts s (s.postAll code src seq p) := State.postAll_posts _ _ _ _ (.refl s)
theorem State.tally_refl (s : State) (b u e n : Nat) : Posts s (s.tally b u e n) := State.tally_posts _ _ _ _ (.refl s)

@[simp] theorem State.post_chain (s : State) (t : Ten) (code src : Nat) (seq : Option Word) (p : List Word) :
    (s.post t code src seq p).chain = s.chain := (s.post_refl ..).chain_eq
@[simp] theorem State.postTo_chain (s : State) (ts : List Ten) (code src : Nat) (seq : Option Word) (p : List Word) :
    (s.postTo ts code src seq p).chain = s.chain := (s.postTo_refl ..).chain_eq
@[simp] theorem State.postAll_chain (s : State) (code src : Nat) (seq : Option Word) (p : List Word) :
    (s.postAll code src seq p).chain = s.chain := (s.postAll_refl ..).chain_eq
@[simp] theorem State.tally_chain (s : State) (b u e n : Nat) : (s.tally b u e n).chain = s.chain :=
  (s.tally_refl ..).chain_eq
@[simp] theorem State.halLink_chain (s : State) (d : Bool) (what : Nat) : (s.halLink d what).chain = s.chain :=
  s.postAll_chain ..

/-- Where time passes, only the instant changes. -/
theorem State.passTo_eq (s : State) (d : Time) : s.passTo d = { s with now := max s.now d } := by
  unfold State.passTo
  split
  next h => rw [Nat.max_eq_right (Nat.le_of_lt h)]
  next h => rw [Nat.max_eq_left (Nat.not_lt.mp h)]

theorem State.passFirst_eq (s : State) (ds : List Time) :
    s.passFirst ds = { s with now := max s.now (ds.min?.getD 0) } := by
  unfold State.passFirst
  cases ds.min? with
  | none => exact (congrArg (fun n => { s with now := n }) (Nat.max_zero s.now).symm :)
  | some d => exact s.passTo_eq d

theorem State.le_passTo (s : State) (d : Time) : d ≤ (s.passTo d).now := by
  rw [State.passTo_eq]
  exact Nat.le_max_right _ _

/-! ### Sending -/

/-- Sending changes none but what was sent on the port. -/
theorem State.chSend_eq (s : State) (d : Bool) (f : ChFrame) :
    ∃ u v, s.chSend d f = { s with chain := { s.chain with outU := u, outD := v } } := by
  unfold State.chSend
  split
  · exact ⟨_, _, rfl⟩
  · split <;> exact ⟨_, _, rfl⟩

theorem State.sentOn_chSend_same {s : State} {d : Bool} (h : s.linkUp d = true) (f : ChFrame) :
    sentOn (s.chSend d f) d = sentOn s d ++ [f] := by
  unfold State.chSend
  rw [h]
  cases d <;> rfl

theorem State.sentOn_chSend_other (s : State) (d : Bool) (f : ChFrame) :
    sentOn (s.chSend (!d) f) d = sentOn s d := by
  unfold State.chSend
  split
  · rfl
  · cases d <;> rfl

theorem sentOn_congr {s u : State} (h : u.chain = s.chain) (d : Bool) : sentOn u d = sentOn s d := by
  unfold sentOn
  rw [h]

/-- Giving the chain below its addresses sends, and at the tail takes the chain's length. -/
theorem State.chEnumDown_chain (s : State) :
    ∃ n u v, s.chEnumDown.chain = { s.chain with length := n, outU := u, outD := v } := by
  unfold State.chEnumDown State.chTail
  split
  · obtain ⟨u, v, h⟩ := s.chSend_eq true { type := 0x01, words := [w32 (s.chAddr + 1)] }
    rw [h]
    exact ⟨_, u, v, rfl⟩
  · dsimp only
    obtain ⟨u, v, h⟩ := (s.modChain (fun c => { c with length := s.chAddr + 1 })).chSend_eq false
      { type := 0x02, up := true, dest := 0, src := s.chAddr, words := [w32 (s.chAddr + 1)] }
    rw [h]
    exact ⟨_, u, v, rfl⟩

theorem State.chTail_chain (s : State) :
    ∃ n u v, s.chTail.chain = { s.chain with length := n, outU := u, outD := v } := by
  unfold State.chTail
  obtain ⟨u, v, h⟩ := (s.modChain (fun c => { c with length := s.chAddr + 1 })).chSend_eq false
    { type := 0x02, up := true, dest := 0, src := s.chAddr, words := [w32 (s.chAddr + 1)] }
  dsimp only
  rw [h]
  exact ⟨_, u, v, rfl⟩

theorem State.chEnumerate_chain (s : State) :
    ∃ n u v, s.chEnumerate.chain = { s.chain with length := n, outU := u, outD := v } := by
  unfold State.chEnumerate
  split
  · exact ⟨_, _, _, rfl⟩
  · exact s.chEnumDown_chain

/-- What the loss of the chain Bell leaves of the chain. -/
theorem State.chLoss_chain (s : State) : ∃ x, s.chLoss.chain = { s.chain with
    following := false, lost := true, lossAt := s.now, expect := none, annAt := none, fireAt := none, sweep := x } := by
  unfold State.chLoss
  dsimp only [State.modChain]
  rw [State.postAll_chain]
  exact ⟨_, rfl⟩

/-! ### Links (R578, R579, R599) -/

/-- The port of the chain by its direction. -/
def State.chPort (s : State) (d : Bool) : ChainPort := if d then s.chain.d else s.chain.u

theorem State.chLinkUp_port {s : State} {d : Bool} (he : s.chain.cfg.en = true) (h : (s.chPort d).up = false)
    {delay : Nat} (hd : delay ≤ 100) : (s.chLinkUp d delay).chPort d = { up := true, delay := delay } := by
  have hup : (if d then s.chain.d.up else s.chain.u.up) = false := by cases d <;> exact h
  have hne : ¬ (!s.chain.cfg.en || decide (100 < delay) || (if d then s.chain.d.up else s.chain.u.up)) = true := by
    rw [he, hup, decide_eq_false (by omega)]
    decide
  unfold State.chLinkUp
  rw [if_neg hne]
  dsimp only
  obtain ⟨n, u, v, hc⟩ := State.chEnumerate_chain ((s.modChain (fun c =>
    if d then { c with d := { up := true, delay := delay } } else { c with u := { up := true, delay := delay } })).halLink d 1)
  unfold State.chPort
  rw [hc, State.halLink_chain]
  cases d <;> rfl

theorem State.chLinkUp_refused (s : State) (d : Bool) {delay : Nat} (hd : 100 < delay) : s.chLinkUp d delay = s := by
  unfold State.chLinkUp
  rw [if_pos (by rw [decide_eq_true hd, Bool.or_true, Bool.true_or])]

theorem State.chEcho_port (s : State) (d : Bool) (rt : Nat) :
    ((s.chEcho d rt).chPort d).delay = rt / 2 ∧ ((s.chEcho d rt).chPort d).up = (s.chPort d).up := by
  cases d <;> exact ⟨rfl, rfl⟩

theorem State.chEnum_addr {s : State} (h : s.chain.u.up = true) (v : Nat) :
    (s.chEnum v).chain.addr = if v < 4096 then some v else none := by
  unfold State.chEnum
  rw [if_neg (by rw [h]; decide)]
  dsimp only
  by_cases hv : v < 4096
  · rw [if_neg (Nat.not_le.mpr hv), if_pos hv]
    obtain ⟨n, x, y, hc⟩ := State.chEnumDown_chain ((s.tally 9 0 0 1).modChain (fun c => { c with addr := some v }))
    split
    · rw [State.halLink_chain, hc]
      rfl
    · rw [hc]
      rfl
  · rw [if_pos (Nat.not_lt.mp hv), if_neg hv]
    rfl

theorem State.chLinkDown_d {s : State} (h : s.chain.d.up = true) : (s.chLinkDown true).chain.d = {} := by
  unfold State.chLinkDown
  rw [if_neg (by rw [if_pos rfl, h]; decide)]
  simp only [Bool.not_true, Bool.false_and, Bool.true_and, if_true, Bool.false_eq_true, if_false]
  generalize hs2 : ((s.modChain (fun c => { c with d := {} })).halLink true 2).tally 9 (b2n true) 3 1 = s2
  have h2 : s2.chain.d = {} := by
    rw [← hs2, State.tally_chain, State.halLink_chain]
    rfl
  obtain ⟨x, y, h4⟩ := s2.chSend_eq false { type := 0x05, up := true, src := s.chAddr, words := [w32 s.chAddr] }
  have hend : ∀ t : State, t.chain.d = {} → t.chTail.chain.d = {} ∧ t.chEnumerate.chain.d = {} := fun t ht => by
    obtain ⟨n, u, v, hc⟩ := t.chTail_chain
    obtain ⟨n', u', v', hc'⟩ := t.chEnumerate_chain
    rw [hc, hc']
    exact ⟨ht, ht⟩
  rw [h4]
  split <;> split
  · exact (hend _ (by exact h2)).1
  · exact (hend _ (by exact h2)).2
  · exact (hend _ (by exact h2)).1
  · exact (hend _ (by exact h2)).2

theorem State.chLinkDown_u {s : State} (h : s.chain.u.up = true) : (s.chLinkDown false).chain.u = {} ∧
    (s.chLinkDown false).chain.addr = some 0 ∧ (s.chLinkDown false).chain.following = false := by
  unfold State.chLinkDown
  rw [if_neg (by rw [if_neg Bool.false_ne_true, h]; decide)]
  simp only [Bool.not_false, Bool.false_and, Bool.true_and, Bool.false_eq_true, if_false]
  generalize hs2 : ((s.modChain (fun c => { c with u := {}, addr := some 0 })).halLink false 2).tally 9 (b2n false) 3 1 = s2
  have h2 : s2.chain = { s.chain with u := {}, addr := some 0 } := by
    rw [← hs2, State.tally_chain, State.halLink_chain]
    rfl
  obtain ⟨n, u, v, hc⟩ := (if s.chain.following = true then s2.chLoss else s2).chEnumerate_chain
  obtain ⟨x, hl⟩ := s2.chLoss_chain
  rw [hc]
  split
  · rw [hl, h2]
    exact ⟨rfl, rfl, rfl⟩
  · next hf =>
    rw [h2]
    exact ⟨rfl, rfl, Bool.eq_false_iff.mpr hf⟩

/-! ### Marks (R581, R585, R588 to R590) -/

theorem State.markForward_chain (s : State) (k : Nat) : ∃ x, (s.markForward k).chain = { s.chain with marks := x } := by
  unfold State.markForward
  split
  · rw [State.tally_chain]
    exact ⟨_, rfl⟩
  · exact ⟨_, rfl⟩

/-- A node that may follow does so from an ANNOUNCE mark on. -/
theorem State.chAnnounceMark_follows {s : State} {a : Nat} (hu : s.chain.u.up = true) (hf : s.chain.cfg.follow = true)
    (ha : s.chain.addr = some a) (ha0 : a ≠ 0) (hann : s.bell.ann = none) (hlast : s.bell.lastAt = none) :
    s.chAnnounceMark.chain.following = true ∧ s.chAnnounceMark.chain.annAt = some (grid (s.markDep + us 2)) ∧
      s.chAnnounceMark.chain.expect = some (s.now + us 1500) := by
  have haddr : (s.chAddr != 0) = true := by
    unfold State.chAddr
    rw [ha]
    exact bne_iff_ne.mpr ha0
  unfold State.chAnnounceMark
  rw [if_neg (by rw [hu]; decide)]
  simp only [hf, ha, hann, hlast, haddr, Option.isSome_some, Option.isNone_none, Bool.and_true, Bool.not_true,
    Bool.or_false]
  generalize hs1 : (if s.chain.following = true then s else _ : State) = s1
  have h1 : s1.chain.following = true := by
    rw [← hs1]
    split
    next h => exact h
    next =>
      rw [State.postAll_chain]
      rfl
  rw [if_pos h1]
  obtain ⟨x, hc⟩ := State.markForward_chain (s1.modChain (fun c => { c with
    annAt := some (grid (s.markDep + us 2)), expect := some (s.now + us 1500) })) 1
  rw [hc]
  exact ⟨h1, rfl, rfl⟩

theorem State.chBellMark_fires {s : State} (hu : s.chain.u.up = true) (hf : s.chain.following = true) :
    s.chBellMark.chain.fireAt = some (grid (s.markDep + us 2)) ∧ s.chBellMark.chain.lastMark = some s.now ∧
      s.chBellMark.chain.expect = none := by
  unfold State.chBellMark
  rw [if_neg (by rw [hu]; decide)]
  simp only [hf, if_true]
  generalize hs1 : s.modChain _ = s1
  obtain ⟨x, hc⟩ := s1.markForward_chain 2
  rw [hc, ← hs1]
  exact ⟨rfl, rfl, rfl⟩

theorem State.chainBellLoss_chain {s : State} (hf : s.chain.following = true)
    (h : s.chain.u.up = false ∨ s.chain.expect ≠ none) : s.chainBellLoss.chain.following = false ∧
      s.chainBellLoss.chain.lost = true ∧ s.chainBellLoss.chain.annAt = none ∧ s.chainBellLoss.chain.fireAt = none := by
  have lost : ∀ t : State, t.chLoss.chain.following = false ∧ t.chLoss.chain.lost = true ∧
      t.chLoss.chain.annAt = none ∧ t.chLoss.chain.fireAt = none := fun t => by
    obtain ⟨x, hx⟩ := t.chLoss_chain
    rw [hx]
    exact ⟨rfl, rfl, rfl, rfl⟩
  unfold State.chainBellLoss
  rw [if_neg (by rw [hf]; decide)]
  split
  · exact lost _
  · next hup =>
    obtain ⟨e, he⟩ := Option.ne_none_iff_exists'.mp (h.resolve_left fun h => hup (by rw [h]; rfl))
    rw [he]
    exact lost _

/-! ### Frames received (R580, R583) -/

/-- A frame's reception is counted. -/
abbrev State.heard (s : State) (d : Bool) : State := s.tally 9 (b2n d) 0 1

theorem State.chAddr_of_chain {s u : State} (h : u.chain = s.chain) : u.chAddr = s.chAddr := by
  unfold State.chAddr
  rw [h]

theorem State.linkUp_of_chain {s u : State} (h : u.chain = s.chain) (d : Bool) : u.linkUp d = s.linkUp d := by
  unfold State.linkUp
  rw [h]

theorem Heard.chAddr {s : State} {d : Bool} {a : Nat} (h : Heard s d a) : s.chAddr = a := by
  unfold State.chAddr
  rw [h.2.2]
  rfl

theorem Heard.linkUp {s : State} {d : Bool} {a : Nat} (h : Heard s d a) : s.linkUp d = true := by
  obtain ⟨-, hup, ha⟩ := h
  unfold State.linkUp
  rw [ha]
  cases d
  · exact hup
  · exact (Bool.and_true _).trans hup

theorem Heard.heard {s : State} {d : Bool} {a : Nat} (h : Heard s d a) : Heard (s.heard d) d a := by
  have hp : Posts s (s.heard d) := s.tally_refl ..
  unfold Heard State.live at h ⊢
  rw [hp.chain_eq, hp.power_eq]
  exact h

/-- A good frame goes to whom it concerns. -/
theorem State.chRecv_good {s : State} {d : Bool} {a : Nat} {f : ChFrame} (h : Heard s d a) (hf : f.ending = .good)
    (mine : Bool) (k : State → State) : s.chRecv d f mine k = k (s.heard d) := by
  obtain ⟨hlive, hup, ha⟩ := h
  unfold State.chRecv
  have hk : (FrameEnd.good == FrameEnd.k30) = false := rfl
  have hg : (FrameEnd.good == FrameEnd.good) = true := rfl
  rw [hlive, hup, hf]
  simp only [hk, hg, Bool.not_true, Bool.false_and, Bool.false_eq_true, if_false, State.tally_chain, ha,
    Option.isNone_some, if_true]

/-- A bad frame is discarded, and one that another node may take too goes on ended by K30.7 (R583). -/
theorem State.chRecv_bad {s : State} {d : Bool} {a : Nat} {f : ChFrame} (h : Heard s d a) (hf : f.ending ≠ .good)
    (mine : Bool) (k : State → State) :
    (mine = false → s.linkUp (!d) = true →
      sentOn (s.chRecv d f mine k) (!d) = sentOn s (!d) ++ [{ f with ending := .k30 }]) ∧
    (mine = true → (s.chRecv d f mine k).chain = s.chain) := by
  obtain ⟨hlive, hup, ha⟩ := h
  unfold State.chRecv
  rw [hlive, hup]
  simp only [Bool.not_true, Bool.false_and, Bool.false_eq_true, if_false]
  generalize hs2 : (if f.ending == .k30 then (s.tally 9 (b2n d) 0 1).tally 9 (b2n d) 1 1 else s.tally 9 (b2n d) 0 1) = s2
  have hc : s2.chain = s.chain := by
    rw [← hs2]
    split <;> simp only [State.tally_chain]
  rw [hc, ha, Option.isNone_some, if_neg Bool.false_ne_true, if_neg (by simpa using hf), State.linkUp_of_chain hc]
  refine ⟨fun hm hl => ?_, fun hm => ?_⟩
  · rw [hm, hl, if_neg (by decide), sentOn_congr (State.tally_chain ..), State.chForward,
      State.sentOn_chSend_same ((State.linkUp_of_chain hc _).trans hl), sentOn_congr hc]
  · rw [hm, Bool.true_or, if_pos rfl, hc]

/-- A bad frame for another node goes on ended by K30.7, and one for node 0 alone has no effect. -/
theorem exec_badFrame {s : State} {d : Bool} {a : Nat} {f : ChFrame} (h : Heard s d a) (hf : f.ending ≠ .good)
    (hbc : f.bc = false) :
    ∀ c ∈ [Instr.msg d f, .ack d f, .unreach d f, .fetch d f, .data d f, .sweepDone d f, .floorFrame d f, .breakFrame d f],
      ∃ u, exec c s = .next u ∧
        (f.dest ≠ a → a ≠ 0 → s.linkUp (!d) = true → sentOn u (!d) = sentOn s (!d) ++ [{ f with ending := .k30 }]) ∧
        (f.dest = a → a = 0 → u.chain = s.chain) := by
  have htold : ∀ (mine : Bool) (k : State → State), (f.dest ≠ a → a ≠ 0 → mine = false) →
      (f.dest = a → a = 0 → mine = true) → ∃ u, Host.Outcome.next (s.chRecv d f mine k) = (.next u :
        Host.Outcome State Fault Refusal) ∧
        (f.dest ≠ a → a ≠ 0 → s.linkUp (!d) = true → sentOn u (!d) = sentOn s (!d) ++ [{ f with ending := .k30 }]) ∧
        (f.dest = a → a = 0 → u.chain = s.chain) := fun mine k h1 h2 => by
    obtain ⟨hfwd, hown⟩ := State.chRecv_bad h hf mine k
    exact ⟨_, rfl, fun hd ha hl => hfwd (h1 hd ha) hl, fun hd ha => hown (h2 hd ha)⟩
  have hnode := fun k => htold (decide (f.dest = s.chAddr)) k
    (fun hd _ => decide_eq_false (by rw [h.chAddr]; exact hd)) (fun hd _ => decide_eq_true (by rw [h.chAddr]; exact hd))
  have hmsg := fun k => htold (!f.bc && decide (f.dest = s.chAddr)) k
    (fun hd _ => by rw [h.chAddr, decide_eq_false hd, Bool.and_false])
    (fun hd _ => by rw [h.chAddr, decide_eq_true hd, hbc]; rfl)
  have hhead := fun k => htold (decide (s.chAddr = 0)) k
    (fun _ ha => decide_eq_false (by rw [h.chAddr]; exact ha)) (fun _ ha => decide_eq_true (by rw [h.chAddr]; exact ha))
  intro c hc
  simp only [List.mem_cons, List.not_mem_nil, or_false] at hc
  rcases hc with rfl | rfl | rfl | rfl | rfl | rfl | rfl | rfl
  · exact hmsg _
  · exact hnode _
  · exact hnode _
  · exact hnode _
  · exact hnode _
  · exact hhead _
  · exact hhead _
  · exact hhead _

/-- A good frame for another node goes on through the other port (R583). -/
theorem exec_passedFrame {s : State} {d : Bool} {a : Nat} {f : ChFrame} (h : Heard s d a) (hf : f.ending = .good)
    (hbc : f.bc = false) (hne : f.dest ≠ a) (ha0 : a ≠ 0) (hl : s.linkUp (!d) = true) :
    ∀ c ∈ [Instr.msg d f, .ack d f, .unreach d f, .fetch d f, .data d f, .sweepDone d f, .floorFrame d f, .breakFrame d f],
      exec c s = .next ((s.heard d).chForward d f) := by
  have ha : (s.heard d).chAddr = a := h.heard.chAddr
  have hnode : (f.dest != (s.heard d).chAddr) = true := by rw [ha]; exact bne_iff_ne.mpr hne
  have hhead : ((s.heard d).chAddr != 0) = true := by rw [ha]; exact bne_iff_ne.mpr ha0
  have hlink : (s.heard d).linkUp (!d) = true := (State.linkUp_of_chain (State.tally_chain ..) _).trans hl
  intro c hc
  simp only [List.mem_cons, List.not_mem_nil, or_false] at hc
  rcases hc with rfl | rfl | rfl | rfl | rfl | rfl | rfl | rfl <;>
    refine congrArg Host.Outcome.next ((State.chRecv_good h hf _ _).trans ?_)
  · simp only [hbc, ha, hne, hlink, decide_false, Bool.or_self, Bool.and_false, Bool.false_eq_true, if_false, if_true]
  · exact if_pos hnode
  · exact if_pos hnode
  · exact if_pos hnode
  · exact if_pos hnode
  · exact if_pos hhead
  · exact if_pos hhead
  · exact if_pos hhead

theorem State.chForward_heard {s : State} {d : Bool} (hl : s.linkUp (!d) = true) (f : ChFrame) :
    sentOn ((s.heard d).chForward d f) (!d) = sentOn s (!d) ++ [f] ∧
      sentOn ((s.heard d).chForward d f) d = sentOn s d := by
  have hc : (s.heard d).chain = s.chain := State.tally_chain ..
  refine ⟨?_, ?_⟩
  · rw [State.chForward, State.sentOn_chSend_same ((State.linkUp_of_chain hc _).trans hl), sentOn_congr hc]
  · rw [State.chForward, State.sentOn_chSend_other, sentOn_congr hc]

/-! ### Frames with one effect: ENUM_TAIL, ANNOUNCE, FLOOR, BREAK -/

section
variable {s : State} {d : Bool} {a : Nat} {f : ChFrame}

theorem State.chEnumTail_length (h : Heard s d a) (hf : f.ending = .good) :
    (s.chEnumTail d f).chain.length = (f.words.getD 0 0).toNat := by
  unfold State.chEnumTail
  rw [State.chRecv_good h hf]
  dsimp only
  generalize hs1 : (s.heard d).modChain (fun c => { c with length := (f.words.getD 0 0).toNat }) = s1
  have hlen : s1.chain.length = (f.words.getD 0 0).toNat := by
    rw [← hs1]
    rfl
  split
  · obtain ⟨u, v, he⟩ := s1.chSend_eq true { f with up := false }
    rw [he]
    exact hlen
  · obtain ⟨u, v, he⟩ := s1.chSend_eq (!d) f
    rw [State.chForward, he]
    exact hlen

theorem State.chAnnounceFrame_cbOff (h : Heard s d a) (hf : f.ending = .good) :
    (s.chAnnounceFrame d f).chain.cbOff = f.words.getD 0 0 - (s.bell.bellno.setWidth 32 + 1) := by
  unfold State.chAnnounceFrame
  rw [State.chRecv_good h hf]
  obtain ⟨u, v, he⟩ := ((s.heard d).modChain (fun c =>
    { c with cbOff := f.words.getD 0 0 - ((s.heard d).bn32 + 1) })).chSend_eq (!d) f
  rw [State.chForward, he]
  change f.words.getD 0 0 - ((s.heard d).bn32 + 1) = _
  rw [State.bn32_eq, (s.tally_refl ..).bell_eq]

theorem lookup_filter_ne {κ α : Type} [BEq κ] [LawfulBEq κ] (k : κ) (xs : List (κ × α)) :
    (xs.filter (fun e => !(e.1 == k))).lookup k = none := by
  rw [List.lookup_eq_none_iff]
  intro e he
  have hne := (List.mem_filter.mp he).2
  rw [bne, Bool.beq_comm]
  exact hne

theorem lookup_putKey {κ α : Type} [BEq κ] [LawfulBEq κ] (k : κ) (x : α) (xs : List (κ × α)) :
    (putKey k x xs).lookup k = some x := by
  unfold putKey
  rw [List.lookup_cons_self]

theorem State.chFloorFrame_floors (h : Heard s d 0) (hf : f.ending = .good) :
    (s.chFloorFrame d f).chain.floors.lookup f.src =
      if f.words.getD 0 0 = 0 then none else some (f.words.getD 0 0).toNat := by
  have ha : ((s.heard d).chAddr != 0) = false := by rw [h.heard.chAddr]; rfl
  unfold State.chFloorFrame
  rw [State.chRecv_good h hf]
  simp only [ha, Bool.false_eq_true, if_false, State.modChain]
  by_cases hw : f.words.getD 0 0 = 0
  · rw [if_pos hw, if_pos (by rw [hw]; rfl)]
    exact lookup_filter_ne _ _
  · rw [if_neg hw, if_neg (fun h0 : (f.words.getD 0 0).toNat = 0 => hw (BitVec.eq_of_toNat_eq h0))]
    exact lookup_putKey _ _ _

theorem State.chBreak_run (h : Heard s d 0) (hf : f.ending = .good) {r : SweepRun} (hr : s.chain.run = some r)
    (h1 : r.first ≤ (f.words.getD 0 0).toNat) (h2 : (f.words.getD 0 0).toNat ≤ r.last) :
    (s.chBreak d f).chain.run = some { r with
      break' := some (min (f.words.getD 0 0).toNat (r.break'.getD (f.words.getD 0 0).toNat)) } := by
  have ha : ((s.heard d).chAddr != 0) = false := by rw [h.heard.chAddr]; rfl
  unfold State.chBreak
  rw [State.chRecv_good h hf]
  simp only [ha, Bool.false_eq_true, if_false]
  obtain ⟨n, u, v, hc⟩ := State.chEnumerate_chain ((s.heard d).modChain (fun c => { c with
    run := c.run.map (fun r => if r.first ≤ (f.words.getD 0 0).toNat && (f.words.getD 0 0).toNat ≤ r.last then
      { r with break' := some (min (f.words.getD 0 0).toNat (r.break'.getD (f.words.getD 0 0).toNat)) } else r) }))
  rw [hc]
  simp only [State.modChain, State.tally_chain, hr, Option.map_some, decide_eq_true h1, decide_eq_true h2, Bool.and_self,
    if_true]

end

/-! ### Messages (R591 to R594) -/

theorem State.answer_chain (s : State) (t : Ten) (code : Nat) (data : List Word) :
    (s.answer t code data).chain = s.chain := by
  unfold State.answer
  split
  · rfl
  · exact (State.notify_posts t 1 (.refl _)).chain_eq

theorem State.isCls_of_posts {s u : State} (h : Posts s u) (t : Ten) (c : Cls) : u.isCls t c = s.isCls t c := by
  unfold State.isCls
  rw [h.ten t]

theorem State.deliver_taken {s : State} {t : Ten} (hcls : s.isCls t .safety = true ∨ s.isCls t .service = true)
    (hlen : (at' s.chain.rx t).length < 32) (src : Nat) (ws : List Word) :
    ∃ u, s.deliver t src ws = (u, 0) ∧
      u.chain = { s.chain with rx := upd s.chain.rx t (fun q => q ++ [{ src := src, words := ws }]) } := by
  have hc : (s.isCls t .safety || s.isCls t .service) = true := by
    rw [Bool.or_eq_true]
    exact hcls
  unfold State.deliver
  rw [hc, if_neg (by decide), if_neg (Nat.not_le.mpr hlen)]
  dsimp only
  refine ⟨_, rfl, ?_⟩
  split
  · exact State.post_chain ..
  · rfl

/-- What dropping, failing and sending messages of a tenant leave: the instant, what was delivered, the other tenants'
queues and the messages queued by MSEQ; a failure is counted. -/
structure Pumped (t : Ten) (s u : State) : Prop where
  now : u.now = s.now
  deliv : u.chain.stDeliv = s.chain.stDeliv
  fail : s.chain.stFail ≤ u.chain.stFail
  others : ∀ y, y ≠ t → at' u.chain.tx y = at' s.chain.tx y
  mseqs : ∀ q, (∀ m ∈ at' s.chain.tx t, m.mseq ≠ q) → ∀ m ∈ at' u.chain.tx t, m.mseq ≠ q

namespace Pumped
variable {t : Ten} {s u v : State}

theorem refl (s : State) : Pumped t s s := ⟨rfl, rfl, (Nat.le_refl _), fun _ _ => rfl, fun _ h => h⟩

theorem trans (h : Pumped t s u) (k : Pumped t u v) : Pumped t s v :=
  ⟨k.now.trans h.now, k.deliv.trans h.deliv, Nat.le_trans h.fail k.fail, fun y hy => (k.others y hy).trans (h.others y hy),
    fun q hq => k.mseqs q (h.mseqs q hq)⟩

theorem of_chain (hn : u.now = s.now) (h : u.chain = s.chain) : Pumped t s u := by
  refine ⟨hn, by rw [h], Nat.le_of_eq (by rw [h]), fun _ _ => by rw [h], fun q hq => ?_⟩
  rw [h]
  exact hq

end Pumped

theorem State.msgDrop_pumped (s : State) (t : Ten) (q : Word) :
    Pumped t s (s.msgDrop t q) ∧ ∀ m ∈ at' (s.msgDrop t q).chain.tx t, m.mseq ≠ q := by
  have htx : at' (s.msgDrop t q).chain.tx t = (at' s.chain.tx t).filter (fun m => m.mseq != q) := at_upd _ _ _
  refine ⟨⟨rfl, rfl, (Nat.le_refl _), fun y hy => at_upd_ne _ _ _ _ hy, fun p hp m hm => ?_⟩, fun m hm => ?_⟩
  · rw [htx] at hm
    exact hp m (List.mem_filter.mp hm).1
  · rw [htx] at hm
    exact bne_iff_ne.mp (List.mem_filter.mp hm).2

theorem State.msgFail_pumped (s : State) (t : Ten) (m : ChMsg) (why : Nat) :
    Pumped t s (s.msgFail t m why) ∧ (s.msgFail t m why).chain.stFail = s.chain.stFail + 1 := by
  have hp := State.post_refl (s.modChain (fun c => { c with stFail := c.stFail + 1 })) t 0x0121
    (0xB0 + b2n (s.toward m.dest)) (some m.seq) [m.seq, m.mseq, w32 m.dest, w32 why]
  have hc : (s.msgFail t m why).chain = { s.chain with stFail := s.chain.stFail + 1 } := hp.chain_eq
  refine ⟨⟨hp.now_eq, ?_, ?_, ?_, ?_⟩, ?_⟩ <;> rw [hc]
  · exact Nat.le_succ _
  · exact fun _ _ => rfl
  · exact fun _ h => h

theorem State.msgSend1_pumped (s : State) (t : Ten) (m : ChMsg) : Pumped t s (s.msgSend1 t m) := by
  have hmap : Pumped t s (s.modChain (fun c => { c with
      tx := upd c.tx t (fun q => q.map (fun x =>
        if x.mseq = m.mseq then { x with sent := some s.now, tries := x.tries + 1 } else x)) })) := by
    refine ⟨rfl, rfl, (Nat.le_refl _), fun y hy => at_upd_ne _ _ _ _ hy, fun p hp y hy => ?_⟩
    have htx := (at_upd s.chain.tx t (fun q => q.map (fun x =>
        if x.mseq = m.mseq then { x with sent := some s.now, tries := x.tries + 1 } else x)))
    obtain ⟨x, hx, rfl⟩ := List.mem_map.mp ((congrArg (y ∈ ·) htx).mp hy)
    split
    · exact hp x hx
    · exact hp x hx
  unfold State.msgSend1
  dsimp only
  split
  · exact (s.msgDrop_pumped t m.mseq).1.trans (State.msgFail_pumped _ t m 1).1
  · split
    · exact hmap
    · refine hmap.trans ?_
      generalize s.modChain _ = s1
      obtain ⟨x, y, he⟩ := (s1.modChain (fun c => { c with stSent := c.stSent + 1 })).chSend_eq (s.toward m.dest)
        (msgFrame s.chAddr t m (!(s.toward m.dest)))
      rw [he]
      exact ⟨rfl, rfl, (Nat.le_refl _), fun _ _ => rfl, fun _ h => h⟩

theorem forEach_pumped {α : Type} {t : Ten} {f : α → State → State} (xs : List α) (hf : ∀ x s, Pumped t s (f x s))
    (s : State) : Pumped t s (forEach xs f s) :=
  forEach_holds (P := Pumped t s) xs (.refl s) fun x _ u hu => hu.trans (hf x u)

theorem State.msgPump_pumped (s : State) (t : Ten) : Pumped t s (s.msgPump t) :=
  forEach_pumped _ (fun _ _ => State.msgSend1_pumped _ t _) s

section
variable {s : State} {d : Bool} {a : Nat} {f : ChFrame}

/-- A unicast message for this node comes to its queue. -/
theorem State.chMsg_here (h : Heard s d a) (hf : f.ending = .good) (hbc : f.bc = false) (hd : f.dest = a) :
    s.chMsg d f = (s.heard d).msgHere d f := by
  have hv : ((s.heard d).power.state == .vigil) = false := by
    have hlive := h.heard.1
    unfold State.live at hlive
    cases hst : (s.heard d).power.state <;> rw [hst] at hlive <;> simp_all
  have ha : (s.heard d).chAddr = a := h.heard.chAddr
  unfold State.chMsg
  rw [State.chRecv_good h hf]
  simp only [hv, hbc, ha, hd, decide_true, Bool.false_and, Bool.false_eq_true, if_false, if_true]

theorem State.chMsg_delivered (h : Heard s d a) (hf : f.ending = .good) (hbc : f.bc = false) (hd : f.dest = a)
    (hcls : s.isCls f.tnt .safety = true ∨ s.isCls f.tnt .service = true) (hlen : (at' s.chain.rx f.tnt).length < 32)
    (hseen : s.chain.seen.find? (fun e => e.1 == (f.src, f.tnt.val)) = none) :
    at' (s.chMsg d f).chain.rx f.tnt = at' s.chain.rx f.tnt ++ [{ src := f.src, words := f.words.tail }] ∧
      (s.chMsg d f).chain.stDeliv = s.chain.stDeliv + 1 ∧
      (s.chMsg d f).chain.seen.lookup (f.src, f.tnt.val) = some (f.words.getD 0 0) := by
  have hp : Posts s (s.heard d) := s.tally_refl ..
  obtain ⟨u, hu, huc⟩ := State.deliver_taken (s := s.heard d) (t := f.tnt)
    (by rw [State.isCls_of_posts hp, State.isCls_of_posts hp]; exact hcls) (by rw [hp.chain_eq]; exact hlen)
    f.src f.words.tail
  rw [State.chMsg_here h hf hbc hd, State.msgHere]
  simp only [hp.chain_eq, hseen, Option.map_none, Bool.false_eq_true, if_false, hu]
  generalize hs1 : u.modChain _ = s1
  have h1 : s1.chain = { s.chain with
      rx := upd s.chain.rx f.tnt (fun q => q ++ [{ src := f.src, words := f.words.tail }])
      seen := putKey (f.src, f.tnt.val) (f.words.getD 0 0) s.chain.seen, stDeliv := s.chain.stDeliv + 1 } := by
    rw [← hs1, State.modChain, huc, hp.chain_eq]
  obtain ⟨x, y, he⟩ := s1.chSend_eq d
    { type := 0x11, up := !d, dest := f.src, src := (s.heard d).chAddr, tnt := f.tnt, words := [f.words.getD 0 0, w32 0] }
  rw [he, h1]
  exact ⟨at_upd _ _ _, rfl, lookup_putKey _ _ _⟩

theorem State.chMsg_again (h : Heard s d a) (hf : f.ending = .good) (hbc : f.bc = false) (hd : f.dest = a)
    {e : (Nat × Nat) × Word} (hseen : s.chain.seen.find? (fun e => e.1 == (f.src, f.tnt.val)) = some e)
    (he : e.2 = f.words.getD 0 0) :
    at' (s.chMsg d f).chain.rx f.tnt = at' s.chain.rx f.tnt ∧ (s.chMsg d f).chain.stDup = s.chain.stDup + 1 := by
  have hc : (s.heard d).chain = s.chain := State.tally_chain ..
  rw [State.chMsg_here h hf hbc hd, State.msgHere]
  simp only [hc, hseen, Option.map_some, he, BEq.rfl, Bool.true_or, if_true]
  obtain ⟨x, y, hs⟩ := ((s.heard d).modChain (fun c => { c with stDup := c.stDup + 1 })).chSend_eq d
    { type := 0x11, up := !d, dest := f.src, src := (s.heard d).chAddr, tnt := f.tnt, words := [f.words.getD 0 0, w32 0] }
  rw [hs]
  simp only [State.modChain, hc, and_self]

theorem State.msgOf_of_chain {s u : State} (h : u.chain = s.chain) (f : ChFrame) : u.msgOf f = s.msgOf f := by
  unfold State.msgOf
  rw [h]

theorem State.chAck_frees (h : Heard s d a) (hf : f.ending = .good) (hd : f.dest = a) {m : ChMsg}
    (hm : s.msgOf f = some m) (h0 : f.words.getD 1 0 = 0) :
    (s.chAck d f).chain.stDeliv = s.chain.stDeliv + 1 ∧ ∀ x ∈ at' (s.chAck d f).chain.tx f.tnt, x.mseq ≠ m.mseq := by
  have hc : (s.heard d).chain = s.chain := State.tally_chain ..
  have hown : (f.dest != (s.heard d).chAddr) = false := by rw [h.heard.chAddr, hd]; exact bne_self_eq_false _
  have hz : (0 : Word).toNat = 0 := rfl
  unfold State.chAck
  rw [State.chRecv_good h hf]
  simp only [hown, Bool.false_eq_true, if_false, State.msgOf_of_chain hc, hm, h0, hz, if_true]
  obtain ⟨-, hfree⟩ := (s.heard d).msgDrop_pumped f.tnt m.mseq
  generalize hs1 : State.modChain _ _ = s1
  have hpump := s1.msgPump_pumped f.tnt
  refine ⟨?_, hpump.mseqs _ ?_⟩
  · rw [hpump.deliv, ← hs1]
    simp only [State.modChain, State.msgDrop, hc]
  · rw [← hs1]
    exact hfree

theorem State.chUnreach_fails (h : Heard s d a) (hf : f.ending = .good) (hd : f.dest = a) {m : ChMsg}
    (hm : s.msgOf f = some m) :
    s.chain.stFail < (s.chUnreach d f).chain.stFail ∧ ∀ x ∈ at' (s.chUnreach d f).chain.tx f.tnt, x.mseq ≠ m.mseq := by
  have hc : (s.heard d).chain = s.chain := State.tally_chain ..
  have hown : (f.dest != (s.heard d).chAddr) = false := by rw [h.heard.chAddr, hd]; exact bne_self_eq_false _
  unfold State.chUnreach
  rw [State.chRecv_good h hf]
  simp only [hown, Bool.false_eq_true, if_false, State.msgOf_of_chain hc, hm]
  obtain ⟨hdrop, hfree⟩ := (s.heard d).msgDrop_pumped f.tnt m.mseq
  obtain ⟨hfail, hcount⟩ := ((s.heard d).msgDrop f.tnt m.mseq).msgFail_pumped f.tnt m 1
  have hpump := State.msgPump_pumped (((s.heard d).msgDrop f.tnt m.mseq).msgFail f.tnt m 1) f.tnt
  refine ⟨?_, hpump.mseqs _ (hfail.mseqs _ hfree)⟩
  have h1 := hdrop.fail
  have h2 := hpump.fail
  rw [hc] at h1
  omega

/-- An answer with what this node holds of a sweep goes back by the port it was asked through (R603). -/
theorem State.chFetch_answers (h : Heard s d a) (hf : f.ending = .good) (hd : f.dest = a) :
    ∃ g, sentOn (s.chFetch d f) d = sentOn s d ++ [g] ∧ g.type = 0x23 ∧ g.dest = f.src ∧
      g.words = [w32 (f.words.getD 0 0).toNat, w32 (f.words.getD 1 0).toNat,
        w32 (s.sweepHeld (f.words.getD 0 0).toNat).1] ++
        (((s.sweepHeld (f.words.getD 0 0).toNat).2.drop (f.words.getD 1 0).toNat).take (f.words.getD 2 0).toNat).flatten := by
  have hc : (s.heard d).chain = s.chain := State.tally_chain ..
  have hheld : ∀ id, (s.heard d).sweepHeld id = s.sweepHeld id := fun id => by
    unfold State.sweepHeld
    rw [hc]
  have hown : (f.dest != (s.heard d).chAddr) = false := by rw [h.heard.chAddr, hd]; exact bne_self_eq_false _
  unfold State.chFetch
  rw [State.chRecv_good h hf]
  simp only [hown, Bool.false_eq_true, if_false, hheld]
  exact ⟨_, (State.sentOn_chSend_same h.heard.linkUp _).trans (congrArg (· ++ _) (sentOn_congr hc d)), rfl, rfl, rfl⟩

/-- The step of a SWEEP_FETCH of one step completes its answer (R603). -/
theorem State.chData_completes (h : Heard s d a) (hf : f.ending = .good) (hd : f.dest = a) {t : Ten} {id first : Nat}
    {st x0 x1 x2 x3 : Word} (hff : s.chain.fetchFor = some (t, f.src, id, first, 1)) (hfirst : first < 2 ^ 32)
    (hw : f.words = [w32 id, w32 first, st, x0, x1, x2, x3]) (hpend : (s.box t).pend ≠ none) :
    (s.chData d f).chain.fetchFor = none ∧ ((s.chData d f).box t).ready = true ∧ ((s.chData d f).box t).answer = 0 ∧
      ((s.chData d f).box t).buf.take 6 = [st, 1, x0, x1, x2, x3] := by
  have hp : Posts s (s.heard d) := s.tally_refl ..
  have hown : (f.dest != (s.heard d).chAddr) = false := by rw [h.heard.chAddr, hd]; exact bne_self_eq_false _
  have hfst : (w32 first).toNat = first := by
    rw [w32, BitVec.toNat_ofNat]
    exact Nat.mod_eq_of_lt hfirst
  have hfours : fours 64 (List.drop 3 [w32 id, w32 first, st, x0, x1, x2, x3]) = [[x0, x1, x2, x3]] := rfl
  have hsteps : (List.range 1).filterMap (fun i => ((forEach ([[x0, x1, x2, x3]].zipIdx.map (fun e => (first + e.2, e.1)))
      (fun e xs => putKey e.1 e.2 xs) s.chain.fetched).find? (fun e => e.1 = first + i)).map (·.2)) =
      [[x0, x1, x2, x3]] := by
    simp [forEach, putKey]
  obtain ⟨⟨c, tok, args, n⟩, hpd⟩ := Option.ne_none_iff_exists'.mp hpend
  unfold State.chData
  rw [State.chRecv_good h hf]
  simp only [hown, Bool.false_eq_true, if_false, hp.chain_eq, hff, hw, List.getD_cons_zero, List.getD_cons_succ, bne_self_eq_false,
    Bool.or_self, hfst]
  have hlen : [[x0, x1, x2, x3]].length = 1 := rfl
  rw [hfours, hsteps, if_pos hlen, State.fetchAnswer, hlen, if_neg (Nat.lt_irrefl 1)]
  generalize hs1 : (s.heard d).modChain _ = s1
  have hbox : s1.box t = s.box t := by
    rw [← hs1]
    exact hp.box t
  have hans := State.answer_box (code := ansOk) (s := s1) (t := t) (by rw [hbox]; exact hpd) ([w32 st.toNat, w32 1] ++ [[x0, x1, x2, x3]].flatten)
  have hst : w32 st.toNat = st := BitVec.ofNat_toNat 32 st
  refine ⟨?_, by rw [hans], (congrArg Mailbox.answer hans).trans rfl, ?_⟩
  · rw [State.answer_chain, ← hs1]
    rfl
  · rw [hans, hst]
    rfl

end

/-! ### Sweeps (R595 to R600) -/

/-- The end of a sweep is posted once, and the sweep is then over. -/
theorem State.sweepPost_rest (s : State) : s.sweepPost.now = s.now ∧
    s.sweepPost.chain = { s.chain with run := s.chain.run.map (fun r => { r with posted := true }) } := by
  unfold State.sweepPost
  split
  next h => exact ⟨rfl, by rw [h, Option.map_none, ← h]⟩
  next r h =>
    split
    next hp =>
      refine ⟨rfl, ?_⟩
      have hr : { r with posted := true } = r := by rw [← hp]
      rw [h, Option.map_some, hr, ← h]
    next =>
      rw [h]
      split
      · exact ⟨(State.post_refl ..).now_eq, (State.post_refl ..).chain_eq⟩
      · exact ⟨(State.post_refl ..).now_eq, (State.post_refl ..).chain_eq⟩

theorem State.sweepReport_rest (s : State) (id src st : Nat) :
    ∃ r, (s.sweepReport id src st).chain = { s.chain with run := r } := by
  unfold State.sweepReport
  split
  · exact ⟨_, rfl⟩
  · split
    · exact ⟨_, rfl⟩
    · dsimp only
      split
      · rw [(State.sweepPost_rest _).2]
        exact ⟨_, rfl⟩
      · exact ⟨_, rfl⟩

theorem State.sweepReport_run {s : State} {r : SweepRun} (hr : s.chain.run = some r) (hp : r.posted = false) (src st : Nat) :
    ∃ x, (s.sweepReport r.id src st).chain.run = some x ∧ x.reports = putKey src st r.reports := by
  unfold State.sweepReport
  simp only [hr, hp, bne_self_eq_false, Bool.or_self, Bool.false_eq_true, if_false]
  split
  · rw [(State.sweepPost_rest _).2]
    exact ⟨_, rfl, rfl⟩
  · exact ⟨_, rfl, rfl⟩

theorem State.sweepTell_sweep (s : State) (id steps : Nat) (st : Word) :
    (s.sweepTell id steps st).chain.sweep = s.chain.sweep := by
  unfold State.sweepTell
  split
  · obtain ⟨r, hr⟩ := s.sweepReport_rest id 0 (if st = 1 then 1 else 2)
    rw [hr]
  · obtain ⟨u, v, he⟩ := s.chSend_eq false { type := 0x21, up := true, src := s.chAddr, words := [w32 id, w32 steps, st] }
    rw [he]

section
variable {s : State} {d : Bool} {a : Nat} {f : ChFrame}

theorem State.chSweepDone_run (h : Heard s d 0) (hf : f.ending = .good) {r : SweepRun} (hr : s.chain.run = some r)
    (hid : r.id = (f.words.getD 0 0).toNat) (hp : r.posted = false) :
    ∃ x, (s.chSweepDone d f).chain.run = some x ∧
      x.reports = putKey f.src (if f.words.getD 2 0 = 1 then 1 else 2) r.reports := by
  have ha : ((s.heard d).chAddr != 0) = false := by rw [h.heard.chAddr]; rfl
  unfold State.chSweepDone
  rw [State.chRecv_good h hf]
  simp only [ha, Bool.false_eq_true, if_false, ← hid]
  exact State.sweepReport_run (by rw [State.tally_chain]; exact hr) hp _ _

theorem State.poolUsed_of_posts {s u : State} (h : Posts s u) : u.poolUsed = s.poolUsed := by
  have hch : u.choir = s.choir := (congrArg State.choir h.rest :)
  unfold State.poolUsed
  rw [hch, h.chain_eq]

/-- A node in the range that follows takes part in the sweep from the first units that it fits in (R596). -/
theorem State.chSweepStart_sweep (h : Heard s d a) (hf : f.ending = .good) {n : Nat} (hno : s.chain.sweep = none)
    (hfol : a = 0 ∨ s.chain.following = true) (hfirst : fld (f.words.getD 1 0) 16 12 ≤ a)
    (hlast : a ≤ fld (f.words.getD 1 0) 0 12)
    (hfit : poolFit s.poolUsed (cdiv (16 * fld (f.words.getD 0 0) 0 16) 1024) = some n) :
    (s.chSweepStart d f).chain.sweep = some {
      id := fld (f.words.getD 0 0) 24 8, steps := fld (f.words.getD 0 0) 0 16
      stepBells := (f.words.getD 3 0).toNat, start := f.words.getD 2 0
      units := cdiv (16 * fld (f.words.getD 0 0) 0 16) 1024, first := n } := by
  have hp : Posts s (s.heard d) := s.tally_refl ..
  have ha : (s.heard d).chAddr = a := h.heard.chAddr
  have hfollows : (a != 0 && !s.chain.following) = false := by
    rcases hfol with h0 | h1
    · rw [h0]
      rfl
    · rw [h1, Bool.not_true, Bool.and_false]
  have hempty : (s.heard d).modChain (fun c => { c with sweep := none }) = s.heard d := by
    have hc : (s.heard d).chain.sweep = none := by rw [hp.chain_eq]; exact hno
    change { s.heard d with chain := { (s.heard d).chain with sweep := none } } = _
    rw [← hc]
  unfold State.chSweepStart
  rw [State.chRecv_good h hf]
  unfold State.sweepBegin
  simp only [hp.chain_eq, hno, Bool.false_eq_true, if_false, hempty, ha, hfollows, State.poolUsed_of_posts hp, hfit,
    decide_eq_false (Nat.not_lt.mpr hfirst), decide_eq_false (Nat.not_lt.mpr hlast), Bool.or_self]
  generalize hs1 : State.postTo _ _ _ _ _ _ = s1
  obtain ⟨u, v, he⟩ := s1.chSend_eq (!d) f
  rw [State.chForward, he, ← hs1, State.postTo_chain]
  rfl

end

/-- The step that is latched, and what then stands of the sweep (R597). -/
theorem State.sweepStepLatch_done {s : State} {x : SweepRes} (hx : s.chain.sweep = some x) (hc : x.complete = false)
    (hh : x.held = false) (hl : x.lostStep = false)
    (hdue : precedes (s.bn32 + s.chain.cbOff) (x.start + w32 ((x.done.length + 1) * x.stepBells)) = false) :
    ∃ y, s.sweepStepLatch.chain.sweep = some y ∧ y.done = x.done ++ [s.chain.cfg.probes.map s.probe] ∧
      y.complete = decide (x.done.length + 1 = x.steps) ∧
      (x.done.length + 1 ≠ x.steps → s.sweepStepLatch.under = Memory.writeN s.under
        (poolAddr x.first + 16 * x.done.length) (wordsBytes (s.chain.cfg.probes.map s.probe))) := by
  unfold State.sweepStepLatch
  simp only [hx, hc, hh, hl, hdue, Bool.or_self, Bool.false_eq_true, if_false]
  split
  next he =>
    rw [State.sweepTell_sweep]
    exact ⟨_, rfl, rfl, (decide_eq_true he).symm, fun h => absurd he h⟩
  next he => exact ⟨_, rfl, rfl, (decide_eq_false he).symm, fun _ => rfl⟩

/-! ### The timeout of a message -/

/-- What the turn of `x` brings and the others keep, where every turn keeps what stands before. -/
theorem forEach_hits {α σ : Type} {P Q : σ → Prop} {f : α → σ → σ} {xs : List α} {x : α} (hx : x ∈ xs) {s : σ} (hs : P s)
    (hP : ∀ y s, P s → P (f y s)) (hPQ : ∀ s, P s → Q (f x s)) (hQ : ∀ y s, Q s → Q (f y s)) : Q (forEach xs f s) := by
  obtain ⟨a, b, rfl⟩ := List.append_of_mem hx
  have hsplit : forEach (a ++ x :: b) f s = forEach b f (f x (forEach a f s)) := by
    simp only [forEach, List.foldl_append, List.foldl_cons]
  rw [hsplit]
  exact forEach_holds b (hPQ _ (forEach_holds a hs fun y _ => hP y)) fun y _ => hQ y

/-- A message of a tenant failed and left its queue. -/
def Failed (t : Ten) (q : Word) (s u : State) : Prop :=
  s.chain.stFail < u.chain.stFail ∧ ∀ y ∈ at' u.chain.tx t, y.mseq ≠ q

theorem Failed.pumped {t : Ten} {q : Word} {s u v : State} (h : Failed t q s u) (k : Pumped t u v) : Failed t q s v :=
  ⟨Nat.lt_of_lt_of_le h.1 k.fail, k.mseqs q h.2⟩

theorem State.msgExpire_failed {t : Ten} {s u : State} (h : Pumped t s u) (m : ChMsg) (why : Nat) :
    Failed t m.mseq s ((u.msgDrop t m.mseq).msgFail t m why) := by
  obtain ⟨hdrop, hfree⟩ := u.msgDrop_pumped t m.mseq
  obtain ⟨hfail, hcount⟩ := (u.msgDrop t m.mseq).msgFail_pumped t m why
  have h1 := h.fail
  have h2 := hdrop.fail
  exact ⟨by omega, hfail.mseqs _ hfree⟩

/-- What the timeout of a message does with it. -/
theorem State.msgAgain_pumped (t : Ten) (m : ChMsg) (s : State) :
    Pumped t s (if m.tries < 3 then s.msgSend1 t m else (s.msgDrop t m.mseq).msgFail t m 4) := by
  split
  · exact s.msgSend1_pumped t m
  · exact (s.msgDrop_pumped t m.mseq).1.trans (State.msgFail_pumped _ t m 4).1

theorem State.msgTimeout_pumped (s : State) (t : Ten) : Pumped t s (s.msgTimeout t) :=
  (forEach_pumped _ (fun m u => State.msgAgain_pumped t m u) s).trans (State.msgPump_pumped _ t)

/-- A message that was sent three times and is due fails, and leaves its queue. -/
theorem State.msgTimeout_failed {s : State} {t : Ten} {m : ChMsg} {x : Time} (hm : m ∈ at' s.chain.tx t)
    (hs : m.sent = some x) (hx : x + ms 250 ≤ s.now) (h3 : 3 ≤ m.tries) : Failed t m.mseq s (s.msgTimeout t) := by
  refine Failed.pumped (forEach_hits (P := Pumped t s) (x := m) (List.mem_filter.mpr ⟨hm, ?_⟩) (.refl s)
    (fun y u hu => hu.trans (State.msgAgain_pumped t y u)) (fun u hu => ?_)
    fun y u hu => hu.pumped (State.msgAgain_pumped t y u)) (State.msgPump_pumped _ t)
  · rw [hs]
    exact decide_eq_true hx
  · rw [if_neg (Nat.not_lt.mpr h3)]
    exact State.msgExpire_failed hu m 4

theorem exec_msgTimeout_failed {s : State} {t : Ten} {m : ChMsg} {x : Time} (hm : m ∈ at' s.chain.tx t)
    (hs : m.sent = some x) (hx : x + ms 250 ≤ s.now) (h3 : 3 ≤ m.tries) :
    ∃ u, exec .msgTimeout s = .next u ∧ Failed t m.mseq s u := by
  refine ⟨_, rfl, ?_⟩
  rw [State.passFirst_eq]
  generalize s.chain.tx.toList.flatten.filterMap (·.sent) = ds
  refine forEach_at (P := fun u => s.chain.stFail ≤ u.chain.stFail ∧ s.now ≤ u.now ∧ m ∈ at' u.chain.tx t)
    (mem_allFin t) (nodup_allFin 4) ⟨(Nat.le_refl _), Nat.le_max_left _ _, hm⟩ (fun y hy u hu => ?_) (fun u hu => ?_)
    fun y hy u hu => ?_
  · obtain ⟨hfail, hnow, hin⟩ := hu
    have h := u.msgTimeout_pumped y
    exact ⟨Nat.le_trans hfail h.fail, Nat.le_trans hnow (Nat.le_of_eq h.now.symm), by rw [h.others t hy.symm]; exact hin⟩
  · obtain ⟨hfail, hnow, hin⟩ := hu
    obtain ⟨hcount, hfree⟩ := u.msgTimeout_failed hin hs (Nat.le_trans hx hnow) h3
    exact ⟨Nat.lt_of_le_of_lt hfail hcount, hfree⟩
  · obtain ⟨hcount, hfree⟩ := hu
    have h := u.msgTimeout_pumped y
    exact ⟨Nat.lt_of_lt_of_le hcount h.fail, by rw [h.others t hy.symm]; exact hfree⟩

/-! ### O60 -/

/-- Settles O60, link by link, mark by mark and frame by frame. -/
theorem chainCommands : Obligations.ChainCommands := by
  intro s d a f
  refine ⟨fun delay he hup => ⟨fun hd => ⟨_, rfl, State.chLinkUp_port he (by cases d <;> exact hup) hd⟩,
      fun hd => congrArg Host.Outcome.next (s.chLinkUp_refused d hd)⟩,
    fun hup => ?_, fun rt => ⟨_, rfl, (s.chEcho_port d rt).1, (s.chEcho_port d rt).2⟩,
    fun v hup => ⟨_, rfl, State.chEnum_addr hup v⟩,
    fun hu hfol ha ha0 hann hlast => ⟨_, rfl, State.chAnnounceMark_follows hu hfol ha ha0 hann hlast⟩,
    fun hu hfol => ⟨_, rfl, State.chBellMark_fires hu hfol⟩, fun hfol h => ⟨_, rfl, State.chainBellLoss_chain hfol h⟩,
    fun h hf c hc hbc => exec_badFrame h hf hbc c hc, fun h hf => ⟨fun c hc hbc hne ha0 hl => ?_,
      ⟨_, rfl, State.chEnumTail_length h hf⟩, ⟨_, rfl, State.chAnnounceFrame_cbOff h hf⟩, ?_, ?_, fun hbc hd => ⟨?_, ?_, ?_, ?_, ?_⟩,
      fun n hno hfol hfirst hlast hfit => ⟨_, _, rfl, State.chSweepStart_sweep h hf hno hfol hfirst hlast hfit, rfl, rfl, rfl, rfl⟩,
      ?_⟩, fun t m x hm hs hx h3 => exec_msgTimeout_failed hm hs hx h3, ?_, ?_⟩
  · cases d
    · obtain ⟨hport, haddr, hfol⟩ := State.chLinkDown_u hup
      exact ⟨_, rfl, hport, fun _ => ⟨haddr, hfol⟩⟩
    · exact ⟨_, rfl, State.chLinkDown_d hup, fun h => absurd h (by decide)⟩
  · exact ⟨_, exec_passedFrame h hf hbc hne ha0 hl c hc, State.chForward_heard hl f⟩
  · rintro rfl
    exact ⟨_, rfl, State.chFloorFrame_floors h hf⟩
  · rintro r rfl hr h1 h2
    exact ⟨_, rfl, State.chBreak_run h hf hr h1 h2⟩
  · exact fun hcls hlen hseen => ⟨_, rfl, State.chMsg_delivered h hf hbc hd hcls hlen hseen⟩
  · exact fun e hseen he => ⟨_, rfl, State.chMsg_again h hf hbc hd hseen he⟩
  · exact fun m hm => ⟨fun h0 => ⟨_, rfl, State.chAck_frees h hf hd hm h0⟩, ⟨_, rfl, State.chUnreach_fails h hf hd hm⟩⟩
  · obtain ⟨g, hg⟩ := State.chFetch_answers h hf hd
    exact ⟨_, g, rfl, hg⟩
  · exact fun t id first st x0 x1 x2 x3 hff hfirst hw hpend =>
      ⟨_, rfl, State.chData_completes h hf hd hff hfirst hw hpend⟩
  · rintro r rfl hr hid hp
    obtain ⟨x, hx⟩ := State.chSweepDone_run h hf hr hid hp
    exact ⟨_, x, rfl, hx⟩
  · intro x hx hc hh hl hdue
    obtain ⟨y, hy⟩ := State.sweepStepLatch_done hx hc hh hl (by rw [State.bn32_eq]; exact hdue)
    exact ⟨_, y, rfl, hy⟩
  · intro r e hr he
    have hexec : s.sweepEndTimeout = (s.passTo (e + ms 100)).sweepPost := by
      unfold State.sweepEndTimeout
      rw [hr]
      dsimp only
      rw [he]
    obtain ⟨hnow, hchain⟩ := (s.passTo (e + ms 100)).sweepPost_rest
    refine ⟨_, { r with posted := true }, congrArg Host.Outcome.next hexec, ?_, rfl, ?_⟩
    · rw [hchain, State.passTo_eq, hr]
      rfl
    · rw [hnow]
      exact s.le_passTo _

end Sys2Proof.Machine

/-!
PROOFS. The recorder's and the Nave's events (06_memory_surfaces R214; 07_nave R235, R245 to R248; 17_reliquary R553, R565 to
R567, R571, R572): O59.
-/

namespace Sys2Proof.Machine

/-! ### What appending a record leaves of the recorder -/

/-- What appending keeps: the accumulators, whether they close, and, while an aisle runs and the buffer has space, the
losses to tell. -/
structure Appended (s u : State) : Prop where
  accs : u.reliq.accs = s.reliq.accs
  closeDue : u.reliq.closeDue = s.reliq.closeDue
  losses : s.aisleRuns = true → s.reliq.buf.length < 1024 →
    u.reliq.occLost = s.reliq.occLost ∧ u.reliq.bufLost = s.reliq.bufLost

theorem Appended.of_reliq {s u v : State} (h : Appended s u) (k : v.reliq = u.reliq) : Appended s v := by
  refine ⟨?_, ?_, ?_⟩ <;> rw [k]
  · exact h.accs
  · exact h.closeDue
  · exact h.losses

theorem Appended.refl (s : State) : Appended s s := ⟨rfl, rfl, fun _ _ => ⟨rfl, rfl⟩⟩

theorem State.relAppendView_appended (s : State) (r : RelRec) : Appended s (s.relAppendView r) := by
  have hroom : 1024 ≤ (if s.reliq.onVbak = true then 1105 else 1024) := by split <;> omega
  unfold State.relAppendView
  dsimp only
  generalize (if s.reliq.onVbak = true then 1105 else 1024) = room at hroom ⊢
  split
  · exact Appended.of_reliq (u := s.modRel _) ⟨rfl, rfl, fun _ _ => ⟨rfl, rfl⟩⟩ (State.tally_reliq ..)
  split
  · exact Appended.of_reliq (u := s.modRel _) ⟨rfl, rfl, fun _ _ => ⟨rfl, rfl⟩⟩ (State.tally_reliq ..)
  split
  next hfull =>
    exact Appended.of_reliq (u := s.modRel (fun q => { q with bufLost := q.bufLost + 1 }))
      ⟨rfl, rfl, fun _ hlt => absurd (Nat.le_trans hroom hfull) (Nat.not_le.mpr hlt)⟩ (State.tally_reliq ..)
  split
  · refine forEach_holds _ (P := Appended s) (Appended.of_reliq (u := s.modRel _) ⟨rfl, rfl, fun _ _ => ⟨rfl, rfl⟩⟩ (State.tally_reliq ..)) ?_
    exact fun _ _ _ k => k.of_reliq (State.postRaw_reliq ..)
  · exact Appended.of_reliq (u := s.modRel _) ⟨rfl, rfl, fun _ _ => ⟨rfl, rfl⟩⟩ (State.tally_reliq ..)

theorem State.relAppend_appended (s : State) (r : RelRec) : Appended s (s.relAppend r) := by
  unfold State.relAppend
  split
  · exact .refl s
  split
  next hno =>
    have hoff : s.aisleRuns = true → False := fun h => by rw [h] at hno; cases hno
    split
    · exact ⟨rfl, rfl, fun _ _ => ⟨rfl, rfl⟩⟩
    · exact Appended.of_reliq (u := s.modRel (fun q => { q with occLost := q.occLost + 1 }))
        ⟨rfl, rfl, fun h => (hoff h).elim⟩ (State.tally_reliq ..)
  split
  · exact s.relAppendView_appended r
  · split <;> exact ⟨rfl, rfl, fun _ _ => ⟨rfl, rfl⟩⟩

/-! ### The recorder's events -/

theorem State.accumulatorClose_closed {s : State} (h : s.reliq.closeDue = true) :
    s.accumulatorClose.reliq.accs = [] ∧ s.accumulatorClose.reliq.closeDue = false := by
  unfold State.accumulatorClose State.accClose
  rw [if_pos h]
  refine forEach_holds _ (P := fun u : State => u.reliq.accs = [] ∧ u.reliq.closeDue = false) ⟨?_, rfl⟩ fun a _ u hu => ?_
  · exact List.filter_eq_nil_iff.mpr fun _ _ => by simp
  · dsimp only
    refine forEach_holds _ (P := fun u : State => u.reliq.accs = [] ∧ u.reliq.closeDue = false) hu fun r _ v hv => ?_
    have k := v.relAppend_appended r
    exact ⟨k.accs.trans hv.1, k.closeDue.trans hv.2⟩

theorem State.bufferLost_told {s : State} (hlost : s.reliq.occLost ≠ 0 ∨ s.reliq.bufLost ≠ 0)
    (hbuf : s.reliq.buf.length < 1024) (hocc : s.reliq.occ.length < 64) (hrun : s.aisleRuns = true) :
    s.bufferLost.reliq.occLost = 0 ∧ s.bufferLost.reliq.bufLost = 0 := by
  have hc : ((s.reliq.occLost != 0 || s.reliq.bufLost != 0) && decide (s.reliq.buf.length < 1024) &&
      decide (s.reliq.occ.length < 64) && s.aisleRuns) = true := by
    simp only [hbuf, hocc, hrun, decide_true, Bool.and_true, Bool.or_eq_true, bne_iff_ne]
    exact hlost
  unfold State.bufferLost
  dsimp only
  rw [if_pos hc]
  exact (State.relAppend_appended (s.modRel (fun q => { q with occLost := 0, bufLost := 0 })) _).losses hrun hbuf

theorem Posts.moa_eq {s u : State} (h : Posts s u) : u.moa = s.moa := (congrArg State.moa h.rest :)

theorem State.moaWrite_moa (s : State) (a : Nat) (bs : List Byte) : (s.moaWrite a bs).moa = Memory.writeN s.moa a bs := rfl

theorem State.flushUnit_oldest {s : State} {k : Nat} {r : RelRec} {rest : List (Nat × RelRec)} (hf : s.reliq.flush = true)
    (hn : s.reliq.newestDirty = false) (hb : s.reliq.buf = (k, r) :: rest) :
    s.flushUnit.reliq.buf = rest ∧
      s.flushUnit.moa = Memory.writeN s.moa (0x1300000 + 64 * k) (r.bytes s.reliq.era k) := by
  have hp : Posts (s.moaWrite (relSlot k) (r.bytes s.reliq.era k)) (s.relWrite k r) := State.tally_refl ..
  unfold State.flushUnit
  simp only [hf, hn, hb, Bool.not_true, Bool.false_eq_true, if_false]
  refine ⟨rfl, ?_⟩
  change (s.relWrite k r).moa = _
  rw [hp.moa_eq, State.moaWrite_moa, relSlot]

theorem State.freezeEnd_now (s : State) (why : Nat) : (s.freezeEnd why).now = s.now := by
  unfold State.freezeEnd
  split
  · rfl
  · dsimp only
    rw [(State.post_refl ..).now_eq, (State.relAppend_posts _ (.refl _)).now_eq]
    exact forEach_holds _ (P := fun u : State => u.now = s.now) rfl fun r _ u hu =>
      ((State.relAppend_posts r (.refl u)).now_eq).trans hu

/-! ### Bays and video -/

theorem State.bayFail_leaves {s : State} {b : Fin 4} (hb : b ∈ s.nave.alive) (hn : ∀ l ∈ s.nave.leaving, l.bay ≠ b)
    (reason frame : Nat) : (s.bayFail b reason frame).nave.alive = s.nave.alive ∧
      (s.bayFail b reason frame).nave.leaving = s.nave.leaving ++
        [{ bay := b, reason := reason, frame := frame, due := s.bn + 1 }] := by
  have hc : (!s.nave.alive.contains b || s.nave.leaving.any (fun l => l.bay = b)) = false := by
    rw [Bool.or_eq_false_iff, List.any_eq_false, Bool.not_eq_false', List.contains_iff_mem]
    exact ⟨hb, fun l hl => by simpa using hn l hl⟩
  unfold State.bayFail
  rw [if_neg (by rw [hc]; exact Bool.false_ne_true)]
  exact ⟨rfl, rfl⟩

/-- What a write into a frame store leaves: the Nave and the Bell. -/
def NaveAndBell (s u : State) : Prop := u.nave = s.nave ∧ u.bell = s.bell

theorem State.storeRows_naveAndBell (s : State) (c : Chap) (p : ChapRec) (bell y0 y1 : Nat) (f : Nat → Nat → Nat × Nat × Nat) :
    NaveAndBell s (s.storeRows c p bell y0 y1 f) := by
  unfold State.storeRows
  dsimp only
  split
  · exact forEach_holds _ (P := NaveAndBell s) ⟨rfl, rfl⟩ fun _ _ _ hu => hu
  · exact forEach_holds _ (P := NaveAndBell s) ⟨rfl, rfl⟩ fun _ _ _ hu => forEach_holds _ hu fun _ _ _ hv => hv

theorem State.bandFail_rest (s : State) (c : Chap) (k : Nat) : (s.bandFail c k).nave.alive = s.nave.alive ∧
    (s.bandFail c k).nave.leaving = s.nave.leaving ∧ (s.bandFail c k).bell = s.bell := by
  have h : NaveAndBell s (s.repeatBand c (s.bn + 1) k) := by
    unfold State.repeatBand
    split
    · exact ⟨rfl, rfl⟩
    · exact State.storeRows_naveAndBell ..
  unfold State.bandFail
  dsimp only
  rw [h.1, h.2]
  exact ⟨rfl, rfl, rfl⟩

theorem State.ueCount_posts (s : State) (m n : Nat) : Posts s (s.ueCount m n) := by
  unfold State.ueCount
  split
  · exact .refl s
  · exact State.tally_posts _ _ _ _ (State.gfix_posts _ _ (.refl s))

theorem exec_bayEccError_leaves {s : State} {b : Fin 4} {c : Chap} {x : BlkIn} (hl : s.live = true) (hb : b ∈ s.nave.alive)
    (hn : ∀ l ∈ s.nave.leaving, l.bay ≠ b) :
    ∃ u l, exec (.bayEccError b c x) s = .next u ∧ u.nave.alive = s.nave.alive ∧ u.nave.leaving = s.nave.leaving ++ [l] ∧
      l.bay = b ∧ l.due = s.bell.bellno.toNat + 1 := by
  have hp := s.ueCount_posts 1 1
  have hnave : (s.ueCount 1 1).nave = s.nave := (congrArg State.nave hp.rest :)
  have hon : (s.live && s.nave.alive.contains b) = true := by
    rw [hl, Bool.true_and, List.contains_iff_mem]
    exact hb
  have hbn : (s.ueCount 1 1).bn = s.bell.bellno.toNat := by rw [State.bn, hp.bell_eq]
  obtain ⟨hfa, hfl, hfb⟩ := (s.ueCount 1 1).bandFail_rest c x.band.val
  obtain ⟨ha0, hl0⟩ := State.bayFail_leaves (s := s.ueCount 1 1) (b := b) (by rw [hnave]; exact hb)
    (by rw [hnave]; exact hn) 2 0
  obtain ⟨ha1, hl1⟩ := State.bayFail_leaves (s := (s.ueCount 1 1).bandFail c x.band.val) (b := b)
    (by rw [hfa, hnave]; exact hb) (by rw [hfl, hnave]; exact hn) 2 ((s.ueCount 1 1).bn + 1)
  have hbn1 : ((s.ueCount 1 1).bandFail c x.band.val).bn = s.bell.bellno.toNat := by rw [State.bn, hfb, hp.bell_eq]
  rw [hnave] at ha0 hl0
  rw [hfa, hnave] at ha1
  rw [hfl, hnave] at hl1
  change ∃ u l, execBayEccError b c x s = .next u ∧ _
  unfold execBayEccError
  rw [hon, if_neg (by decide)]
  dsimp only
  split
  · exact ⟨_, _, rfl, ha0, hl0, rfl, congrArg (· + 1) hbn⟩
  split
  · exact ⟨_, _, rfl, ha1, hl1, rfl, congrArg (· + 1) hbn1⟩
  · exact ⟨_, _, rfl, ha0, hl0, rfl, congrArg (· + 1) hbn⟩

theorem State.bayRetire_nave (s : State) : s.bayRetire.nave = { s.nave with
    alive := s.nave.alive.filter (fun b => !s.bayDue.any (fun l => l.bay = b))
    leaving := s.nave.leaving.filter (fun l => s.bn < l.due) } := by
  unfold State.bayRetire
  dsimp only
  refine forEach_holds _ (P := fun u : State => u.nave = { s.nave with
    alive := s.nave.alive.filter (fun b => !s.bayDue.any (fun l => l.bay = b))
    leaving := s.nave.leaving.filter (fun l => s.bn < l.due) }) rfl fun l _ u hu => ?_
  have hp : Posts u ((u.gfix 56 1).postAll 0x0070 (0x20 + l.bay.val) none [w32 l.bay.val, w32 l.reason, w32 l.frame,
      w32 (aliveBits (s.nave.alive.filter (fun b => !s.bayDue.any (fun l => l.bay = b))))]) :=
    State.postAll_posts _ _ _ _ (State.gfix_posts _ _ (.refl u))
  exact (congrArg State.nave hp.rest :).trans hu

theorem State.mem_bayRetire_alive (s : State) (b : Fin 4) : b ∈ s.bayRetire.nave.alive ↔
    b ∈ s.nave.alive ∧ ∀ l ∈ s.nave.leaving, l.bay = b → s.bell.bellno.toNat < l.due := by
  rw [State.bayRetire_nave, List.mem_filter, Bool.not_eq_true', List.any_eq_false]
  refine and_congr_right fun _ => ⟨fun h l hl hb => ?_, fun h l hl => ?_⟩
  · refine Decidable.byContradiction fun hdue => ?_
    exact h l (List.mem_filter.mpr ⟨hl, decide_eq_true (Nat.not_lt.mp hdue)⟩) (decide_eq_true hb)
  · obtain ⟨hin, hdue⟩ := List.mem_filter.mp hl
    exact fun hb => absurd (h l hin (of_decide_eq_true hb)) (Nat.not_lt.mpr (of_decide_eq_true hdue))

theorem State.csiEnd_lp {s : State} {f : CsiFrame} {b : VidBind} (hl : s.live = true) (hu : s.lpUsable = true)
    (hb : s.nave.video.find? (fun b => b.vc = f.vc && !b.ending && b.group.isSome) = some b) :
    (s.csiEnd f).lp = if f.ok then Memory.writeN s.lp (s.vidSlot (b.group.getD 0) b.slot) f.bytes else s.lp := by
  have htally : ∀ (s : State) (b u e n : Nat), (s.tally b u e n).lp = s.lp := fun s b u e n =>
    (congrArg State.lp (s.tally_noGal b u e n) :)
  unfold State.csiEnd
  rw [hl, hu, if_neg (by decide), hb]
  dsimp only
  cases f.ok
  · exact htally ..
  · exact ((htally ..).trans (htally ..)).trans (congrArg (Memory.writeN · _ _) s.lpRequest_lp)

/-! ### O59 -/

/-- Settles O59, event by event. -/
theorem recorderAndNaveEvents : Obligations.RecorderAndNaveEvents := by
  intro s
  refine ⟨fun h => ⟨_, rfl, State.accumulatorClose_closed h⟩,
    fun hlost hbuf hocc hrun => ⟨_, rfl, State.bufferLost_told hlost hbuf hocc hrun⟩, fun k r rest hf hs hn hb => ?_,
    fun f hf => ?_, ⟨_, rfl, .of_noGal rfl, rfl⟩, fun b c x hl hb hn => exec_bayEccError_leaves hl hb hn,
    ⟨_, rfl, s.mem_bayRetire_alive, (congrArg NaveSt.leaving s.bayRetire_nave :)⟩,
    fun f b hl hu hb => ⟨_, rfl, State.csiEnd_lp hl hu hb⟩⟩
  · refine ⟨s.flushUnit, congrArg Host.Outcome.next (if_neg ?_), State.flushUnit_oldest hf hn hb⟩
    rw [hs, Bool.and_false]
    exact Bool.false_ne_true
  · have hthaw := State.freezeEnd_thawed (s := s.passTo (f.start + ms f.ms)) (f := f) (by rw [State.passTo_eq]; exact hf) 1
    refine ⟨_, congrArg Host.Outcome.next ?_, hthaw.1, hthaw.2, ?_⟩
    · unfold State.freezeExpiry
      rw [hf]
    · rw [State.freezeEnd_now]
      exact s.le_passTo _

end Sys2Proof.Machine

/-!
SUPPORT. What the drives can change, said once: leaving RUN, a rail's stop, the takeover set and the verdicts change what the
Chapels, the light, the loops and the witness hold, and post.
-/

namespace Sys2Proof.Machine

/-- `t` is `s` but for the Chapels, the light, the loops, the witness, and what was counted, recorded and posted. -/
structure Drives (s t : State) : Prop where
  rest : t = { s with
    free := t.free
    tens := t.tens
    chaps := t.chaps
    light := t.light
    choir := t.choir
    witness := t.witness
    gal := t.gal
    reliq := t.reliq
    ports := t.ports
    memc := t.memc
    lp := t.lp
    under := t.under }
  ten : ∀ n, t.ten n = { s.ten n with evq := (t.ten n).evq }
  ports : t.ports = { s.ports with can := t.ports.can, svc := t.ports.svc, pf := t.ports.pf }
  memc : t.memc = { s.memc with selfRef := t.memc.selfRef, ueLp := t.memc.ueLp, ueUnder := t.memc.ueUnder }

namespace Drives
variable {z s t u : State}

theorem refl (s : State) : Drives s s := ⟨rfl, fun _ => rfl, rfl, rfl⟩

theorem trans (h : Drives s t) (k : Drives t u) : Drives s u := by
  refine ⟨?_, fun n => ?_, ?_, ?_⟩
  · have e := k.rest
    rw [h.rest] at e
    exact e
  · have e := k.ten n
    rw [h.ten n] at e
    exact e
  · have e := k.ports
    rw [h.ports] at e
    exact e
  · have e := k.memc
    rw [h.memc] at e
    exact e

theorem of_posts (h : Posts s t) : Drives s t := by
  refine ⟨?_, h.ten, h.ports, h.memc⟩
  rw [h.rest]

/-- What is posted beside. -/
theorem posts (h : Drives z s) (k : Posts s t) : Drives z t := h.trans (of_posts k)

/-- A change of none but the Chapels, the light, the loops, the witness and the recorder. -/
theorem set (h : Drives z s) (c : Vector ChapSt 4) (l : LightSt) (ch : ChoirSt) (w : WitnessSt) (q : ReliqSt) :
    Drives z { s with chaps := c, light := l, choir := ch, witness := w, reliq := q } :=
  h.trans ⟨rfl, fun _ => rfl, rfl, rfl⟩

theorem now_eq (h : Drives s t) : t.now = s.now := (congrArg State.now h.rest :)
theorem bell_eq (h : Drives s t) : t.bell = s.bell := (congrArg State.bell h.rest :)
theorem power_eq (h : Drives s t) : t.power = s.power := (congrArg State.power h.rest :)
theorem thermal_eq (h : Drives s t) : t.thermal = s.thermal := (congrArg State.thermal h.rest :)
theorem update_eq (h : Drives s t) : t.update = s.update := (congrArg State.update h.rest :)
theorem chain_eq (h : Drives s t) : t.chain = s.chain := (congrArg State.chain h.rest :)
theorem ovl_eq (h : Drives s t) : t.ovl = s.ovl := (congrArg State.ovl h.rest :)

end Drives

theorem forEach_drives {α : Type} (xs : List α) {f : α → State → State} {z s : State} (h : Drives z s)
    (hf : ∀ x u, Drives z u → Drives z (f x u)) : Drives z (forEach xs f s) :=
  forEach_holds xs h fun x _ u hu => hf x u hu

section
variable {z s : State}

theorem State.modChap_drives (c : Chap) (f : ChapSt → ChapSt) (h : Drives z s) : Drives z (s.modChap c f) :=
  h.set _ _ _ _ _
theorem State.modOut_drives (o : OutId) (f : OutSt → OutSt) (h : Drives z s) : Drives z (s.modOut o f) :=
  h.set _ _ _ _ _
theorem State.modMatrix_drives (f : MatrixSt → MatrixSt) (h : Drives z s) : Drives z (s.modMatrix f) :=
  h.set _ _ _ _ _
theorem State.modRail_drives (r : Fin 2) (f : RailSt → RailSt) (h : Drives z s) : Drives z (s.modRail r f) :=
  h.set _ _ _ _ _
theorem State.tally_drives (b u e n : Nat) (h : Drives z s) : Drives z (s.tally b u e n) := h.posts (s.tally_refl ..)
theorem State.gfix_drives (i n : Nat) (h : Drives z s) : Drives z (s.gfix i n) := h.posts (State.gfix_posts _ _ (.refl s))
theorem State.postTo_drives (ts : List Ten) (code src : Nat) (seq : Option Word) (p : List Word) (h : Drives z s) :
    Drives z (s.postTo ts code src seq p) := h.posts (s.postTo_refl ..)
theorem State.postAll_drives (code src : Nat) (seq : Option Word) (p : List Word) (h : Drives z s) :
    Drives z (s.postAll code src seq p) := h.posts (s.postAll_refl ..)

/-! ### The takeover set and the verdicts -/

theorem State.kmJoin_drives (r : Reason) (chap : Option Chap) (f : Seg → Bool) (h : Drives z s) :
    Drives z (s.kmJoin r chap f) := by
  unfold State.kmJoin
  dsimp only
  split
  · exact State.modMatrix_drives _ h
  · exact State.postTo_drives _ _ _ _ _ (State.gfix_drives _ _ (State.modMatrix_drives _ h))

theorem State.kmLeave_drives (r : Reason) (f : Seg → Bool) (h : Drives z s) : Drives z (s.kmLeave r f) := by
  unfold State.kmLeave
  dsimp only
  split
  · exact State.postTo_drives _ _ _ _ _ (State.modMatrix_drives _ h)
  · exact State.modMatrix_drives _ h

theorem State.kmDark_drives (c : Chap) (h : Drives z s) : Drives z (s.kmDark c) := by
  unfold State.kmDark
  split
  · exact State.kmJoin_drives _ _ _ h
  · exact h

theorem State.kmShown_drives (c : Chap) (tB : Time) (h : Drives z s) : Drives z (s.kmShown c tB) :=
  State.kmLeave_drives _ _ (State.kmLeave_drives _ _ (State.kmLeave_drives _ _ h))

theorem State.sample_drives (code v bin : Nat) (h : Drives z s) : Drives z (s.sample code v bin) := by
  unfold State.sample
  split
  · exact h
  · exact h.set _ _ _ _ _

theorem State.putVerdict_drives (m : KMap) (v : Verdict) (h : Drives z s) : Drives z (s.putVerdict m v) :=
  h.set _ _ _ _ _

/-- A record is put, and its segment joins or leaves ASSURANCE. -/
theorem State.verdictPut_drives (m : KMap) (v : Verdict) (g : Seg) (r : Reason) (c : Option Chap) (f : Seg → Bool)
    (h : Drives z s) : Drives z (State.assurLeave
      (if v.joined && !at' (s.putVerdict m v).light.matrix.assur g then (s.putVerdict m v).kmJoin r c f
        else s.putVerdict m v)) := by
  have hp := State.putVerdict_drives m v h
  refine State.kmLeave_drives _ _ ?_
  split
  · exact State.kmJoin_drives _ _ _ hp
  · exact hp

theorem State.verdictNote_drives (m : KMap) (code : Nat) (h : Drives z s) : Drives z (s.verdictNote m code) := by
  have h0 : Drives z (if failing code then s.gfix (48 + m.chap.val) 1 else s) := by
    split
    · exact State.gfix_drives _ _ h
    · exact h
  unfold State.verdictNote
  dsimp only
  generalize (if failing code = true then s.gfix (48 + m.chap.val) 1 else s) = s0 at h0 ⊢
  have h1 := fun b => State.tally_drives 6 b (16 + code) 1 h0
  split
  · split
    · exact h1 _
    · exact h0
  · split
    · exact State.verdictPut_drives _ _ _ _ _ _ (h1 _)
    · exact State.verdictPut_drives _ _ _ _ _ _ h0

theorem State.kvPost_drives (c : Chap) (vs : List (KMap × Nat)) (bell : Nat) (h : Drives z s) :
    Drives z (s.kvPost c vs bell) :=
  State.postTo_drives _ _ _ _ _ (forEach_drives _ (State.modChap_drives _ _ h) fun _ _ hu =>
    State.sample_drives _ _ _ (State.verdictNote_drives _ _ hu))

theorem State.lostPost_drives (c : Chap) (bell : Option Nat) (h : Drives z s) : Drives z (s.lostPost c bell) := by
  unfold State.lostPost
  split
  · exact h
  · dsimp only
    split
    · exact h
    · exact State.kvPost_drives _ _ _ h

theorem State.kvLost_drives (c : Chap) (h : Drives z s) : Drives z (s.kvLost c) := by
  unfold State.kvLost
  split
  · exact h
  · split
    · exact State.modChap_drives _ _ h
    · exact State.lostPost_drives _ _ h

/-! ### Leaving RUN -/

theorem State.chapLost_drives (c : Chap) (cause : Nat) (h : Drives z s) : Drives z (s.chapLost c cause) :=
  State.postTo_drives _ _ _ _ _ h

theorem State.laserTrip_drives (c : Chap) (cond : Nat) (h : Drives z s) : Drives z (s.laserTrip c cond) := by
  unfold State.laserTrip
  split
  · exact h
  · exact State.tally_drives _ _ _ _ (State.modChap_drives _ _ h)

theorem State.pulsesEnd_drives (c : Chap) (h : Drives z s) : Drives z (s.pulsesEnd c) := h.set _ _ _ _ _

theorem State.leaveRun_drives (c : Chap) (cond : Nat) (h : Drives z s) : Drives z (s.leaveRun c cond) := by
  have hs : ∀ outs : List OutId, ∀ f : State → OutSt → OutSt, Drives z
      ((forEach outs (fun o s => s.modOut o (f s)) (s.laserTrip c cond)).pulsesEnd c) := fun outs f =>
    State.pulsesEnd_drives _ (forEach_drives _ (State.laserTrip_drives _ _ h) fun _ _ => State.modOut_drives _ _)
  unfold State.leaveRun
  dsimp only
  split
  · exact State.kmJoin_drives _ _ _ (State.modChap_drives _ _ (hs _ (fun s x => { x with
      pulseEnd := true, samp := x.samp.filter (fun t => t ≤ s.now) })))
  · exact State.modChap_drives _ _ (hs _ (fun s x => { x with
      pulseEnd := true, samp := x.samp.filter (fun t => t ≤ s.now) }))

theorem State.safeStop_drives (c : Chap) (cause cond : Nat) (h : Drives z s) : Drives z (s.safeStop c cause cond) := by
  have hs := State.chapLost_drives c cause (State.gfix_drives 57 1 (State.modChap_drives c (fun q => { q with stopWhy := 0 })
    (State.leaveRun_drives c cond (State.kvLost_drives c h))))
  unfold State.safeStop
  split
  · exact hs
  · exact hs
  · exact h

theorem State.chapStopDue_drives (c : Chap) (why : Nat) (h : Drives z s) : Drives z (s.chapStopDue c why) := by
  unfold State.chapStopDue
  split
  · exact State.modChap_drives _ _ h
  · exact State.modChap_drives _ _ h
  · exact h

theorem State.railStop_drives (r : Fin 2) (cause : Nat) (h : Drives z s) : Drives z (s.railStop r cause) := by
  unfold State.railStop
  split
  · exact h
  · exact State.kmJoin_drives _ _ _ (State.postAll_drives _ _ _ _ (forEach_drives _ (State.modRail_drives _ _ h)
      fun _ _ => State.modOut_drives _ _))

end

end Sys2Proof.Machine

/-!
PROOFS. Sensors and memory (06_memory_surfaces R186, R190, R191, R194, R217, R221; 13_power_wake R440; 14_thermal R446 to R450,
R457): O58.
-/

namespace Sys2Proof.Machine

/-! ### What a scope's level changes (R454 to R457) -/

/-- What taking a scope's level leaves: the instant, the channels, the MR4 reads, and a hold. -/
structure Scoped (s u : State) : Prop where
  now : u.now = s.now
  chans : u.thermal.chans = s.thermal.chans
  mr4Hot : u.thermal.mr4Hot = s.thermal.mr4Hot
  mr4 : u.memc.mr4 = s.memc.mr4
  hold : s.thermal.hold = true → u.thermal.hold = true

namespace Scoped
variable {s t u : State}

theorem refl (s : State) : Scoped s s := ⟨rfl, rfl, rfl, rfl, id⟩

theorem trans (h : Scoped s t) (k : Scoped t u) : Scoped s u :=
  ⟨k.now.trans h.now, k.chans.trans h.chans, k.mr4Hot.trans h.mr4Hot, k.mr4.trans h.mr4, fun x => k.hold (h.hold x)⟩

theorem of_drives (h : Drives s t) : Scoped s t := by
  have hm : t.memc.mr4 = s.memc.mr4 := by rw [h.memc]
  refine ⟨h.now_eq, ?_, ?_, hm, ?_⟩ <;> rw [h.thermal_eq]
  exact id

end Scoped

theorem State.refBegin_scoped (s : State) : Scoped s s.refBegin := by
  unfold State.refBegin
  split
  · exact .refl s
  · exact Scoped.trans (t := { s with memc := { s.memc with selfRef := true, selfRefAt := s.now } })
      ⟨rfl, rfl, rfl, rfl, id⟩ (.of_drives (.of_posts (State.tally_refl ..)))

theorem State.scopePost_scoped (s : State) (sc : Fin 9) : Scoped s (s.scopePost sc) := by
  unfold State.scopePost
  dsimp only
  split
  · refine Scoped.trans ?_ (.of_drives (.of_posts (State.postAll_refl ..)))
    exact ⟨rfl, rfl, rfl, rfl, id⟩
  · refine Scoped.trans ?_ (.of_drives (.of_posts (State.postAll_refl ..)))
    exact ⟨rfl, rfl, rfl, rfl, id⟩

theorem State.scopeAct_scoped (s : State) (sc : Fin 9) (old new : Nat) : Scoped s (s.scopeAct sc old new) := by
  unfold State.scopeAct
  split
  · exact .refl s
  split
  · exact .refl s
  split
  · dsimp only
    split
    · exact .of_drives (State.safeStop_drives _ _ _ (.refl s))
    · exact .of_drives (State.chapStopDue_drives _ _ (.refl s))
  split
  · exact .of_drives (State.railStop_drives _ _ (.refl s))
  split
  · split
    · exact .refl s
    · refine Scoped.trans ?_ (State.refBegin_scoped _)
      exact ⟨rfl, rfl, rfl, rfl, fun _ => rfl⟩
  · exact .of_drives (forEach_drives _ (.refl s) fun _ _ => State.chapStopDue_drives _ _)

theorem State.scopeSet_scoped (s : State) (sc : Fin 9) (k : Option (Fin 10)) : Scoped s (s.scopeSet sc k) := by
  have hset : ∀ l f b, Scoped s { s with thermal := { s.thermal with level := l, f := f, setBy := b } } :=
    fun _ _ _ => ⟨rfl, rfl, rfl, rfl, id⟩
  unfold State.scopeSet
  dsimp only
  split
  · exact ⟨rfl, rfl, rfl, rfl, id⟩
  · refine Scoped.trans ?_ (State.scopeAct_scoped ..)
    split
    · exact (hset _ _ _).trans (State.scopePost_scoped ..)
    · exact hset _ _ _

/-! ### A conversion (R446 to R450) -/

/-- What a channel shows of its conversions stands, and the other channels. -/
structure Reads (k : Fin 10) (s u : State) : Prop where
  t16 : (u.th k).t16 = (s.th k).t16
  validAt : (u.th k).validAt = (s.th k).validAt
  badRun : (u.th k).badRun = (s.th k).badRun
  others : ∀ j, j ≠ k → u.th j = s.th j

namespace Reads
variable {k : Fin 10} {s t u : State}

theorem trans (h : Reads k s t) (q : Reads k t u) : Reads k s u :=
  ⟨q.t16.trans h.t16, q.validAt.trans h.validAt, q.badRun.trans h.badRun, fun j hj => (q.others j hj).trans (h.others j hj)⟩

theorem of_chans (h : u.thermal.chans = s.thermal.chans) : Reads k s u := by
  have hth : ∀ j, u.th j = s.th j := fun j => by
    unfold State.th
    rw [h]
  exact ⟨by rw [hth], by rw [hth], by rw [hth], fun j _ => hth j⟩

theorem of_posts (h : Posts s u) : Reads k s u := of_chans (by rw [(Drives.of_posts h).thermal_eq])

end Reads

theorem State.th_modTh_ne (s : State) {j k : Fin 10} (h : j ≠ k) (f : ThChan → ThChan) : (s.modTh k f).th j = s.th j :=
  at_upd_ne _ _ _ _ h

/-- A change of what a channel does not show of its conversions. -/
theorem State.modTh_reads (s : State) (k : Fin 10) (f : ThChan → ThChan) (h1 : ∀ q, (f q).t16 = q.t16)
    (h2 : ∀ q, (f q).validAt = q.validAt) (h3 : ∀ q, (f q).badRun = q.badRun) : Reads k s (s.modTh k f) := by
  refine ⟨?_, ?_, ?_, fun j hj => s.th_modTh_ne hj f⟩ <;> rw [State.th_modTh]
  · exact h1 _
  · exact h2 _
  · exact h3 _

theorem State.thSetState_reads (s : State) (k : Fin 10) (st : ThState) :
    Reads k s (s.thSetState k st) ∧ ((s.thSetState k st).th k).state = st := by
  have h1 := s.modTh_reads k (fun q => { q with state := st }) (fun _ => rfl) (fun _ => rfl) (fun _ => rfl)
  have hst : ((s.modTh k (fun q => { q with state := st })).th k).state = st := by rw [State.th_modTh]
  have hkeep : ∀ u : State, u.thermal.chans = (s.modTh k (fun q => { q with state := st })).thermal.chans →
      Reads k s u ∧ (u.th k).state = st := fun u hu => by
    refine ⟨h1.trans (.of_chans hu), ?_⟩
    rw [← hst]
    unfold State.th
    rw [hu]
  unfold State.thSetState
  dsimp only
  split
  · exact ⟨h1, hst⟩
  split
  · exact hkeep _ (by rw [(Drives.of_posts (State.postAll_refl ..)).thermal_eq])
  · exact hkeep _ rfl

theorem State.thPace_reads (s : State) (k : Fin 10) : Reads k s (s.thPace k) :=
  s.modTh_reads k _ (fun _ => rfl) (fun _ => rfl) (fun _ => rfl)

/-- A valid sample is shown, whatever its comparisons give. -/
theorem State.thValid_shows (s : State) (k : Fin 10) (t : Int) :
    Reads k (s.modTh k (fun q => { q with t16 := t, validAt := some s.now, badRun := 0 })) (s.thValid k t) := by
  unfold State.thValid
  dsimp only
  generalize s.modTh k (fun q => { q with t16 := t, validAt := some s.now, badRun := 0 }) = s0
  refine Reads.trans ?_ (State.thPace_reads _ k)
  generalize hs1 : s0.modTh k _ = s1
  have h1 : Reads k s0 s1 := by
    rw [← hs1]
    exact s0.modTh_reads k _ (fun _ => rfl) (fun _ => rfl) (fun _ => rfl)
  generalize (allFin 2).any _ = b
  generalize hs2 : (if b = true then s1.tally 8 k.val 2 1 else s1) = s2
  have h2 : Reads k s0 s2 := by
    rw [← hs2]
    split
    · exact h1.trans (.of_posts (State.tally_refl ..))
    · exact h1
  have hmark := s2.modTh_reads k (fun q => { q with against := mapTab (fun (n : Nat) => decide (3 ≤ n)) q.dis })
    (fun _ => rfl) (fun _ => rfl) (fun _ => rfl)
  split
  · split
    · exact h2.trans (hmark.trans (State.thSetState_reads ..).1)
    · exact h2
  · exact h2.trans (hmark.trans (State.thSetState_reads ..).1)
  · have hfree : Reads k s2 (s2.fresh 2).2 := .of_posts (State.fresh_posts _ (.refl s2))
    refine h2.trans (hfree.trans (Reads.trans ?_ (State.thSetState_reads ..).1))
    exact (s2.fresh 2).2.modTh_reads k _ (fun _ => rfl) (fun _ => rfl) (fun _ => rfl)

/-- What follows a conversion leaves the channel's state too. -/
structure Settles (k : Fin 10) (s u : State) : Prop where
  reads : Reads k s u
  state : (u.th k).state = (s.th k).state

namespace Settles
variable {k : Fin 10} {s t u : State}

theorem trans (h : Settles k s t) (q : Settles k t u) : Settles k s u := ⟨h.reads.trans q.reads, q.state.trans h.state⟩

theorem of_chans (h : u.thermal.chans = s.thermal.chans) : Settles k s u :=
  ⟨.of_chans h, by unfold State.th; rw [h]⟩

end Settles

theorem State.modTh_settles (s : State) (k : Fin 10) (f : ThChan → ThChan) (h1 : ∀ q, (f q).t16 = q.t16)
    (h2 : ∀ q, (f q).validAt = q.validAt) (h3 : ∀ q, (f q).badRun = q.badRun) (h4 : ∀ q, (f q).state = q.state) :
    Settles k s (s.modTh k f) := ⟨s.modTh_reads k f h1 h2 h3, by rw [State.th_modTh]; exact h4 _⟩

theorem State.thAct_settles (s : State) (k : Fin 10) : Settles k s (s.thAct k) := by
  have hmod : ∀ l f a, Settles k s (s.modTh k (fun q => { q with level := l, f := f, act := a })) := fun _ _ _ =>
    s.modTh_settles k _ (fun _ => rfl) (fun _ => rfl) (fun _ => rfl) (fun _ => rfl)
  have htail : ∀ l f a, Settles k s (if l = (s.th k).level then s.modTh k (fun q => { q with level := l, f := f, act := a })
      else (s.modTh k (fun q => { q with level := l, f := f, act := a })).tally 8 k.val 3 1) := fun l f a => by
    split
    · exact hmod _ _ _
    · exact (hmod _ _ _).trans (.of_chans (by rw [(Drives.of_posts (State.tally_refl ..)).thermal_eq]))
  unfold State.thAct
  dsimp only
  split
  · exact htail _ _ _
  · exact htail _ _ _

/-- The channel's acting value, its next period and its scope's level follow a conversion. -/
theorem State.thNext_settles {s u : State} {k : Fin 10} (h : u = s ∨ u = s.thAct k) (d : ThChan → Time) (sc : Fin 9) :
    Settles k s ((u.modTh k (fun q => { q with dueAt := d q })).scopeSet sc (some k)) := by
  have hu : Settles k s u := by
    rcases h with rfl | rfl
    · exact .of_chans rfl
    · exact s.thAct_settles k
  refine hu.trans (Settles.trans (u.modTh_settles k (fun q => { q with dueAt := d q }) (fun _ => rfl) (fun _ => rfl)
    (fun _ => rfl) (fun _ => rfl)) ?_)
  exact .of_chans (State.scopeSet_scoped ..).chans

/-- The conversion is counted. -/
def State.thCounted (s : State) (k : Fin 10) : State :=
  (s.tally 8 k.val 0 1).tally 8 k.val 1 (if (s.th k).fast then 5 else 0)

theorem State.thCounted_posts (s : State) (k : Fin 10) : Posts s (s.thCounted k) :=
  State.tally_posts _ _ _ _ (State.tally_refl ..)

theorem State.thConvert_valid {s : State} {k : Fin 10} {x : Nat} {t : Int} (h : (s.th k).cfg.convert x = some t) :
    Settles k ((s.thCounted k).thValid k t) (s.thConvert k x) := by
  unfold State.thConvert State.thCounted
  simp only [h]
  generalize State.thValid _ k t = s2
  refine State.thNext_settles (s := s2) ?_ _ _
  split
  · exact .inl rfl
  · exact .inr rfl

/-- A conversion that gives no value. -/
def State.thFailed (s : State) (k : Fin 10) : State := s.modTh k (fun q => { q with badRun := q.badRun + 1, goodRun := 0 })

/-- What a third conversion in a row without a value makes of the channel, and what an earlier one leaves. -/
theorem State.thConvert_invalid {s : State} {k : Fin 10} {x : Nat} (h : (s.th k).cfg.convert x = none) :
    (3 ≤ (((s.thCounted k).thFailed k).th k).badRun →
      Settles k (((s.thCounted k).thFailed k).thSetState k .invalid) (s.thConvert k x)) ∧
    (¬ 3 ≤ (((s.thCounted k).thFailed k).th k).badRun → Settles k ((s.thCounted k).thFailed k) (s.thConvert k x)) := by
  unfold State.thConvert State.thFailed State.thCounted
  simp only [h]
  refine ⟨fun hb => ?_, fun hb => ?_⟩
  · simp only [if_pos hb]
    generalize State.thSetState _ k .invalid = s2
    refine State.thNext_settles (s := s2) ?_ _ _
    split
    · exact .inl rfl
    · exact .inr rfl
  · simp only [if_neg hb]
    generalize State.modTh _ k _ = s2
    refine State.thNext_settles (s := s2) ?_ _ _
    split
    · exact .inl rfl
    · exact .inr rfl

theorem State.thermalSample_one {s : State} {k : Fin 10} {v : Nat} (he : s.thEnabled k = true) (hd : (s.th k).dueAt ≤ s.now) :
    s.thSample [(k, v)] = s.thConvert k v := by
  have hpass : s.passFirst (([(k, v)].filter (fun e => s.thEnabled e.1)).map (fun e => (s.th e.1).dueAt)) = s := by
    have hmin : ([(s.th k).dueAt].min?).getD 0 = (s.th k).dueAt := rfl
    simp only [List.filter_cons, he, if_true, List.filter_nil, List.map_cons, List.map_nil, State.passFirst_eq, hmin,
      Nat.max_eq_left hd]
  unfold State.thSample
  dsimp only
  rw [hpass]
  refine forEach_at (P := fun u => u = s) (Q := fun u => u = s.thConvert k v) (mem_allFin k) (nodup_allFin 10) rfl
    (fun y hy u hu => ?_) (fun u hu => ?_) fun y hy u hu => ?_
  · have hl : List.lookup y [(k, v)] = none := by
      rw [List.lookup_cons, beq_eq_false_iff_ne.mpr hy, List.lookup_nil]
    simp only [hl, hu]
  · simp only [List.lookup_cons_self, hu, he, decide_eq_true hd, Bool.and_self, if_true]
  · have hl : List.lookup y [(k, v)] = none := by
      rw [List.lookup_cons, beq_eq_false_iff_ne.mpr hy, List.lookup_nil]
    simp only [hl, hu]

/-- A conversion that gives a value (R446 to R448). -/
theorem State.thConvert_shows {s : State} {k : Fin 10} {v : Nat} {t : Int} (hc : (s.th k).cfg.convert v = some t) :
    ((s.thConvert k v).th k).t16 = t ∧ ((s.thConvert k v).th k).validAt = some s.now ∧
      ((s.thConvert k v).th k).badRun = 0 ∧ ∀ j, j ≠ k → (s.thConvert k v).th j = s.th j := by
  have hp := Drives.of_posts (s.thCounted_posts k)
  have hr := ((s.thCounted k).thValid_shows k t).trans (State.thConvert_valid hc).reads
  refine ⟨?_, ?_, ?_, fun j hj => ?_⟩
  · rw [hr.t16, State.th_modTh]
  · rw [hr.validAt, State.th_modTh, hp.now_eq]
  · rw [hr.badRun, State.th_modTh]
  · rw [hr.others j hj, State.th_modTh_ne _ hj, State.th, hp.thermal_eq]
    exact (rfl : at' s.thermal.chans j = s.th j)

/-- A conversion that gives none; the third in a row makes the channel INVALID (R448). -/
theorem State.thConvert_fails {s : State} {k : Fin 10} {v : Nat} (hc : (s.th k).cfg.convert v = none) :
    ((s.thConvert k v).th k).t16 = (s.th k).t16 ∧ ((s.thConvert k v).th k).badRun = (s.th k).badRun + 1 ∧
      (2 ≤ (s.th k).badRun → ((s.thConvert k v).th k).state = .invalid) := by
  have hth : (s.thCounted k).th k = s.th k := by
    rw [State.th, (Drives.of_posts (s.thCounted_posts k)).thermal_eq]
    exact (rfl : at' s.thermal.chans k = s.th k)
  have hfail : ((s.thCounted k).thFailed k).th k = { s.th k with badRun := (s.th k).badRun + 1, goodRun := 0 } := by
    rw [State.thFailed, State.th_modTh, hth]
  obtain ⟨h3, hless⟩ := State.thConvert_invalid hc
  by_cases hb : 3 ≤ (((s.thCounted k).thFailed k).th k).badRun
  · obtain ⟨hset, hstate⟩ := ((s.thCounted k).thFailed k).thSetState_reads k .invalid
    have hr := hset.trans (h3 hb).reads
    exact ⟨by rw [hr.t16, hfail], by rw [hr.badRun, hfail], fun _ => (h3 hb).state.trans hstate⟩
  · have hr := (hless hb).reads
    refine ⟨by rw [hr.t16, hfail], by rw [hr.badRun, hfail], fun h2 => absurd ?_ hb⟩
    rw [hfail]
    exact Nat.succ_le_succ h2

/-! ### What the held writes of the host ports leave of the memory (R640) -/

/-- The training of LPDDR4X stands at a state. -/
def TrainAt (b : TrainState) (s : State) : Prop := s.memc.train = b

section
variable {b : TrainState} {s : State}

theorem TrainAt.of_posts {u : State} (h : TrainAt b s) (k : Posts s u) : TrainAt b u := by
  unfold TrainAt
  rw [k.memc]
  exact h

theorem State.lpRequest_train (h : TrainAt b s) : TrainAt b s.lpRequest := by
  unfold State.lpRequest
  split
  · rw [State.passTo_eq]
    refine TrainAt.of_posts ?_ (State.lpWake_posts (.refl _))
    exact h
  · exact h

theorem State.moaPut_train (a : Nat) (bs : List Byte) (h : TrainAt b s) : TrainAt b (s.moaPut a bs) :=
  TrainAt.of_posts (s := s.moaWrite a bs) h (State.tally_refl ..)

theorem State.answer_train (t : Ten) (code : Nat) (data : List Word) (h : TrainAt b s) :
    TrainAt b (s.answer t code data) := by
  unfold State.answer
  split
  · exact h
  · exact TrainAt.of_posts (s := s.modBox t _) h (State.notify_posts _ _ (.refl _))

theorem forEach_train {α : Type} (xs : List α) {f : α → State → State} (h : TrainAt b s)
    (hf : ∀ x u, TrainAt b u → TrainAt b (f x u)) : TrainAt b (forEach xs f s) :=
  forEach_holds xs h fun x _ u hu => hf x u hu

theorem TrainAt.ite {c : Prop} [Decidable c] {x y : State} (hx : TrainAt b x) (hy : TrainAt b y) :
    TrainAt b (if c then x else y) := by
  split
  · exact hx
  · exact hy

theorem TrainAt.snd_ite {α : Type} {c : Prop} [Decidable c] {x y : α × State} (hx : TrainAt b x.2) (hy : TrainAt b y.2) :
    TrainAt b (if c then x else y).2 := by
  split
  · exact hx
  · exact hy

/-! Registers. -/

theorem State.doorbell_train (t : Ten) (r : RingId) (op idx : Nat) (h : TrainAt b s) : TrainAt b (s.doorbell t r op idx) := by
  have ht : ∀ f : RingSt → RingSt, TrainAt b ((s.modRing r f).tally 1 r.val 2 1) := fun f =>
    TrainAt.of_posts (s := s.modRing r f) h (State.tally_refl ..)
  unfold State.doorbell
  split
  · exact h
  split
  · exact h.of_posts (State.post_refl ..)
  · unfold State.doorbellTake
    dsimp only
    split
    · exact ht _
    · split
      · exact ht _
      · exact ht _

theorem State.evqRdWrite_train (t : Ten) (v : Word) (h : TrainAt b s) : TrainAt b (s.evqRdWrite t v) := by
  unfold State.evqRdWrite
  dsimp only
  split
  · split
    · exact TrainAt.of_posts (s := s.modTen t _) h (State.notify_posts _ _ (.refl _))
    · exact h
  · exact h

theorem State.mbCmd_train (t : Ten) (v : Word) (h : TrainAt b s) : TrainAt b (s.mbCmd t v) := by
  have hb : ∀ f : Mailbox → Mailbox, TrainAt b (s.modBox t f) := fun _ => h
  unfold State.mbCmd
  dsimp only
  split
  · exact h.of_posts (State.tally_refl ..)
  split
  · exact State.answer_train _ _ _ (hb _)
  split
  · exact State.answer_train _ _ _ (hb _)
  split
  · exact State.answer_train _ _ _ (hb _)
  · exact hb _

theorem State.resetReq_train (t : Ten) (v : Word) (h : TrainAt b s) : TrainAt b (s.resetReq t v) := by
  unfold State.resetReq
  split
  · exact h
  · exact h

theorem State.kick_train (t : Ten) (v : Word) (h : TrainAt b s) : TrainAt b (s.kick t v) := by
  unfold State.kick
  dsimp only
  split
  · exact h
  · exact h

theorem State.mbDone_train (t : Ten) (v : Word) (h : TrainAt b s) : TrainAt b (s.mbDone t v) := by
  unfold State.mbDone
  split
  · exact h
  · exact h

theorem State.winWrite_train (t : Ten) (off : Nat) (v : Word) (h : TrainAt b s) : TrainAt b (s.winWrite t off v) := by
  unfold State.winWrite
  refine .ite (State.resetReq_train _ _ h) (.ite (State.kick_train _ _ h) (.ite ?_ (.ite (State.evqRdWrite_train _ _ h)
    (.ite (.ite h h) (.ite h (.ite ?_ (.ite (h.of_posts (State.gfix_posts _ _ (.refl s))) (.ite h (.ite
    (State.mbCmd_train _ _ h) (.ite h (.ite h (.ite (State.mbDone_train _ _ h) h))))))))))))
  · split
    · exact State.doorbell_train _ _ _ _ h
    · exact h
  · split
    · exact h
    · exact h

theorem State.regWrite_train (ot : Option Ten) (addr : Nat) (whole : Bool) (v : Word) (h : TrainAt b s) :
    TrainAt b (s.regWrite ot addr whole v) := by
  have hg : ∀ i, TrainAt b (s.gfix i 1) := fun _ => h.of_posts (State.gfix_posts _ _ (.refl s))
  unfold State.regWrite
  dsimp only
  repeat' split
  all_goals first
    | exact h
    | exact hg _
    | exact State.winWrite_train _ _ _ h

theorem State.idRead_train (t : Option Ten) (off : Nat) (h : TrainAt b s) : TrainAt b (s.idRead t off).2 := by
  unfold State.idRead
  split
  case h_8 => cases t <;> exact h
  case h_9 =>
    unfold State.bellnoHi
    cases t with
    | none => exact h
    | some t => dsimp only; split <;> exact h
  all_goals exact h

theorem State.boxReg_train (t : Ten) (k : Nat) (h : TrainAt b s) : TrainAt b (s.boxReg t k).2 := by
  unfold State.boxReg
  split
  case h_4 =>
    unfold State.boxRead
    dsimp only
    split
    · exact h
    · exact TrainAt.of_posts (u := (s.fresh 32).2) h (State.fresh_posts _ (.refl s))
  all_goals exact h

theorem State.winRead_train (t : Ten) (off : Nat) (h : TrainAt b s) : TrainAt b (s.winRead t off).2 := by
  have hlow : ∀ v, TrainAt b (s.galLow t v).2 := fun _ => h
  have hhigh : ∀ v, TrainAt b (s.galHigh t v).2 := fun v => by
    unfold State.galHigh
    split
    · exact TrainAt.snd_ite h h
    · exact h
  unfold State.winRead
  dsimp only
  iterate 15 refine TrainAt.snd_ite h ?_
  exact .snd_ite (.snd_ite (hlow _) (hhigh _)) (.snd_ite h (.snd_ite (State.boxReg_train _ _ h) h))

theorem State.regRead_train (ot : Option Ten) (addr : Nat) (h : TrainAt b s) : TrainAt b (s.regRead ot addr).2 := by
  unfold State.regRead
  refine TrainAt.snd_ite (State.idRead_train _ _ h) ?_
  cases ot with
  | none => exact h
  | some t =>
    exact TrainAt.snd_ite (TrainAt.snd_ite h (State.winRead_train _ _ h))
      (TrainAt.snd_ite (h.of_posts (State.gfix_posts _ _ (.refl s))) h)

/-! Framed requests. -/

theorem State.regReads_train (t : Option Ten) (q : FReq) (n : Nat) (h : TrainAt b s) : TrainAt b (s.regReads t q n).2 := by
  induction n with
  | zero => exact h
  | succ n ih =>
    unfold State.regReads State.regBytes
    dsimp only
    split
    · exact State.regRead_train _ _ ih
    · exact State.regRead_train _ _ (State.regRead_train _ _ ih)

theorem State.hostRead_train (t : Ten) (under : Bool) (xs : List (Option Nat)) (h : TrainAt b s) :
    TrainAt b (s.hostRead t under xs).2 := by
  have h1 : TrainAt b (if (under || (xs.filterMap id).isEmpty) = true then s else s.lpRequest) := by
    split
    · exact h
    · exact State.lpRequest_train h
  unfold State.hostRead
  dsimp only
  split
  · exact h1.of_posts (State.post_posts _ _ _ _ _ (State.tally_posts _ _ _ _ (State.gfix_posts _ _ (.refl _))))
  · exact h1

theorem State.outsideWrite_train (t : Ten) (n : Nat) (h : TrainAt b s) : TrainAt b (s.outsideWrite t n) :=
  h.of_posts (State.outsideWrite_posts _ _ (.refl s))

theorem State.regionWrite_train (t : Ten) (off : Nat) (ws : List Word) (h : TrainAt b s) :
    TrainAt b (s.regionWrite t off ws) := by
  unfold State.regionWrite
  dsimp only
  split
  · exact State.outsideWrite_train _ _ (State.lpRequest_train h)
  · exact State.outsideWrite_train _ _ h

theorem State.framedRing_train (t : Ten) (q : FReq) (h : TrainAt b s) : TrainAt b (s.framedRing t q) := by
  have hw : ∀ r idx, TrainAt b (s.ringWords r idx q.data) := fun r idx => by
    unfold State.ringWords
    dsimp only
    repeat' split
    · exact h
    · exact h
    · exact forEach_train (s := s.underWrite _ _) _ h fun _ _ hu => hu
  unfold State.framedRing
  split
  · exact h
  · dsimp only
    split
    · exact State.doorbell_train _ _ _ _ (hw _ _)
    · exact hw _ _

theorem State.jIdle_train (h : TrainAt b s) : TrainAt b s.jIdle :=
  State.moaPut_train _ _ (State.moaPut_train _ _ h)

theorem State.loadDone_train (t : Ten) (h : TrainAt b s) : TrainAt b (s.loadDone t) := by
  unfold State.loadDone
  dsimp only
  split
  · exact h
  · exact TrainAt.of_posts (State.jIdle_train (s := s.loadEnd.cekClear) h) (State.postAll_refl ..)

theorem State.updBegin_train (r : Route) (hd : List Byte) (h : TrainAt b s) : TrainAt b (s.updBegin r hd).2 := by
  unfold State.updBegin
  refine TrainAt.snd_ite h ?_
  split
  · exact TrainAt.of_posts (u := s.updPost _ _) h (State.postAll_refl ..)
  · exact State.moaPut_train _ _ (State.moaPut_train _ _ (State.moaPut_train _ _ h))

theorem State.updChunk_train (i : Nat) (bs : List Byte) (h : TrainAt b s) : TrainAt b (s.updChunk i bs).2 := by
  unfold State.updChunk
  refine TrainAt.snd_ite h (TrainAt.snd_ite h (TrainAt.snd_ite h ?_))
  split
  · exact h
  · dsimp only
    generalize hs0 : (if hdrEnc s.xferHdr = true then _ else s : State) = s0
    have h0 : TrainAt b s0 := by
      rw [← hs0]
      split <;> exact h
    exact TrainAt.snd_ite h0 (State.moaPut_train _ _ (State.moaPut_train _ _ h0))

theorem State.loadTake_train (n : Nat) (h : TrainAt b s) : TrainAt b (s.loadTake n) := by
  induction n generalizing s with
  | zero => exact h
  | succ n ih =>
    unfold State.loadTake
    split
    next => exact h
    next l _ =>
      dsimp only
      refine .ite (.ite h ?_) (.ite (State.loadDone_train _ h) (.ite h (.ite ?_ ?_)))
      · have hb := State.updBegin_train .svc (l.part.take 512) h
        split
        next heq =>
          rw [heq] at hb
          exact hb
        next heq =>
          rw [heq] at hb
          exact ih hb
      · exact State.loadDone_train _ (State.updChunk_train _ _ h)
      · exact ih (State.updChunk_train _ _ h)

theorem State.framedEffect_train (t : Option Ten) (q : FReq) (h : TrainAt b s) : TrainAt b (s.framedEffect t q).2 := by
  have hout : ∀ t n, TrainAt b (s.outside t n) := fun _ _ => h.of_posts (State.outside_posts _ _ (.refl s))
  unfold State.framedEffect
  split
  · exact TrainAt.snd_ite (State.regReads_train _ _ _ h) h
  · split
    · exact forEach_train _ h fun _ _ hu => State.regWrite_train _ _ _ _ hu
    · exact State.regReads_train _ _ _ h
    · exact State.framedRing_train _ _ h
    · exact State.regionWrite_train _ _ _ h
    · exact State.hostRead_train _ _ _ (hout _ _)
    · exact State.hostRead_train _ _ _ h
    · exact State.loadTake_train 4 h
    · exact h

theorem State.heldEffect_train (p : HostPort) (w : HeldWrite) (h : TrainAt b s) : TrainAt b (s.heldEffect p w) := by
  have hbar : ∀ n off bs, TrainAt b (s.bar2Write n off bs) := fun n off bs => by
    unfold State.bar2Write
    split
    · exact h
    · refine State.outsideWrite_train _ _ (.ite ?_ h)
      exact forEach_train _ (State.lpRequest_train h) fun _ _ hu => hu
  unfold State.heldEffect
  split
  · exact hbar _ _ _
  · exact .ite (State.regWrite_train _ _ _ _ h) (.ite h h)
  · exact State.framedEffect_train _ _ h
  · exact h

theorem State.modPort_train (p : HostPort) (f : PortSt → PortSt) (h : TrainAt b s) : TrainAt b (s.modPort p f) := by
  rw [s.modPort_rest p f]
  exact h

theorem State.heldOut_train (h : TrainAt b s) : TrainAt b s.heldOut := by
  refine .ite (forEach_train _ h fun p u hu => ?_) h
  dsimp only
  refine forEach_train _ ?_ fun w v hv => State.heldEffect_train p w hv
  split
  · exact hu
  · exact State.modPort_train _ _ hu

end

/-! ### Training, the scrub and a prime set -/

/-- What the end of a training pass leads to (R190, R221). -/
def TrainState.next (t : TrainState) (ok : Bool) : TrainState :=
  match t with
  | .verify => if ok then .trained else .full
  | .reverify | .full => if ok then .trained else .failed
  | t => t

theorem State.trainDone_train (s : State) (ok : Bool) : TrainAt (s.memc.train.next ok) (s.trainDone ok) := by
  unfold State.trainDone
  cases ht : s.memc.train with
  | verify => cases ok <;> rfl
  | reverify => cases ok <;> rfl
  | full =>
    cases ok
    · refine TrainAt.of_posts ?_ (State.relAppend_posts _ (.refl _))
      rfl
    · refine TrainAt.of_posts ?_ (State.relAppend_posts _ (.refl _))
      rfl
  | _ => exact ht

/-- The next word of the store is read (R217). -/
theorem State.scrubWord_rest (s : State) : s.scrubWord.memc.scrub = (s.memc.scrub + 1) % 4194304 ∧ s.scrubWord.moa = s.moa := by
  have hp : ∀ (v : State) (x y : Nat), Posts v ((v.gfix x 1).tally 7 3 y 1) := fun v _ _ =>
    State.tally_posts _ _ _ _ (State.gfix_posts _ _ (.refl v))
  have hpost : ∀ {v u : State}, Posts v u → v.memc.scrub = (s.memc.scrub + 1) % 4194304 → v.moa = s.moa →
      u.memc.scrub = (s.memc.scrub + 1) % 4194304 ∧ u.moa = s.moa := fun {v u} h h1 h2 =>
    ⟨by rw [h.memc]; exact h1, h.moa_eq.trans h2⟩
  unfold State.scrubWord
  dsimp only
  split
  · exact hpost (hp _ _ _) rfl rfl
  split
  · exact hpost (hp _ _ _) rfl rfl
  · exact ⟨rfl, rfl⟩

theorem State.scrubRead_next {s : State} (hl : s.live = true) (hw : s.moaWriting = false) :
    s.scrubRead.memc.scrub = (s.memc.scrub + 1) % 4194304 ∧ s.scrubRead.moa = s.moa := by
  have hup : (s.power.boot == BootPhase.up) = true := by
    unfold State.live at hl
    exact (Bool.and_eq_true_iff.mp hl).1
  have hp : Posts s.scrubWord (s.scrubWord.tally 7 3 7 1) := State.tally_refl ..
  obtain ⟨h1, h2⟩ := s.scrubWord_rest
  unfold State.scrubRead
  rw [hl, hup, hw, Bool.true_or, if_neg (by decide), if_pos (by decide)]
  exact ⟨by rw [hp.memc]; exact h1, hp.moa_eq.trans h2⟩

theorem exec_primeSetDone_ends {s : State} {x : Word × Word × Nat × Nat} (ok : Bool) (hx : s.prime.setBusy = some x) :
    ∃ u, exec (.primeSetDone ok) s = .next u ∧ u.prime.setBusy = none ∧
      (ok = true → u.prime.gen = x.1 ∧ u.prime.manifestOk = true ∧
        u.moa = Memory.writeN s.moa (primeBase + 1088) (wordBytes x.2.1)) ∧
      (ok = false → u.prime.gen = s.prime.gen ∧ u.moa = s.moa) := by
  obtain ⟨gen, crc, taken, skipped⟩ := x
  have hprime : ∀ (v : State) (w : Nat) (g : Word) (a b : Nat), (v.primeState w g a b).prime = v.prime ∧
      (v.primeState w g a b).moa = v.moa := fun v w g a b => by
    have hp : Posts v (v.primeState w g a b) := State.postTo_refl ..
    exact ⟨(congrArg State.prime hp.rest :), hp.moa_eq⟩
  change ∃ u, execPrimeSetDone ok s = .next u ∧ _
  unfold execPrimeSetDone
  rw [hx]
  refine ⟨_, rfl, ?_⟩
  cases ok
  · simp only [Bool.false_eq_true, if_false, (hprime _ _ _ _ _).1, (hprime _ _ _ _ _).2]
    exact ⟨trivial, fun h => h.elim, fun _ => ⟨trivial, trivial⟩⟩
  · simp only [if_true, (hprime _ _ _ _ _).1, (hprime _ _ _ _ _).2, (State.moaPut_rest ..).2]
    exact ⟨trivial, fun _ => ⟨trivial, trivial, trivial⟩, fun h => by cases h⟩

/-! ### MR4, the memory hold and self-refresh (R186, R191, R194, R457) -/

/-- An MR4 read is noted. -/
def State.mr4Noted (s : State) (v : Nat) : State :=
  { s with
    memc := { s.memc with mr4 := v, mr4At := s.now }
    thermal := { s.thermal with mr4Hot := if 6 ≤ v % 8 then s.thermal.mr4Hot + 1 else 0 } }

theorem State.mr4Take_reads (s : State) (v : Nat) : (s.mr4Take v).now = s.now ∧ (s.mr4Take v).memc.mr4 = v ∧
    (s.mr4Take v).thermal.mr4Hot = (if 6 ≤ v % 8 then s.thermal.mr4Hot + 1 else 0) ∧
    (s.thermal.hold = true → (s.mr4Take v).thermal.hold = true) := by
  have h : Scoped (s.mr4Noted v) (s.mr4Take v) := by
    change Scoped _ ((if 5 ≤ v % 8 then (s.mr4Noted v).postAll 0x0064 0xD0 none [w32 v] else s.mr4Noted v).scopeSet 7 none)
    refine Scoped.trans ?_ (State.scopeSet_scoped ..)
    split
    · exact .of_drives (.of_posts (State.postAll_refl ..))
    · exact .refl _
  exact ⟨h.now, h.mr4, h.mr4Hot, h.hold⟩

theorem State.passTo_thermal (s : State) (d : Time) : (s.passTo d).thermal = s.thermal := by rw [State.passTo_eq]
theorem State.passTo_memc (s : State) (d : Time) : (s.passTo d).memc = s.memc := by rw [State.passTo_eq]

theorem State.le_now_of_memc {s : State} {d : Time} (h : d ≤ s.now) (m : MemCtl) : d ≤ ({ s with memc := m } : State).now := h

theorem State.le_now_of_thermal {s : State} {d : Time} (h : d ≤ s.now) (x : ThermalSt) :
    d ≤ ({ s with thermal := x } : State).now := h

theorem exec_mr4Read_takes {s : State} (v : Nat) (hl : s.live = true) (hu : s.lpUsable = true) :
    ∃ u, exec (.mr4Read v) s = .next u ∧ u.memc.mr4 = v ∧ s.memc.mr4At + ms 16 ≤ u.now ∧
      u.thermal.mr4Hot = if 6 ≤ v % 8 then s.thermal.mr4Hot + 1 else 0 := by
  obtain ⟨hnow, hmr4, hhot, -⟩ := (s.passTo (s.memc.mr4At + ms 16)).mr4Take_reads v
  refine ⟨_, congrArg Host.Outcome.next (if_pos (by rw [hl, hu]; rfl)), hmr4, hnow ▸ s.le_passTo _, hhot.trans ?_⟩
  rw [State.passTo_thermal]

theorem State.tally_memc (s : State) (b u e n : Nat) : (s.tally b u e n).memc = s.memc :=
  (congrArg State.memc (s.tally_noGal b u e n) :)

theorem State.refBegin_begun (s : State) : s.refBegin.memc.selfRef = true ∧
    (s.memc.selfRef = false → s.refBegin.memc.selfRefAt = s.now) := by
  unfold State.refBegin
  split
  next h => exact ⟨h, fun h0 => absurd h (by rw [h0]; exact Bool.false_ne_true)⟩
  next =>
    rw [State.tally_memc]
    exact ⟨rfl, fun _ => rfl⟩

theorem State.refEnd_rest (s : State) : s.refEnd.now = s.now ∧ s.refEnd.thermal = s.thermal ∧
    s.refEnd.memc = { s.memc with selfRef := false } :=
  ⟨(congrArg State.now (State.tally_noGal ..) :), (congrArg State.thermal (State.tally_noGal ..) :), State.tally_memc ..⟩

theorem State.mr4Take_held (w : State) (v : Nat) (h : w.thermal.hold = true) :
    (State.mr4Take { w with thermal := { w.thermal with holdRead := w.now } } v).now = w.now ∧
      (State.mr4Take { w with thermal := { w.thermal with holdRead := w.now } } v).memc.mr4 = v ∧
      (State.mr4Take { w with thermal := { w.thermal with holdRead := w.now } } v).thermal.hold = true := by
  obtain ⟨hn, h4, -, hkeep⟩ := State.mr4Take_reads { w with thermal := { w.thermal with holdRead := w.now } } v
  exact ⟨hn, h4, hkeep h⟩

theorem exec_memoryHoldCheck_reads {s : State} (v : Nat) (hl : s.live = true) (hh : s.thermal.hold = true) :
    ∃ u, exec (.memoryHoldCheck v) s = .next u ∧ u.memc.mr4 = v ∧
      (6 ≤ v % 8 → u.thermal.hold = true ∧ u.memc.selfRef = true) ∧ s.thermal.holdRead + ms 1000 ≤ u.now := by
  have hle := s.le_passTo (s.thermal.holdRead + ms 1000)
  have hhold : (s.passTo (s.thermal.holdRead + ms 1000)).thermal.hold = true := by rw [State.passTo_thermal, hh]
  change ∃ u, execMemoryHoldCheck v s = .next u ∧ _
  unfold execMemoryHoldCheck
  rw [hl, hh, if_pos (by decide)]
  generalize s.thermal.holdRead + ms 1000 = d at hle hhold ⊢
  generalize s.passTo d = p at hle hhold ⊢
  dsimp only
  obtain ⟨hnow, hth, -⟩ := p.refEnd_rest
  rw [← hnow] at hle
  rw [← hth] at hhold
  generalize p.refEnd = w at hle hhold ⊢
  obtain ⟨hn, h4, hheld⟩ := w.mr4Take_held v hhold
  generalize State.mr4Take _ v = s1 at hn h4 hheld ⊢
  have htime : d ≤ s1.now := Nat.le_trans hle (Nat.le_of_eq hn.symm)
  have hsc := s1.refBegin_scoped
  refine ⟨_, rfl, ?_, fun h6 => ?_, ?_⟩
  · split
    · exact h4
    · rw [hsc.mr4, h4]
  · rw [decide_eq_false (by omega : ¬ v % 8 ≤ 5), Bool.false_and, if_neg Bool.false_ne_true]
    exact ⟨hsc.hold hheld, s1.refBegin_begun.1⟩
  · split
    · exact State.le_now_of_thermal htime _
    · exact Nat.le_trans htime (Nat.le_of_eq hsc.now.symm)

theorem exec_dqsDriftRead_adjusts {s : State} (n : Vector (BitVec 16) 4) (hl : s.live = true) (hr : s.power.state = .run)
    (hu : s.lpUsable = true) :
    ∃ u, exec (.dqsDriftRead n) s = .next u ∧ s.memc.dqsAt + ms 100 ≤ u.now ∧ ∀ k : Fin 4,
      at' u.memc.dqsAdj k = if s.memc.fitted k = true then ((at' n k).toNat : Int) - s.memc.osc k else 0 := by
  have hle := s.le_passTo (s.memc.dqsAt + ms 100)
  have hmemc : (s.passTo (s.memc.dqsAt + ms 100)).memc = s.memc := State.passTo_memc ..
  change ∃ u, execDqsDriftRead n s = .next u ∧ _
  unfold execDqsDriftRead
  rw [hl, hr, hu, if_pos (by decide)]
  generalize s.passTo (s.memc.dqsAt + ms 100) = p at hle hmemc
  refine ⟨_, rfl, State.le_now_of_memc hle _, fun k => ?_⟩
  rw [at', Vector.getElem_ofFn, hmemc]

theorem exec_selfRefreshEntry_begins {s : State} (hl : s.live = true) (hi : s.power.state = .idle)
    (hu : s.lpUsable = true) (hs : s.memc.selfRef = false) :
    ∃ u, exec .selfRefreshEntry s = .next u ∧ (u.memc.selfRef = true ↔ us 20 ≤ s.tol) ∧
      (us 20 ≤ s.tol → u.memc.selfRefAt = s.now) := by
  have hon : (s.live && s.power.state == PowerState.idle && s.lpUsable) = true := by rw [hl, hi, hu]; rfl
  change ∃ u, execSelfRefreshEntry s = .next u ∧ _
  unfold execSelfRefreshEntry
  rw [hon, Bool.true_and]
  refine ⟨_, rfl, ?_⟩
  by_cases ht : us 20 ≤ s.tol
  · rw [if_pos (decide_eq_true ht)]
    exact ⟨⟨fun _ => ht, fun _ => s.refBegin_begun.1⟩, fun _ => s.refBegin_begun.2 hs⟩
  · rw [if_neg (by simpa using ht), hs]
    exact ⟨⟨fun h => absurd h Bool.false_ne_true, fun h => absurd h ht⟩, fun h => absurd h ht⟩

/-- A request, or a need that has come close, ends the self-refresh, 1 µs after the entry at the earliest. -/
theorem State.lpRequest_ends {s : State} (hl : s.live = true) (hs : s.memc.selfRef = true) (hh : s.thermal.hold = false) :
    s.lpRequest.memc.selfRef = false ∧ s.memc.selfRefAt + us 1 ≤ s.lpRequest.now ∧ s.now ≤ s.lpRequest.now := by
  have hon : (s.memc.selfRef && s.live && !s.thermal.hold) = true := by rw [hl, hs, hh]; rfl
  have hon' : ((s.passTo (s.memc.selfRefAt + us 1)).memc.selfRef && (s.passTo (s.memc.selfRefAt + us 1)).live &&
      !(s.passTo (s.memc.selfRefAt + us 1)).thermal.hold) = true := by
    rw [State.passTo_eq]
    exact hon
  obtain ⟨hnow, -, hmemc⟩ := (s.passTo (s.memc.selfRefAt + us 1)).refEnd_rest
  unfold State.lpRequest State.lpWake
  rw [if_pos hon, if_pos hon', hnow, hmemc]
  refine ⟨rfl, s.le_passTo _, ?_⟩
  rw [State.passTo_eq]
  exact Nat.le_max_left _ _

/-! ### O58 -/

/-- Settles O58, event by event. -/
theorem sensorsAndMemory : Obligations.SensorsAndMemory := by
  intro s
  refine ⟨fun k v t he hd hc => ⟨_, congrArg Host.Outcome.next (State.thermalSample_one he hd), State.thConvert_shows hc⟩,
    fun k v he hd hc => ⟨_, congrArg Host.Outcome.next (State.thermalSample_one he hd), State.thConvert_fails hc⟩,
    fun v hl hu => exec_mr4Read_takes v hl hu, fun v hl hh => exec_memoryHoldCheck_reads v hl hh,
    fun n hl hr hu => exec_dqsDriftRead_adjusts n hl hr hu, fun hl hi hu hs => exec_selfRefreshEntry_begins hl hi hu hs,
    fun x hl hs hh => ?_, fun x hs => ?_, fun hl hw => ⟨_, rfl, State.scrubRead_next hl hw⟩, fun ok => ?_,
    fun ok x hx => exec_primeSetDone_ends ok hx⟩
  · have hoff : (!((s.tolTake x).live && (s.tolTake x).memc.selfRef)) = false := by
      change (!(s.live && s.memc.selfRef)) = false
      rw [hl, hs]
      rfl
    refine ⟨fun hx => ?_, fun n hx hn => ?_⟩
    · obtain ⟨hend, htime, -⟩ := State.lpRequest_ends (s := s.tolTake x) hl hs hh
      refine ⟨(s.tolTake x).lpRequest, congrArg Host.Outcome.next ?_, hend, htime⟩
      simp only [hoff, hx, Bool.false_eq_true, if_false, if_true]
    · obtain ⟨hend, htime, hlate⟩ := State.lpRequest_ends (s := (s.tolTake x).passTo (n - us 8))
        (by rw [State.passTo_eq]; exact hl) (by rw [State.passTo_eq]; exact hs) (by rw [State.passTo_eq]; exact hh)
      refine ⟨_, congrArg Host.Outcome.next ?_, hend, ?_, Nat.le_trans ((s.tolTake x).le_passTo _) hlate⟩
      · simp only [hoff, hx, hn, Bool.false_eq_true, if_false]
      · rw [State.passTo_eq] at htime ⊢
        exact htime
  · refine congrArg Host.Outcome.next (if_pos ?_)
    change (!(s.live && s.memc.selfRef)) = true
    rw [hs, Bool.and_false]
    rfl
  · have ht : TrainAt (s.memc.train.next ok) (if (s.trainDone ok).memc.train == TrainState.trained ||
        (s.trainDone ok).memc.train == TrainState.failed then (s.trainDone ok).heldOut else s.trainDone ok) :=
      .ite (State.heldOut_train (s.trainDone_train ok)) (s.trainDone_train ok)
    refine ⟨_, rfl, fun h => ?_, fun h => ?_, fun h => ?_⟩ <;> rw [h] at ht <;> exact ht

end Sys2Proof.Machine

/-!
PROOFS. A tenant reset, the tenants' overflow events and the Cloister's own events (03_tenants_rings R106, R112, R113;
15_cloister R501, R502, R505, R506, R509): O50.
-/

namespace Sys2Proof.Machine

/-! ### What neither posting nor the blocks' own state reaches -/

/-- The tenants but for their event queues, the mailboxes, the rings, the surfaces, the Cloister and the Bell stand. -/
structure TenantsStand (s u : State) : Prop where
  ten : ∀ n, u.ten n = { s.ten n with evq := (u.ten n).evq }
  box : u.ports.box = s.ports.box
  rings : u.rings = s.rings
  surfs : u.surfs = s.surfs
  cloister : u.cloister = s.cloister
  bell : u.bell = s.bell

namespace TenantsStand
variable {s t u : State}

theorem refl (s : State) : TenantsStand s s := ⟨fun _ => rfl, rfl, rfl, rfl, rfl, rfl⟩

theorem trans (h : TenantsStand s t) (k : TenantsStand t u) : TenantsStand s u := by
  refine ⟨fun n => ?_, k.box.trans h.box, k.rings.trans h.rings, k.surfs.trans h.surfs, k.cloister.trans h.cloister,
    k.bell.trans h.bell⟩
  have e := k.ten n
  rw [h.ten n] at e
  exact e

theorem of_posts (h : Posts s t) : TenantsStand s t :=
  ⟨h.ten, by rw [h.ports], (congrArg State.rings h.rest :), (congrArg State.surfs h.rest :),
    (congrArg State.cloister h.rest :), (congrArg State.bell h.rest :)⟩

/-- A change of none of these. -/
theorem of_eq (ht : u.tens = s.tens) (hb : u.ports = s.ports) (hr : u.rings = s.rings) (hs : u.surfs = s.surfs)
    (hc : u.cloister = s.cloister) (hl : u.bell = s.bell) : TenantsStand s u :=
  ⟨fun n => by unfold State.ten; rw [ht], by rw [hb], hr, hs, hc, hl⟩

theorem of_forEach {α : Type} (xs : List α) {f : α → State → State} (hf : ∀ x s, TenantsStand s (f x s)) (s : State) :
    TenantsStand s (forEach xs f s) :=
  forEach_holds xs (.refl s) fun x _ u h => h.trans (hf x u)

end TenantsStand

theorem State.modSlot_stand (s : State) (i : Slot) (f : LoopSt → LoopSt) : TenantsStand s (s.modSlot i f) :=
  .of_eq rfl rfl rfl rfl rfl rfl

theorem State.modRel_stand (s : State) (f : ReliqSt → ReliqSt) : TenantsStand s (s.modRel f) :=
  .of_eq rfl rfl rfl rfl rfl rfl

theorem State.repTable_stand (s : State) (i : Slot) (n : Nat) (g : Word) : TenantsStand s (s.repTable i n g) :=
  .of_posts (State.post_refl ..)

theorem State.loadTable_stand (s : State) (i : Slot) : TenantsStand s (s.loadTable i) := by
  unfold State.loadTable
  dsimp only
  split
  · exact .refl s
  have h0 := s.modSlot_stand i (fun q => { q with table := [], tableGen := 0 })
  generalize s.modSlot i (fun q => { q with table := [], tableGen := 0 }) = u at h0 ⊢
  split
  · exact h0
  split
  · exact h0.trans (u.repTable_stand ..)
  split
  · exact h0.trans (u.repTable_stand ..)
  · exact h0.trans (.trans (u.modSlot_stand i _) (State.repTable_stand ..))

theorem State.loopsReset_stand (s : State) (t : Ten) : TenantsStand s (s.loopsReset t) := by
  unfold State.loopsReset
  refine TenantsStand.trans ?_ (.of_forEach _ (fun i u => ?_) _)
  · exact .of_eq rfl rfl rfl rfl rfl rfl
  dsimp only
  split
  · exact .refl u
  · refine .trans ?_ (State.modSlot_stand _ i _)
    unfold State.slotInit
    exact .trans (u.modSlot_stand i _) (State.loadTable_stand _ i)

theorem State.lightReset_stand (s : State) (t : Ten) : TenantsStand s (s.lightReset t) := by
  unfold State.lightReset
  refine .trans (.of_forEach _ (fun o u => ?_) _) (.of_forEach _ (fun r u => ?_) _)
  · unfold State.dimCut
    split
    · split <;> exact .of_eq rfl rfl rfl rfl rfl rfl
    · exact .refl u
  · split
    · exact .of_eq rfl rfl rfl rfl rfl rfl
    · exact .refl u

theorem State.keyReset_stand (s : State) (t : Ten) : TenantsStand s (s.keyReset t) := by
  unfold State.keyReset
  split
  · exact .refl s
  · exact .of_eq rfl rfl rfl rfl rfl rfl

theorem State.accClose_stand (s : State) (p : Nat → Bool) : TenantsStand s (s.accClose p) := by
  unfold State.accClose
  refine TenantsStand.trans (s.modRel_stand _) (.of_forEach _ (fun a u => ?_) _)
  exact .of_forEach _ (fun r v => .of_posts (State.relAppend_posts r (Posts.refl v))) _

theorem State.freezeEnd_stand (s : State) (why : Nat) : TenantsStand s (s.freezeEnd why) := by
  unfold State.freezeEnd
  split
  · exact .refl s
  · refine TenantsStand.trans ?_ (.of_posts (State.post_refl ..))
    refine TenantsStand.trans ?_ (.of_posts (State.relAppend_posts _ (Posts.refl _)))
    refine TenantsStand.trans ?_ (.of_forEach _ (fun r v => .of_posts (State.relAppend_posts r (Posts.refl v))) _)
    exact s.modRel_stand _

theorem State.freezeEndOf_stand (s : State) (t : Ten) (why : Nat) : TenantsStand s (s.freezeEndOf t why) := by
  unfold State.freezeEndOf
  split
  · split
    · exact s.freezeEnd_stand why
    · exact .refl s
  · exact .refl s

theorem State.evqReset_posts (s : State) (t : Ten) : Posts s (s.evqReset t) := by
  unfold State.evqReset
  refine forEach_posts _ ?_ fun e u hu => State.postNow_posts _ _ _ _ _ _ hu
  exact .of_evq (State.postNow_posts _ _ _ _ _ _ (.of_evq (.refl s) t _ fun _ => rfl)) t _ fun _ => rfl

/-! ### A reset of one tenant -/

/-- What the reset of a tenant leaves of the rings, the surfaces, the mailbox, the session and the tenant's registers. -/
structure TenantCut (t : Ten) (s u : State) : Prop where
  ten : ∃ at' runs, ∀ n, u.ten n = { (if n = t then (s.ten n).restart at' runs else s.ten n) with evq := (u.ten n).evq }
  box : ∀ n, n ≠ t → u.box n = s.box n
  own : (u.box t).busy = false ∧ (u.box t).ready = false
  ring : ∀ r, u.ring r = if (s.ring r).owner == some t then (s.ring r).emptied else s.ring r
  surfs : ∀ n, at' u.surfs n = if n = t then [] else at' s.surfs n
  session : ∀ n : Ten, (at' u.cloister.reqs (tenReq n)).session =
    if n = t then none else (at' s.cloister.reqs (tenReq n)).session
  bell : u.bell = s.bell

theorem TenantCut.then_stand {t : Ten} {s u v : State} (h : TenantCut t s u) (k : TenantsStand u v) : TenantCut t s v := by
  have hb : ∀ n, v.box n = u.box n := fun n => congrArg (at' · n) k.box
  have hr : ∀ r, v.ring r = u.ring r := fun r => congrArg (at' · r) k.rings
  obtain ⟨d, runs, ht⟩ := h.ten
  refine ⟨⟨d, runs, fun n => ?_⟩, fun n hn => (hb n).trans (h.box n hn), by rw [hb]; exact h.own,
    fun r => (hr r).trans (h.ring r), fun n => by rw [k.surfs]; exact h.surfs n, fun n => by rw [k.cloister]; exact h.session n,
    k.bell.trans h.bell⟩
  have e := k.ten n
  rw [ht n] at e
  exact e

theorem tenReq_ne {n t : Ten} (h : n ≠ t) : tenReq n ≠ tenReq t := fun e => h (Fin.ext (congrArg Fin.val e :))

/-- The session and the mailbox end, and the registers start again, in a state whose rings and surfaces are cleared. -/
theorem TenantCut.of_parts {t : Ten} {s a : State} (d : Time) (runs : Bool) (f : Mailbox → Mailbox)
    (hf : ∀ b, (f b).busy = false ∧ (f b).ready = false)
    (ht : ∀ n, a.ten n = { s.ten n with evq := (a.ten n).evq }) (hb : a.ports.box = s.ports.box)
    (hr : ∀ r, a.ring r = if (s.ring r).owner == some t then (s.ring r).emptied else s.ring r)
    (hs : ∀ n, at' a.surfs n = if n = t then [] else at' s.surfs n) (hc : a.cloister = s.cloister) (hl : a.bell = s.bell) :
    TenantCut t s (((a.endSession (tenReq t)).modBox t f).modTen t (fun q => q.restart d runs)) := by
  refine ⟨⟨d, runs, fun n => ?_⟩, fun n hn => ?_, ?_, hr, hs, fun n => ?_, hl⟩
  · by_cases hn : n = t
    · subst hn
      rw [State.ten_modTen, if_pos rfl]
      have e := ht n
      exact (congrArg (fun q : Tenant => q.restart d runs) e :)
    · rw [State.ten_modTen_ne _ _ _ _ hn, if_neg hn]
      exact ht n
  · refine Eq.trans ?_ (congrArg (at' · n) hb :)
    exact at_upd_ne _ _ _ _ hn
  · have e : (((a.endSession (tenReq t)).modBox t f).modTen t (fun q => q.restart d runs)).box t = f (at' a.ports.box t) :=
      at_upd _ _ _
    rw [e]
    exact hf _
  · have e : (((a.endSession (tenReq t)).modBox t f).modTen t (fun q => q.restart d runs)).cloister.reqs =
        upd a.cloister.reqs (tenReq t) (fun x => { x with session := none }) := rfl
    rw [e, ← hc]
    by_cases hn : n = t
    · subst hn
      rw [at_upd, if_pos rfl]
    · rw [at_upd_ne _ _ _ _ (tenReq_ne hn), if_neg hn]

theorem State.tenReset_cut {s : State} {t : Ten} (h : s.resetDue t = true) : TenantCut t s (s.tenReset t) := by
  unfold State.tenReset
  rw [h]
  dsimp only
  simp only [Bool.not_true, Bool.false_eq_true, if_false]
  refine TenantCut.then_stand ?_ ((TenantsStand.of_posts (State.evqReset_posts _ t)).trans (State.freezeEndOf_stand _ t 3))
  have hstand := fun s1 : State => (((s1.loopsReset_stand t).trans (State.lightReset_stand _ t)).trans
    (State.keyReset_stand _ t)).trans (State.accClose_stand _ (fun c => metricTen c == some t))
  generalize hs1 : ({ s with chaps := _, rings := _, surfs := _, chain := _ } : State) = s1
  have k := hstand s1
  generalize State.accClose _ _ = a at k ⊢
  refine TenantCut.of_parts (a := (a.modRel _).galReset t) _ _ _ (fun _ => ⟨rfl, rfl⟩) (fun n => ?_) ?_ (fun r => ?_)
    (fun n => ?_) ?_ ?_
  · have e := k.ten n
    rw [← hs1] at e
    exact e
  · exact k.box.trans (by rw [← hs1])
  · have e : ((a.modRel (fun q => { q with tags := upd q.tags t (fun _ => 0) })).galReset t).ring r = s1.ring r :=
      congrArg (at' · r) k.rings
    rw [e, ← hs1]
    exact at_mapTab _ _ _
  · have e : ((a.modRel (fun q => { q with tags := upd q.tags t (fun _ => 0) })).galReset t).surfs = s1.surfs := k.surfs
    rw [e, ← hs1]
    by_cases hn : n = t
    · subst hn
      rw [if_pos rfl]
      exact at_upd _ _ _
    · rw [if_neg hn]
      exact at_upd_ne _ _ _ _ hn
  · exact k.cloister.trans (by rw [← hs1])
  · exact k.bell.trans (by rw [← hs1])

/-- A tenant, its mailbox, its surfaces and its session are as they were, and every ring keeps its owner. -/
structure TenantAs (t : Ten) (b : Nat) (own : RingId → Option Ten) (s : State) : Prop where
  due : (s.ten t).resetAt = some b
  bell : b ≤ s.bell.bellno.toNat
  owner : ∀ r, (s.ring r).owner = own r

/-- The tenant's reset has taken effect. -/
structure TenantDone (t : Ten) (own : RingId → Option Ten) (s : State) : Prop where
  ten : (s.ten t).faulted = false ∧ (s.ten t).resetAt = none
  surfs : at' s.surfs t = []
  box : (s.box t).busy = false ∧ (s.box t).ready = false
  session : s.inSession (tenReq t) = false
  owner : ∀ r, (s.ring r).owner = own r
  ring : ∀ r, own r = some t → (s.ring r).rd = 0 ∧ (s.ring r).prod = 0 ∧ (s.ring r).g = Vector.replicate 16 0

theorem TenantCut.owner {t : Ten} {s u : State} (h : TenantCut t s u) (r : RingId) : (u.ring r).owner = (s.ring r).owner := by
  rw [h.ring r]
  split <;> rfl

theorem State.tenReset_idle {s : State} {t : Ten} (h : s.resetDue t = false) : s.tenReset t = s := by
  unfold State.tenReset
  rw [h]
  rfl

theorem TenantAs.step {t x : Ten} {b : Nat} {own : RingId → Option Ten} {s : State} (h : TenantAs t b own s) (hx : x ≠ t) :
    TenantAs t b own (s.tenReset x) := by
  cases hd : s.resetDue x with
  | false => rw [State.tenReset_idle hd]; exact h
  | true =>
    have k := State.tenReset_cut hd
    obtain ⟨d, runs, hten⟩ := k.ten
    refine ⟨?_, by rw [k.bell]; exact h.bell, fun r => (k.owner r).trans (h.owner r)⟩
    rw [hten t, if_neg hx.symm]
    exact h.due

theorem TenantDone.step {t x : Ten} {own : RingId → Option Ten} {s : State} (h : TenantDone t own s) (hx : x ≠ t) :
    TenantDone t own (s.tenReset x) := by
  cases hd : s.resetDue x with
  | false => rw [State.tenReset_idle hd]; exact h
  | true =>
    have k := State.tenReset_cut hd
    obtain ⟨d, runs, hten⟩ := k.ten
    refine ⟨?_, ?_, ?_, ?_, fun r => (k.owner r).trans (h.owner r), fun r hr => ?_⟩
    · rw [hten t, if_neg hx.symm]
      exact h.ten
    · rw [k.surfs t, if_neg hx.symm]
      exact h.surfs
    · rw [k.box t hx.symm]
      exact h.box
    · unfold State.inSession
      rw [k.session t, if_neg hx.symm]
      exact h.session
    · have hne : ((s.ring r).owner == some x) = false := by
        rw [h.owner r, hr]
        exact beq_false_of_ne fun e => hx (Option.some.inj e).symm
      rw [k.ring r, hne]
      exact h.ring r hr

theorem TenantAs.done {t : Ten} {b : Nat} {own : RingId → Option Ten} {s : State} (h : TenantAs t b own s) :
    TenantDone t own (s.tenReset t) := by
  have hd : s.resetDue t = true := by
    simp only [State.resetDue, h.due]
    exact decide_eq_true h.bell
  have k := State.tenReset_cut hd
  obtain ⟨d, runs, hten⟩ := k.ten
  refine ⟨?_, ?_, k.own, ?_, fun r => (k.owner r).trans (h.owner r), fun r hr => ?_⟩
  · rw [hten t, if_pos rfl]
    exact ⟨rfl, rfl⟩
  · rw [k.surfs t, if_pos rfl]
  · unfold State.inSession
    rw [k.session t, if_pos rfl]
    rfl
  · have he : ((s.ring r).owner == some t) = true := by rw [h.owner r, hr]; exact beq_self_eq_true _
    rw [k.ring r, if_pos he]
    exact ⟨rfl, rfl, rfl⟩

/-- A frame's FLOOR_EFF reaches no tenant. -/
theorem TenantDone.floorTaken {t : Ten} {own : RingId → Option Ten} {s : State} (h : TenantDone t own s) :
    TenantDone t own s.floorTaken :=
  ⟨h.ten, h.surfs, h.box, h.session, h.owner, h.ring⟩

theorem tenantResetEffect_done {s : State} {t : Ten} {b : Nat} (h : (s.ten t).resetAt = some b)
    (hb : b ≤ s.bell.bellno.toNat) :
    TenantDone t (fun r => (s.ring r).owner) (forEach (allFin 4) (fun t s => State.tenReset s t) s).floorTaken :=
  (forEach_at (mem_allFin t) (nodup_allFin 4) (TenantAs.mk h hb fun _ => rfl) (fun _ hx _ k => k.step hx)
    (fun _ k => k.done) (fun _ hx _ k => k.step hx)).floorTaken

/-! ### EVQ_OVERFLOW -/

theorem State.memWrite_tens (s : State) (under : Bool) (a : Nat) (bs : List Byte) : (s.memWrite under a bs).tens = s.tens := by
  unfold State.memWrite
  split <;> rfl

theorem State.lpWake_tens (s : State) : s.lpWake.tens = s.tens := by
  unfold State.lpWake
  split
  · exact (congrArg State.tens (State.tally_noGal ..) :)
  · rfl

/-- Writing a record moves EVQ_WR alone. -/
theorem State.evqPut_tens (s : State) (t : Ten) (bs : List Byte) :
    (s.evqPut t bs).tens = upd s.tens t (fun q => { q with evq := { q.evq with wr := (q.evq.wr + 1) % q.cfg.evqCap } }) := by
  have hwake : (if (s.ten t).cfg.evqUnder = true then s else s.lpWake).tens = s.tens := by
    split
    · rfl
    · exact s.lpWake_tens
  unfold State.evqPut
  dsimp only
  generalize (if (s.ten t).cfg.evqUnder = true then s else s.lpWake) = w at hwake ⊢
  have hmod : ∀ (m : State) f, m.tens = s.tens → (m.modTen t f).tens = upd s.tens t f := fun m f h => by
    rw [← h]
    rfl
  split
  · rw [State.notify_tens]
    exact hmod _ _ ((State.memWrite_tens ..).trans hwake)
  · exact hmod _ _ ((State.memWrite_tens ..).trans hwake)

theorem State.traceEvent_tens (s : State) (t : Ten) (bs : List Byte) : (s.traceEvent t bs).tens = s.tens := by
  unfold State.traceEvent
  split
  · exact (congrArg State.tens (State.trace_noGal ..) :)
  · rfl

theorem State.evqOverflow_told {s : State} {t : Ten} (hb : (s.ten t).cfg.bound = true) (hd : (s.ten t).evq.drop ≠ 0)
    (hs : s.evqShut t = false) :
    ((s.evqOverflow t).ten t).evq.drop = 0 ∧ ((s.evqOverflow t).ten t).evq.droppedBefore = true := by
  have hgo : ((s.ten t).cfg.bound && (s.ten t).evq.drop != 0 && !s.evqShut t) = true := by simp [hb, hd, hs]
  have he : (s.evqOverflow t).ten t = at' (s.evqOverflow t).tens t := rfl
  rw [he]
  unfold State.evqOverflow
  rw [if_pos hgo, State.traceEvent_tens, State.evqPut_tens, at_upd]
  simp [State.modTen, State.evqSeq]

/-! ### The Cloister's own events -/

theorem State.trngFail_error (s : State) (prop : Bool) : (s.trngFail prop).cloister.trngError =
    (s.cloister.trngError || decide (2 ≤ (s.cloister.trngFails.filter (fun x => s.now < x + ms 1000)).length)) := by
  unfold State.trngFail
  dsimp only
  rw [List.length_append, List.length_singleton]
  cases s.cloister.trngError
  · split
    next h =>
      rw [(congrArg State.cloister (State.postAll_refl ..).rest :)]
      simp at h ⊢
      omega
    next h =>
      simp at h
      simp
      omega
  · simp

theorem State.reseed_taken (s : State) : s.reseed.cloister.drbgReqs = 0 ∧ s.reseed.cloister.drbgAt = s.reseed.now ∧
    s.reseed.now = s.now :=
  ⟨rfl, rfl, rfl⟩

theorem State.reqs_modClo (s : State) (q : Fin 5) (f : CloReq → CloReq) :
    at' (s.modClo q f).cloister.reqs q = f (at' s.cloister.reqs q) := at_upd _ _ _

theorem State.reqs_modClo_ne (s : State) {q x : Fin 5} (h : q ≠ x) (f : CloReq → CloReq) :
    at' (s.modClo x f).cloister.reqs q = at' s.cloister.reqs q := at_upd_ne _ _ _ _ h

/-- A change of every requester changes each once. -/
theorem forEach_reqs (f : Time → CloReq → CloReq) (s : State) (q : Fin 5) :
    at' (forEach (allFin 5) (fun q s => s.modClo q (f s.now)) s).cloister.reqs q = f s.now (at' s.cloister.reqs q) ∧
      (forEach (allFin 5) (fun q s => s.modClo q (f s.now)) s).now = s.now :=
  forEach_at (P := fun u : State => at' u.cloister.reqs q = at' s.cloister.reqs q ∧ u.now = s.now)
    (Q := fun u : State => at' u.cloister.reqs q = f s.now (at' s.cloister.reqs q) ∧ u.now = s.now)
    (mem_allFin q) (nodup_allFin 5) ⟨rfl, rfl⟩
    (fun x hx u ⟨h, k⟩ => ⟨(u.reqs_modClo_ne hx.symm _).trans h, k⟩)
    (fun u ⟨h, k⟩ => ⟨(u.reqs_modClo q _).trans (by rw [h, k]), k⟩)
    (fun x hx u ⟨h, k⟩ => ⟨(u.reqs_modClo_ne hx.symm _).trans h, k⟩)

/-- The request that the Cloister serves waits in its mailbox. -/
theorem State.cloServed_pend {s : State} {t : Ten} {c : Nat} (h : s.cloServed = some (t, c)) :
    ∃ x, (s.box t).pend = some x := by
  have hmem : ∀ (xs : List (Time × Ten × Nat)) (b : Option (Time × Ten × Nat)) y,
      xs.foldl (fun (b : Option (Time × Ten × Nat)) x => match b with
        | some y => if x.1 < y.1 then some x else some y
        | none => some x) b = some y → b = some y ∨ y ∈ xs := by
    intro xs
    induction xs with
    | nil => exact fun b y h => .inl h
    | cons x xs ih =>
      intro b y h
      rcases ih _ y h with hb | hy
      · cases b with
        | none => exact .inr (by cases hb; exact List.mem_cons_self ..)
        | some z =>
          dsimp only at hb
          split at hb
          · exact .inr (by cases hb; exact List.mem_cons_self ..)
          · exact .inl hb
      · exact .inr (List.mem_cons_of_mem _ hy)
  unfold State.cloServed at h
  obtain ⟨y, hy, hty⟩ := Option.map_eq_some_iff.mp h
  rcases hmem _ _ _ hy with h0 | hin
  · cases h0
  · obtain ⟨t', -, hsome⟩ := List.mem_filterMap.mp hin
    have ht : t' = t := by
      split at hsome
      · split at hsome
        · cases hsome
          exact (congrArg Prod.fst hty :)
        · cases hsome
      · cases hsome
    subst ht
    split at hsome
    next hp => exact ⟨_, hp⟩
    · cases hsome

theorem State.answer_cloister (s : State) (t : Ten) (code : Nat) (data : List Word) :
    (s.answer t code data).cloister = s.cloister := by
  unfold State.answer
  split
  · rfl
  · exact (congrArg State.cloister (State.notify_posts t 1 (.refl _)).rest :)

theorem State.glitch_counted {s : State} (hb : s.power.boot = .up) (supply : Bool) :
    (s.glitch supply).cloister.glitches = s.cloister.glitches ++ [s.now] ∧
      ∀ t c, s.cloServed = some (t, c) → ((s.glitch supply).box t).ready = true ∧ ((s.glitch supply).box t).busy = false ∧
        ((s.glitch supply).box t).answer = 9 := by
  have hup : (s.power.boot != .up) = false := by rw [hb]; rfl
  generalize hs1 : ({ s with cloister := { s.cloister with glitches := s.cloister.glitches ++ [s.now] } } : State) = s1
  have hcl : s1.cloister.glitches = s.cloister.glitches ++ [s.now] := by rw [← hs1]
  cases hserved : s.cloServed with
  | none =>
    have k : Posts s1 (s.glitch supply) := by
      unfold State.glitch
      rw [hup, if_neg Bool.false_ne_true, hs1]
      simp only [hserved]
      exact State.postAll_refl ..
    refine ⟨?_, fun t c h => by cases h⟩
    rw [(congrArg State.cloister k.rest :)]
    exact hcl
  | some x =>
    obtain ⟨t, c⟩ := x
    have k : Posts (s1.answer t ansGlitch []) (s.glitch supply) := by
      unfold State.glitch
      rw [hup, if_neg Bool.false_ne_true, hs1]
      simp only [hserved]
      exact State.postAll_refl ..
    obtain ⟨⟨c', tok, args, n⟩, hpend⟩ := State.cloServed_pend hserved
    have hp1 : (s1.box t).pend = some (c', tok, args, n) := by rw [← hs1]; exact hpend
    refine ⟨?_, fun t' c'' h => ?_⟩
    · rw [(congrArg State.cloister k.rest :), State.answer_cloister]
      exact hcl
    · obtain ⟨rfl, rfl⟩ := Prod.mk.inj (Option.some.inj h)
      rw [k.box, State.answer_box hp1]
      exact ⟨rfl, rfl, rfl⟩

/-- Settles O50, event by event. -/
theorem tenantAndCloisterEvents : Obligations.TenantAndCloisterEvents := by
  unfold Obligations.TenantAndCloisterEvents
  intro s
  refine ⟨fun t b h hb => ⟨_, rfl, ?_⟩, fun t hb hd hs => ⟨_, rfl, State.evqOverflow_told hb hd hs⟩,
    fun prop => ⟨_, rfl, s.trngFail_error prop⟩, fun htrng => ?_, ⟨_, rfl, fun q y hy => ?_⟩, ⟨_, rfl, fun q b hb => ?_⟩,
    fun supply hb => ⟨_, rfl, State.glitch_counted hb supply⟩⟩
  · have k := tenantResetEffect_done h hb
    exact ⟨k.ten.1, k.ten.2, k.surfs, k.box.1, k.box.2, k.session, k.ring⟩
  · by_cases hreq : 2 ^ 20 ≤ s.cloister.drbgReqs
    · refine ⟨s.reseed, congrArg Host.Outcome.next ?_, rfl, rfl, fun h => absurd hreq (Nat.not_le.mpr h)⟩
      rw [htrng, if_neg Bool.false_ne_true, if_pos hreq]
    · refine ⟨(s.passTo (s.cloister.drbgAt + ms 10000)).reseed, congrArg Host.Outcome.next ?_, ?_⟩
      · rw [htrng, if_neg Bool.false_ne_true, if_neg hreq]
      · have hle := s.le_passTo (s.cloister.drbgAt + ms 10000)
        generalize s.cloister.drbgAt + ms 10000 = d at hle ⊢
        generalize s.passTo d = p at hle ⊢
        obtain ⟨h0, hat, hnow⟩ := p.reseed_taken
        exact ⟨h0, hat, fun _ => Nat.le_trans hle (Nat.le_of_eq hnow.symm)⟩
  · have h := forEach_reqs (fun now x => { x with session := x.session.filter (fun y => !y.ended now) })
      (s.passFirst (s.cloister.reqs.toList.filterMap (fun x => x.session.map Session.endsAt))) q
    have hq : (at' (s.passFirst (s.cloister.reqs.toList.filterMap (fun x => x.session.map Session.endsAt))).cloister.reqs
        q).session = some y := by
      rw [State.passFirst_eq]
      exact hy
    generalize s.passFirst _ = p at h hq ⊢
    obtain ⟨hreq, hnow⟩ := h
    dsimp only
    rw [hreq, hnow, hq, Option.filter_some]
    simp only [Session.ended, Bool.not_eq_true', Bool.or_eq_false_iff, decide_eq_false_iff_not, ← not_or, ite_not]
  · have h := forEach_reqs (fun now x => { x with busyUntil := x.busyUntil.filter (fun b => now < b) })
      (s.passFirst (s.cloister.reqs.toList.filterMap (·.busyUntil))) q
    have hq : (at' (s.passFirst (s.cloister.reqs.toList.filterMap (·.busyUntil))).cloister.reqs q).busyUntil = some b := by
      rw [State.passFirst_eq]
      exact hb
    generalize s.passFirst _ = p at h hq ⊢
    obtain ⟨hreq, hnow⟩ := h
    dsimp only
    rw [hreq, hnow, hq, Option.filter_some]
    simp only [decide_eq_true_eq, ← Nat.not_le, ite_not]

end Sys2Proof.Machine

/-!
PROOFS. The UDS services (16_update R529 to R532): O52.
-/

namespace Sys2Proof.Machine

/-! ### What taking a request changes -/

/-- The server has taken a request: the idle time of the session and of its update session starts again. -/
def State.udsTaken (s : State) : State :=
  (s.modUds (fun u => { u with lastReq := s.now })).modClo udsReq (fun x => { x with
    session := x.session.map (fun y => { y with last := s.now }) })

section
variable (s : State)

@[simp] theorem State.udsTaken_jrec : s.udsTaken.update.jrec = s.update.jrec := rfl
@[simp] theorem State.udsTaken_moa : s.udsTaken.moa = s.moa := rfl
@[simp] theorem State.udsTaken_now : s.udsTaken.now = s.now := rfl
@[simp] theorem State.udsTaken_mode : s.udsTaken.update.uds.mode = s.update.uds.mode := rfl
@[simp] theorem State.udsTaken_next : s.udsTaken.update.uds.next = s.update.uds.next := rfl
@[simp] theorem State.udsTaken_ctr : s.udsTaken.update.uds.ctr = s.update.uds.ctr := rfl
@[simp] theorem State.udsTaken_results : s.udsTaken.update.uds.results = s.update.uds.results := rfl
@[simp] theorem State.udsTaken_answer : s.udsTaken.update.uds.answer = s.update.uds.answer := rfl
@[simp] theorem State.udsTaken_lastReq : s.udsTaken.update.uds.lastReq = s.now := rfl
@[simp] theorem State.udsTaken_updStep : s.udsTaken.updStep = s.updStep := rfl
@[simp] theorem State.udsTaken_xferHdr : s.udsTaken.xferHdr = s.xferHdr := rfl
@[simp] theorem State.udsTaken_destLocked (h : List Byte) : s.udsTaken.destLocked h = s.destLocked h := rfl
@[simp] theorem State.udsTaken_complete : s.udsTaken.complete = s.complete := rfl
@[simp] theorem State.udsTaken_canArm (x : Option Ten) : s.udsTaken.canArm x = s.canArm x := rfl
@[simp] theorem State.udsTaken_canAct (x : Option Ten) (b : Bool) (v : Word) : s.udsTaken.canAct x b v = s.canAct x b v := by
  unfold State.canAct
  rfl
@[simp] theorem State.udsTaken_canConfirm (x : Option Ten) (v : Word) : s.udsTaken.canConfirm x v = s.canConfirm x v := by
  unfold State.canConfirm
  rfl
@[simp] theorem State.udsTaken_canDiscard (x : Option Ten) : s.udsTaken.canDiscard x = s.canDiscard x := rfl
@[simp] theorem State.udsTaken_chunkOpen (h : List Byte) (i : Nat) (bs : List Byte) :
    s.udsTaken.chunkOpen h i bs = s.chunkOpen h i bs := by
  unfold State.chunkOpen
  rfl
@[simp] theorem State.udsTaken_hdrCheck (r : Route) (h : List Byte) : s.udsTaken.hdrCheck r h = s.hdrCheck r h := by
  unfold State.hdrCheck
  rfl
@[simp] theorem State.udsTaken_udsDid (d : Nat) : s.udsTaken.udsDid d = s.udsDid d := by
  unfold State.udsDid
  rfl
@[simp] theorem State.udsTaken_signed (n : List Byte) (flags : Word) (sig : List Byte) :
    s.udsTaken.ownerSigned (s.udsTaken.sessMsg n flags) sig = s.ownerSigned (s.sessMsg n flags) sig := by
  unfold State.ownerSigned State.sessMsg
  rfl
@[simp] theorem State.udsTaken_trngError : s.udsTaken.cloister.trngError = s.cloister.trngError := rfl
@[simp] theorem State.udsTaken_glitches : s.udsTaken.cloister.glitches = s.cloister.glitches := rfl

theorem State.udsTaken_req : at' s.udsTaken.cloister.reqs udsReq = { at' s.cloister.reqs udsReq with
    session := (at' s.cloister.reqs udsReq).session.map (fun y => { y with last := s.now }) } :=
  State.reqs_modClo ..

@[simp] theorem State.udsTaken_nonce : s.udsTaken.nonce udsReq = s.nonce udsReq := by
  unfold State.nonce
  rw [State.udsTaken_req]

@[simp] theorem State.udsTaken_busyUntil : (at' s.udsTaken.cloister.reqs udsReq).busyUntil =
    (at' s.cloister.reqs udsReq).busyUntil := by
  rw [State.udsTaken_req]

@[simp] theorem State.udsTaken_udsOpen : s.udsTaken.udsOpen = s.udsOpen := by
  unfold State.udsOpen
  rw [State.udsTaken_req]
  refine congrArg (fun x => s.cloister.life != 2 || x) ?_
  cases (at' s.cloister.reqs udsReq).session <;> rfl

end

/-! ### The ways through the services -/

section
variable {s : State}

theorem State.uds_on (h : UdsOn s) (sid : Byte) (m : List Byte) (f : State → State) :
    s.uds sid (sid :: m) f = f s.udsTaken := by
  obtain ⟨hl, ha, ho⟩ := h
  rw [State.uds, List.head?_cons, hl, ha, ho, beq_self_eq_true, Bool.and_self, Bool.and_self, Bool.and_self, if_pos rfl]
  rfl

theorem State.udsProg_on (h : s.update.uds.mode = .programming) (sid : Byte) (f : State → State) : s.udsProg sid f = f s := by
  rw [State.udsProg, h]
  rfl

theorem State.udsAuth_on (h : s.udsOpen = true) (sid : Byte) (f : State → State) : s.udsAuth sid f = f s := by
  rw [State.udsAuth, if_pos h]

/-- A request of the programming session with its authorization runs. -/
theorem State.uds_prog (h : UdsProg s) (sid : Byte) (m : List Byte) (f : State → State) :
    s.uds sid (sid :: m) (fun s => s.udsProg sid (fun s => s.udsAuth sid f)) = f s.udsTaken := by
  obtain ⟨hon, hmode, hopen⟩ := h
  rw [State.uds_on hon, State.udsProg_on (s.udsTaken_mode.trans hmode), State.udsAuth_on (s.udsTaken_udsOpen.trans hopen)]

/-- A routine that starts with an option record of its length runs. -/
theorem State.udsRoutine_on (h : UdsProg s) {a b : Byte} {rid opt : Nat} (hrid : ofBe [a, b] = rid) (m : List Byte)
    (hm : m.length = opt) (f : State → State) : s.udsRoutine ([0x31, 0x01, a, b] ++ m) rid opt f = f s.udsTaken := by
  refine (State.uds_prog h 0x31 ([0x01, a, b] ++ m) _).trans ?_
  have hlen : (([0x31, 0x01, a, b] ++ m).length != 4 + opt) = false := by simp [hm]; omega
  have hid : ofBe ((([0x31, 0x01, a, b] ++ m).drop 2).take 2) = rid := hrid
  have h4 : ¬ ([0x31, 0x01, a, b] ++ m).length < 4 := by simp
  have hsub : ([0x31, 0x01, a, b] ++ m : List Byte).getD 1 0 = 1 := rfl
  simp only [List.cons_append, List.nil_append] at hlen hid h4 hsub ⊢
  simp only [if_neg h4, hsub, hid, hlen, bne_self_eq_false, Bool.false_eq_true, if_false]

end

/-! ### Answers -/

@[simp] theorem State.udsAns_answer (s : State) (bs : List Byte) : (s.udsAns bs).update.uds.answer = bs := rfl
@[simp] theorem State.udsAns_jrec (s : State) (bs : List Byte) : (s.udsAns bs).update.jrec = s.update.jrec := rfl
@[simp] theorem State.udsNeg_answer (s : State) (sid nrc : Byte) : (s.udsNeg sid nrc).update.uds.answer = [0x7F, sid, nrc] :=
  rfl
@[simp] theorem State.udsDone_answer (s : State) (rid : Nat) (res : List Byte) :
    (s.udsDone rid res).update.uds.answer = [0x71, 0x01] ++ beBytes 2 rid := rfl
@[simp] theorem State.udsDone_jrec (s : State) (rid : Nat) (res : List Byte) :
    (s.udsDone rid res).update.jrec = s.update.jrec := rfl
@[simp] theorem State.udsFail_answer (s : State) (rid : Nat) (res : List Byte) (nrc : Byte) :
    (s.udsFail rid res nrc).update.uds.answer = [0x7F, 0x31, nrc] := rfl
@[simp] theorem State.udsFail_jrec (s : State) (rid : Nat) (res : List Byte) (nrc : Byte) :
    (s.udsFail rid res nrc).update.jrec = s.update.jrec := rfl

section
variable {s : State} {m : List Byte}

/-- DiagnosticSessionControl enters its session. -/
theorem udsSession_says (h : UdsOn s) {sub : Byte} {d : UdsMode} (hd : sub = 1 ∧ d = .default ∨ sub = 2 ∧ d = .programming ∨
    sub = 3 ∧ d = .extended) : UdsSays (.udsSessionControl [0x10, sub]) s [0x50, sub, 0x00, 0x32, 0x00, 0xC8]
      (fun u => u.update.uds.mode = d) := by
  refine ⟨_, congrArg Host.Outcome.next (State.uds_on h 0x10 [sub] _), ?_⟩
  rcases hd with ⟨rfl, rfl⟩ | ⟨rfl, rfl⟩ | ⟨rfl, rfl⟩ <;> exact ⟨rfl, rfl⟩

/-- ReadDataByIdentifier gives the identifier's data. -/
theorem udsRead_says (h : UdsOn s) {a b : Byte} {bs : List Byte} (hd : s.udsDid (ofBe [a, b]) = some bs) :
    UdsSays (.udsReadData [0x22, a, b]) s ([0x62, a, b] ++ bs) (fun u => u.moa = s.moa) := by
  refine ⟨s.udsTaken.udsAns ([0x62, a, b] ++ bs), congrArg Host.Outcome.next ((State.uds_on h 0x22 [a, b] _).trans ?_), rfl, rfl⟩
  have hd' : s.udsTaken.udsDid (ofBe ([0x22, a, b].drop 1)) = some bs := (State.udsTaken_udsDid ..).trans hd
  rw [hd']
  rfl

/-- A service of none in the list is not supported. -/
theorem udsOther_says (h : UdsOn s) {sid : Byte} (hsid : sid ∉ [0x10#8, 0x22#8, 0x27#8, 0x31#8, 0x34#8, 0x36#8, 0x37#8, 0x3E#8]) :
    UdsSays (.udsUnsupportedService (sid :: m)) s [0x7F, sid, 0x11] (fun u => u.moa = s.moa) := by
  refine ⟨s.udsTaken.udsNeg sid 0x11, congrArg Host.Outcome.next ?_, rfl, s.udsTaken_moa⟩
  unfold State.udsOther
  rw [List.head?_cons]
  dsimp only
  rw [if_neg (by rwa [List.contains_iff_mem]), State.uds_on h]

theorem State.nonce_modClo (s : State) (q : Fin 5) (f : CloReq → CloReq) :
    (s.modClo q f).nonce q = (f (at' s.cloister.reqs q)).nonce.map (·.1) := by
  unfold State.nonce
  rw [State.reqs_modClo]

/-- The nonce of 32 bytes that requestSeed gives. -/
def State.seeded (s : State) (v : List Byte) (at' : Time) : State :=
  (s.modClo udsReq (fun x => { x with nonce := some (v, at') })).udsAns ([0x67, 0x11] ++ v)

theorem State.seeded_nonce (s : State) (v : List Byte) (d : Time) : (s.seeded v d).nonce udsReq = some v :=
  (State.nonce_modClo s udsReq _ :)

theorem State.seeded_answer (s : State) (v : List Byte) (d : Time) :
    (s.seeded v d).update.uds.answer = [0x67, 0x11] ++ v := rfl

theorem State.udsSeed_seeded (h : UdsOn s) (hmode : s.update.uds.mode = .programming)
    (hbusy : ∀ b, (at' s.cloister.reqs udsReq).busyUntil = some b → b ≤ s.now) (htrng : s.cloister.trngError = false)
    (hgl : s.cloister.glitches.length < 8) : s.udsSeed [0x27, 0x11] =
      (s.udsTaken.reseed.draw 32).2.seeded (s.udsTaken.reseed.draw 32).1 s.now := by
  refine (State.uds_on h 0x27 [0x11] _).trans ((State.udsProg_on (s.udsTaken_mode.trans hmode) _ _).trans ?_)
  have hb : (at' s.udsTaken.cloister.reqs udsReq).busyUntil.any (fun b => s.udsTaken.now < b) = false := by
    rw [State.udsTaken_busyUntil]
    cases hbu : (at' s.cloister.reqs udsReq).busyUntil with
    | none => rfl
    | some b => exact decide_eq_false (Nat.not_lt.mpr (hbusy b hbu))
  have hg : (s.udsTaken.cloister.trngError || decide (8 ≤ s.udsTaken.cloister.glitches.length)) = false := by
    rw [State.udsTaken_trngError, State.udsTaken_glitches, htrng, decide_eq_false (Nat.not_le.mpr hgl)]
    rfl
  rw [bne_self_eq_false, if_neg Bool.false_ne_true, hb, if_neg Bool.false_ne_true, hg, if_neg Bool.false_ne_true]
  generalize s.udsTaken.reseed.draw 32 = d
  rw [State.udsTaken_now]
  rfl

/-- requestSeed draws a nonce of 32 bytes. -/
theorem udsSeed_says (h : UdsOn s) (hmode : s.update.uds.mode = .programming)
    (hbusy : ∀ b, (at' s.cloister.reqs udsReq).busyUntil = some b → b ≤ s.now) (htrng : s.cloister.trngError = false)
    (hgl : s.cloister.glitches.length < 8) : ∃ v, v.length = 32 ∧ UdsSays (.udsRequestSeed [0x27, 0x11]) s ([0x67, 0x11] ++ v)
      (fun u => u.nonce udsReq = some v) :=
  ⟨_, State.draw_length _ 32, _, congrArg Host.Outcome.next (State.udsSeed_seeded h hmode hbusy htrng hgl),
    State.seeded_answer .., State.seeded_nonce ..⟩

/-- The update session that a good key opens. -/
def State.keyOpened (s : State) (flags : Word) : State :=
  s.modClo udsReq (fun x => { x with
    nonce := none
    fails := 0
    session := some { flags := flags, opened := s.now, last := s.now } })

/-- A key that opens nothing counts. -/
def State.keyFailed (s : State) : State := (s.sessFail udsReq).authFailPost [] udsReq

theorem State.keyFailed_nonce (s : State) : s.keyFailed.nonce udsReq = none := by
  have hclo : s.keyFailed.cloister = (s.sessFail udsReq).cloister := (congrArg State.cloister (State.postTo_refl ..).rest :)
  have hn : s.keyFailed.nonce udsReq = (s.sessFail udsReq).nonce udsReq := by
    unfold State.nonce
    rw [hclo]
  rw [hn]
  exact State.nonce_modClo s udsReq _

/-- What sendKey of the right form does with a nonce pending. -/
theorem State.udsKey_tried {n : List Byte} (h : UdsOn s) (hmode : s.update.uds.mode = .programming)
    (hn : s.nonce udsReq = some n) (hm : m.length = 68) :
    s.udsKey ([0x27, 0x12] ++ m) =
      if s.ownerSigned (s.sessMsg n (w32 (getLe m 0 4))) (m.drop 4) = true ∧ bit (w32 (getLe m 0 4)) 1 = true then
        (s.udsTaken.keyOpened (w32 (getLe m 0 4))).udsAns [0x67, 0x12]
      else s.udsTaken.keyFailed.udsNeg 0x27
        (if 5 ≤ (at' s.udsTaken.keyFailed.cloister.reqs udsReq).fails then 0x36 else 0x35) := by
  refine (State.uds_on h 0x27 (0x12 :: m) _).trans ((State.udsProg_on (s.udsTaken_mode.trans hmode) _ _).trans ?_)
  have hlen : (([0x27, 0x12] ++ m).length != 70) = false := by simp [hm]
  have hsub : (([0x27, 0x12] ++ m : List Byte).getD 1 0 != 0x12) = false := rfl
  have hnon : (s.udsTaken.nonce udsReq).isNone = false := by rw [State.udsTaken_nonce, hn]; rfl
  have hfl : getLe ([0x27, 0x12] ++ m) 2 4 = getLe m 0 4 := rfl
  have hdrop : ([0x27, 0x12] ++ m : List Byte).drop 6 = m.drop 4 := rfl
  rw [hlen, if_neg Bool.false_ne_true, hsub, if_neg Bool.false_ne_true, hnon, if_neg Bool.false_ne_true, hfl, hdrop]
  have htry : s.udsTaken.sessTry udsReq (w32 (getLe m 0 4)) (m.drop 4) =
      if s.ownerSigned (s.sessMsg n (w32 (getLe m 0 4))) (m.drop 4) = true then
        (true, s.udsTaken.keyOpened (w32 (getLe m 0 4))) else (false, s.udsTaken) := by
    unfold State.sessTry
    rw [State.udsTaken_nonce, hn]
    dsimp only
    rw [State.udsTaken_signed]
    rfl
  dsimp only
  rw [htry]
  generalize s.ownerSigned _ _ = ok
  generalize bit _ 1 = fl
  cases ok <;> cases fl <;> rfl

theorem udsKey_says {n : List Byte} (h : UdsOn s) (hmode : s.update.uds.mode = .programming)
    (hn : s.nonce udsReq = some n) (hm : m.length = 68) :
    if s.ownerSigned (s.sessMsg n (w32 (getLe m 0 4))) (m.drop 4) = true then (w32 (getLe m 0 4)).getLsbD 1 = true →
      UdsSays (.udsSendKey ([0x27, 0x12] ++ m)) s [0x67, 0x12] (fun u => u.inSession udsReq = true ∧ u.nonce udsReq = none)
    else ∃ nrc : Byte, (nrc = 0x35 ∨ nrc = 0x36) ∧
      UdsSays (.udsSendKey ([0x27, 0x12] ++ m)) s [0x7F, 0x27, nrc] (fun u => u.nonce udsReq = none) := by
  have hdo := State.udsKey_tried h hmode hn hm
  split
  next hsig =>
    intro hflag
    rw [if_pos ⟨hsig, by rw [bit_eq_getLsbD]; exact hflag⟩] at hdo
    refine ⟨_, congrArg Host.Outcome.next hdo, rfl, ?_, State.nonce_modClo s.udsTaken udsReq _⟩
    exact (congrArg (fun x : CloReq => x.session.isSome) (State.reqs_modClo s.udsTaken udsReq _) :)
  next hsig =>
    rw [if_neg fun hc => hsig hc.1] at hdo
    refine ⟨_, ?_, _, congrArg Host.Outcome.next hdo, rfl, State.keyFailed_nonce _⟩
    split
    · exact .inr rfl
    · exact .inl rfl

/-! ### Routines and transfers -/

/-- BEGIN: the header's check decides. -/
theorem udsBegin_says (h : UdsProg s) (hstep : s.updStep = false) (hm : m.length = 512)
    (hst : s.update.jrec.state ≠ .receiving) : (s.hdrCheck .uds m).elim
      (UdsSays (.udsRoutineBegin ([0x31, 0x01, 0xFD, 0x10] ++ m)) s [0x71, 0x01, 0xFD, 0x10]
        (fun u => u.update.jrec.state = .receiving))
      (fun _ => UdsSays (.udsRoutineBegin ([0x31, 0x01, 0xFD, 0x10] ++ m)) s [0x7F, 0x31, 0x22]
        (fun u => u.update.jrec = s.update.jrec)) := by
  have hgo : ∀ f, s.udsRoutine ([0x31, 0x01, 0xFD, 0x10] ++ m) 0xFD10 512 f = f s.udsTaken :=
    State.udsRoutine_on h (by decide) m hm
  have hstep' : s.udsTaken.updStep = false := hstep
  have hst' : s.udsTaken.update.jrec.state ≠ .receiving := hst
  have hdrop : ([0x31, 0x01, 0xFD, 0x10] ++ m : List Byte).drop 4 = m := rfl
  cases hc : s.hdrCheck .uds m with
  | none =>
    have hb := State.updBegin_begun hst' ((State.udsTaken_hdrCheck ..).trans hc)
    refine ⟨(s.udsTaken.received m).udsDone 0xFD10 [0], congrArg Host.Outcome.next ((hgo _).trans ?_), rfl,
      (congrArg JRec.state (State.udsDone_jrec ..)).trans (State.received_rest _ _).1⟩
    rw [hstep', if_neg Bool.false_ne_true, hdrop, hb]
  | some r =>
    have hb := State.updBegin_refused hst' ((State.udsTaken_hdrCheck ..).trans hc)
    refine ⟨(s.udsTaken.updPost 0x0111 [w32 r, w32 (hdrType m), hdrVersion m, w32 Route.uds.code]).udsFail 0xFD10
      [BitVec.ofNat 8 r] 0x22, congrArg Host.Outcome.next ((hgo _).trans ?_), rfl,
      (State.udsFail_jrec ..).trans ((congrArg UpdateSt.jrec (State.updPost_rest ..).1).trans s.udsTaken_jrec)⟩
    rw [hstep', if_neg Bool.false_ne_true, hdrop, hb]

theorem State.complete_receiving (h : s.complete = true) : s.update.jrec.state = .receiving := by
  unfold State.complete at h
  simp only [Bool.and_eq_true, beq_iff_eq] at h
  exact h.1.1

theorem udsCheck_says (h : UdsProg s) (hstep : s.updStep = false) (hc : s.complete = true) :
    UdsSays (.udsRoutineCheck [0x31, 0x01, 0xFD, 0x11]) s [0x7F, 0x31, 0x78] (fun u =>
      u.update.check = some { route := .uds, ten := none, start := s.now }) := by
  have hgo : ∀ f, s.udsRoutine ([0x31, 0x01, 0xFD, 0x11] ++ []) 0xFD11 0 f = f s.udsTaken :=
    State.udsRoutine_on h (by decide) [] rfl
  refine ⟨(s.udsTaken.modUpd (fun u => { u with check := some { route := .uds, ten := none, start := s.udsTaken.now } })).udsPend,
    congrArg Host.Outcome.next ((hgo _).trans ?_), rfl, rfl⟩
  have h1 : (s.udsTaken.update.jrec.state != .receiving || s.udsTaken.updStep) = false := by
    rw [State.udsTaken_jrec, State.udsTaken_updStep, State.complete_receiving hc, hstep]
    rfl
  have h2 : (!s.udsTaken.complete) = false := by rw [State.udsTaken_complete, hc]; rfl
  rw [h1, if_neg Bool.false_ne_true, h2, if_neg Bool.false_ne_true]

theorem udsArm_says (h : UdsProg s) (hc : s.canArm none = true) :
    UdsSays (.udsRoutineArm [0x31, 0x01, 0xFD, 0x12]) s [0x71, 0x01, 0xFD, 0x12] (fun u => u.update.jrec.state = .armed) := by
  have hgo : ∀ f, s.udsRoutine ([0x31, 0x01, 0xFD, 0x12] ++ []) 0xFD12 0 f = f s.udsTaken :=
    State.udsRoutine_on h (by decide) [] rfl
  refine ⟨s.udsTaken.arm.udsDone 0xFD12 [0], congrArg Host.Outcome.next ((hgo _).trans (if_pos ?_)), rfl, ?_⟩
  · exact (State.udsTaken_canArm ..).trans hc
  · dsimp only
    rw [State.udsDone_jrec, State.arm, (State.jWrite_update ..).1]

theorem udsAct_says (h : UdsProg s) (k : Fin 2) (hm : m.length = 4)
    (hc : s.canAct none (k == 1) (w32 (getLe m 0 4)) = true) :
    UdsSays (.udsRoutineActivate ([0x31, 0x01, 0xFD, 0x13, BitVec.ofNat 8 k.val] ++ m)) s [0x7F, 0x31, 0x78] (fun u =>
      u.update.act = some { handover := k == 1, start := s.now, uds := true } ∧ u.power.standbyReady = false) := by
  have hgo : ∀ f, s.udsRoutine ([0x31, 0x01, 0xFD, 0x13] ++ (BitVec.ofNat 8 k.val :: m)) 0xFD13 5 f = f s.udsTaken :=
    State.udsRoutine_on h (by decide) (BitVec.ofNat 8 k.val :: m) (by simp [hm])
  have hkind : (([0x31, 0x01, 0xFD, 0x13, BitVec.ofNat 8 k.val] ++ m : List Byte).getD 4 0).toNat = k.val := by
    have : k.val < 256 := by omega
    exact Nat.mod_eq_of_lt this
  have hver : getLe ([0x31, 0x01, 0xFD, 0x13, BitVec.ofNat 8 k.val] ++ m) 5 4 = getLe m 0 4 := rfl
  have hone : (k.val == 1) = (k == 1) := (by decide : ∀ j : Fin 2, (j.val == 1) = (j == 1)) k
  refine ⟨(s.udsTaken.actTake (k == 1) true).udsPend, congrArg Host.Outcome.next ((hgo _).trans ?_), rfl, rfl, rfl⟩
  dsimp only
  rw [hkind, if_neg (by omega), hver, hone, State.udsTaken_canAct, if_pos hc]

theorem State.confirm_idle (s : State) (seq : Option Word) : (s.confirm seq).update.jrec.state = .idle := by
  unfold State.confirm
  dsimp only
  rw [(State.updPost_rest ..).1, (State.jWrite_update ..).1]

theorem udsConfirm_says (h : UdsProg s) (hm : m.length = 4) (hc : s.canConfirm none (w32 (getLe m 0 4)) = true) :
    UdsSays (.udsRoutineConfirm ([0x31, 0x01, 0xFD, 0x14] ++ m)) s [0x71, 0x01, 0xFD, 0x14] (fun u =>
      u.update.jrec.state = .idle) := by
  refine ⟨(s.udsTaken.confirm none).udsDone 0xFD14 [0],
    congrArg Host.Outcome.next ((State.udsRoutine_on h (by decide) m hm _).trans (if_pos ?_)), rfl,
    (congrArg JRec.state (State.udsDone_jrec ..)).trans (State.confirm_idle ..)⟩
  exact (State.udsTaken_canConfirm ..).trans hc

theorem State.discard_idle (s : State) : s.discard.update.jrec.state = .idle := by
  unfold State.discard
  split
  next hi =>
    rw [(State.jWrite_update ..).1]
    exact beq_iff_eq.mp hi
  · exact (State.jIdle_update _).1

theorem udsDiscard_says (h : UdsProg s) (hc : s.canDiscard none = true) :
    UdsSays (.udsRoutineDiscard [0x31, 0x01, 0xFD, 0x15]) s [0x71, 0x01, 0xFD, 0x15] (fun u =>
      u.update.jrec.state = .idle) := by
  have hgo : ∀ f, s.udsRoutine ([0x31, 0x01, 0xFD, 0x15] ++ []) 0xFD15 0 f = f s.udsTaken :=
    State.udsRoutine_on h (by decide) [] rfl
  refine ⟨s.udsTaken.discard.udsDone 0xFD15 [0], congrArg Host.Outcome.next ((hgo _).trans (if_pos ?_)), rfl,
    (congrArg JRec.state (State.udsDone_jrec ..)).trans (State.discard_idle _)⟩
  exact (State.udsTaken_canDiscard ..).trans hc

theorem udsResults_says (h : UdsProg s) {bs : List Byte} (hl : s.update.uds.results.lookup 0xFD11 = some bs) :
    UdsSays (.udsRoutineResults [0x31, 0x03, 0xFD, 0x11]) s ([0x71, 0x03, 0xFD, 0x11] ++ bs) (fun u => u.moa = s.moa) := by
  refine ⟨s.udsTaken.udsAns ([0x71, 0x03, 0xFD, 0x11] ++ bs),
    congrArg Host.Outcome.next ((State.uds_prog h 0x31 [0x03, 0xFD, 0x11] _).trans ?_), rfl, rfl⟩
  have hrid : ofBe (([0x31, 0x03, 0xFD, 0x11].drop 2).take 2) = 0xFD11 := by decide
  have hl' : s.udsTaken.update.uds.results.lookup 0xFD11 = some bs := hl
  dsimp only
  rw [hrid, hl']
  rfl

theorem udsDownload_says (h : UdsProg s) (hst : s.update.jrec.state = .receiving) (hm : m.length = 8)
    (ha : ofBe (m.take 4) % 4096 = 0) (hlt : ofBe (m.take 4) < hdrSize s.xferHdr)
    (hn : ofBe (m.drop 4) = hdrSize s.xferHdr - ofBe (m.take 4)) :
    UdsSays (.udsRequestDownload ([0x34, 0x00, 0x44] ++ m)) s [0x74, 0x20, 0x10, 0x12] (fun u =>
      u.update.uds.next = some (ofBe (m.take 4) / 4096) ∧ u.update.uds.ctr = 1) := by
  refine ⟨(s.udsTaken.modUds (fun u => { u with next := some (ofBe (m.take 4) / 4096), ctr := 1, prev := none })).udsAns
    [0x74, 0x20, 0x10, 0x12], congrArg Host.Outcome.next ((State.uds_prog h 0x34 ([0x00, 0x44] ++ m) _).trans ?_), rfl, rfl, rfl⟩
  have htake : (([0x34, 0x00, 0x44] ++ m : List Byte).drop 3).take 4 = m.take 4 := rfl
  have hdrop : (([0x34, 0x00, 0x44] ++ m : List Byte).drop 7).take 4 = m.drop 4 :=
    List.take_of_length_le (by simp [hm])
  have hlen : (([0x34, 0x00, 0x44] ++ m : List Byte).length != 11) = false := by simp [hm]
  have hform : (([0x34, 0x00, 0x44] ++ m : List Byte).getD 1 0 != 0x00 || ([0x34, 0x00, 0x44] ++ m : List Byte).getD 2 0 != 0x44) =
      false := rfl
  have hst' : (s.udsTaken.update.jrec.state != .receiving) = false := by rw [State.udsTaken_jrec, hst]; rfl
  have hrange : (ofBe (m.take 4) % 4096 != 0 || decide (hdrSize s.xferHdr ≤ ofBe (m.take 4)) ||
      ofBe (m.drop 4) != hdrSize s.xferHdr - ofBe (m.take 4)) = false := by
    rw [ha, hn, decide_eq_false (Nat.not_le.mpr hlt)]
    simp
  dsimp only
  rw [htake, hdrop, hlen, if_neg Bool.false_ne_true, hform, if_neg Bool.false_ne_true, hst', if_neg Bool.false_ne_true,
    State.udsTaken_xferHdr, hrange, if_neg Bool.false_ne_true]

theorem State.chunkTaken_update (s : State) (i : Nat) (p : List Byte) : (s.chunkTaken i p).update = s.update := by
  unfold State.chunkTaken
  dsimp only
  repeat' split
  all_goals simp only [(State.moaPut_rest ..).1]

/-- TransferData of the next chunk: stored, or refused by its tag. -/
theorem udsTransfer_says (h : UdsProg s) (hstep : s.updStep = false) {i : Nat} (hst : s.update.jrec.state = .receiving)
    (hnext : s.update.uds.next = some i) (hctr : s.update.uds.ctr < 256) (hi : i < hdrChunks s.xferHdr)
    (hm : m.length = wireLen s.xferHdr i) (hd : s.destLocked s.xferHdr = false) :
    (s.chunkOpen s.xferHdr i m).elim
      (UdsSays (.udsTransferData ([0x36, BitVec.ofNat 8 s.update.uds.ctr] ++ m)) s [0x7F, 0x36, 0x72] (fun u => u.moa = s.moa))
      (fun _ => UdsSays (.udsTransferData ([0x36, BitVec.ofNat 8 s.update.uds.ctr] ++ m)) s
        [0x76, BitVec.ofNat 8 s.update.uds.ctr] (fun u => u.update.uds.next = some (i + 1) ∧
          u.update.uds.ctr = (s.update.uds.ctr + 1) % 256)) := by
  have hgo : ∀ f, s.uds 0x36 ([0x36, BitVec.ofNat 8 s.update.uds.ctr] ++ m) (fun s => s.udsProg 0x36 (fun s => s.udsAuth 0x36 f)) =
    f s.udsTaken := State.uds_prog h 0x36 (BitVec.ofNat 8 s.update.uds.ctr :: m)
  have hc : (([0x36, BitVec.ofNat 8 s.update.uds.ctr] ++ m : List Byte).getD 1 0).toNat = s.update.uds.ctr :=
    Nat.mod_eq_of_lt hctr
  have hdrop : ([0x36, BitVec.ofNat 8 s.update.uds.ctr] ++ m : List Byte).drop 2 = m := rfl
  have hlen : ¬ ([0x36, BitVec.ofNat 8 s.update.uds.ctr] ++ m : List Byte).length < 2 := by simp
  have hst' : (s.udsTaken.updStep || s.udsTaken.update.jrec.state != .receiving) = false := by
    rw [State.udsTaken_updStep, hstep, State.udsTaken_jrec, hst]
    rfl
  have hnext' : s.udsTaken.update.uds.next = some i := hnext
  have hi' : i < hdrChunks s.udsTaken.xferHdr := hi
  have hm' : m.length = wireLen s.udsTaken.xferHdr i := hm
  have hd' : s.udsTaken.destLocked s.udsTaken.xferHdr = false := hd
  have hopen : s.udsTaken.chunkOpen s.udsTaken.xferHdr i m = s.chunkOpen s.xferHdr i m := State.udsTaken_chunkOpen ..
  cases ho : s.chunkOpen s.xferHdr i m with
  | none =>
    have hbad := State.updChunk_badTag hi' hm' hd' (hopen.trans ho)
    refine ⟨s.udsTaken.udsNeg 0x36 0x72, congrArg Host.Outcome.next ((hgo _).trans ?_), rfl, rfl⟩
    dsimp only
    rw [if_neg hlen, hst', if_neg Bool.false_ne_true, hnext', hc, State.udsTaken_ctr]
    dsimp only
    rw [if_pos rfl, hdrop, hbad]
  | some p =>
    have hgood := State.updChunk_stored hi' hm' hd' (hopen.trans ho)
    refine ⟨((s.udsTaken.chunkTaken i p).modUds (fun u => { u with
      next := some (i + 1), prev := some (s.update.uds.ctr, i), ctr := (s.update.uds.ctr + 1) % 256 })).udsAns
      [0x76, BitVec.ofNat 8 s.update.uds.ctr], congrArg Host.Outcome.next ((hgo _).trans ?_), rfl, rfl, rfl⟩
    dsimp only
    rw [if_neg hlen, hst', if_neg Bool.false_ne_true, hnext', hc, State.udsTaken_ctr]
    dsimp only
    rw [if_pos rfl, hdrop, hgood]

end

/-- The session that has ended by the instant `d`. -/
theorem State.modeLeft_at (s : State) (d : Time) : ∃ u : State, (.next ((s.passTo d).modUds (fun u => { u with
      mode := .default, next := none, prev := none })) : Host.Outcome State Fault Refusal) = .next u ∧
    u.update.uds.mode = .default ∧ d ≤ u.now :=
  ⟨_, rfl, rfl, s.le_passTo d⟩

/-- A session ends 5 s after its last request. -/
theorem udsSessionTimeout_ends {s : State} (h : s.update.uds.mode ≠ .default) : ∃ u, exec .udsSessionTimeout s = .next u ∧
    u.update.uds.mode = .default ∧ s.update.uds.lastReq + ms 5000 ≤ u.now := by
  have hexec : exec .udsSessionTimeout s = execUdsSessionTimeout s := rfl
  rw [hexec, execUdsSessionTimeout, if_pos (bne_iff_ne.mpr h)]
  exact s.modeLeft_at _

/-- Settles O52, service by service. -/
theorem udsCommands : Obligations.UdsCommands := by
  unfold Obligations.UdsCommands
  intro s m hon
  refine ⟨⟨udsSession_says hon (.inl ⟨rfl, rfl⟩), udsSession_says hon (.inr (.inl ⟨rfl, rfl⟩)),
      udsSession_says hon (.inr (.inr ⟨rfl, rfl⟩))⟩, udsSessionTimeout_ends,
    ⟨udsRead_says hon rfl, udsRead_says hon rfl, ?_⟩, ⟨?_, ?_⟩, fun sid hsid => udsOther_says hon hsid,
    fun hmode => ?_, udsSeed_says hon, fun n hmode hn hm => udsKey_says hon hmode hn hm, fun hprog hstep => ?_, fun s' hz ho => ?_⟩
  · have h2 := udsRead_says (a := 0xFD) (b := 0x02) hon rfl
    simp only [List.append_assoc] at h2 ⊢
    exact h2
  · exact ⟨s.udsTaken.udsAns [0x7E, 0x00], congrArg Host.Outcome.next (State.uds_on hon 0x3E [0x00] _), rfl, rfl⟩
  · exact ⟨s.udsTaken, congrArg Host.Outcome.next (State.uds_on hon 0x3E [0x80] _), rfl, rfl⟩
  · refine ⟨s.udsTaken.udsNeg 0x37 0x7F, congrArg Host.Outcome.next ((State.uds_on hon 0x37 [] _).trans (if_neg ?_)), rfl, rfl⟩
    exact fun h => hmode (beq_iff_eq.mp h)
  · refine ⟨fun hm hst => udsBegin_says hprog hstep hm hst, udsCheck_says hprog hstep, udsArm_says hprog,
      fun k hm hc => udsAct_says hprog k hm hc, fun hm hc => udsConfirm_says hprog hm hc, udsDiscard_says hprog,
      fun bs hl => udsResults_says hprog hl, fun hst hm ha hlt hn => udsDownload_says hprog hst hm ha hlt hn,
      fun i hst hnext hctr hi hm hd => udsTransfer_says hprog hstep hst hnext hctr hi hm hd, fun hnext => ?_⟩
    refine ⟨(s.udsTaken.modUds (fun u => { u with next := none, prev := none })).udsAns [0x77], congrArg Host.Outcome.next
      ((State.uds_on hon 0x37 [] _).trans ((State.udsProg_on (s.udsTaken_mode.trans hprog.2.1) _ _).trans
        (if_neg (c := s.udsTaken.update.uds.next.isNone = true) ?_))), rfl, rfl⟩
    rw [State.udsTaken_next, Option.isNone_iff_eq_none]
    exact hnext
  · have hgo : (!(s'.asleep && s'.udsOn)) = false := by rw [hz, ho]; rfl
    refine ⟨⟨((s'.wake .uds).modUds (fun u => { u with held := some m })).udsAns [0x7F, m.getD 0 0, 0x78],
      congrArg Host.Outcome.next ?_, rfl, rfl, rfl⟩, congrArg Host.Outcome.next ?_⟩
    · unfold State.udsVigil
      rw [hgo, if_neg Bool.false_ne_true]
    · unfold State.udsVigil
      rw [hgo, if_neg Bool.false_ne_true]

end Sys2Proof.Machine

/-!
PROOFS. The update service's own events (16_update R533, R537 to R544): O51.
-/

namespace Sys2Proof.Machine

/-! ### Reading the store after a write -/

/-- Bytes that a write does not reach read as before. -/
theorem Memory.readN_writeN_apart {m : Mem} (h : Memory.wf m = true) {a n b : Nat} {bs : List Byte}
    (hd : a + n ≤ b ∨ b + bs.length ≤ a) : Memory.readN (Memory.writeN m b bs) a n = Memory.readN m a n := by
  refine List.ext_getElem? fun k => ?_
  by_cases hk : k < n
  · rw [getD_readN _ a n k hk, getD_readN _ a n k hk, Memory.read_writeN h, if_neg (by omega)]
  · rw [List.getElem?_eq_none (by rw [Memory.readN_length]; omega), List.getElem?_eq_none (by rw [Memory.readN_length]; omega)]

/-- The bytes written read back. -/
theorem Memory.readN_writeN_self {m : Mem} (h : Memory.wf m = true) (a : Nat) {n : Nat} {bs : List Byte}
    (hn : bs.length = n) : Memory.readN (Memory.writeN m a bs) a n = bs := by
  refine List.ext_getElem? fun k => ?_
  by_cases hk : k < n
  · rw [getD_readN _ a n k hk, Memory.read_writeN h, if_pos (by omega), Nat.add_sub_cancel_left, List.getD_eq_getElem?_getD]
    rw [List.getElem?_eq_getElem (by omega)]
    rfl
  · rw [List.getElem?_eq_none (by rw [Memory.readN_length]; omega), List.getElem?_eq_none (by omega)]

/-! ### What the journal and an answer leave as they were -/

/-- A write of the store, and what is counted of it, leave all but the store and its error words. -/
theorem State.moaPut_kept (s : State) (a : Nat) (bs : List Byte) : (s.moaPut a bs).now = s.now ∧
    (s.moaPut a bs).power = s.power ∧ (s.moaPut a bs).fwVer = s.fwVer :=
  ⟨(congrArg State.now (s.moaPut_noGal a bs) :), (congrArg State.power (s.moaPut_noGal a bs) :),
    (congrArg State.fwVer (s.moaPut_noGal a bs) :)⟩

theorem State.jWrite_kept (s : State) (f : JRec → JRec) : (s.jWrite f).now = s.now ∧ (s.jWrite f).power = s.power ∧
    (s.jWrite f).fwVer = s.fwVer := by
  unfold State.jWrite
  dsimp only [State.modUpd]
  exact State.moaPut_kept ..

theorem State.jWrite_moa (s : State) (f : JRec → JRec) : (s.jWrite f).moa =
    Memory.writeN s.moa (jAddr s.update.jpos) ({ f s.update.jrec with jseq := s.update.jrec.jseq + 1 } : JRec).bytes := by
  unfold State.jWrite
  dsimp only [State.modUpd]
  exact (State.moaPut_rest ..).2

theorem State.jIdle_now (s : State) : s.jIdle.now = s.now := by
  unfold State.jIdle State.mapClear
  rw [(State.moaPut_kept ..).1, (State.jWrite_kept ..).1]

/-- The end of an ACTIVATE ends no more. -/
theorem State.actEnd_rest (s : State) (ok : Bool) : (s.actEnd ok).update.act = none ∧
    (s.actEnd ok).update.jrec = s.update.jrec ∧ (s.actEnd ok).power = s.power ∧ (s.actEnd ok).fwVer = s.fwVer := by
  unfold State.actEnd
  cases h : s.update.act with
  | none => exact ⟨h, rfl, rfl, rfl⟩
  | some a =>
    dsimp only
    split
    · have hkept : ∀ (z : State) bs, (z.udsFinal bs).power = z.power ∧ (z.udsFinal bs).fwVer = z.fwVer := fun z bs => by
        unfold State.udsFinal
        split <;> exact ⟨rfl, rfl⟩
      rw [State.udsFinal_update, (hkept ..).1, (hkept ..).2]
      exact ⟨rfl, rfl, rfl, rfl⟩
    · exact ⟨rfl, rfl, rfl, rfl⟩

/-- What an answer to a mailbox leaves. -/
theorem State.answer_kept (s : State) (t : Ten) (code : Nat) (data : List Word) : (s.answer t code data).update = s.update ∧
    (s.answer t code data).power = s.power ∧ (s.answer t code data).fwVer = s.fwVer := by
  unfold State.answer
  split
  · exact ⟨rfl, rfl, rfl⟩
  · have h := fun x : State => (State.notify_posts t 1 (.refl x)).rest
    exact ⟨(congrArg State.update (h _) :), (congrArg State.power (h _) :), (congrArg State.fwVer (h _) :)⟩

theorem State.busyAll_kept (s : State) : s.busyAll.update = s.update ∧ s.busyAll.power = s.power ∧
    s.busyAll.fwVer = s.fwVer :=
  forEach_holds s.bound (P := fun u : State => u.update = s.update ∧ u.power = s.power ∧ u.fwVer = s.fwVer)
    ⟨rfl, rfl, rfl⟩ fun t _ u ⟨hu, hp, hf⟩ =>
      have k := u.answer_kept t ansBusy []
      ⟨k.1.trans hu, k.2.1.trans hp, k.2.2.trans hf⟩

theorem State.updPost_kept (s : State) (code : Nat) (p : List Word) : (s.updPost code p).power = s.power ∧
    (s.updPost code p).fwVer = s.fwVer := by
  have h : Posts s (s.updPost code p) := State.postAll_refl ..
  exact ⟨h.power_eq, (congrArg State.fwVer h.rest :)⟩

/-! ### A load that breaks -/

theorem State.loadBroken_at (s : State) (d : Time) :
    (((s.passTo (d + 1)).loadEnd).cekClear).jIdle.update.load = none ∧
      (((s.passTo (d + 1)).loadEnd).cekClear).jIdle.update.jrec.state = .idle ∧
      d < (((s.passTo (d + 1)).loadEnd).cekClear).jIdle.now := by
  have hle : d < (s.passTo (d + 1)).now := s.le_passTo (d + 1)
  generalize s.passTo (d + 1) = p at hle ⊢
  obtain ⟨hst, -, hload, -, -⟩ := (p.loadEnd.cekClear).jIdle_update
  rw [hload, hst, State.jIdle_now]
  exact ⟨rfl, rfl, hle⟩

theorem loadBreak_ends {s : State} {l : LoadJob} (h : s.update.load = some l) : ∃ u, exec .loadBreak s = .next u ∧
    u.update.load = none ∧ u.update.jrec.state = .idle ∧ l.last + ms 1000 < u.now := by
  have hexec : exec .loadBreak s = .next s.loadBreak := rfl
  rw [hexec, State.loadBreak, h]
  exact ⟨_, rfl, s.loadBroken_at _⟩

/-! ### A handover -/

theorem State.toTrial_rest (s : State) (n : Nat) : (s.toTrial n).update.jrec.state = .trial ∧
    (s.toTrial n).power = s.power := by
  unfold State.toTrial
  rw [(State.jWrite_update ..).1, (State.jWrite_kept ..).2.1]
  exact ⟨rfl, rfl⟩

/-- A handover completes: the trial image runs on the other aisle. -/
def State.handedOver (s : State) : State :=
  { (((s.toTrial 0).modUpd (fun u => { u with runOther := false })).modPower (fun p => { p with
      south := !p.south
      standbyReady := false })) with fwVer := hdrVersion (s.imgHdr true) }

theorem State.handedOver_rest (s : State) : s.handedOver.update.jrec.state = .trial ∧
    s.handedOver.power.south = !s.power.south ∧ s.handedOver.fwVer = hdrVersion (s.imgHdr true) := by
  obtain ⟨hst, hp⟩ := s.toTrial_rest 0
  unfold State.handedOver
  generalize s.toTrial 0 = z at hst hp ⊢
  rw [← hp]
  exact ⟨hst, rfl, rfl⟩

theorem handoverBell_runs {s : State} {a : ActJob} (h : s.update.act = some a) (ho : a.handover = true) (hl : s.live = true)
    (hn : s.now = s.tB) (hd : a.start + us 37100 + us 1500 ≤ s.tB) :
    if s.imgOk true = true then ∃ u, exec .handoverBell s = .next u ∧ u.update.act = none ∧ u.update.jrec.state = .trial ∧
      u.power.south = !s.power.south ∧ u.fwVer = hdrVersion (s.imgHdr true)
    else exec .handoverBell s = .next s := by
  have hexec : exec .handoverBell s = .next s.handoverBell := rfl
  rw [hexec, State.handoverBell, h]
  dsimp only
  rw [ho, hl, decide_eq_true hn, decide_eq_true hd]
  cases s.imgOk true with
  | false => exact rfl
  | true =>
    rw [if_pos rfl, if_pos (by decide)]
    have hover : ∃ z : State, z = s.handedOver := ⟨_, rfl⟩
    obtain ⟨z, hz⟩ := hover
    obtain ⟨htrial, hsouth, hfw⟩ := s.handedOver_rest
    rw [← hz] at htrial hsouth hfw
    unfold State.handedOver at hz
    rw [← hz]
    obtain ⟨hbu, hbp, hbf⟩ := z.busyAll_kept
    generalize z.busyAll = b at hbu hbp hbf ⊢
    have hg := b.gfix_noGal 55 1
    have hgu : (b.gfix 55 1).update = b.update := (congrArg State.update hg :)
    have hgp : (b.gfix 55 1).power = b.power := (congrArg State.power hg :)
    have hgf : (b.gfix 55 1).fwVer = b.fwVer := (congrArg State.fwVer hg :)
    refine ⟨_, rfl, (State.actEnd_rest _ _).1, ?_, ?_, ?_⟩
    · rw [(State.actEnd_rest _ _).2.1, (State.updPost_rest ..).1, hgu, hbu, htrial]
    · rw [(State.actEnd_rest _ _).2.2.1, (State.updPost_kept ..).1, hgp, hbp, hsouth]
    · rw [(State.actEnd_rest _ _).2.2.2, (State.updPost_kept ..).2, hgf, hbf, hfw]

theorem handoverAbandon_ends {s : State} {a : ActJob} (h : s.update.act = some a) (ho : a.handover = true) :
    ∃ u, exec .handoverAbandon s = .next u ∧ u.update.act = none ∧ u.update.jrec = s.update.jrec := by
  have hexec : exec .handoverAbandon s = .next s.handoverAbandon := rfl
  rw [hexec, State.handoverAbandon, h]
  dsimp only
  rw [if_pos ho]
  refine ⟨_, rfl, (State.actEnd_rest _ _).1, ?_⟩
  rw [(State.actEnd_rest _ _).2.1, (State.updPost_rest ..).1]

/-! ### The pause of an ACTIVATE -/

theorem updatePauseBegin_runs {s : State} {a : ActJob} {x : Time} (h : s.update.act = some a) (hx : s.bell.ann = some x)
    (ho : a.handover = false) (hp : a.phase = .verify) (hd : a.start + us 35100 ≤ x) :
    ∃ u, exec .updatePauseBegin s = .next u ∧ u.update.act =
      if s.imgOk true = true then some { a with phase := .pause, dark := s.bell.bellno.toNat + 2 } else none := by
  have hexec : exec .updatePauseBegin s = .next s.pauseBegin := rfl
  rw [hexec, State.pauseBegin, h, hx]
  dsimp only
  rw [ho, hp, decide_eq_true hd]
  cases s.imgOk true with
  | false =>
    refine ⟨_, rfl, ?_⟩
    rw [if_neg Bool.false_ne_true, if_pos (by decide)]
    exact (State.actEnd_rest _ _).1
  | true =>
    refine ⟨_, rfl, ?_⟩
    rw [if_pos rfl, if_pos (by decide), (State.updPost_rest ..).1]
    rfl

theorem State.pauseLoaded_at (s : State) (a : ActJob) (d : Time) : ∃ u : State,
    (.next ((s.passTo d).modUpd (fun u => { u with act := some { a with phase := .loaded } })) : Host.Outcome State Fault Refusal) =
      .next u ∧ u.update.act = some { a with phase := .loaded } ∧ d ≤ u.now :=
  ⟨_, rfl, rfl, s.le_passTo d⟩

theorem updatePauseEnd_runs {s : State} {a : ActJob} (h : s.update.act = some a) (hp : a.phase = .pause)
    (hd : a.dark ≤ s.bell.bellno.toNat) : ∃ u, exec .updatePauseEnd s = .next u ∧
      u.update.act = some { a with phase := .loaded } ∧ a.darkAt + us 41500 ≤ u.now := by
  have hexec : exec .updatePauseEnd s = .next s.pauseLoaded := rfl
  have hd' : a.dark ≤ s.bn := hd
  rw [hexec, State.pauseLoaded, h]
  dsimp only
  rw [hp, decide_eq_true hd', if_pos (by decide)]
  exact s.pauseLoaded_at a _

/-! ### A unit of the exchange -/

/-- A copy of a unit of the store. -/
theorem State.unitCopy_rest (s : State) (a b : Nat) : (s.unitCopy a b).update = s.update ∧
    (s.unitCopy a b).moa = Memory.writeN s.moa b (Memory.readN s.moa a 65536) :=
  State.moaPut_rest ..

/-- The two units and the scratch unit hold `x`, `y` and `z`, in a store in canonical form; the journal's next place and
record stand. -/
structure UnitsHold (k : Nat) (x y z : List Byte) (s : State) : Prop where
  wf : Memory.wf s.moa = true
  pos : s.update.jpos < 1024
  active : Memory.readN s.moa (65536 * k) 65536 = x
  staging : Memory.readN s.moa (0x800000 + 65536 * k) 65536 = y
  scratch : Memory.readN s.moa jScratch 65536 = z

/-- A journal record is 64 bytes long. -/
theorem JRec.bytes_length (j : JRec) : j.bytes.length = 64 := by
  have hp : ∀ d : Byte, (padTo 32 d j.hdrHash).length = 32 := fun d => by simp [padTo]; omega
  have hw : ∀ w : Word, (wordBytes w).length = 4 := fun w => rfl
  unfold JRec.bytes
  simp [hp, hw]

section
variable {k : Nat} {x y z : List Byte} {s : State} (h : UnitsHold k x y z s) (hk : k ≤ 127)
include h hk

/-- A record of the journal lies apart from every unit. -/
theorem UnitsHold.jWrite (f : JRec → JRec) : UnitsHold k x y z (s.jWrite f) := by
  have hp := h.pos
  have hapart : ∀ a, (a + 65536 ≤ 0x1F00000 ∨ 0x1F10000 ≤ a) → Memory.readN (s.jWrite f).moa a 65536 =
      Memory.readN s.moa a 65536 := fun a ha => by
    rw [State.jWrite_moa]
    refine Memory.readN_writeN_apart h.wf ?_
    rw [JRec.bytes_length, jAddr]
    omega
  refine ⟨?_, ?_, (hapart _ (by omega)).trans h.active, (hapart _ (by omega)).trans h.staging,
    (hapart _ (by unfold jScratch; omega)).trans h.scratch⟩
  · rw [State.jWrite_moa]
    exact Memory.writeN_wf h.wf ..
  · rw [(State.jWrite_update ..).1]
    exact Nat.mod_lt _ (by decide)

/-- The active unit is kept in the scratch unit. -/
theorem UnitsHold.saved : UnitsHold k x y x (s.unitCopy (65536 * k) jScratch) := by
  have hlen := Memory.readN_length s.moa (65536 * k) 65536
  obtain ⟨hu, hm⟩ := s.unitCopy_rest (65536 * k) jScratch
  refine ⟨by rw [hm]; exact Memory.writeN_wf h.wf .., by rw [hu]; exact h.pos, ?_, ?_, ?_⟩
  · rw [hm, Memory.readN_writeN_apart h.wf (by rw [hlen]; unfold jScratch; omega)]
    exact h.active
  · rw [hm, Memory.readN_writeN_apart h.wf (by rw [hlen]; unfold jScratch; omega)]
    exact h.staging
  · rw [hm, Memory.readN_writeN_self h.wf _ hlen]
    exact h.active

/-- The staging unit takes the active one's place. -/
theorem UnitsHold.moved : UnitsHold k y y z (s.unitCopy (0x800000 + 65536 * k) (65536 * k)) := by
  have hlen := Memory.readN_length s.moa (0x800000 + 65536 * k) 65536
  obtain ⟨hu, hm⟩ := s.unitCopy_rest (0x800000 + 65536 * k) (65536 * k)
  refine ⟨by rw [hm]; exact Memory.writeN_wf h.wf .., by rw [hu]; exact h.pos, ?_, ?_, ?_⟩
  · rw [hm, Memory.readN_writeN_self h.wf _ hlen]
    exact h.staging
  · rw [hm, Memory.readN_writeN_apart h.wf (by rw [hlen]; omega)]
    exact h.staging
  · rw [hm, Memory.readN_writeN_apart h.wf (by rw [hlen]; unfold jScratch; omega)]
    exact h.scratch

/-- The scratch unit takes the staging one's place. -/
theorem UnitsHold.restored : UnitsHold k x z z (s.unitCopy jScratch (0x800000 + 65536 * k)) := by
  have hlen := Memory.readN_length s.moa jScratch 65536
  obtain ⟨hu, hm⟩ := s.unitCopy_rest jScratch (0x800000 + 65536 * k)
  refine ⟨by rw [hm]; exact Memory.writeN_wf h.wf .., by rw [hu]; exact h.pos, ?_, ?_, ?_⟩
  · rw [hm, Memory.readN_writeN_apart h.wf (by rw [hlen]; omega)]
    exact h.active
  · rw [hm, Memory.readN_writeN_self h.wf _ hlen]
    exact h.scratch
  · rw [hm, Memory.readN_writeN_apart h.wf (by rw [hlen]; unfold jScratch; omega)]
    exact h.scratch

end

/-- The copies of an exchange's unit, from the phase that the journal records. -/
def State.unitMoved (s : State) : State :=
  let a := 65536 * s.update.jrec.unit
  let s1 := if s.update.jrec.phase = 0 then (s.unitCopy a jScratch).jWrite (fun j => { j with phase := 1 }) else s
  let s2 := if s.update.jrec.phase < 2 then (s1.unitCopy (0x800000 + a) a).jWrite (fun j => { j with phase := 2 }) else s1
  s2.unitCopy jScratch (0x800000 + a)

theorem State.unitMoved_boot (s : State) : s.unitMoved.update.jrec.boot = s.update.jrec.boot := by
  have hc : ∀ (z : State) a b f, ((z.unitCopy a b).jWrite f).update.jrec.boot = (f z.update.jrec).boot := fun z a b f => by
    rw [(State.jWrite_update ..).1, (State.unitCopy_rest ..).1]
  unfold State.unitMoved
  dsimp only
  rw [(State.unitCopy_rest ..).1]
  split
  · rw [hc]
    dsimp only
    split
    · rw [hc]
    · rfl
  · split
    · rw [hc]
    · rfl

theorem State.unitMoved_holds {s : State} {x y z : List Byte} (h : UnitsHold s.update.jrec.unit x y z s)
    (hk : s.update.jrec.unit ≤ 127) (hp : s.update.jrec.phase = 0) : UnitsHold s.update.jrec.unit y x x s.unitMoved := by
  unfold State.unitMoved
  dsimp only
  rw [hp, if_pos rfl, if_pos (by decide)]
  exact UnitsHold.restored (((h.saved hk).jWrite hk _).moved hk |>.jWrite hk _) hk

/-- The journal's step to the next unit, or to the end of the exchange. -/
theorem swapUnit_moves {s : State} {tt : Time} (ht : s.power.tellAt = some tt) (hon : s.update.swapOn = true)
    (hb : s.update.jrec.boot = 1) (hl : s.live = true) (hstep : s.updStep = false) (hwf : Memory.wf s.moa = true)
    (hpos : s.update.jpos < 1024) (hk : s.update.jrec.unit ≤ 127) : ∃ u, exec .swapUnit s = .next u ∧
      (s.update.jrec.unit < 127 → u.update.jrec.unit = s.update.jrec.unit + 1 ∧ u.update.jrec.phase = 0 ∧ u.update.jrec.boot = 1) ∧
      (s.update.jrec.unit = 127 → u.update.jrec.boot = 0 ∧ u.update.jrec.unit = 0 ∧ u.update.swapOn = false) ∧
      (s.update.jrec.phase = 0 →
        Memory.readN u.moa (65536 * s.update.jrec.unit) 65536 = Memory.readN s.moa (0x800000 + 65536 * s.update.jrec.unit) 65536 ∧
        Memory.readN u.moa (0x800000 + 65536 * s.update.jrec.unit) 65536 = Memory.readN s.moa (65536 * s.update.jrec.unit) 65536) := by
  have hexec : exec .swapUnit s = .next s.swapUnit := rfl
  have hgo : (!(s.update.swapOn && s.live && !s.updStep)) = false := by rw [hon, hl, hstep]; rfl
  have hboot := s.unitMoved_boot
  have hold := fun hp => State.unitMoved_holds (UnitsHold.mk hwf hpos rfl rfl rfl) hk hp
  rw [hexec, State.swapUnit, ht]
  dsimp only
  rw [hgo, if_neg Bool.false_ne_true, hb, if_neg (by decide)]
  obtain ⟨m, hm⟩ : ∃ m, m = s.unitMoved := ⟨_, rfl⟩
  rw [← hm] at hboot hold
  unfold State.unitMoved at hm
  dsimp only at hm
  rw [← hm]
  have hunits : ∀ (u : State) f, u.moa = (m.jWrite f).moa → s.update.jrec.phase = 0 →
      Memory.readN u.moa (65536 * s.update.jrec.unit) 65536 = Memory.readN s.moa (0x800000 + 65536 * s.update.jrec.unit) 65536 ∧
      Memory.readN u.moa (0x800000 + 65536 * s.update.jrec.unit) 65536 = Memory.readN s.moa (65536 * s.update.jrec.unit) 65536 := by
    intro u f hu hp
    rw [hu]
    have k := (hold hp).jWrite hk f
    exact ⟨k.active, k.staging⟩
  refine ⟨_, rfl, ?_⟩
  split
  next hlt =>
    refine ⟨fun _ => ?_, fun h => absurd h (Nat.ne_of_lt hlt), hunits _ _ rfl⟩
    rw [(State.jWrite_update ..).1]
    exact ⟨rfl, rfl, hboot.trans hb⟩
  next hge =>
    refine ⟨fun h => absurd h hge, fun _ => ?_, 
      hunits _ (fun j => { j with boot := 0, unit := 0, phase := 0 }) ?_⟩
    · rw [(State.updPost_rest ..).1]
      dsimp only [State.modUpd]
      rw [(State.jWrite_update ..).1]
      exact ⟨rfl, rfl, rfl⟩
    · rw [(State.updPost_rest ..).2.1]
      rfl

/-- Settles O51, event by event. -/
theorem updateEvents : Obligations.UpdateEvents := by
  unfold Obligations.UpdateEvents
  intro s
  refine ⟨fun l h => loadBreak_ends h, fun a h ho => ⟨fun hl hn hd => handoverBell_runs h ho hl hn hd, handoverAbandon_ends h ho⟩,
    fun a x h hx ho hp hd => updatePauseBegin_runs h hx ho hp hd, fun a h hp hd => updatePauseEnd_runs h hp hd,
    fun tt ht hon hb hl hstep hwf hpos hk => swapUnit_moves ht hon hb hl hstep hwf hpos hk⟩

end Sys2Proof.Machine

/-!
PROOFS. The Chapels' own events (09_engine_ports R279, R291 to R297; 11_choir R365): O53.
-/

namespace Sys2Proof.Machine

/-! ### What leaves the Chapels and the loops as they were -/

/-- The Chapels and the loop slots stand. -/
structure ChapsStand (s u : State) : Prop where
  chaps : u.chaps = s.chaps
  slots : u.choir.slots = s.choir.slots

namespace ChapsStand
variable {s t u : State}

theorem refl (s : State) : ChapsStand s s := ⟨rfl, rfl⟩
theorem trans (h : ChapsStand s t) (k : ChapsStand t u) : ChapsStand s u :=
  ⟨k.chaps.trans h.chaps, k.slots.trans h.slots⟩
theorem of_posts (h : Posts s t) : ChapsStand s t :=
  ⟨(congrArg State.chaps h.rest :), (congrArg (fun z : State => z.choir.slots) h.rest :)⟩
theorem of_forEach {α : Type} (xs : List α) {f : α → State → State} (hf : ∀ x s, ChapsStand s (f x s)) (s : State) :
    ChapsStand s (forEach xs f s) :=
  forEach_holds xs (.refl s) fun x _ u h => h.trans (hf x u)
theorem chap (h : ChapsStand s u) (c : Chap) : u.chap c = s.chap c := congrArg (at' · c) h.chaps
theorem slot (h : ChapsStand s u) (i : Slot) : u.slot i = s.slot i := congrArg (at' · i) h.slots

end ChapsStand

section
variable (s : State)

theorem State.gfix_stands (i n : Nat) : ChapsStand s (s.gfix i n) := .of_posts (State.gfix_posts _ _ (.refl s))
theorem State.tally_stands (b u e n : Nat) : ChapsStand s (s.tally b u e n) := .of_posts (s.tally_refl ..)
theorem State.postTo_stands (ts : List Ten) (code src : Nat) (seq : Option Word) (p : List Word) :
    ChapsStand s (s.postTo ts code src seq p) := .of_posts (s.postTo_refl ..)
theorem State.modMatrix_stands (f : MatrixSt → MatrixSt) : ChapsStand s (s.modMatrix f) := ⟨rfl, rfl⟩
theorem State.modOut_stands (o : OutId) (f : OutSt → OutSt) : ChapsStand s (s.modOut o f) := ⟨rfl, rfl⟩

theorem State.kmJoin_stands (r : Reason) (chap : Option Chap) (f : Seg → Bool) : ChapsStand s (s.kmJoin r chap f) := by
  unfold State.kmJoin
  dsimp only
  split
  · exact s.modMatrix_stands _
  · exact ((s.modMatrix_stands _).trans (State.gfix_stands ..)).trans (State.postTo_stands ..)

theorem State.kmLeave_stands (r : Reason) (f : Seg → Bool) : ChapsStand s (s.kmLeave r f) := by
  unfold State.kmLeave
  dsimp only
  split
  · exact (s.modMatrix_stands _).trans (State.postTo_stands ..)
  · exact s.modMatrix_stands _

theorem State.kmDark_stands (c : Chap) : ChapsStand s (s.kmDark c) := by
  unfold State.kmDark
  split
  · exact s.kmJoin_stands ..
  · exact .refl s

theorem State.sample_stands (code v bin : Nat) : ChapsStand s (s.sample code v bin) := by
  unfold State.sample
  split
  · exact .refl s
  · exact ⟨rfl, rfl⟩

theorem State.putVerdict_stands (m : KMap) (v : Verdict) : ChapsStand s (s.putVerdict m v) := ⟨rfl, rfl⟩

theorem State.verdictNote_stands (m : KMap) (code : Nat) : ChapsStand s (s.verdictNote m code) := by
  have h0 : ChapsStand s (if failing code then s.gfix (48 + m.chap.val) 1 else s) := by
    split
    · exact s.gfix_stands ..
    · exact .refl s
  unfold State.verdictNote
  dsimp only
  generalize (if failing code = true then s.gfix (48 + m.chap.val) 1 else s) = s0 at h0 ⊢
  have hput : ∀ (z : State) (b : Bool) v (r : Reason) (g : Option Chap) f, ChapsStand z (State.assurLeave
      (if b = true then (z.putVerdict m v).kmJoin r g f else z.putVerdict m v)) := fun z b v r g f => by
    refine .trans ?_ (State.kmLeave_stands ..)
    split
    · exact (z.putVerdict_stands m v).trans (State.kmJoin_stands ..)
    · exact z.putVerdict_stands m v
  split
  · split
    · exact h0.trans (s0.tally_stands ..)
    · exact h0
  · split
    · exact (h0.trans (s0.tally_stands ..)).trans (hput ..)
    · exact h0.trans (hput ..)

theorem State.chapLost_stands (c : Chap) (n : Nat) : ChapsStand s (s.chapLost c n) := s.postTo_stands ..

theorem State.dimCut_stands (o : OutId) : ChapsStand s (s.dimCut o) := by
  unfold State.dimCut
  split
  · exact s.modOut_stands ..
  · exact .refl s

theorem State.chFloorSend_stands : ChapsStand s s.chFloorSend ∧ s.chFloorSend.now = s.now := by
  unfold State.chFloorSend
  dsimp only
  split
  · obtain ⟨u, v, h⟩ := (s.modChain (fun c => { c with floorSent := cdiv s.ownFloor 25 })).chSend_eq false
      { type := 0x04, up := true, src := s.chAddr, words := [w32 (cdiv s.ownFloor 25)] }
    rw [h]
    exact ⟨⟨rfl, rfl⟩, rfl⟩
  · exact ⟨.refl s, rfl⟩

end

/-! ### A change of one Chapel -/

/-- Chapel `c` goes from `q` to `q'`, the others stand, and the loop slots but for the samples of their control errors. -/
structure ChapGoes (c : Chap) (r : ChapSt → ChapSt → Prop) (s u : State) : Prop where
  own : r (s.chap c) (u.chap c)
  other : ∀ d, d ≠ c → u.chap d = s.chap d
  slot : ∀ i, u.slot i = { s.slot i with samples := (u.slot i).samples }

theorem ChapGoes.of_stands {c : Chap} {r : ChapSt → ChapSt → Prop} {s t u v : State} (h : ChapGoes c r t u)
    (k : ChapsStand s t) (l : ChapsStand u v) : ChapGoes c r s v := by
  refine ⟨?_, fun d hd => ?_, fun i => ?_⟩
  · rw [l.chap c, ← k.chap c]
    exact h.own
  · rw [l.chap d, h.other d hd, k.chap d]
  · rw [l.slot i, ← k.slot i]
    exact h.slot i

theorem ChapGoes.trans {c : Chap} {r r' r'' : ChapSt → ChapSt → Prop} {s t u : State} (h : ChapGoes c r s t)
    (k : ChapGoes c r' t u) (hr : ∀ x y z, r x y → r' y z → r'' x z) : ChapGoes c r'' s u := by
  refine ⟨hr _ _ _ h.own k.own, fun d hd => (k.other d hd).trans (h.other d hd), fun i => ?_⟩
  have e := k.slot i
  rw [h.slot i] at e
  exact e

theorem State.modChap_goes (s : State) (c : Chap) {f : ChapSt → ChapSt} {r : ChapSt → ChapSt → Prop}
    (h : r (s.chap c) (f (s.chap c))) : ChapGoes c r s (s.modChap c f) :=
  ⟨by rw [State.chap_modChap]; exact h, fun _ hd => s.chap_modChap_ne _ _ f hd, fun _ => rfl⟩

/-- A Chapel's frames before and its last verdicts change, and no more. -/
def ChapSt.Judged (q q' : ChapSt) : Prop := q' = { q with prev := q'.prev, kvP0 := q'.kvP0 }

theorem State.kvLost_goes (s : State) (c : Chap) : ChapGoes c ChapSt.Judged s (s.kvLost c) := by
  have hrefl : ChapGoes c ChapSt.Judged s s := ⟨rfl, fun _ _ => rfl, fun _ => rfl⟩
  unfold State.kvLost
  split
  · exact hrefl
  · split
    · exact s.modChap_goes c rfl
    · unfold State.lostPost
      dsimp only
      split
      · exact hrefl
      · unfold State.kvPost
        refine (s.modChap_goes c (f := fun q => { q with kvP0 := kvWord ((s.shown.on' c).map (fun m => (m, 10))) 0 }) rfl).of_stands (.refl s) (.trans (.of_forEach _ (fun v u => ?_) _)
          (State.postTo_stands ..))
        exact (u.verdictNote_stands ..).trans (State.sample_stands ..)

/-- A Chapel leaves RUN: it is stopping and dark, and an armed interlock has tripped. -/
def ChapSt.Left (q q' : ChapSt) : Prop :=
  q'.state = .stopping ∧ q'.emits = false ∧ q'.lasEn = false ∧ q'.stopDue = none ∧ q'.stopBell = none ∧
    (q.armed = true → q'.armed = false ∧ q'.tripped = true ∧ q'.trips = q.trips + 1)

/-- A tripped interlock stands so in the state of its Chapel. -/
def ChapSt.Tripped (q q' : ChapSt) : Prop :=
  q.armed = true → q'.armed = false ∧ q'.tripped = true ∧ q'.trips = q.trips + 1

theorem State.laserTrip_goes (s : State) (c : Chap) (cond : Nat) : ChapGoes c ChapSt.Tripped s (s.laserTrip c cond) := by
  unfold State.laserTrip
  split
  next h =>
    refine ⟨fun ha => ?_, fun _ _ => rfl, fun _ => rfl⟩
    rw [ha] at h
    exact absurd h (by decide)
  next h =>
    refine (s.modChap_goes c (f := fun q => { q with armed := false, tripped := true, trips := q.trips + 1, lasEn := false })
      ?_).of_stands (.refl s) (State.tally_stands ..)
    exact fun _ => ⟨rfl, rfl, rfl⟩

theorem State.leaveRun_goes (s : State) (c : Chap) (cond : Nat) : ChapGoes c ChapSt.Left s (s.leaveRun c cond) := by
  have ht := s.laserTrip_goes c cond
  unfold State.leaveRun
  dsimp only
  generalize ((s.chap c).rec'.elim [] fun p => if p.scan = true then [] else p.sinks) = outs
  have ho : ∀ f : State → OutSt → OutSt, ChapsStand (s.laserTrip c cond)
      (forEach outs (fun o s => s.modOut o (f s)) (s.laserTrip c cond)) := fun f =>
    .of_forEach _ (fun o u => u.modOut_stands o _) _
  have h1 := ht.of_stands (.refl s) (ho fun s x => { x with pulseEnd := true, samp := x.samp.filter (fun t => t ≤ s.now) })
  generalize forEach outs _ (s.laserTrip c cond) = w at h1 ⊢
  have h2 : ChapGoes c ChapSt.Tripped s (w.pulsesEnd c) := by
    refine h1.trans (r' := Eq) ⟨rfl, fun _ _ => rfl, fun i => ?_⟩ fun x y z hxy hyz => hyz ▸ hxy
    have e : (w.pulsesEnd c).slot i = if (w.slot i).chap == some c then
        { w.slot i with samples := (w.slot i).samples.filter (fun x => x.1 ≤ w.now) } else w.slot i := at_mapTab _ _ i
    rw [e]
    split <;> rfl
  generalize w.pulsesEnd c = v at h2 ⊢
  have h3 : ∀ (d : Time) (n : Nat), ChapGoes c ChapSt.Left s (v.modChap c (fun q => { q with
      state := .stopping
      stopAt := d
      parkFrom := n
      stopDue := none
      stopBell := none
      emits := false
      lasEn := false
      frame := none
      coming := none
      prevFrame := false })) := fun d n =>
    h2.trans (r' := fun q q' => q'.state = .stopping ∧ q'.emits = false ∧ q'.lasEn = false ∧ q'.stopDue = none ∧
        q'.stopBell = none ∧ q'.armed = q.armed ∧ q'.tripped = q.tripped ∧ q'.trips = q.trips)
      (v.modChap_goes c ⟨rfl, rfl, rfl, rfl, rfl, rfl, rfl, rfl⟩)
      fun x y z hxy ⟨hs, he, hl, hd, hb, ha, ht, hn⟩ => ⟨hs, he, hl, hd, hb, fun h => by
        obtain ⟨a1, a2, a3⟩ := hxy h
        exact ⟨ha.trans a1, ht.trans a2, hn.trans a3⟩⟩
  split
  · exact (h3 _ _).of_stands (.refl s) (State.kmJoin_stands ..)
  · exact h3 _ _

theorem State.safeStop_goes {s : State} {c : Chap} (h : (s.chap c).state = .run ∨ (s.chap c).state = .starting) (cause cond : Nat) :
    ChapGoes c ChapSt.Left s (s.safeStop c cause cond) := by
  have hgo : ChapGoes c ChapSt.Left s ((((s.kvLost c).leaveRun c cond).modChap c (fun q => { q with stopWhy := 0 })).gfix 57 1 |>.chapLost c
      cause) := by
    refine (((s.kvLost_goes c).trans ((s.kvLost c).leaveRun_goes c cond) (r'' := ChapSt.Left) ?_).trans (r'' := ChapSt.Left)
      (State.modChap_goes _ c (r := fun q q' => q' = { q with stopWhy := q'.stopWhy }) rfl) ?_).of_stands (.refl s)
      ((State.gfix_stands ..).trans (State.chapLost_stands ..))
    · intro x y z hxy hyz
      rw [hxy] at hyz
      exact hyz
    · intro x y z hxy hyz
      rw [hyz]
      exact hxy
  unfold State.safeStop
  rcases h with h | h <;> rw [h] <;> exact hgo

theorem State.safeStop_off {s : State} {c : Chap} (h : (s.chap c).state = .stopping) (cause cond : Nat) :
    s.safeStop c cause cond = s := by
  unfold State.safeStop
  rw [h]

/-! ### Stops -/

section
variable {s : State} {c : Chap}

/-- An armed interlock whose condition is met stops its Chapel and latches. -/
theorem interlock_trips {x : TripIn} {p : ChapRec} (hrec : (s.chap c).rec' = some p) (ha : (s.chap c).armed = true)
    (hact : (s.chap c).state = .run ∨ (s.chap c).state = .starting)
    (hx : s.tripCond c p x ≠ none ∨ x = .lock ∨ ∃ v, x = .peak v ∧ v.toNat < p.aMin) :
    ChapGoes c ChapSt.Left s (s.interlock c x) := by
  have hcond : ∃ n, s.tripCond c p x = some n := by
    rcases hx with h | rfl | ⟨v, rfl, hv⟩
    · exact Option.ne_none_iff_exists'.mp h
    · exact ⟨3, rfl⟩
    · exact ⟨0, if_pos hv⟩
  obtain ⟨n, hn⟩ := hcond
  unfold State.interlock
  rw [ha, hrec]
  dsimp only
  rw [hn]
  dsimp only
  have hst : ChapsStand s (if n = 1 then s.tally 3 c.val 8 1 else s) := by
    split
    · exact s.tally_stands ..
    · exact .refl s
  generalize (if n = 1 then s.tally 3 c.val 8 1 else s) = z at hst ⊢
  exact (State.safeStop_goes (by rw [hst.chap c]; exact hact) _ _).of_stands hst (.refl _)

theorem interlock_silent {x : TripIn} {p : ChapRec} (hrec : (s.chap c).rec' = some p)
    (h : (s.chap c).armed = false ∨ s.tripCond c p x = none) : s.interlock c x = s := by
  unfold State.interlock
  rw [hrec]
  rcases h with h | h
  · rw [h]
  · cases (s.chap c).armed
    · rfl
    · dsimp only
      rw [h]

/-- A Chapel that has left RUN, or has yet to. -/
def LeavesOrLeft (c : Chap) (s : State) : Prop :=
  (s.chap c).state = .run ∨ (s.chap c).state = .starting ∨
    ((s.chap c).state = .stopping ∧ (s.chap c).emits = false ∧ (s.chap c).lasEn = false)

/-- The Chapel has left RUN. -/
def HasLeft (c : Chap) (s : State) : Prop :=
  (s.chap c).state = .stopping ∧ (s.chap c).emits = false ∧ (s.chap c).lasEn = false

theorem HasLeft.of_goes {r : State} (h : ChapGoes c ChapSt.Left s r) : HasLeft c r :=
  ⟨h.own.1, h.own.2.1, h.own.2.2.1⟩

/-- A safe stop leaves every slot's Chapel, kind and overruns, and every other Chapel. -/
theorem State.safeStop_slot (s : State) (d : Chap) (cause cond : Nat) (i : Slot) :
    (s.safeStop d cause cond).slot i = { s.slot i with samples := ((s.safeStop d cause cond).slot i).samples } ∧
      ∀ c, c ≠ d → (s.safeStop d cause cond).chap c = s.chap c := by
  cases h : (s.chap d).state with
  | run => exact ⟨(State.safeStop_goes (.inl h) cause cond).slot i, (State.safeStop_goes (.inl h) cause cond).other⟩
  | starting => exact ⟨(State.safeStop_goes (.inr h) cause cond).slot i, (State.safeStop_goes (.inr h) cause cond).other⟩
  | off | stopping | stopped =>
    have e : s.safeStop d cause cond = s := by
      unfold State.safeStop
      rw [h]
    rw [e]
    exact ⟨rfl, fun _ _ => rfl⟩

theorem LeavesOrLeft.safeStop (h : LeavesOrLeft c s) (cause cond : Nat) : HasLeft c (s.safeStop c cause cond) := by
  rcases h with h | h | h
  · exact .of_goes (State.safeStop_goes (.inl h) cause cond)
  · exact .of_goes (State.safeStop_goes (.inr h) cause cond)
  · rw [State.safeStop_off h.1]
    exact h

theorem HasLeft.safeStop (h : HasLeft c s) (d : Chap) (cause cond : Nat) : HasLeft c (s.safeStop d cause cond) := by
  by_cases hd : c = d
  · subst hd
    exact LeavesOrLeft.safeStop (.inr (.inr h)) cause cond
  · unfold HasLeft
    rw [(s.safeStop_slot d cause cond 0).2 c hd]
    exact h

theorem LeavesOrLeft.safeStop_other (h : LeavesOrLeft c s) (d : Chap) (cause cond : Nat) :
    LeavesOrLeft c (s.safeStop d cause cond) := by
  by_cases hd : c = d
  · subst hd
    exact .inr (.inr (h.safeStop cause cond))
  · unfold LeavesOrLeft
    rw [(s.safeStop_slot d cause cond 0).2 c hd]
    exact h

theorem State.mirrorStop_cases (s : State) (i : Slot) : s.mirrorStop i = s ∨ ∃ d, s.mirrorStop i = s.safeStop d 5 4 := by
  unfold State.mirrorStop
  dsimp only
  split
  · split
    · exact .inr ⟨_, rfl⟩
    · exact .inl rfl
  · exact .inl rfl

/-- The third overrun in a row of a mirror slot stops its Chapel. -/
theorem mirrorOverrunStop_stops {i : Slot} (hact : (s.chap c).state = .run ∨ (s.chap c).state = .starting)
    (hc : (s.slot i).chap = some c) (hk : (s.slot i).cfg.kind.mirror = true) (hn : 3 ≤ (s.slot i).consec) :
    ∃ u, exec .mirrorOverrunStop s = .next u ∧ HasLeft c u := by
  have hdue : (s.choir.slots.toList.any (fun q => q.chap.isSome && q.cfg.kind.mirror && 3 ≤ q.consec)) = true := by
    refine List.any_eq_true.mpr ⟨s.slot i, Vector.mem_toList_iff.mpr (Vector.getElem_mem _), ?_⟩
    rw [hc, hk, decide_eq_true hn]
    rfl
  have hexec : exec .mirrorOverrunStop s = .next (forEach (allFin 16) (fun i s => State.mirrorStop s i) s) := by
    have h0 : exec .mirrorOverrunStop s = .next (forEach (allFin 16) (fun i s => State.mirrorStop s i) (s.choirDrain
        (fun s : State => s.choir.slots.toList.any (fun q => q.chap.isSome && q.cfg.kind.mirror && 3 ≤ q.consec)))) := rfl
    rw [h0, State.choirDrain, if_pos hdue]
  refine ⟨_, hexec, forEach_at (P := fun u : State => LeavesOrLeft c u ∧ (u.slot i).chap = some c ∧
    (u.slot i).cfg.kind.mirror = true ∧ 3 ≤ (u.slot i).consec) (Q := HasLeft c) (mem_allFin i) (nodup_allFin 16)
    ⟨?_, hc, hk, hn⟩ (fun j _ u hu => ?_) (fun u ⟨h, hc, hk, hn⟩ => ?_) (fun j _ u hu => ?_)⟩
  · exact hact.elim .inl fun h => .inr (.inl h)
  · rcases u.mirrorStop_cases j with e | ⟨d, e⟩
    · rw [e]
      exact hu
    · obtain ⟨h, hc, hk, hn⟩ := hu
      rw [e, (u.safeStop_slot d 5 4 i).1]
      exact ⟨h.safeStop_other d 5 4, hc, hk, hn⟩
  · have e : u.mirrorStop i = u.safeStop c 5 4 := by
      simp only [State.mirrorStop, hc, hk, hn, decide_true, Bool.and_self, if_true]
    rw [e]
    exact h.safeStop 5 4
  · rcases u.mirrorStop_cases j with e | ⟨d, e⟩
    · rw [e]
      exact hu
    · rw [e]
      exact hu.safeStop d 5 4

/-- What a passed start limit does to one Chapel it does to that Chapel alone. -/
theorem State.startTimeout_cases (s : State) (d : Chap) : s.startTimeout d = s ∨ s.startTimeout d = s.safeStop d 8 4 := by
  unfold State.startTimeout
  dsimp only
  split
  · split
    · exact .inr rfl
    · exact .inl rfl
  · exact .inl rfl

/-- A start whose limit has passed stops. -/
theorem startTimeout_stops {p : ChapRec} (hst : (s.chap c).state = .starting) (hrec : (s.chap c).rec' = some p)
    (hd : (s.chap c).startedAt + p.startLimit ≤ s.now) : ∃ u, exec .startTimeout s = .next u ∧ HasLeft c u := by
  have hnow : ∀ (d cause cond : _) (u : State), (u.safeStop d cause cond).now = u.now := fun d cause cond u =>
    (State.safeStop_drives d cause cond (.refl u)).now_eq
  refine ⟨_, rfl, forEach_at (P := fun u : State => u.chap c = s.chap c ∧ s.now ≤ u.now) (Q := HasLeft c) (mem_allFin c)
    (nodup_allFin 4) ?_ (fun d hd' u ⟨h, hn⟩ => ?_) (fun u ⟨h, hn⟩ => ?_) (fun d _ u hu => ?_)⟩
  · rw [State.passFirst_eq]
    exact ⟨rfl, Nat.le_max_left _ _⟩
  · rcases u.startTimeout_cases d with e | e
    · rw [e]
      exact ⟨h, hn⟩
    · rw [e, hnow]
      exact ⟨((u.safeStop_slot d 8 4 0).2 c hd'.symm).trans h, hn⟩
  · have e : u.startTimeout c = u.safeStop c 8 4 := by
      simp only [State.startTimeout, h, hst, hrec, Nat.le_trans hd hn, if_true]
    rw [e]
    exact LeavesOrLeft.safeStop (.inr (.inl (by rw [h]; exact hst))) 8 4
  · rcases u.startTimeout_cases d with e | e
    · rw [e]
      exact hu
    · rw [e]
      exact hu.safeStop d 8 4

/-- An orderly stop takes effect at its Bell. -/
theorem orderlyStop_stops {b : Nat} (hact : (s.chap c).state = .run ∨ (s.chap c).state = .starting)
    (hb : (s.chap c).stopBell = some b) (hle : b ≤ s.bell.bellno.toNat) : HasLeft c (s.orderlyStop c) := by
  have hle' : b ≤ s.bn := hle
  have hgo : HasLeft c (if (s.chap c).stopWhy = 3 then (s.leaveRun c 4).chapLost c 9 else s.leaveRun c 4) := by
    split
    · exact .of_goes ((s.leaveRun_goes c 4).of_stands (.refl s) (State.chapLost_stands ..))
    · exact .of_goes (s.leaveRun_goes c 4)
  unfold State.orderlyStop
  rcases hact with h | h <;> simp only [h, hb, hle', if_true] <;> exact hgo

/-! ### Parking -/

theorem State.modSlot_chaps (s : State) (i : Slot) (f : LoopSt → LoopSt) : (s.modSlot i f).chaps = s.chaps := rfl

/-- Every slot in the list is off, the Chapels stand, and so does every slot's kind and Chapel. -/
theorem forEach_slotsOff (xs : List Slot) (f : LoopSt → LoopSt) (hf : ∀ q, (f q).state = .off) (s : State) :
    (forEach xs (fun i s => s.modSlot i f) s).chaps = s.chaps ∧
      ∀ i ∈ xs, ((forEach xs (fun i s => s.modSlot i f) s).slot i).state = .off := by
  induction xs generalizing s with
  | nil => exact ⟨rfl, fun i h => absurd h (List.not_mem_nil)⟩
  | cons x xs ih =>
    obtain ⟨hch, hoff⟩ := ih (s.modSlot x f)
    refine ⟨hch, fun i hi => ?_⟩
    by_cases h : i ∈ xs
    · exact hoff i h
    · have hx : i = x := (List.mem_cons.mp hi).resolve_right h
      subst hx
      refine forEach_holds (P := fun u : State => (u.slot i).state = .off) xs ?_ fun y hy u hu => ?_
      · rw [State.slot_modSlot]
        exact hf _
      · have hne : i ≠ y := fun e => h (e ▸ hy)
        rw [State.slot_modSlot_ne _ _ _ _ hne]
        exact hu

theorem chapelParked_stops (hst : (s.chap c).state = .stopping) (hp : (s.passTo (s.parkedAt c)).parked c = true) :
    ((s.chapParked c).chap c).state = .stopped ∧ ∀ i : Slot, (s.slot i).cfg.kind.mirror = true → (s.slot i).chap = some c →
      ((s.chapParked c).slot i).state = .off := by
  unfold State.chapParked
  dsimp only
  rw [hst]
  simp only [beq_self_eq_true, if_true, hp, Bool.and_self, Bool.not_true, Bool.false_eq_true, if_false]
  have hslots : (s.passTo (s.parkedAt c)).choir.slots = s.choir.slots := by rw [State.passTo_eq]
  generalize s.passTo (s.parkedAt c) = z at hslots ⊢
  generalize hf : (fun l : LoopSt => { l with state := .off, consec := 0, chan := mapTab LoopChan.clear l.chan }) = f
  generalize hs1 : z.modChap c _ = s1
  have hs1st : (s1.chap c).state = .stopped := by rw [← hs1, State.chap_modChap]
  obtain ⟨hch, hoff⟩ := forEach_slotsOff (z.mirrors c) f (fun q => by rw [← hf]) s1
  generalize forEach (z.mirrors c) (fun i s => s.modSlot i f) s1 = s2 at hch hoff ⊢
  have h2 : (s2.chap c).state = .stopped ∧ ∀ i : Slot, (s.slot i).cfg.kind.mirror = true → (s.slot i).chap = some c →
      (s2.slot i).state = .off := by
    refine ⟨?_, fun i hk hc => hoff i ?_⟩
    · rw [State.chap, hch]
      exact hs1st
    · have e : z.slot i = s.slot i := congrArg (at' · i) hslots
      refine List.mem_filter.mpr ⟨mem_allFin i, ?_⟩
      rw [e, hk, hc, beq_self_eq_true]
      rfl
  have h3 : ∀ s3, ChapsStand s2 s3 → (s3.chap c).state = .stopped ∧ ∀ i : Slot, (s.slot i).cfg.kind.mirror = true →
      (s.slot i).chap = some c → (s3.slot i).state = .off := fun s3 k => by
    refine ⟨by rw [k.chap]; exact h2.1, fun i hk hc => by rw [k.slot]; exact h2.2 i hk hc⟩
  have hpost : ChapsStand s2 (if (s.chap c).stopWhy = 1 ∨ (s.chap c).stopWhy = 2 then
      s2.postAll 0x0092 (0x30 + c.val) none [w32 (s.chap c).stopWhy, w32 (s.chap c).doneBell] else s2) := by
    split
    · exact .of_posts (s2.postAll_refl ..)
    · exact .refl s2
  simp only [Bool.or_eq_true, decide_eq_true_eq]
  generalize (if (s.chap c).stopWhy = 1 ∨ (s.chap c).stopWhy = 2 then
      s2.postAll 0x0092 (0x30 + c.val) none [w32 (s.chap c).stopWhy, w32 (s.chap c).doneBell] else s2) = s3 at hpost ⊢
  split
  · exact h3 _ hpost
  · split
    · exact h3 _ (hpost.trans (State.chapLost_stands ..))
    · obtain ⟨hst3, hoff3⟩ := h3 _ hpost
      refine ⟨?_, hoff3⟩
      rw [State.chap_modChap]
      exact hst3

theorem parked_array {p : ChapRec} (hrec : (s.chap c).rec' = some p) (hscan : p.scan = false) :
    (s.passTo (s.parkedAt c)).parked c = true := by
  have hat : s.parkedAt c = (s.chap c).stopAt + ms p.parkMs := by
    simp only [State.parkedAt, hrec, hscan, Bool.false_eq_true, if_false]
  have hle := s.le_passTo (s.parkedAt c)
  have hchap : (s.passTo (s.parkedAt c)).chap c = s.chap c := by rw [State.passTo_eq]; rfl
  rw [hat] at hle hchap ⊢
  generalize s.passTo ((s.chap c).stopAt + ms p.parkMs) = z at hle hchap ⊢
  simp only [State.parked, hchap, hrec, hscan, Option.elim_some, Bool.false_eq_true, if_false]
  exact decide_eq_true hle

end

/-! ### Starting -/

theorem forEach_chaps {α : Type} (xs : List α) {f : α → State → State} (hf : ∀ x s, (f x s).chaps = s.chaps) (s : State) :
    (forEach xs f s).chaps = s.chaps :=
  forEach_holds (P := fun u : State => u.chaps = s.chaps) xs rfl fun x _ u h => (hf x u).trans h

theorem State.loadGains_chaps (s : State) (c : Chap) (profile : Nat) : (s.loadGains c profile).chaps = s.chaps := by
  unfold State.loadGains
  refine forEach_chaps _ (fun i u => ?_) s
  dsimp only
  split
  · rfl
  · split <;> rfl

theorem State.repTable_chaps (s : State) (i : Slot) (n : Nat) (g : Word) : (s.repTable i n g).chaps = s.chaps :=
  (ChapsStand.of_posts (State.post_refl ..)).chaps

theorem State.loadTable_chaps (s : State) (i : Slot) : (s.loadTable i).chaps = s.chaps := by
  unfold State.loadTable
  dsimp only
  split
  · rfl
  split
  · rfl
  split
  · rw [State.repTable_chaps]
    rfl
  split
  · rw [State.repTable_chaps]
    rfl
  · rw [State.repTable_chaps]
    rfl

theorem State.mirrorStart_chaps (s : State) (i : Slot) (b : Bool) : (s.mirrorStart i b).chaps = s.chaps := by
  unfold State.mirrorStart
  split <;> rfl

section
variable {s : State} {c : Chap}

/-- A checked start begins. -/
theorem State.enterStarting_chap (s : State) (c : Chap) (x : ChStart) (p : ChapRec) :
    ((s.enterStarting c x p).chap c).state = .starting ∧ ((s.enterStarting c x p).chap c).seqPhase = .check ∧
      ((s.enterStarting c x p).chap c).rec' = some p ∧ ((s.enterStarting c x p).chap c).startedAt = s.now ∧
      ((s.enterStarting c x p).chap c).profile = x.profile := by
  have hslots : ∀ z : State, (forEach (allFin 16) (fun i s =>
      if (s.slot i).chap != some c then s
      else (if (s.slot i).cfg.kind.mirror then s.mirrorStart i x.resume else s).loadTable i) z).chaps = z.chaps := fun z =>
    forEach_chaps _ (fun i u => by
      split
      · rfl
      · rw [State.loadTable_chaps]
        split
        · exact u.mirrorStart_chaps ..
        · rfl) z
  have hcuts : ∀ (outs : List OutId) (z : State), (forEach outs (fun o s => s.dimCut o) z).now = z.now := fun outs z =>
    forEach_holds (P := fun u : State => u.now = z.now) outs rfl fun o _ u h => by
      unfold State.dimCut
      split <;> exact h
  unfold State.enterStarting
  dsimp only [State.fresh]
  generalize hsB : ({ s with free := s.free + 1 + 1 } : State) = sB
  have hnow := hcuts (if p.scan = true then [] else p.sinks) sB
  generalize forEach (if p.scan = true then [] else p.sinks) (fun o s => s.dimCut o) sB = z at hnow ⊢
  have hz : z.now = s.now := by rw [hnow, ← hsB]
  have hown : ∀ v w : State, v.chaps = w.chaps → v.chap c = w.chap c := fun v w h => congrArg (at' · c) h
  rw [hown _ _ (hslots _), hown _ _ (State.loadGains_chaps ..), (State.tally_stands ..).chap c, State.chap_modChap, hz]
  exact ⟨rfl, rfl, rfl, rfl, rfl⟩

/-- A phase of a start sequence lasts until its instant. -/
theorem State.phaseTo_rest (s : State) (c : Chap) (d : Time) (f : StartPhase) : ((s.phaseTo c d f).chap c).seqPhase = f ∧
    d ≤ (s.phaseTo c d f).now := by
  have hle := s.le_passTo d
  unfold State.phaseTo
  generalize s.passTo d = p at hle ⊢
  dsimp only
  rw [State.chap_modChap]
  exact ⟨rfl, hle⟩

theorem chapStart_phase (h : (s.chap c).state = .starting) (y : StartSeqIn) : s.chapStart c y = s.chapPhase c y := by
  unfold State.chapStart
  dsimp only
  rw [h]
  cases (s.chap c).startDue <;> rfl

theorem chapPhase_check {p : ChapRec} (hrec : (s.chap c).rec' = some p) (hscan : p.scan = false)
    (hph : (s.chap c).seqPhase = .check) (y : StartSeqIn) : ((s.chapPhase c y).chap c).seqPhase = .train ∧
      ((s.chapPhase c y).chap c).acEn = true ∧ (s.chap c).checkEnd ≤ (s.chapPhase c y).now := by
  have h := s.phaseTo_rest c (s.chap c).checkEnd .train
  simp only [State.chapPhase, hrec, hph, hscan, Bool.false_eq_true, if_false]
  generalize s.phaseTo c (s.chap c).checkEnd .train = z at h ⊢
  rw [State.chap_modChap]
  exact ⟨h.1, rfl, h.2⟩

theorem chapPhase_sweep {p : ChapRec} (hrec : (s.chap c).rec' = some p) (hph : (s.chap c).seqPhase = .sweep) {y : StartSeqIn}
    (hlo : p.fMin ≤ y.freq) (hhi : y.freq ≤ p.fMax) : ((s.chapPhase c y).chap c).seqPhase = .raise ∧
      ((s.chapPhase c y).chap c).resonance = y.freq ∧ (s.chap c).startedAt + ms 1 ≤ (s.chapPhase c y).now := by
  have h := s.phaseTo_rest c ((s.chap c).startedAt + ms 1) .raise
  simp only [State.chapPhase, hrec, hph, hlo, hhi, decide_true, Bool.and_self, if_true]
  generalize s.phaseTo c ((s.chap c).startedAt + ms 1) .raise = z at h ⊢
  rw [State.chap_modChap]
  exact ⟨h.1, rfl, h.2⟩

theorem chapPhase_raise {p : ChapRec} (hrec : (s.chap c).rec' = some p) (hph : (s.chap c).seqPhase = .raise) {y : StartSeqIn}
    (hn : 16 ≤ y.periods) : ((s.chapPhase c y).chap c).seqPhase = .locked ∧
      (s.chap c).startedAt + ms 20 ≤ (s.chapPhase c y).now := by
  have h := s.phaseTo_rest c ((s.chap c).startedAt + ms 20) .locked
  simp only [State.chapPhase, hrec, hph, hn, if_true]
  exact h

theorem chapStart_due {x : ChStart} {y : StartSeqIn} (hdue : (s.chap c).startDue = some x)
    (hst : (s.chap c).state = .off ∨ (s.chap c).state = .stopped) (hhot : x.ten ≠ none ∨ s.chapHot c = false) :
    (∀ p, s.startCheck c x.profile y.lock = .ok p → s.chapStart c y = s.enterStarting c x p) ∧
    (∀ r o, s.startCheck c x.profile y.lock = .error (r, o) → s.chapStart c y =
      (s.modChap c (fun q => { q with startDue := none })).chapRefuse c x r o) := by
  have hgo : (x.ten.isNone && s.chapHot c) = false := by
    rcases hhot with h | h
    · cases hx : x.ten with
      | none => exact absurd hx h
      | some t => rfl
    · rw [h, Bool.and_false]
  unfold State.chapStart
  dsimp only
  rw [hdue]
  rcases hst with h | h <;> rw [h] <;> refine ⟨fun p hp => ?_, fun r o hp => ?_⟩ <;> dsimp only <;>
    rw [hgo, if_neg Bool.false_ne_true, hp]

theorem chapRefuse_chap (x : ChStart) (r o : Nat) :
    (((s.modChap c (fun q => { q with startDue := none })).chapRefuse c x r o).chap c) =
      { s.chap c with startDue := none, lastRefusal := r } := by
  have h : ((s.modChap c (fun q => { q with startDue := none })).modChap c (fun q => { q with lastRefusal := r })).chap c =
      { s.chap c with startDue := none, lastRefusal := r } := by
    rw [State.chap_modChap, State.chap_modChap]
  unfold State.chapRefuse
  dsimp only
  split
  · exact h
  · rw [(ChapsStand.of_posts (State.post_refl ..)).chap c]
    exact h

theorem State.releaseOutside_rest (s : State) (c : Chap) (p : ChapRec) : (s.releaseOutside c p).now = s.now := rfl

/-- The last phase has ended: the Chapel runs. -/
theorem startComplete_runs {p : ChapRec} (hst : (s.chap c).state = .starting) (hrec : (s.chap c).rec' = some p)
    (hstop : (s.chap c).stopBell = none) (hval : p.scan = true → s.choir.valid = true)
    (hph : (s.chap c).seqPhase = (if p.scan then .locked else .zeros)) :
    ((s.startComplete c).chap c).state = .run ∧ ((s.startComplete c).chap c).armed = p.scan ∧
      ((s.startComplete c).chap c).lasEn = p.scan ∧ ((s.startComplete c).chap c).tripped = false ∧
      (s.chap c).startedAt + p.startMin ≤ (s.startComplete c).now := by
  have hgo : ((s.chap c).stopBell.isSome || (p.scan && !s.choir.valid) ||
      (s.chap c).seqPhase != (if p.scan then .locked else .zeros)) = false := by
    rw [hstop, hph, bne_self_eq_false]
    cases hs : p.scan
    · rfl
    · rw [hval hs]
      rfl
  have hle := s.le_passTo (max ((s.chap c).startedAt + p.startMin) ((s.chap c).phaseAt + (if p.scan then 0 else p.zerosLen)))
  have hle' := Nat.le_trans (Nat.le_max_left _ _) hle
  clear hle
  unfold State.startComplete
  dsimp only
  rw [hst, hrec]
  dsimp only
  rw [hgo, if_neg Bool.false_ne_true]
  generalize s.passTo _ = z at hle' ⊢
  generalize (s.chap c).startedAt + p.startMin = d at hle' ⊢
  have hrel := z.releaseOutside_rest c p
  generalize z.releaseOutside c p = w at hrel ⊢
  generalize hs1 : w.modChap c _ = s1
  have hown : (s1.chap c).state = .run ∧ (s1.chap c).armed = p.scan ∧ (s1.chap c).lasEn = p.scan ∧
      (s1.chap c).tripped = false := by
    rw [← hs1, State.chap_modChap]
    exact ⟨rfl, rfl, rfl, rfl⟩
  have hnow : s1.now = z.now := by
    rw [← hs1]
    exact hrel
  obtain ⟨hsend, hsnow⟩ := ((s1.tally 3 c.val 7 1).kmDark c).chFloorSend_stands
  have hall := ((s1.tally_stands 3 c.val 7 1).trans ((s1.tally 3 c.val 7 1).kmDark_stands c)).trans hsend
  rw [hall.chap c, hsnow, (State.kmDark_drives c (State.tally_drives 3 c.val 7 1 (.refl s1))).now_eq, hnow]
  exact ⟨hown.1, hown.2.1, hown.2.2.1, hown.2.2.2, hle'⟩

end

/-- Settles O53, event by event. -/
theorem chapelEvents : Obligations.ChapelEvents := by
  unfold Obligations.ChapelEvents
  intro s c
  dsimp only
  have hsafe : ∀ (z : State) (cause cond : Nat), z.chap c = s.chap c → (s.chap c).state = .run ∨ (s.chap c).state = .starting →
      HasLeft c (z.safeStop c cause cond) := fun z cause cond hz h =>
    .of_goes (State.safeStop_goes (by rw [hz]; exact h) cause cond)
  refine ⟨fun x p hrec => ⟨fun ha hact hx => ?_, fun h => congrArg Host.Outcome.next (interlock_silent hrec h)⟩, fun hact hc => ?_,
    fun hact hc => ?_, fun i hact hc hk hn => mirrorOverrunStop_stops hact hc hk hn,
    fun p hst hrec hd => startTimeout_stops hst hrec hd, fun b hact hb hle => ⟨_, rfl, orderlyStop_stops hact hb hle⟩,
    fun hst hp => ⟨_, rfl, chapelParked_stops hst hp⟩, fun p _ hrec hscan => parked_array hrec hscan,
    fun x y hdue hst hhot => ⟨fun p hp => ?_, fun r o hp => ?_⟩, fun p y hst hrec => ⟨fun hscan hph => ?_, fun hph hlo hhi => ?_,
      fun hph hn => ?_⟩, fun p hst hrec hstop hval hph => ⟨_, rfl, startComplete_runs hst hrec hstop hval hph⟩⟩
  · obtain ⟨hs, -, hl, -, -, ht⟩ := (interlock_trips hrec ha hact hx).own
    obtain ⟨h1, h2, h3⟩ := ht ha
    exact ⟨_, rfl, hs, h1, h2, hl, h3⟩
  · exact ⟨_, congrArg Host.Outcome.next (if_pos hc), hsafe _ 7 4 rfl hact⟩
  · exact ⟨_, congrArg Host.Outcome.next (if_pos hc), hsafe s 6 4 rfl hact⟩
  · exact ⟨_, congrArg Host.Outcome.next ((chapStart_due hdue hst hhot).1 p hp), s.enterStarting_chap c x p⟩
  · refine ⟨_, congrArg Host.Outcome.next ((chapStart_due hdue hst hhot).2 r o hp), ?_⟩
    rw [chapRefuse_chap]
    exact ⟨rfl, rfl, rfl⟩
  · exact ⟨_, congrArg Host.Outcome.next (chapStart_phase hst y), chapPhase_check hrec hscan hph y⟩
  · exact ⟨_, congrArg Host.Outcome.next (chapStart_phase hst y), chapPhase_sweep hrec hph hlo hhi⟩
  · exact ⟨_, congrArg Host.Outcome.next (chapStart_phase hst y), chapPhase_raise hrec hph hn⟩

end Sys2Proof.Machine

/-!
PROOFS. The light drive's own events (10_light_drive R313 to R325, R327 to R333): O55.
-/

namespace Sys2Proof.Machine

/-! ### What posting and counting leave -/

theorem Posts.light_eq {s u : State} (h : Posts s u) : u.light = s.light := (congrArg State.light h.rest :)
theorem Posts.ovl_eq {s u : State} (h : Posts s u) : u.ovl = s.ovl := (congrArg State.ovl h.rest :)

theorem State.tally_light (s : State) (b u e n : Nat) : (s.tally b u e n).light = s.light := (s.tally_refl ..).light_eq
theorem State.post_light (s : State) (t : Ten) (code src : Nat) (seq : Option Word) (p : List Word) :
    (s.post t code src seq p).light = s.light := (s.post_refl ..).light_eq

theorem at_mapTabIdx {α β : Type} {n : Nat} (f : Nat → α → β) (v : Vector α n) (i : Fin n) :
    at' (mapTabIdx f v) i = f i.val (at' v i) := by
  simp [at', mapTabIdx]

theorem State.passTo_light (s : State) (d : Time) : (s.passTo d).light = s.light := by rw [State.passTo_eq]

/-! ### A dimming period's start (R313) -/

section
variable {s : State} {o : OutId}

/-- A reload of an output that no loop writes. -/
theorem State.reload_out (h : s.outLoop o = none) : ((s.reload o).out o).active = (s.out o).shadow ∧
    ((s.reload o).out o).periodFrom = (s.out o).periodFrom ∧ (s.reload o).now = s.now := by
  have hlight : ∀ (z : State), (z.tally 4 o.val 0 1).out o = z.out o ∧ (z.tally 4 o.val 0 1).now = z.now := fun z =>
    ⟨congrArg (fun l : LightSt => at' l.outs o) (z.tally_light 4 o.val 0 1), (z.tally_refl 4 o.val 0 1).now_eq⟩
  unfold State.reload
  dsimp only
  rw [(hlight _).1, (hlight _).2, State.out_modOut, h]
  exact ⟨rfl, rfl, rfl⟩

theorem dimReload_at {d : Time} (hloop : s.outLoop o = none) (f : OutSt → OutSt) (hf : (f (s.out o)).shadow = (s.out o).shadow ∧
    (f (s.out o)).periodFrom = d) : ((((s.passTo d).modOut o f).reload o).out o).active = (s.out o).shadow ∧
      ((((s.passTo d).modOut o f).reload o).out o).periodFrom = d ∧
      ((((s.passTo d).modOut o f).reload o).out o).periodFrom ≤ (((s.passTo d).modOut o f).reload o).now := by
  have hle := s.le_passTo d
  have hloop' : ((s.passTo d).modOut o f).outLoop o = none := by
    rw [← hloop, State.passTo_eq]
    rfl
  have hout : (s.passTo d).out o = s.out o := by rw [State.passTo_eq]; rfl
  obtain ⟨ha, hp, hn⟩ := State.reload_out hloop'
  rw [State.out_modOut, hout] at ha hp
  rw [ha, hp, hn, hf.1, hf.2]
  exact ⟨rfl, rfl, hle⟩

theorem dimPeriodReload_runs (hl : s.live = true) (hs : isSink o = true) (he : (s.out o).cfg.en = true)
    (hp : s.pulseChap o = none) (hpe : (s.out o).pulseEnd = false) (hd : (s.out o).active.duty ≠ 0) (hloop : s.outLoop o = none) :
    ∃ u, exec (.dimPeriodReload o) s = .next u ∧ (u.out o).active = (s.out o).shadow ∧
      (u.out o).periodFrom = (s.out o).periodFrom + (s.out o).active.period' ∧ (u.out o).periodFrom ≤ u.now := by
  have hgo : (s.live && s.dims o) = true := by
    simp [State.dims, hl, hs, he, hp, hpe, hd]
  refine ⟨_, congrArg Host.Outcome.next (if_pos hgo), ?_⟩
  exact dimReload_at hloop _ ⟨rfl, rfl⟩

end

/-! ### Rails (R319 to R321) -/

section
variable {s : State} {r : Fin 2}

theorem clampI_between (x lo hi : Int) (h : lo ≤ hi) : lo ≤ clampI x lo hi ∧ clampI x lo hi ≤ hi := by
  unfold clampI
  split
  · exact ⟨Int.le_refl _, h⟩
  · split <;> omega

theorem forEach_rails {α : Type} (xs : List α) {f : α → State → State} (hf : ∀ x s, (f x s).light.rails = s.light.rails)
    (s : State) : (forEach xs f s).light.rails = s.light.rails :=
  forEach_holds (P := fun u : State => u.light.rails = s.light.rails) xs rfl fun x _ u h => (hf x u).trans h

/-- What a rail makes of the millisecond that has ended: its least headroom, if there was a sample, moves its voltage. -/
structure RailStepped (r : Fin 2) (s u : State) (own : List (OutId × Nat)) (d : Time) : Prop where
  head : (u.rail r).head = (s.rail r).pendHead.getD (s.rail r).head
  last : (u.rail r).lastStep = d
  none : own = [] → (u.rail r).vSet = (s.rail r).vSet
  some : ∀ m, (own.map (·.2)).min? = some m → (u.rail r).hMin = m ∧ (u.rail r).vSet =
    (clampI ((s.rail r).vSet + (if m < 100 then min (((s.rail r).pendHead.getD (s.rail r).head : Nat) - (m : Int)) 500
      else clampI (((s.rail r).pendHead.getD (s.rail r).head : Nat) - (m : Int)) (-50) 200).tdiv 10) (s.rail r).vMin
        (s.rail r).vMax).toNat

theorem RailStepped.of_light {u v : State} {own : List (OutId × Nat)} {d : Time} (h : RailStepped r s u own d)
    (k : v.light = u.light) : RailStepped r s v own d := by
  have e : v.rail r = u.rail r := congrArg (fun l : LightSt => at' l.rails r) k
  exact ⟨e ▸ h.head, e ▸ h.last, e ▸ h.none, e ▸ h.some⟩

theorem State.railSamples_passTo (s : State) (r : Fin 2) (h : List (OutId × List Nat)) (a b d : Time) :
    (s.passTo d).railSamples r h a b = s.railSamples r h a b := by
  rw [State.passTo_eq]
  rfl

theorem State.rail_modRail' (s : State) (r : Fin 2) (f : RailSt → RailSt) : (s.modRail r f).rail r = f (s.rail r) :=
  s.rail_modRail r f

theorem railStep_steps (h : List (OutId × List Nat)) (hl : s.live = true) (he : (s.rail r).en = true)
    (hs : (s.rail r).stopped = false) : RailStepped r s (s.railStep r h)
      (s.railSamples r h (s.rail r).lastStep ((s.rail r).lastStep + ms 1)) ((s.rail r).lastStep + ms 1) := by
  have hgo : (!(s.live && (s.rail r).en && !(s.rail r).stopped)) = false := by rw [hl, he, hs]; rfl
  unfold State.railStep
  dsimp only
  rw [hgo, if_neg Bool.false_ne_true]
  generalize hd : (s.rail r).lastStep + ms 1 = d
  rw [State.railSamples_passTo]
  generalize s.railSamples r h (s.rail r).lastStep d = own
  have hpass := s.passTo_light d
  generalize s.passTo d = z at hpass ⊢
  have h0 : (forEach (z.railSinks r) (fun o s => s.modOut o (fun x => { x with samp := x.samp.filter (fun t => d ≤ t) }))
      (forEach own (fun e s => if e.2 < 150 then s.tally 4 e.1.val 2 1 else s) z)).rail r = s.rail r := by
    refine congrArg (at' · r) ((forEach_rails _ ?_ _).trans ((forEach_rails _ ?_ _).trans (congrArg LightSt.rails hpass)))
    · exact fun o u => rfl
    · intro e u
      split
      · rw [State.tally_light]
      · rfl
  generalize forEach (z.railSinks r) _ _ = s0 at h0 ⊢
  generalize hhead : (s.rail r).pendHead.getD (s.rail r).head = head
  generalize hs1 : (s0.modRail r (fun q => { q with head := head, pendHead := none, lastStep := q.lastStep + ms 1 })).tally 4
    (14 + r.val) 3 1 = s1
  have h1 : s1.rail r = { s.rail r with head := head, pendHead := none, lastStep := d } := by
    rw [← hs1]
    refine (congrArg (fun l : LightSt => at' l.rails r) (State.tally_light ..)).trans ?_
    exact (State.rail_modRail' ..).trans (by rw [h0, hd])
  cases hm : (own.map (·.2)).min? with
  | none =>
    refine ⟨by rw [h1, hhead], by rw [h1], fun _ => by rw [h1], fun m hm' => ?_⟩
    rw [hm] at hm'
    cases hm'
  | some m =>
    dsimp only
    generalize hv : (clampI ((s.rail r).vSet + (if m < 100 then min ((head : Int) - (m : Int)) 500
      else clampI ((head : Int) - (m : Int)) (-50) 200).tdiv 10) (s.rail r).vMin (s.rail r).vMax).toNat = v
    generalize hs2 : s1.modRail r _ = s2
    have h2 : RailStepped r s s2 own d := by
      have e : (s2.rail r).head = head ∧ (s2.rail r).lastStep = d ∧ (s2.rail r).hMin = m ∧ (s2.rail r).vSet = v := by
        rw [← hs2, State.rail_modRail', h1]
        exact ⟨rfl, rfl, rfl, rfl⟩
      refine ⟨e.1.trans hhead.symm, e.2.1, fun hnil => ?_, fun m' hm' => ?_⟩
      · rw [hnil] at hm
        cases hm
      · rw [hm] at hm'
        cases hm'
        rw [hhead]
        exact ⟨e.2.2.1, e.2.2.2.trans hv.symm⟩
    have h3 : RailStepped r s (if v = (s.rail r).vMax then s2.tally 4 (14 + r.val) 4 1 else s2) own d := by
      split
      · exact h2.of_light (State.tally_light ..)
      · exact h2
    have hpost : ∀ (b : Bool) (z : State) (p : List Word), RailStepped r s z own d → RailStepped r s
        (if b = true then z.post (s.rail r).owner 0x00A2 (0x6E + r.val) none p else z) own d := fun b z p hz => by
      split
      · exact hz.of_light (State.post_light ..)
      · exact hz
    exact hpost _ _ _ h3

/-- Segments that join change the takeover set alone. -/
theorem State.kmJoin_light (s : State) (rs : Reason) (c : Option Chap) (f : Seg → Bool) :
    (s.kmJoin rs c f).light.outs = s.light.outs ∧ (s.kmJoin rs c f).light.rails = s.light.rails := by
  have e : ∀ (z : State) (n : Nat) (p : List Word), ((z.gfix 54 n).kmPost 0x00A4 p).light = z.light := fun z n p =>
    (State.postTo_posts _ _ _ _ _ (State.gfix_posts 54 n (.refl z))).light_eq
  unfold State.kmJoin
  dsimp only
  split
  · exact ⟨rfl, rfl⟩
  · rw [e]
    exact ⟨rfl, rfl⟩

/-- A rail's fault stops it and every sink of it. -/
theorem railStop_stops (he : (s.rail r).en = true) (hs : (s.rail r).stopped = false) (cause : Nat) :
    ((s.railStop r cause).rail r).stopped = true ∧ ∀ o : OutId, isSink o = true → (s.out o).cfg.en = true →
      (s.out o).cfg.rail = r.val → ((s.railStop r cause).out o).stopped = true := by
  have hgo : (!(s.rail r).en || (s.rail r).stopped) = false := by rw [he, hs]; rfl
  unfold State.railStop
  rw [hgo, if_neg Bool.false_ne_true]
  dsimp only
  have hpost : ∀ (z : State) code src (p : List Word), (z.postAll code src none p).light = z.light := fun z code src p =>
    (z.postAll_refl ..).light_eq
  refine ⟨?_, fun o ho hen hr => ?_⟩
  · unfold State.rail
    rw [(State.kmJoin_light ..).2, hpost, forEach_rails (s.railSinks r) (f := fun o s => s.modOut o (fun q => { q with
      stopped := true })) (fun o u => rfl), State.rail_modRail]
  · unfold State.out
    rw [(State.kmJoin_light ..).1, hpost]
    have hmem : o ∈ s.railSinks r := by
      have hall : ∀ o : OutId, isSink o = true → o ∈ allOuts := by decide
      refine List.mem_filter.mpr ⟨hall o ho, ?_⟩
      rw [ho, hen, decide_eq_true hr]
      rfl
    have hnd : (s.railSinks r).Nodup := List.Pairwise.filter _ (by decide)
    exact forEach_at (P := fun _ : State => True) (Q := fun u : State => (u.out o).stopped = true) hmem hnd trivial
      (fun _ _ _ _ => trivial) (fun u _ => by rw [State.out_modOut])
      (fun p hp u hu => by rw [State.out_modOut_ne _ _ _ _ hp.symm]; exact hu)

end

/-! ### Lamp-board sensors (R322 to R325) -/

section
variable {s : State} {o : OutId}

theorem State.out_of_light {s u : State} (h : u.light = s.light) (o : OutId) : u.out o = s.out o :=
  congrArg (fun l : LightSt => at' l.outs o) h

/-- A report of a derating changes no output. -/
theorem State.derateTold_light (z : State) (b : Bool) (o : OutId) (n old new : Nat) :
    ((if b = true then z.deratePost o n else z).derateTurn o old new).light = z.light := by
  have h : (if b = true then z.deratePost o n else z).light = z.light := by
    split
    · exact State.post_light ..
    · rfl
  generalize (if b = true then z.deratePost o n else z) = w at h ⊢
  unfold State.derateTurn
  split
  · exact (State.post_light ..).trans h
  · split
    · exact (State.post_light ..).trans h
    · exact h

theorem State.sensorRead_other (s : State) {o p : OutId} (h : p ≠ o) (raw : Option (Byte × Byte)) :
    (s.sensorRead o raw).out p = s.out p := by
  unfold State.sensorRead
  dsimp only
  have hif : ∀ (c : Prop) [Decidable c] (z : State) n old new,
      (State.derateTurn (if c then z.deratePost o n else z) o old new).light = z.light := fun c _ z n old new => by
    have e := z.derateTold_light (decide c) o n old new
    simpa only [decide_eq_true_eq] using e
  split
  · rw [State.out_of_light (hif ..), State.out_modOut_ne _ _ _ _ h, State.out_modOut_ne _ _ _ _ h]
  · rw [State.out_of_light (hif ..), State.out_modOut_ne _ _ _ _ h, State.out_modOut_ne _ _ _ _ h]

/-- What a read of its sensor makes of a sink with no setting that waits. -/
theorem State.sensorRead_self (h : (s.out o).pendDerate = none) : (∀ v, ((s.sensorRead o (some v)).out o).t16 = asr (sensorVal v) 4 ∧
      ((s.sensorRead o (some v)).out o).missed = 0 ∧ ((s.sensorRead o (some v)).out o).f =
        derate (asr (sensorVal v) 4) (s.out o).knee (s.out o).slope (s.out o).floor) ∧
    ((s.sensorRead o none).out o).missed = (s.out o).missed + 1 ∧ ((s.sensorRead o none).out o).f =
      (if 2 ≤ (s.out o).missed then (s.out o).floor else (s.out o).f) := by
  have hif : ∀ (c : Prop) [Decidable c] (z : State) n old new,
      (State.derateTurn (if c then z.deratePost o n else z) o old new).light = z.light := fun c _ z n old new => by
    have e := z.derateTold_light (decide c) o n old new
    simpa only [decide_eq_true_eq] using e
  simp only [State.sensorRead, h, Option.getD_none]
  refine ⟨fun v => ?_, ?_⟩
  · rw [State.out_of_light (hif ..), State.out_modOut, State.out_modOut]
    exact ⟨rfl, rfl, rfl⟩
  · rw [State.out_of_light (hif ..), State.out_modOut, State.out_modOut]
    refine ⟨rfl, ?_⟩
    have e : (3 ≤ (s.out o).missed + 1) = (2 ≤ (s.out o).missed) := propext ⟨fun h => by omega, fun h => by omega⟩
    simp only [e]

/-- One sink's turn in a read of the sensors. -/
def State.sensorTurn (s : State) (x : List (Nat × Option (Byte × Byte))) (o : OutId) : State :=
  if !(s.out o).cfg.en then s
  else if (s.out o).cfg.sensor = 0 then
    (match (s.out o).pendDerate with
     | some (k, sl, fl) => s.modOut o (fun q => { q with knee := k, slope := sl, floor := fl, pendDerate := none })
     | none => s)
  else s.sensorRead o ((x.lookup (s.out o).cfg.sensor).join)

theorem State.out_sensorAt (s : State) (d : Time) (o : OutId) :
    ({ s with light := { s.light with sensorAt := d } } : State).out o = s.out o := rfl

theorem State.lampSensors_turns (x : List (Nat × Option (Byte × Byte))) (hl : s.live = true) : ∃ z : State,
    (∀ o, z.out o = s.out o) ∧ s.lampSensors x = forEach (allOuts.filter isSink) (fun o s => s.sensorTurn x o) z := by
  have hlive : (!s.live) = false := by rw [hl]; rfl
  have hpass := s.passTo_light (s.light.sensorAt + ms 250)
  rw [State.lampSensors, hlive, if_neg Bool.false_ne_true]
  generalize s.passTo (s.light.sensorAt + ms 250) = p at hpass ⊢
  dsimp only
  generalize hz : ({ p with light := _ } : State) = z
  refine ⟨z, fun o => ?_, rfl⟩
  rw [← hz]
  exact (p.out_sensorAt _ o).trans (State.out_of_light hpass o)

theorem State.sensorTurn_other (s : State) (x : List (Nat × Option (Byte × Byte))) {o p : OutId} (h : o ≠ p) :
    (s.sensorTurn x p).out o = s.out o := by
  unfold State.sensorTurn
  split
  · rfl
  split
  · split
    · exact State.out_modOut_ne _ _ _ _ h
    · rfl
  · exact s.sensorRead_other h _

theorem State.sensorTurn_self (x : List (Nat × Option (Byte × Byte))) (he : (s.out o).cfg.en = true)
    (hn : (s.out o).cfg.sensor ≠ 0) : s.sensorTurn x o = s.sensorRead o ((x.lookup (s.out o).cfg.sensor).join) := by
  have hen : (!(s.out o).cfg.en) = false := by rw [he]; rfl
  rw [State.sensorTurn, hen, if_neg Bool.false_ne_true, if_neg hn]

theorem lampSensorRead_reads (x : List (Nat × Option (Byte × Byte))) (hl : s.live = true) (hs : isSink o = true)
    (he : (s.out o).cfg.en = true) (hn : (s.out o).cfg.sensor ≠ 0) : ∃ u z : State, exec (.lampSensorRead x) s = .next u ∧
      z.out o = s.out o ∧ u.out o = (z.sensorRead o ((x.lookup (s.out o).cfg.sensor).join)).out o := by
  have hmem : o ∈ allOuts.filter isSink := by
    have hall : ∀ o : OutId, isSink o = true → o ∈ allOuts := by decide
    exact List.mem_filter.mpr ⟨hall o hs, hs⟩
  obtain ⟨z0, h0, hturns⟩ := State.lampSensors_turns x hl
  obtain ⟨z, hz, hu⟩ := forEach_at (P := fun u : State => u.out o = s.out o) (f := fun o s => State.sensorTurn s x o)
    (Q := fun u : State => ∃ z : State, z.out o = s.out o ∧
      u.out o = (z.sensorRead o ((x.lookup (s.out o).cfg.sensor).join)).out o) hmem
    (List.Pairwise.filter _ (by decide)) (h0 o) (fun p hp u hu => (u.sensorTurn_other x hp.symm).trans hu)
    (fun u hu => ⟨u, hu, by rw [State.sensorTurn_self x (by rw [hu]; exact he) (by rw [hu]; exact hn), hu]⟩)
    (fun p hp u ⟨z, hz, hu⟩ => ⟨z, hz, (u.sensorTurn_other x hp.symm).trans hu⟩)
  exact ⟨_, z, congrArg Host.Outcome.next hturns, hz, hu⟩

end

/-! ### Matrix rows (R327 to R329, R333) -/

section
variable {s : State}

/-- A column of a row slot changes the open segments alone. -/
structure ColumnsRead (s u : State) : Prop where
  light : u.light = { s.light with matrix := { s.light.matrix with open' := u.light.matrix.open' } }
  ovl : u.ovl = s.ovl

theorem ColumnsRead.lit {s u : State} (h : ColumnsRead s u) (g : Seg) : u.kmLit g = s.kmLit g := by
  unfold State.kmLit
  rw [h.light, h.ovl]
  rfl

theorem ColumnsRead.of_posts {s t u : State} (h : ColumnsRead s t) (k : Posts t u) : ColumnsRead s u :=
  ⟨by rw [k.light_eq]; exact h.light, k.ovl_eq.trans h.ovl⟩

/-- Another column leaves an open segment open, and this one opens a segment in dropout. -/
theorem State.kmColumn_reads {z : State} (h : ColumnsRead s z) (row : Fin 8) (col : Fin 12) (d : Nat) :
    ColumnsRead s (z.kmColumn row col d) ∧
      (∀ g, g ≠ segAt row col → at' (z.kmColumn row col d).light.matrix.open' g = at' z.light.matrix.open' g) ∧
      (s.kmLit (segAt row col) = true → 2000 < d → at' (z.kmColumn row col d).light.matrix.open' (segAt row col) = true) := by
  have hset : ∀ b : Bool, ColumnsRead s (z.modMatrix (fun m => { m with open' := upd m.open' (segAt row col) (fun _ => b) })) ∧
      (∀ g, g ≠ segAt row col → at' (z.modMatrix (fun m => { m with
        open' := upd m.open' (segAt row col) (fun _ => b) })).light.matrix.open' g = at' z.light.matrix.open' g) := fun b => by
    refine ⟨⟨?_, h.ovl⟩, fun g hg => at_upd_ne _ _ _ _ hg⟩
    unfold State.modMatrix
    dsimp only
    rw [h.light]
  have hpost : ∀ (w : State) (p : List Word), Posts w (((w.gfix 53 1).tally 4 6 6 1).kmPost 0x00A6 p) := fun w p =>
    State.postTo_posts _ _ _ _ _ (State.tally_posts _ _ _ _ (State.gfix_posts _ _ (.refl w)))
  unfold State.kmColumn
  dsimp only
  split
  next hunlit =>
    refine ⟨h, fun _ _ => rfl, fun hg _ => ?_⟩
    rw [h.lit, hg] at hunlit
    exact absurd hunlit (by decide)
  · split
    · split
      next hopen => exact ⟨h, fun _ _ => rfl, fun _ _ => hopen⟩
      · obtain ⟨hr, hne⟩ := hset true
        have k := hpost (z.modMatrix (fun m => { m with open' := upd m.open' (segAt row col) (fun _ => true) }))
          [w32 (segAt row col).val, w32 row.val, w32 col.val]
        refine ⟨hr.of_posts k, fun g hg => ?_, fun _ _ => ?_⟩
        · rw [k.light_eq]
          exact hne g hg
        · rw [k.light_eq]
          exact at_upd _ _ _
    · split
      next h2 h0 => exact ⟨(hset false).1, (hset false).2, fun _ hd => absurd hd h2⟩
      next h2 h0 => exact ⟨h, fun _ _ => rfl, fun _ hd => absurd hd h2⟩

theorem segAt_ne {row : Fin 8} {a b : Fin 12} (h : a ≠ b) : segAt row a ≠ segAt row b := by
  revert row a b
  decide

/-- The columns of a row, one after another. -/
theorem forEach_columns (s : State) (row : Fin 8) (x : List (Fin 12 × Nat)) :
    ColumnsRead s (forEach (allFin 12) (fun col s => s.kmColumn row col ((x.lookup col).getD 0)) s) ∧
      ∀ col d, x.lookup col = some d → 2000 < d → s.kmLit (segAt row col) = true →
        at' (forEach (allFin 12) (fun col s => s.kmColumn row col ((x.lookup col).getD 0)) s).light.matrix.open'
          (segAt row col) = true := by
  have hall := forEach_holds (P := fun u : State => ColumnsRead s u) (allFin 12)
    (f := fun col s => s.kmColumn row col ((x.lookup col).getD 0)) ⟨rfl, rfl⟩
    fun col _ u hu => (State.kmColumn_reads hu row col _).1
  refine ⟨hall, fun col d hd hlt hlit => ?_⟩
  refine (forEach_at (P := fun u : State => ColumnsRead s u) (Q := fun u : State => ColumnsRead s u ∧
    at' u.light.matrix.open' (segAt row col) = true) (mem_allFin col) (nodup_allFin 12) ⟨rfl, rfl⟩
    (fun c _ u hu => (State.kmColumn_reads hu row c _).1) (fun u hu => ?_) (fun c hc u hu => ?_)).2
  · obtain ⟨h1, -, h3⟩ := State.kmColumn_reads hu row col ((x.lookup col).getD 0)
    rw [hd] at h1 h3 ⊢
    exact ⟨h1, h3 hlit hlt⟩
  · obtain ⟨h1, h2, -⟩ := State.kmColumn_reads hu.1 row c ((x.lookup c).getD 0)
    exact ⟨h1, (h2 _ (segAt_ne hc.symm)).trans hu.2⟩

theorem rowSlot_runs (x : List (Fin 12 × Nat)) (hl : s.live = true) (hon : s.light.matrix.on = true) :
    (s.rowSlot x).light.matrix.row = s.light.matrix.row + 1 ∧
      (s.rowSlot x).light.matrix.slotFrom = s.light.matrix.slotFrom + us 250 ∧
      (∀ g : Seg, at' (s.rowSlot x).light.matrix.lit g = if g.val / 12 = s.light.matrix.row.val then s.kmLit g
        else at' s.light.matrix.lit g) ∧
      (∀ (col : Fin 12) (d : Nat), x.lookup col = some d → 2000 < d → s.kmLit (segAt s.light.matrix.row col) = true →
        at' (s.rowSlot x).light.matrix.open' (segAt s.light.matrix.row col) = true) := by
  have hgo : (!(s.live && s.light.matrix.on)) = false := by rw [hl, hon]; rfl
  unfold State.rowSlot
  dsimp only
  rw [hgo, if_neg Bool.false_ne_true]
  have hp : (s.passTo s.light.matrix.slotFrom).light = s.light ∧ (s.passTo s.light.matrix.slotFrom).kmLit = s.kmLit := by
    rw [State.passTo_eq]
    exact ⟨rfl, rfl⟩
  generalize s.passTo s.light.matrix.slotFrom = z at hp ⊢
  obtain ⟨hzl, hzk⟩ := hp
  obtain ⟨h1, hopen⟩ := forEach_columns z s.light.matrix.row x
  generalize forEach (allFin 12) (fun col w => w.kmColumn s.light.matrix.row col ((x.lookup col).getD 0)) z = s1 at h1 hopen ⊢
  have h2 : (if (allFin 12).any (fun col => z.kmLit (segAt s.light.matrix.row col)) = true then s1.tally 4 6 7 1
      else s1).light = s1.light := by
    split
    · exact State.tally_light ..
    · rfl
  generalize (if (allFin 12).any (fun col => z.kmLit (segAt s.light.matrix.row col)) = true then s1.tally 4 6 7 1
      else s1) = s2 at h2 ⊢
  have hslot : s2.light.matrix.slotFrom = s.light.matrix.slotFrom := by rw [h2, h1.light, hzl]
  generalize hs3 : s2.modMatrix _ = s3
  have h3 : ∀ b : Bool, (if b = true then (s3.gfix 52 1).tally 4 6 5 1 else s3).light = s3.light := fun b => by
    split
    · exact (State.tally_posts _ _ _ _ (State.gfix_posts _ _ (.refl s3))).light_eq
    · rfl
  have h3' : (if s.light.matrix.row.val = 7 then (s3.gfix 52 1).tally 4 6 5 1 else s3).light = s3.light := by
    simpa only [decide_eq_true_eq] using h3 (decide (s.light.matrix.row.val = 7))
  rw [h3', ← hs3]
  refine ⟨rfl, (congrArg (fun n => n + us 250) hslot :), fun g => ?_, fun col d hd hlt hlit => ?_⟩
  · refine (at_mapTabIdx _ _ g).trans ?_
    rw [fin?_val g rfl, hzk, h2, h1.light, hzl]
    rfl
  · have e := hopen col d hd hlt (by rw [hzk]; exact hlit)
    rw [← h2] at e
    exact e

end

/-- Settles O55, event by event. -/
theorem lightEvents : Obligations.LightEvents := by
  unfold Obligations.LightEvents
  intro s hl
  refine ⟨fun o hs he hp hpe hd hloop => dimPeriodReload_runs hl hs he hp hpe hd hloop, fun r h he hs => ?_,
    fun r volt he hs => ⟨_, congrArg Host.Outcome.next (if_pos hl), railStop_stops he hs _⟩,
    fun o x hs he hn hpend => ?_, fun x hon => ⟨_, rfl, rowSlot_runs x hl hon⟩⟩
  · have k := railStep_steps h hl he hs
    refine ⟨_, rfl, k.head, k.last, k.none, fun m hm => ⟨(k.some m hm).1, (k.some m hm).2, fun hle => ?_⟩⟩
    rw [(k.some m hm).2]
    have hb := fun x => clampI_between x (s.rail r).vMin (s.rail r).vMax (Int.ofNat_le.mpr hle)
    generalize hv : clampI _ _ _ = v
    have hv2 : ((s.rail r).vMin : Int) ≤ v ∧ v ≤ (s.rail r).vMax := hv ▸ hb _
    omega
  · obtain ⟨u, z, hu, hz, hout⟩ := lampSensorRead_reads x hl hs he hn
    obtain ⟨hgood, hmiss, hf⟩ := State.sensorRead_self (s := z) (o := o) (by rw [hz]; exact hpend)
    refine ⟨u, hu, fun v hv => ?_, fun hv => ?_⟩
    · rw [hout, hv]
      have k := hgood v
      rw [hz] at k
      exact k
    · rw [hout, hv]
      rw [hz] at hmiss hf
      exact ⟨hmiss, hf⟩

end Sys2Proof.Machine

/-!
PROOFS. Scan-out's own events (08_scanout R256, R258, R261, R268, R270, R275; 09_engine_ports R285): O54.
-/

namespace Sys2Proof.Machine

/-! ### What leaves the Chapels and the time -/

/-- The Chapels and the time stand. -/
def ChapsAndTime (s u : State) : Prop := u.chaps = s.chaps ∧ u.now = s.now

theorem forEach_chapsAndTime {α : Type} (xs : List α) {f : α → State → State} (hf : ∀ x s, ChapsAndTime s (f x s)) (s : State) :
    ChapsAndTime s (forEach xs f s) :=
  forEach_holds (P := ChapsAndTime s) xs ⟨rfl, rfl⟩ fun x _ u h => ⟨(hf x u).1.trans h.1, (hf x u).2.trans h.2⟩

theorem State.pulseSample_stands (s : State) (c : Chap) (p : ChapRec) (n : Nat) (ends : Time) (y : BitVec 14) :
    ChapsAndTime s (s.pulseSample c p n ends y) := by
  have hmod : ∀ (z : State) (o : OutId) (f : OutSt → OutSt), ChapsAndTime s z → ChapsAndTime s (z.modOut o f) :=
    fun _ _ _ h => h
  unfold State.pulseSample
  dsimp only
  split
  · refine hmod _ _ _ (forEach_chapsAndTime _ (fun i u => ?_) s)
    split <;> exact ⟨rfl, rfl⟩
  · refine forEach_chapsAndTime _ (fun i u => ?_) s
    split <;> exact ⟨rfl, rfl⟩

theorem State.bgOpen_stands (s : State) (k : Pd) (w : BgWin) : ChapsAndTime s (s.bgOpen k w) := by
  have h : ∀ gone, ChapsAndTime s (s.bgExpire k gone) := fun gone => by
    have hcount : ∀ (z : State) (m : Nat), ChapsAndTime s z → ChapsAndTime s (if m = 0 then z else z.tally 6 k.val 2 m) :=
      fun z m hz => by
        split
        · exact hz
        · exact ⟨(z.tally_stands ..).chaps.trans hz.1, (z.tally_refl ..).now_eq.trans hz.2⟩
    exact hcount _ _ ⟨rfl, rfl⟩
  exact h _

theorem State.bgSlot_stands (s : State) (c : Chap) : ChapsAndTime s (s.bgSlot c) := by
  unfold State.bgSlot
  split
  · split
    · exact ⟨rfl, rfl⟩
    · exact forEach_chapsAndTime _ (fun k u => u.bgOpen_stands k _) s
  · exact ⟨rfl, rfl⟩

theorem State.bgLine_stands (s : State) (c : Chap) : ChapsAndTime s (s.bgLine c) := by
  unfold State.bgLine
  split
  · split
    · exact ⟨rfl, rfl⟩
    · dsimp only
      split
      · exact forEach_chapsAndTime _ (fun k u => u.bgOpen_stands k _) s
      · exact ⟨rfl, rfl⟩
  · exact ⟨rfl, rfl⟩

/-- The windows that open behind a new slot or line leave the Chapels and the time. -/
theorem State.thenOpen_stands {s1 : State} {k : State → State} (hk : ChapsAndTime s1 (k s1)) (s : State) (c : Chap) :
    ChapsAndTime s1 (s.thenOpen s1 c k) := by
  unfold State.thenOpen
  split
  · exact ⟨rfl, rfl⟩
  · exact hk

/-! ### Pixels counted under the underrun rules -/

section
variable {s : State} {c : Chap}

/-- A frame of a Chapel takes the pixels replaced. -/
theorem underrun_chap (f : ChapSt → ChapSt) (n : Nat) : (((s.modChap c f).underrun c n).chap c) =
    { f (s.chap c) with underPix := min 0xFFFFFFFF ((f (s.chap c)).underPix + n) } ∧ ((s.modChap c f).underrun c n).now = s.now := by
  unfold State.underrun
  rw [(State.tally_stands ..).chap c, State.chap_modChap, State.chap_modChap, (State.tally_refl ..).now_eq]
  exact ⟨rfl, rfl⟩

theorem State.bandMissed_posts (s : State) (c : Chap) (p : ChapRec) (k : Nat) : Posts s (s.bandMissed c p k) := by
  unfold State.bandMissed
  dsimp only
  split
  · exact State.tally_posts _ _ _ _ (State.tally_refl ..)
  · exact State.tally_refl ..

/-- A band that is late at its read point `d`: the frame takes its replacement, and the pixels count. -/
theorem bandLate_at (d : Time) (f : ChapSt → ChapSt) (n : Nat) (p : ChapRec) (k : Nat) :
    ∃ u, u = ((((s.passTo d).modChap c f).underrun c n).bandMissed c p k) ∧
      u.chap c = { f (s.chap c) with underPix := min 0xFFFFFFFF ((f (s.chap c)).underPix + n) } ∧ d ≤ u.now := by
  have hle := s.le_passTo d
  have hchap : (s.passTo d).chap c = s.chap c := by rw [State.passTo_eq]; rfl
  generalize s.passTo d = z at hle hchap ⊢
  obtain ⟨hc, hn⟩ := underrun_chap (s := z) (c := c) f n
  have hp := State.bandMissed_posts ((z.modChap c f).underrun c n) c p k
  refine ⟨_, rfl, ?_, ?_⟩
  · rw [(ChapsStand.of_posts hp).chap c, hc, hchap]
  · rw [hp.now_eq, hn]
    exact hle

section
variable {p : ChapRec} (hrun : (s.chap c).state = .run) (hrec : (s.chap c).rec' = some p)
include hrun hrec

/-! ### Read points (R256, R268) -/

theorem bandRead_done (k lead : Nat) : s.bandRead c k true lead = s := by
  simp only [State.bandRead, hrun, hrec, Bool.true_or, if_true]

theorem bandRead_asleep {k : Nat} (hk : k < bandCount p.h) (hself : s.memc.selfRef = true) (lead : Nat) :
    s.bandRead c k false lead = s.lpRequest := by
  simp only [State.bandRead, hrun, hrec, Bool.false_or, Nat.not_le.mpr hk, decide_false, Bool.false_eq_true, if_false, hself, if_true]

theorem bandRead_coming {k lead : Nat} (hk : k < bandCount p.h) {f : FrameSt} {a : Time} (hc : p.scan = false ∨ k = 0)
    (hcom : (s.chap c).coming = some f) (ha : s.bell.ann = some a) (hfol : s.chain.following = false)
    (hself : s.memc.selfRef = false) : ∃ u, s.bandRead c k false lead = u ∧
      (u.chap c).coming = some ((if k = 0 then f.foresee p lead else f).bandLate p k).1 ∧
      (u.chap c).underPix = min 0xFFFFFFFF ((s.chap c).underPix + ((if k = 0 then f.foresee p lead else f).bandLate p k).2) ∧
      a + us 1276 + (if k = 0 then f.foresee p lead else f).lead ≤ u.now := by
  have hcond : (!p.scan || decide (k = 0)) = true := by
    rcases hc with h | h
    · rw [h]; rfl
    · rw [decide_eq_true h, Bool.or_true]
  have hfire : s.fireDue = some (a + us 1500) := by simp [State.fireDue, ha, hfol]
  generalize hg : (if k = 0 then f.foresee p lead else f) = g
  obtain ⟨u, hu, hchap, hle⟩ := bandLate_at (s := s) (c := c) (a + us 1500 - us 224 + g.lead)
    (fun q => { q with coming := some (g.bandLate p k).1 }) (g.bandLate p k).2 p k
  refine ⟨u, ?_, by rw [hchap], by rw [hchap], ?_⟩
  · simp only [State.bandRead, hrun, hrec, Bool.false_or, Nat.not_le.mpr hk, decide_false, Bool.false_eq_true, if_false, hself,
      hcond, if_true, hcom, hfire, hg]
    exact hu.symm
  · have e : a + us 1276 = a + us 1500 - us 224 := by
      have h1 : us 1500 = us 1276 + us 224 := by decide
      rw [h1, ← Nat.add_assoc, Nat.add_sub_cancel]
    rw [e]
    exact hle

theorem bandRead_shown {k lead : Nat} (hk : k < bandCount p.h) {f : FrameSt} (hscan : p.scan = true) (hk0 : k ≠ 0)
    (hf : (s.chap c).frame = some f) (hnext : f.next ≠ 0) (hself : s.memc.selfRef = false) :
    ∃ u, s.bandRead c k false lead = u ∧ (u.chap c).frame = some (f.bandLate p k).1 ∧
      (u.chap c).underPix = min 0xFFFFFFFF ((s.chap c).underPix + (f.bandLate p k).2) ∧
      f.lineStart p (32 * k) - us 250 ≤ u.now := by
  obtain ⟨u, hu, hchap, hle⟩ := bandLate_at (s := s) (c := c) (f.readPoint p k)
    (fun q => { q with frame := some (f.bandLate p k).1 }) (f.bandLate p k).2 p k
  refine ⟨u, ?_, by rw [hchap], by rw [hchap], Nat.le_trans (Nat.le_max_right _ _) hle⟩
  simp only [State.bandRead, hrun, hrec, Bool.false_or, Nat.not_le.mpr hk, decide_false, Bool.false_eq_true, if_false, hself,
    hscan, Bool.not_true, hk0, hf, hnext]
  exact hu.symm

/-! ### Late fetches (R270) -/

theorem fetchLate_runs {f : FrameSt} {n : Nat} (hf : (s.chap c).frame = some f) (hst : f.stored = true) (hn : n = f.nextSlot)
    (hlt : n < p.count) (hcom : (s.chap c).coming = none ∨ n ≠ 0) (hself : s.memc.selfRef = false) (hlp : s.lpUsable = true) :
    ((s.fetchLate c n).chap c).frame = some (f.fetchLate p n).1 ∧
      ((s.fetchLate c n).chap c).underPix = min 0xFFFFFFFF ((s.chap c).underPix + (f.fetchLate p n).2) := by
  have hgo : (decide (n = f.nextSlot) && decide (n < p.count) && f.stored) = true := by
    rw [decide_eq_true hn, decide_eq_true hlt, hst]
    rfl
  have heq : s.fetchLate c n = (s.modChap c (fun q => { q with frame := some (f.fetchLate p n).1 })).underrun c (f.fetchLate p n).2 := by
    cases hcm : (s.chap c).coming with
    | none =>
      simp only [State.fetchLate, hself, hlp, hrun, hrec, hcm, hf, hgo, Bool.not_true, Bool.or_self, Bool.false_eq_true, if_false,
        if_true]
    | some g =>
      have hn0 : n ≠ 0 := hcom.resolve_left (by rw [hcm]; exact Option.some_ne_none g)
      simp only [State.fetchLate, hself, hlp, hrun, hrec, hcm, hf, hgo, hn0, Bool.not_true, Bool.or_self, Bool.false_eq_true,
        if_false, if_true, decide_false, Bool.false_and]
  obtain ⟨hc, -⟩ := underrun_chap (s := s) (c := c) (fun q => { q with frame := some (f.fetchLate p n).1 }) (f.fetchLate p n).2
  rw [heq, hc]
  exact ⟨rfl, rfl⟩

/-! ### Slots and lines (R261, R285) -/

theorem arraySlot_runs {f : FrameSt} {a : Time} (y : BitVec 14) (hscan : p.scan = false) (hf : (s.chap c).frame = some f)
    (ha : f.slotStart p f.nextSlot = some a) (hn : f.nextSlot < p.count) : a ≤ (s.arraySlot c y).now ∧
      ((s.arraySlot c y).chap c).frame = some { f with
        next := f.nextSlot + 1
        slotAt := a
        until' := a + p.pulse f.nextSlot } := by
  have hle := s.le_passTo a
  simp only [State.arraySlot, hrun, hf, hrec, hscan, ha, Nat.not_le.mpr hn, Bool.false_eq_true, if_false]
  generalize s.passTo a = z at hle ⊢
  generalize hz1 : z.modChap c _ = z1
  obtain ⟨hch, hnow⟩ := State.pulseSample_stands z1 c p f.nextSlot (a + p.pulse f.nextSlot) y
  have hp : Posts (z1.pulseSample c p f.nextSlot (a + p.pulse f.nextSlot) y)
      ((z1.pulseSample c p f.nextSlot (a + p.pulse f.nextSlot) y).lineMatch c f.nextSlot 0 (a - f.tB)) := State.postTo_refl ..
  rw [hp.now_eq, hnow, (ChapsStand.of_posts hp).chap c]
  have hc : (z1.pulseSample c p f.nextSlot (a + p.pulse f.nextSlot) y).chap c = z1.chap c := congrArg (at' · c) hch
  rw [hc, ← hz1, State.chap_modChap]
  exact ⟨hle, rfl⟩

theorem scanLine_runs {f : FrameSt} (left : Bool) (hscan : p.scan = true) (hf : (s.chap c).frame = some f) (hn : f.next < p.h) :
    ∃ g, ((s.scanLine c left).chap c).frame = some g ∧ g.next = f.next + 1 ∧
      (f.next = 0 → f.tB + us 26 ≤ (s.scanLine c left).now ∧ g.tl0 = (s.scanLine c left).now ∧ g.leftFirst = left) ∧
      (f.next ≠ 0 → f.lineStart p f.next ≤ (s.scanLine c left).now ∧ g.tl0 = f.tl0) := by
  have hrow : ∀ (z : State) (g : FrameSt) (n dir : Nat) (t : Time),
      ((z.modChap c (fun q => { q with frame := some g })).lineMatch c n dir t).now = z.now ∧
      (((z.modChap c (fun q => { q with frame := some g })).lineMatch c n dir t).chap c).frame = some g := fun z g n dir t => by
    have hp : Posts (z.modChap c (fun q => { q with frame := some g }))
      ((z.modChap c (fun q => { q with frame := some g })).lineMatch c n dir t) := State.postTo_refl ..
    rw [hp.now_eq, (ChapsStand.of_posts hp).chap c, State.chap_modChap]
    exact ⟨rfl, rfl⟩
  have hle := s.le_passTo (if f.next = 0 then f.tB + us 26 + f.lead else f.lineStart p f.next)
  simp only [State.scanLine, hrun, hf, hrec, hscan, Nat.not_le.mpr hn, Bool.not_true, Bool.false_eq_true, if_false]
  generalize s.passTo _ = z at hle ⊢
  rw [(hrow ..).1, (hrow ..).2]
  refine ⟨_, rfl, rfl, fun h0 => ?_, fun h0 => ?_⟩
  · rw [if_pos h0] at hle ⊢
    exact ⟨Nat.le_trans (Nat.le_add_right _ _) hle, rfl, rfl⟩
  · rw [if_neg h0] at hle ⊢
    exact ⟨hle, rfl⟩

end

/-! ### Frame done (R275) -/

/-- The frame before is done, by its Bell, at an instant. -/
structure FrameOver (c : Chap) (b : Nat) (n : Time) (s : State) : Prop where
  prev : (s.chap c).prev = none
  bell : (s.chap c).doneBell = b
  now : s.now = n

namespace FrameOver
variable {b : Nat} {n : Time} {u : State}

theorem of_posts (h : FrameOver c b n s) (k : Posts s u) : FrameOver c b n u := by
  have e := (ChapsStand.of_posts k).chap c
  exact ⟨e ▸ h.prev, e ▸ h.bell, k.now_eq.trans h.now⟩

theorem modRect (h : FrameOver c b n s) (r : Fin 16) (f : RectSt → RectSt) : FrameOver c b n (s.modRect c r f) := by
  have e : (s.modRect c r f).chap c = { s.chap c with rects := upd (s.chap c).rects r f } := s.chap_modChap c _
  exact ⟨by rw [e]; exact h.prev, by rw [e]; exact h.bell, h.now⟩

theorem kmLeave (h : FrameOver c b n s) (r : Reason) (f : Seg → Bool) : FrameOver c b n (s.kmLeave r f) := by
  have e := (s.kmLeave_stands r f).chap c
  exact ⟨e ▸ h.prev, e ▸ h.bell, (State.kmLeave_drives r f (.refl s)).now_eq.trans h.now⟩

theorem kvPost (h : FrameOver c b n s) (vs : List (KMap × Nat)) (bell : Nat) : FrameOver c b n (s.kvPost c vs bell) := by
  have k : ChapsStand (s.modChap c (fun q => { q with kvP0 := kvWord vs 0 })) (s.kvPost c vs bell) :=
    .trans (.of_forEach _ (fun v u => (u.verdictNote_stands ..).trans (State.sample_stands ..)) _) (State.postTo_stands ..)
  have e := k.chap c
  rw [State.chap_modChap] at e
  exact ⟨by rw [e]; exact h.prev, by rw [e]; exact h.bell, (State.kvPost_drives c vs bell (.refl s)).now_eq.trans h.now⟩

theorem rectDone (h : FrameOver c b n s) (p : ChapRec) (f : FrameSt) (x : DoneIn) (y : Fin 16 × Ten × ChkCfg) :
    FrameOver c b n (s.rectDone c p f x y) := by
  obtain ⟨r, t, k⟩ := y
  unfold State.rectDone
  dsimp only
  split
  · exact h
  next e _ =>
    have hpost : ∀ (d : Bool) (z : State) (q : List Word), FrameOver c b n z → FrameOver c b n
        (if d = true then z.post t 0x0084 (0x30 + c.val) k.seq q else z) := fun d z q hz => by
      split
      · exact hz.of_posts (State.post_refl ..)
      · exact hz
    by_cases hbad : (!(s.rectCrc c p f k != e || f.refetchBad p k.x k.y k.w k.h (s.planeBit c p f) (x.again r))) = true
    · rw [if_pos hbad]
      exact h.modRect ..
    · rw [if_neg hbad]
      exact hpost _ _ _ ((h.modRect ..).of_posts (State.tally_refl ..))

end FrameOver

theorem State.storeUe_now (s : State) (c : Chap) (p : ChapRec) (f : FrameSt) : (s.storeUe c p f).now = s.now := by
  have h1 := fun n => (s.ueCount_posts 0 n).now_eq
  unfold State.storeUe
  dsimp only
  split
  · exact h1 _
  · split
    · exact h1 _
    · rw [(State.postAll_refl ..).now_eq]
      exact h1 _

theorem frameDone_idle (x : DoneIn) (h : (s.chap c).prev = none) : s.frameDone c x = s := by
  unfold State.frameDone
  dsimp only
  rw [h]

theorem frameDone_over {p : ChapRec} {f : FrameSt} (x : DoneIn) (hrec : (s.chap c).rec' = some p) (h : (s.chap c).prev = some f) :
    ∃ n, s.tB + us 26 ≤ n ∧ FrameOver c (f.bell % 2 ^ 32) n (s.frameDone c x) := by
  have hle := s.le_passTo (s.tB + us 26)
  unfold State.frameDone
  dsimp only
  rw [h, hrec]
  dsimp only
  generalize s.passTo (s.tB + us 26) = z at hle ⊢
  refine ⟨z.now, hle, ?_⟩
  generalize f.bell % 2 ^ 32 = b
  generalize z.keyBad z.past c p f x = bad
  generalize hq : (z.modChap c _).chap c = q
  have hqd : q.prev = none ∧ q.doneBell = b := by
    rw [← hq, State.chap_modChap]
    exact ⟨rfl, rfl⟩
  have h0 : FrameOver c b z.now ((z.storeUe c p f).modChap c (fun _ => q)) := by
    refine ⟨?_, ?_, z.storeUe_now c p f⟩
    · rw [State.chap_modChap]
      exact hqd.1
    · rw [State.chap_modChap]
      exact hqd.2
  have h1 := forEach_holds (P := FrameOver c b z.now) f.chks h0 (f := fun k s => s.rectDone c p f x k)
    fun k _ u hu => hu.rectDone p f x k
  generalize forEach f.chks _ _ = s1 at h1 ⊢
  have h3 := (((h1.of_posts (State.tally_refl s1 3 c.val 0 1)).of_posts (State.tally_refl _ 3 c.val 4 bad.eraseDups.length)).of_posts
    (State.tally_refl _ 3 c.val 1 (b2n (f.cause != 0)))).of_posts (State.tally_refl _ 3 c.val 5 (b2n f.short))
  generalize State.tally _ 3 c.val 5 _ = s3 at h3 ⊢
  have h4 := forEach_holds (P := FrameOver c b z.now) (allFin 4) h3 (f := fun t s =>
        if bit (at' (s.chap c).even t) 29 then
          s.post t 0x0082 (0x30 + c.val) (at' f.seqs t)
            [(at' f.seqs t).getD 0, f.flags p.abort, w32 f.pix, (s.chap c).rectFail t (s.isCls t .safety)]
        else s) fun t _ u hu => by
    split
    · exact hu.of_posts (State.post_refl ..)
    · exact hu
  generalize forEach (allFin 4) _ s3 = s4 at h4 ⊢
  have h5 : FrameOver c b z.now (if f.cause = 0 then s4 else
        forEach f.vis (fun t s => s.post t 0x0083 (0x30 + c.val) (at' f.seqs t)
          [(at' f.seqs t).getD 0, mkWord [(if f.cause = 1 then (f.subst.min?).getD 0xFF else 0xFF, 8, 8), (f.cause, 0, 2)],
           w32 (b2n p.abort), w32 f.pix]) s4) := by
    split
    · exact h4
    · exact forEach_holds _ h4 fun t _ u hu => hu.of_posts (State.post_refl ..)
  generalize (if f.cause = 0 then s4 else _) = s5 at h5 ⊢
  have h6 := h5.of_posts (State.traceMark_posts 3 c.val f.bell (.refl s5))
  generalize s5.traceMark 3 c.val f.bell = s6 at h6 ⊢
  have h7 : FrameOver c b z.now (if (s.chap c).state == .run then s6.kmShown c f.tB else s6) := by
    split
    · exact ((h6.kmLeave ..).kmLeave ..).kmLeave ..
    · exact h6
  generalize (if ((s.chap c).state == .run) = true then s6.kmShown c f.tB else s6) = s7 at h7 ⊢
  have h8 : FrameOver c b z.now (s7.kvFrame c f bad) := by
    unfold State.kvFrame
    dsimp only
    split
    · exact h7
    · exact h7.kvPost ..
  unfold State.lostPost
  split
  · exact h8
  · dsimp only
    split
    · exact h8
    · exact h8.kvPost ..

end

/-- Settles O54, event by event. -/
theorem scanOutEvents : Obligations.ScanOutEvents := by
  unfold Obligations.ScanOutEvents
  intro s c p hrun hrec
  dsimp only
  refine ⟨fun k lead hk => ⟨congrArg Host.Outcome.next (bandRead_done hrun hrec k.val lead),
      fun hself => congrArg Host.Outcome.next (bandRead_asleep hrun hrec hk hself lead),
      fun f a hc hcom ha hfol hself => ?_, fun f hscan hk0 hf hnext hself => ?_⟩,
    fun f n hf hst hn hlt hcom hself hlp => ⟨_, rfl, fetchLate_runs hrun hrec hf hst hn hlt hcom hself hlp⟩,
    fun f a y hscan hf ha hn => ?_,
    fun f left hscan hf hn => ?_, fun x h => congrArg Host.Outcome.next (frameDone_idle x h), fun f x h => ?_⟩
  · obtain ⟨u, hu, h⟩ := bandRead_coming hrun hrec hk (lead := lead) hc hcom ha hfol hself
    exact ⟨u, congrArg Host.Outcome.next hu, h⟩
  · obtain ⟨u, hu, h⟩ := bandRead_shown hrun hrec hk (lead := lead) hscan hk0 hf hnext hself
    exact ⟨u, congrArg Host.Outcome.next hu, h⟩
  · have h := arraySlot_runs hrun hrec y hscan hf ha hn
    obtain ⟨hch, hnow⟩ := State.thenOpen_stands ((s.arraySlot c y).bgSlot_stands c) s c (k := fun s => s.bgSlot c)
    have hc : (s.thenOpen (s.arraySlot c y) c (fun s => s.bgSlot c)).chap c = (s.arraySlot c y).chap c :=
      congrArg (at' · c) hch
    refine ⟨s.thenOpen (s.arraySlot c y) c (fun s => s.bgSlot c), rfl, ?_⟩
    rw [hnow, hc]
    exact h
  · obtain ⟨g, h⟩ := scanLine_runs hrun hrec left hscan hf hn
    obtain ⟨hch, hnow⟩ := State.thenOpen_stands ((s.scanLine c left).bgLine_stands c) s c (k := fun s => s.bgLine c)
    have hc : (s.thenOpen (s.scanLine c left) c (fun s => s.bgLine c)).chap c = (s.scanLine c left).chap c :=
      congrArg (at' · c) hch
    refine ⟨s.thenOpen (s.scanLine c left) c (fun s => s.bgLine c), g, rfl, ?_⟩
    rw [hnow, hc]
    exact h
  · obtain ⟨n, hn, h⟩ := frameDone_over x hrec h
    exact ⟨_, rfl, h.prev, h.bell, by rw [h.now]; exact hn⟩

end Sys2Proof.Machine

/-!
PROOFS. Events of the loops, the banks, the witness and the Keystone copies (05_quagal_reference R173, R175; 11_choir
R365, R369, R370, R374; 12_telltale_assurance R386, R393, R411; 13_power_wake R436): O56.
-/

namespace Sys2Proof.Machine

variable {s u : State}

theorem Posts.choir_eq (h : Posts s u) : u.choir = s.choir := (congrArg State.choir h.rest :)
theorem Posts.witness_eq (h : Posts s u) : u.witness = s.witness := (congrArg State.witness h.rest :)
theorem Posts.prime_eq (h : Posts s u) : u.prime = s.prime := (congrArg State.prime h.rest :)
theorem Posts.slot_eq (h : Posts s u) (i : Slot) : u.slot i = s.slot i := congrArg (at' · i) (congrArg (·.slots) h.choir_eq :)

theorem Posts.pdIn_eq (h : Posts s u) (k : Pd) : u.pdIn k = s.pdIn k := congrArg (at' · k) (congrArg (·.pds) h.witness_eq :)

theorem State.choirDrain_there {there : State → Bool} (h : there s = true) : s.choirDrain there = s := if_pos h

/-- A slot that meets a condition is among the slots. -/
theorem slots_any {p : LoopSt → Bool} (i : Slot) (h : p (s.slot i) = true) : s.choir.slots.toList.any p = true :=
  List.any_eq_true.mpr ⟨s.slot i, Vector.mem_toList_iff.mpr (Vector.getElem_mem _), h⟩

/-! ### Captures and holds (R361, R366) -/

theorem State.captureDone_slot_ne (s : State) {i j : Slot} (h : i ≠ j) : (s.captureDone j).slot i = s.slot i := by
  unfold State.captureDone
  split
  · rfl
  · split
    · rfl
    · rw [(State.post_refl ..).slot_eq, State.slot_modSlot_ne _ _ _ _ h]

theorem State.captureDone_full {i : Slot} {c : Capture} (h : (s.slot i).cap = some c) (hd : c.done = false)
    (hf : c.taken = c.samples) : ((s.captureDone i).slot i).cap = some { c with done := true } := by
  unfold State.captureDone
  simp only [h, hd, hf, bne_self_eq_false, Bool.or_self, Bool.false_eq_true, if_false]
  rw [(State.post_refl ..).slot_eq, State.slot_modSlot]

theorem captureDone_done {i : Slot} {c : Capture} (h : (s.slot i).cap = some c) (hd : c.done = false)
    (hf : c.taken = c.samples) :
    ∃ u, exec .captureDone s = .next u ∧ (u.slot i).cap = some { c with done := true } := by
  have hdrain : s.choirDrain (fun s : State => s.choir.slots.toList.any
      (fun q => q.cap.any (fun c => !c.done && c.taken = c.samples))) = s :=
    State.choirDrain_there (slots_any i (by simp [h, hd, hf]))
  refine ⟨forEach (allFin 16) (fun i s => State.captureDone s i) s, congrArg (fun z : State =>
    Host.Outcome.next (forEach (allFin 16) (fun i s => State.captureDone s i) z)) hdrain, ?_⟩
  exact forEach_at (P := fun u : State => (u.slot i).cap = some c)
    (Q := fun u : State => (u.slot i).cap = some { c with done := true }) (mem_allFin i) (nodup_allFin 16) h
    (fun j hj u hu => by rw [u.captureDone_slot_ne hj.symm]; exact hu)
    (fun u hu => State.captureDone_full hu hd hf)
    (fun j hj u hu => by rw [u.captureDone_slot_ne hj.symm]; exact hu)

theorem forEach_slots {α : Type} (xs : List α) {f : α → State → State} (hf : ∀ x s, (f x s).choir.slots = s.choir.slots)
    (s : State) : (forEach xs f s).choir.slots = s.choir.slots :=
  forEach_holds (P := fun z : State => z.choir.slots = s.choir.slots) xs rfl fun x _ u h => (hf x u).trans h

/-- The outputs that a held loop leaves are none of the slots. -/
theorem State.loopHeld_left (s : State) (i j : Slot) :
    (forEach ((s.slotOuts (s.slot i)).zip (s.slot i).chan.toList) (fun e s => s.loopLeaves e.1 e.2.u none) s).slot j =
      s.slot j :=
  congrArg (at' · j) (forEach_slots _ (f := fun (e : OutId × LoopChan) s => s.loopLeaves e.1 e.2.u none) (fun _ _ => rfl) s)

theorem State.loopHeld_slot_ne (s : State) {i j : Slot} (h : i ≠ j) : (s.loopHeld j).slot i = s.slot i := by
  unfold State.loopHeld
  dsimp only
  split
  · rfl
  · rw [(State.post_refl ..).slot_eq, State.slot_modSlot_ne _ _ _ _ h, s.loopHeld_left j i]

/-- An overrun slot's loop that runs is due to be held. -/
def LoopSt.due (q : LoopSt) : Bool := q.cfg.en && !q.cfg.kind.mirror && q.state == .run && 64 ≤ q.consec

theorem State.loopHeld_due {i : Slot} (h : (s.slot i).due = true) : ((s.loopHeld i).slot i).state = .hold := by
  unfold LoopSt.due at h
  unfold State.loopHeld
  dsimp only
  rw [h, if_neg (by decide), (State.post_refl ..).slot_eq, State.slot_modSlot]

theorem loopHeld_holds {i : Slot} (h : (s.slot i).due = true) :
    ∃ u, exec .loopHeld s = .next u ∧ (u.slot i).state = .hold := by
  have hdrain : s.choirDrain (fun s : State => s.choir.slots.toList.any LoopSt.due) = s :=
    State.choirDrain_there (slots_any i h)
  refine ⟨forEach (allFin 16) (fun i s => State.loopHeld s i) s, congrArg (fun z : State =>
    Host.Outcome.next (forEach (allFin 16) (fun i s => State.loopHeld s i) z)) hdrain, ?_⟩
  exact forEach_at (P := fun u : State => (u.slot i).due = true)
    (Q := fun u : State => (u.slot i).state = .hold) (mem_allFin i) (nodup_allFin 16) h
    (fun j hj u hu => by rw [u.loopHeld_slot_ne hj.symm]; exact hu)
    (fun u hu => State.loopHeld_due hu)
    (fun j hj u hu => by rw [u.loopHeld_slot_ne hj.symm]; exact hu)

/-! ### The banks (R369, R370) -/

/-- A request's completion writes no bank and starts no write. -/
theorem State.bankDone_stands (s : State) (b : Fin 2) (gen : Word) (ok : Bool) (r : BankReq) :
    (s.bankDone b gen ok r).moa = s.moa ∧ (s.bankDone b gen ok r).choir.writeFrom = s.choir.writeFrom ∧
      (s.bankDone b gen ok r).choir.writing = s.choir.writing := by
  have hpost : ∀ {z v : State}, Posts z v → z.moa = s.moa ∧ z.choir.writeFrom = s.choir.writeFrom ∧
      z.choir.writing = s.choir.writing → v.moa = s.moa ∧ v.choir.writeFrom = s.choir.writeFrom ∧
      v.choir.writing = s.choir.writing := fun h hz => by rwa [h.moa_eq, h.choir_eq]
  unfold State.bankDone
  split
  · dsimp only
    split
    all_goals exact hpost (State.post_refl ..) ⟨rfl, rfl, rfl⟩
  · exact ⟨rfl, rfl, rfl⟩
  · exact hpost (State.post_refl ..) ⟨rfl, rfl, rfl⟩

theorem forEach_bankDone (rs : List BankReq) (b : Fin 2) (gen : Word) (ok : Bool) (s : State) :
    let u := forEach rs (fun r s => s.bankDone b gen ok r) s
    u.moa = s.moa ∧ u.choir.writeFrom = s.choir.writeFrom ∧ u.choir.writing = s.choir.writing :=
  forEach_holds (P := fun u : State => u.moa = s.moa ∧ u.choir.writeFrom = s.choir.writeFrom ∧
    u.choir.writing = s.choir.writing) rs ⟨rfl, rfl, rfl⟩ fun r _ u ⟨hm, hf, hw⟩ =>
      have h := u.bankDone_stands b gen ok r
      ⟨h.1.trans hm, h.2.1.trans hf, h.2.2.trans hw⟩

/-- The entries and the image of the bank that a write in progress makes. -/
def State.writtenEnts (s : State) : List BankEnt := s.choir.writing.foldl (fun xs r => addEnt xs r.ent) s.bankEnts
def State.writtenImage (s : State) : List Byte := bankImage s.writtenEnts s.nextBank.2

theorem bankWritten_writes (ok : Bool) (h : s.choir.writeFrom ≠ none) :
    (s.bankWritten ok).choir.writeFrom = none ∧ (s.bankWritten ok).choir.writing = [] ∧
      (s.bankWritten ok).moa = if ok = true ∧ s.writtenEnts.length ≤ 64 ∧ s.writtenImage.length ≤ bankSize then
        Memory.writeN s.moa (bankAddr s.nextBank.1) s.writtenImage else s.moa := by
  obtain ⟨a, ha⟩ := Option.ne_none_iff_exists'.mp h
  have hw : s.bankWritten ok = forEach s.choir.writing (fun r z => z.bankDone s.nextBank.1 s.nextBank.2
      (ok && s.writtenEnts.length ≤ 64 && s.writtenImage.length ≤ bankSize) r)
      (if (ok && s.writtenEnts.length ≤ 64 && s.writtenImage.length ≤ bankSize) = true then
        (({ s with choir := { s.choir with writing := [], writeFrom := none } } : State).moaWrite (bankAddr s.nextBank.1)
          s.writtenImage).tally 7 3 8 (cdiv s.writtenImage.length 64)
      else { s with choir := { s.choir with writing := [], writeFrom := none } }) := by
    unfold State.bankWritten
    rw [ha]
    rfl
  obtain ⟨hm, hf, hwr⟩ := forEach_bankDone s.choir.writing s.nextBank.1 s.nextBank.2
    (ok && s.writtenEnts.length ≤ 64 && s.writtenImage.length ≤ bankSize)
    (if (ok && s.writtenEnts.length ≤ 64 && s.writtenImage.length ≤ bankSize) = true then
        (({ s with choir := { s.choir with writing := [], writeFrom := none } } : State).moaWrite (bankAddr s.nextBank.1)
          s.writtenImage).tally 7 3 8 (cdiv s.writtenImage.length 64)
      else { s with choir := { s.choir with writing := [], writeFrom := none } })
  rw [hw, hm, hf, hwr]
  by_cases hok : ok = true ∧ s.writtenEnts.length ≤ 64 ∧ s.writtenImage.length ≤ bankSize
  · have hb : (ok && s.writtenEnts.length ≤ 64 && s.writtenImage.length ≤ bankSize) = true := by
      simpa [and_assoc] using hok
    rw [if_pos hb, if_pos hok, (State.tally_refl ..).choir_eq, (State.tally_refl ..).moa_eq, State.moaWrite_moa]
    exact ⟨rfl, rfl, rfl⟩
  · have hb : ¬ (ok && s.writtenEnts.length ≤ 64 && s.writtenImage.length ≤ bankSize) = true := by
      simpa [and_assoc] using hok
    rw [if_neg hb, if_neg hok]
    exact ⟨rfl, rfl, rfl⟩

/-! ### The witness (R386, R391, R411) -/

/-- The discarding of windows leaves the time and the dark samples. -/
theorem State.bgExpire_stands (s : State) (k : Pd) (gone : BgWin → Bool) (j : Pd) :
    (s.bgExpire k gone).now = s.now ∧ ((s.bgExpire k gone).pdIn j).darkAcc = (s.pdIn j).darkAcc := by
  have hcount : ∀ (z : State) (m : Nat), z.now = s.now ∧ (z.pdIn j).darkAcc = (s.pdIn j).darkAcc →
      (if m = 0 then z else z.tally 6 k.val 2 m).now = s.now ∧
        ((if m = 0 then z else z.tally 6 k.val 2 m).pdIn j).darkAcc = (s.pdIn j).darkAcc := fun z m hz => by
    split
    · exact hz
    · have h := z.tally_refl 6 k.val 2 m
      exact ⟨h.now_eq.trans hz.1, (congrArg PdSt.darkAcc (h.pdIn_eq j)).trans hz.2⟩
  refine hcount _ _ ⟨rfl, ?_⟩
  by_cases h : j = k
  · rw [h, State.pdIn_modPd]
  · exact congrArg PdSt.darkAcc (at_upd_ne _ _ _ _ h)

theorem forEach_bgExpire (s : State) (j : Pd) :
    (forEach (allFin 8) (fun k z => z.bgExpire k (BgWin.over z.now)) s).now = s.now ∧
      ((forEach (allFin 8) (fun k z => z.bgExpire k (BgWin.over z.now)) s).pdIn j).darkAcc = (s.pdIn j).darkAcc :=
  forEach_holds (P := fun u : State => u.now = s.now ∧ (u.pdIn j).darkAcc = (s.pdIn j).darkAcc) _ ⟨rfl, rfl⟩
    fun k _ u ⟨hn, hd⟩ => ⟨(u.bgExpire_stands k _ j).1.trans hn, (u.bgExpire_stands k _ j).2.trans hd⟩

/-- What a converted window leaves of its input and of the witness. -/
structure Converted (k : Pd) (s u : State) : Prop where
  now : u.now = s.now
  slotAt : u.witness.slotAt = s.witness.slotAt
  bgs : (u.pdIn k).bgs = (s.pdIn k).bgs
  converted : (u.pdIn k).converted = (s.pdIn k).converted

namespace Converted

variable {k : Pd} {t : State}

theorem refl (k : Pd) (s : State) : Converted k s s := ⟨rfl, rfl, rfl, rfl⟩
theorem trans (h : Converted k s t) (g : Converted k t u) : Converted k s u :=
  ⟨g.now.trans h.now, g.slotAt.trans h.slotAt, g.bgs.trans h.bgs, g.converted.trans h.converted⟩
theorem of_witness (hn : u.now = s.now) (hw : u.witness = s.witness) : Converted k s u :=
  ⟨hn, congrArg WitnessSt.slotAt hw, congrArg (fun w : WitnessSt => (at' w.pds k).bgs) hw,
    congrArg (fun w : WitnessSt => (at' w.pds k).converted) hw⟩
theorem of_posts (h : Posts s u) : Converted k s u := of_witness h.now_eq h.witness_eq

end Converted

theorem State.feedY_converted (s : State) (k j : Pd) (kind : LoopKind) (c : Fin 3) (y : Nat) :
    Converted j s (s.feedY k kind c y) :=
  forEach_holds (P := Converted j s) _ (.refl j s) fun _ _ _ h => h.trans (.of_witness rfl rfl)

theorem State.bgConvert_converted (s : State) (k : Pd) (w : BgWin) (v : Nat) : Converted k s (s.bgConvert k w v) := by
  have hsum : ∀ f : PdSt → PdSt, (∀ q, (f q).bgs = q.bgs ∧ (f q).converted = q.converted) →
      Converted k s (s.modPd k f) :=
    fun f hf => ⟨rfl, rfl, by rw [State.pdIn_modPd, (hf _).1], by rw [State.pdIn_modPd, (hf _).2]⟩
  have hfed : ∀ (b : Bool) (z : State) (kind : LoopKind) (c : Fin 3) (y : Nat), Converted k s z →
      Converted k s (if b = true then z.feedY k kind c y else z) := fun b z kind c y h => by
    cases b
    · exact h
    · exact h.trans (z.feedY_converted k k kind c y)
  have hcal : ∀ (b : Bool) (z : State) (c : Fin 3) (m : Int) (e : Nat), Converted k s z →
      Converted k s (if b = true then z.calAdd k c m e else z) := fun b z c m e h => by
    cases b
    · exact h
    · exact h.trans ⟨rfl, rfl, rfl, rfl⟩
  exact hcal _ _ _ _ _ (hfed _ _ _ _ _ (hsum _ fun _ => ⟨rfl, rfl⟩))

/-- A conversion at an instant is marked, and the windows past are discarded, as `State.adcSlot` goes through them. -/
def State.marked (s : State) (n : Time) : State := { s with witness := { s.witness with slotAt := some n } }
def State.slotOpened (s : State) : State := forEach (allFin 8) (fun k z => z.bgExpire k (BgWin.over z.now)) s
def State.slotMarked (s : State) : State := s.slotOpened.marked s.now

theorem State.marked_pdIn (s : State) (n : Time) (k : Pd) : (s.marked n).pdIn k = s.pdIn k := rfl
theorem State.marked_fgNext (s : State) (n : Time) : (s.marked n).fgNext = s.fgNext := rfl
theorem State.marked_bgNext (s : State) (n : Time) : (s.marked n).bgNext = s.bgNext := rfl
theorem State.marked_now (s : State) (n : Time) : (s.marked n).now = s.now := rfl
theorem State.modPd_now (s : State) (k : Pd) (f : PdSt → PdSt) : (s.modPd k f).now = s.now := rfl
theorem State.slotOpened_now (s : State) : s.slotOpened.now = s.now := (forEach_bgExpire s 0).1
theorem State.slotOpened_darkAcc (s : State) (k : Pd) : (s.slotOpened.pdIn k).darkAcc = (s.pdIn k).darkAcc :=
  (forEach_bgExpire s k).2

theorem State.slotWait_passes (s : State) : ∃ d, s.slotWait = s.passTo d := by
  have hif : ∀ (b : Bool) (x y : Time), ∃ d, (if b = true then s.passTo x else s.passTo y) = s.passTo d :=
    fun b x y => by cases b <;> exact ⟨_, rfl⟩
  exact hif _ _ _

theorem State.slotWait_eq (s : State) : s.slotWait = { s with now := s.slotWait.now } := by
  obtain ⟨d, hd⟩ := s.slotWait_passes
  rw [hd, State.passTo_eq]

theorem State.slotWait_live (s : State) : s.slotWait.live = s.live := by rw [s.slotWait_eq]; rfl
theorem State.slotWait_bell (s : State) : s.slotWait.bell = s.bell := by rw [s.slotWait_eq]
theorem State.slotWait_pdIn (s : State) (k : Pd) : s.slotWait.pdIn k = s.pdIn k := by rw [s.slotWait_eq]; rfl
theorem State.slotWait_tB (s : State) : s.slotWait.tB = s.tB := by rw [s.slotWait_eq]; rfl

theorem adcSlot_dark (hl : s.live = true) {i : Nat} (hi : (s.bell.ann.map (fun a => a + us 1500)).bind (fun b =>
    stepOf s.slotWait.now (b - us 216) 128) = some i) (v : Nat) :
    s.adcSlot v = s.slotWait.slotMarked.darkSample (Fin.ofNat 8 (i / 16)) v := by
  have hlive := s.slotWait_live
  rw [← s.slotWait_bell] at hi
  unfold State.adcSlot
  simp only [hl, if_true]
  generalize s.slotWait = z at hi hlive ⊢
  simp only [hlive.trans hl, Bool.not_true, Bool.false_eq_true, if_false, hi]
  rw [State.slotMarked, State.slotOpened]
  generalize forEach (allFin 8) (fun k s => State.bgExpire s k (BgWin.over s.now)) z = y
  rfl

theorem adcSlot_plain (hl : s.live = true) (hann : s.bell.ann = none) (hb : (s.slotWait.now - s.tB) % 20 = 0) (v : Nat) :
    s.adcSlot v = s.slotWait.slotMarked.plainSlot v := by
  have hlive := s.slotWait_live
  have hbell := s.slotWait_bell
  rw [← s.slotWait_tB] at hb
  unfold State.adcSlot
  simp only [hl, if_true]
  generalize s.slotWait = z at hb hlive hbell ⊢
  simp only [hlive.trans hl, Bool.not_true, Bool.false_eq_true, if_false, hbell, hann, Option.map_none, Option.bind_none, hb,
    if_true]
  rw [State.slotMarked, State.slotOpened]
  generalize forEach (allFin 8) (fun k s => State.bgExpire s k (BgWin.over s.now)) z = y
  rfl

theorem adcSlot_takesDark (hl : s.live = true) {a : Time} {i : Nat} (hann : s.bell.ann = some a)
    (hi : stepOf s.slotWait.now (a + us 1500 - us 216) 128 = some i) (v : Nat)
    (hfew : (s.pdIn (Fin.ofNat 8 (i / 16))).darkAcc.length < 15) :
    ((s.adcSlot v).pdIn (Fin.ofNat 8 (i / 16))).darkAcc = (s.pdIn (Fin.ofNat 8 (i / 16))).darkAcc ++ [v] := by
  have hacc : (s.slotWait.slotMarked.pdIn (Fin.ofNat 8 (i / 16))).darkAcc = (s.pdIn (Fin.ofNat 8 (i / 16))).darkAcc := by
    rw [State.slotMarked, State.marked_pdIn, State.slotOpened_darkAcc, State.slotWait_pdIn]
  have hlen : ¬ 16 ≤ ((s.pdIn (Fin.ofNat 8 (i / 16))).darkAcc ++ [v]).length := by
    rw [List.length_append, List.length_singleton]
    omega
  rw [adcSlot_dark hl (by rw [hann, Option.map_some, Option.bind_some]; exact hi), State.darkSample, State.pdIn_modPd]
  dsimp only
  rw [hacc, if_neg hlen]

/-- With no foreground window the first background window that is ready is converted. -/
theorem plainSlot_converts {k : Pd} {w : BgWin} (hfg : s.fgNext = none) (hbg : s.bgNext = some (k, w)) (v : Nat) :
    Converted k (s.modPd k (fun q => { q with bgs := q.bgs.erase w, converted := true })) (s.plainSlot v) := by
  rw [State.plainSlot, hfg]
  simp only [hbg]
  exact (State.bgConvert_converted _ k w v).trans (.of_posts (State.tally_refl ..))

theorem adcSlot_converts (hl : s.live = true) (hann : s.bell.ann = none) (hb : (s.slotWait.now - s.tB) % 20 = 0)
    (hfg : s.slotWait.slotOpened.fgNext = none) {k : Pd} {w : BgWin}
    (hbg : s.slotWait.slotOpened.bgNext = some (k, w)) (v : Nat) :
    ((s.adcSlot v).pdIn k).bgs = (s.slotWait.slotOpened.pdIn k).bgs.erase w ∧ ((s.adcSlot v).pdIn k).converted = true ∧
      (s.adcSlot v).witness.slotAt = some (s.adcSlot v).now ∧ (s.adcSlot v).now = s.slotWait.now := by
  rw [adcSlot_plain hl hann hb]
  generalize s.slotWait = z at hfg hbg ⊢
  rw [← State.marked_fgNext _ z.now] at hfg
  rw [← State.marked_bgNext _ z.now] at hbg
  have h := plainSlot_converts hfg hbg v
  have hnow : (z.slotMarked.plainSlot v).now = z.now := by
    rw [State.slotMarked, h.now, State.modPd_now, State.marked_now, State.slotOpened_now]
  refine ⟨?_, ?_, ?_, hnow⟩
  · rw [State.slotMarked, h.bgs, State.pdIn_modPd, State.marked_pdIn]
  · rw [State.slotMarked, h.converted, State.pdIn_modPd]
  · rw [hnow, State.slotMarked, h.slotAt]
    rfl

theorem kwCalDone_ends {x : KwCal} (hx : s.witness.cal = some x) (h0 : x.left = 0) : s.kwCalDone.witness.cal = none := by
  unfold State.kwCalDone
  simp only [hx, h0, bne_self_eq_false, Bool.false_eq_true, if_false]
  have hif : ∀ (b : Bool) (y z : State), y.witness.cal = none → z.witness.cal = none →
      (if b = true then y else z).witness.cal = none := fun b _ _ hy hz => by
    cases b
    · exact hz
    · exact hy
  exact hif _ _ _ rfl (by rw [(State.post_refl ..).witness_eq])

/-! ### Keystone copies and the stored prime (R173, R436) -/

theorem kloadDone_marks (c : Chap) (q : Fin 16) : Same { s with
    kloads := s.kloads.map (fun k => if k.chap = c ∧ k.rect = q then { k with done := true } else k)
    memc := (s.kloadDone c q).memc } (s.kloadDone c q) := by
  have hmap : s.kloads.map (fun k => if (k.chap == c && k.rect == q) = true then { k with done := true } else k) =
      s.kloads.map (fun k => if k.chap = c ∧ k.rect = q then { k with done := true } else k) := by
    simp only [Bool.and_eq_true, beq_iff_eq]
  rw [← hmap]
  rfl

theorem primeStored_stores (ok : Bool) {x : Word × RingId × KStore} (hx : s.prime.kprime = some x) :
    (s.primeStored ok).prime.kprime = none ∧ (s.primeStored ok).prime.patternOk = ok ∧
      (s.primeStored ok).moa = if ok = true then
        Memory.writeN (Memory.writeN (Memory.writeN s.moa ksPattern (x.2.2.pattern ++ x.2.2.glyphArea)) (primeBase + 12)
          (wordBytes (crc32 (x.2.2.pattern ++ x.2.2.glyphArea)))) (primeBase + 6) [1]
      else s.moa := by
  obtain ⟨seq, ring, k⟩ := x
  unfold State.primeStored
  simp only [hx]
  rw [(State.postTo_refl ..).prime_eq, (State.postTo_refl ..).moa_eq]
  cases ok
  · exact ⟨rfl, rfl, rfl⟩
  · refine ⟨rfl, rfl, ?_⟩
    simp only [if_true, State.moaWrite_moa]

/-- Settles O56: a lemma for each event above. -/
theorem loopEvents : Obligations.LoopEvents := by
  intro s
  refine ⟨fun i c hc hd hf => captureDone_done hc hd hf, fun i hen hk hst hn => loopHeld_holds ?_, fun hl hf hp => ?_,
    fun ok hw => ?_, fun k hd hr => ?_, fun x hx h0 => ⟨_, rfl, kwCalDone_ends hx h0⟩, fun v hl => ⟨?_, ?_⟩,
    fun c q => ⟨_, rfl, kloadDone_marks c q⟩, fun ok x hx => ?_⟩
  · simp only [LoopSt.due, hen, hk, hst, hn, decide_true, Bool.and_true, Bool.not_false, beq_self_eq_true]
  · have hdue : (s.live && s.choir.writeFrom.isNone && !s.choir.pending.isEmpty) = true := by
      rw [hl, hf]
      simpa using hp
    exact ⟨_, congrArg Host.Outcome.next (if_pos hdue), rfl, rfl, rfl⟩
  · obtain ⟨hf, hwr, hm⟩ := bankWritten_writes ok hw
    exact ⟨_, rfl, hf, hwr, hm⟩
  · have hdue : (decide (64 ≤ (s.pdIn k).deferral) && !(s.pdIn k).reserved) = true := by simp [hd, hr]
    refine ⟨_, congrArg Host.Outcome.next (if_pos hdue), ?_⟩
    rw [State.reservedPost, (State.postTo_refl ..).pdIn_eq, State.pdIn_modPd]
  · intro a i hann hi k hfew
    exact ⟨_, rfl, adcSlot_takesDark hl hann hi v.toNat hfew⟩
  · intro k w hann hb hfg hbg
    exact ⟨_, rfl, adcSlot_converts hl hann hb hfg hbg v.toNat⟩
  · obtain ⟨hk, hp, hm⟩ := primeStored_stores ok hx
    exact ⟨_, rfl, hk, hp, fun h => by rw [hm, h]; rfl, fun h => by rw [hm, h]; rfl⟩

end Sys2Proof.Machine

/-!
PROOFS. Power states (13_power_wake R418 to R421): O57 fails at the Vigil exit.

A Vigil exit reads the ring region of the Undercroft back as it was saved, and the Choir's slots load their tables (R373).
Where a slot finds no bank to load from, REP_TABLE goes to its owner (R379), whose event queue can lie in the Undercroft: the
Undercroft then holds one record more than was saved.
-/

namespace Sys2Proof.Machine

/-- A device in Vigil that a wake has reached. Its Undercroft was saved with no byte listed, no bank is valid, and slot 0 is a
loop with a table, owned by T3, whose event queue lies in the Undercroft. -/
def wokenWithTable : State := { State.reset with
  choir := { State.reset.choir with slots := upd State.reset.choir.slots 0 (fun q => { q with
    cfg := { q.cfg with en := true, kind := .railV, owner := 3, table := true } }) }
  power := { State.reset.power with state := .vigil, waking := some .wakeIn, save := some { ran := [] } } }

/-- REP_TABLE stands in the Undercroft after the exit. -/
theorem vigilExit_wokenWithTable : wokenWithTable.vigilExit.under ≠ [] := by decide +kernel

/-- Refutes O57: after the Vigil exit of `wokenWithTable` the Undercroft holds more than what was saved. -/
theorem not_powerEvents : ¬ Obligations.PowerEvents := by
  unfold Obligations.PowerEvents
  intro h
  obtain ⟨-, -, hexit, -⟩ := h wokenWithTable
  obtain ⟨u, hu, -, -, hunder, -, -⟩ := hexit .wakeIn { ran := [] } rfl rfl rfl rfl rfl
  have hstate : wokenWithTable.vigilExit = u := by
    have e : exec .vigilExit wokenWithTable = .next wokenWithTable.vigilExit := rfl
    rw [e] at hu
    exact Host.Outcome.next.inj hu
  exact vigilExit_wokenWithTable (hstate ▸ hunder)

end Sys2Proof.Machine

/-!
SUPPORT. The Bell generator's state stands: what the Choir, the witness, the Nave, the thermal block, the starts and the
waiting rings do at a Bell or a Chime is done beside it (02_bell R69).
-/

namespace Sys2Proof.Machine

/-! ### The shared operations -/

theorem forEach_bell {α : Type} (xs : List α) {f : α → State → State} (hf : ∀ x s, (f x s).bell = s.bell) (s : State) :
    (forEach xs f s).bell = s.bell :=
  forEach_holds (P := fun z : State => z.bell = s.bell) xs rfl fun x _ u h => (hf x u).trans h

theorem State.bell_ite (b : Prop) [Decidable b] (s u : State) :
    (if b then s else u).bell = if b then s.bell else u.bell := apply_ite State.bell b s u

section
variable (s : State)

@[simp] theorem State.bell_post (t : Ten) (code src : Nat) (seq : Option Word) (p : List Word) :
    (s.post t code src seq p).bell = s.bell := (s.post_refl ..).bell_eq
@[simp] theorem State.bell_postTo (ts : List Ten) (code src : Nat) (seq : Option Word) (p : List Word) :
    (s.postTo ts code src seq p).bell = s.bell := (s.postTo_refl ..).bell_eq
@[simp] theorem State.bell_postAll (code src : Nat) (seq : Option Word) (p : List Word) :
    (s.postAll code src seq p).bell = s.bell := (s.postAll_refl ..).bell_eq
@[simp] theorem State.bell_tally (b u e n : Nat) : (s.tally b u e n).bell = s.bell := (s.tally_refl ..).bell_eq
@[simp] theorem State.bell_gfix (i n : Nat) : (s.gfix i n).bell = s.bell := (State.gfix_posts _ _ (.refl s)).bell_eq
@[simp] theorem State.bell_trace (ty : Nat) (p : List Byte) : (s.trace ty p).bell = s.bell :=
  (State.trace_posts _ _ (.refl s)).bell_eq
@[simp] theorem State.bell_traceMark (a b c : Nat) : (s.traceMark a b c).bell = s.bell :=
  (State.traceMark_posts _ _ _ (.refl s)).bell_eq
@[simp] theorem State.bell_relAppend (r : RelRec) : (s.relAppend r).bell = s.bell :=
  (State.relAppend_posts r (.refl s)).bell_eq
@[simp] theorem State.bell_notice (code src : Nat) (fault : Bool) (t : Option Ten) (p : List Word) :
    (s.notice code src fault t p).bell = s.bell := (State.notice_posts _ _ _ _ _ (.refl s)).bell_eq
@[simp] theorem State.bell_lpWake : s.lpWake.bell = s.bell := (State.lpWake_posts (.refl s)).bell_eq
@[simp] theorem State.bell_sample (code v bin : Nat) : (s.sample code v bin).bell = s.bell :=
  (State.sample_drives _ _ _ (.refl s)).bell_eq
@[simp] theorem State.bell_passTo (d : Time) : (s.passTo d).bell = s.bell := by rw [State.passTo_eq]
@[simp] theorem State.bell_lpWrite (a : Nat) (bs : List Byte) : (s.lpWrite a bs).bell = s.bell := rfl
@[simp] theorem State.bell_underWrite (a : Nat) (bs : List Byte) : (s.underWrite a bs).bell = s.bell := rfl
@[simp] theorem State.bell_modPd (k : Pd) (f : PdSt → PdSt) : (s.modPd k f).bell = s.bell := rfl
@[simp] theorem State.bell_fresh (w : Nat) : (s.fresh w).2.bell = s.bell := rfl

/-! ### The Choir (R351 to R371) -/

@[simp] theorem State.bell_loadTable (i : Slot) : (s.loadTable i).bell = s.bell := (s.loadTable_stand i).bell
@[simp] theorem State.bell_repTable (i : Slot) (n : Nat) (g : Word) : (s.repTable i n g).bell = s.bell :=
  (s.repTable_stand i n g).bell

@[simp] theorem State.bell_capTake (i : Slot) (inj : Int) : (s.capTake i inj).bell = s.bell := by
  unfold State.capTake
  dsimp only
  split
  · rfl
  · split
    · rfl
    · rfl

@[simp] theorem State.bell_saveTake (i : Slot) : (s.saveTake i).bell = s.bell := by
  unfold State.saveTake
  dsimp only
  split
  · rfl
  · split
    · rfl
    · rfl

@[simp] theorem State.bell_chimeEnd (i : Slot) (take save : Bool) (inj : Int) :
    (s.chimeEnd i take save inj).bell = s.bell := by
  simp [State.chimeEnd, State.bell_ite]

@[simp] theorem State.bell_satPost (i : Slot) (c : Fin 3) : (s.satPost i c).bell = s.bell := by
  simp [State.satPost, State.bell_ite]

@[simp] theorem State.bell_stepWrite (i : Slot) (c : Fin 3) (u : Nat) : (s.stepWrite i c u).bell = s.bell := by
  unfold State.stepWrite
  dsimp only
  split
  · split <;> rfl
  · split <;> rfl

@[simp] theorem State.bell_stepChan (j : StepJob) (n : Nat) (c : Fin 3) : (s.stepChan j n c).bell = s.bell := by
  unfold State.stepChan
  split
  · rfl
  · simp [State.bell_ite]

@[simp] theorem State.bell_stepDone (j : StepJob) : (s.stepDone j).bell = s.bell := by
  simp [State.stepDone, State.bell_ite, forEach_bell _ fun c u => State.bell_stepChan u j _ c]

theorem State.bell_serve (fuel n : Nat) : (State.serve fuel n s).bell = s.bell := by
  induction fuel generalizing n s with
  | zero => rfl
  | succ fuel ih =>
    unfold State.serve
    split
    · rfl
    · split
      · rw [ih, State.bell_stepDone]
      · split <;> rfl

@[simp] theorem State.bell_choirServe : s.choirServe.bell = s.bell := by
  simp [State.choirServe, State.bell_ite, State.bell_serve]

@[simp] theorem State.bell_overrun (i : Slot) (cause idx : Nat) : (s.overrun i cause idx).bell = s.bell := by
  simp [State.overrun, State.bell_ite]

@[simp] theorem State.bell_slotLate (i : Slot) (idx : Nat) : (s.slotLate i idx).bell = s.bell := by
  unfold State.slotLate
  split
  · rfl
  · simp

@[simp] theorem State.bell_setpoints (q : LoopSt) : (s.setpoints q).2.bell = s.bell := by
  unfold State.setpoints
  split
  · dsimp only
    split <;> rfl
  · rfl
  · rfl

@[simp] theorem State.bell_slotChime (i : Slot) (idx : Nat) (x : ChimeIn) : (s.slotChime i idx x).bell = s.bell := by
  unfold State.slotChime
  dsimp only
  split
  · simp
  · split
    · simp
    · exact s.bell_setpoints _

@[simp] theorem State.bell_loopEdit (i : Slot) (e : LoopEdit) (seq : Word) : (s.loopEdit i e seq).bell = s.bell := by
  have hleaves : ∀ (xs : List (OutId × LoopChan)) (u : State),
      (forEach xs (fun o s => s.loopLeaves o.1 o.2.u (some seq)) u).bell = u.bell := fun xs u => by
    refine forEach_bell xs (fun _ _ => ?_) u
    rfl
  unfold State.loopEdit
  dsimp only
  split
  · simp [State.bell_ite, hleaves]
  · simp [State.bell_ite]
  · simp

@[simp] theorem State.bell_chimeEdits (g : Fin 4) : (s.chimeEdits g).bell = s.bell := by
  unfold State.chimeEdits
  refine (forEach_bell _ (fun x u => ?_) _).trans ?_
  · exact u.bell_loopEdit ..
  · rfl

/-- A Chime counts for its group alone. -/
theorem State.bell_chime (g : Fin 4) (x : ChimeIn) : (s.chime g x).bell =
    { s.bell with k := upd s.bell.k g (· + 1), idx := upd s.bell.idx g (· + 1) } := by
  have hlate : ∀ (n : Nat) (u : State), (forEach (allFin 16) (fun i s =>
      if (s.slot i).group = g then s.slotLate i n else s) u).bell = u.bell := fun n u =>
    forEach_bell _ (fun i z => by simp [State.bell_ite]) u
  have hchime : ∀ (n : Nat) (u : State), (forEach (allFin 16) (fun i s =>
      if (s.slot i).group = g then s.slotChime i n x else s) u).bell = u.bell := fun n u =>
    forEach_bell _ (fun i z => by simp [State.bell_ite]) u
  unfold State.chime
  simp only [State.modBell, hchime, State.bell_chimeEdits, hlate, State.bell_choirServe]

/-! ### The witness, the frames and the loops at a Bell -/

@[simp] theorem State.bell_bgExpire (k : Pd) (gone : BgWin → Bool) : (s.bgExpire k gone).bell = s.bell := by
  simp [State.bgExpire, State.bell_ite]

@[simp] theorem State.bell_feedY (k : Pd) (kind : LoopKind) (c : Fin 3) (y : Nat) : (s.feedY k kind c y).bell = s.bell := by
  refine forEach_bell _ (fun _ _ => ?_) s
  rfl

@[simp] theorem State.bell_whiteFeed (k : Pd) (period : Time) : (s.whiteFeed k period).bell = s.bell := by
  refine forEach_bell _ (fun c u => ?_) s
  dsimp only
  split
  · rfl
  · split
    · exact u.bell_feedY ..
    · exact u.bell_feedY ..
    · rfl

@[simp] theorem State.bell_kvRatio (c : Chap) (x : WitMeas) : (s.kvRatio c x).bell = s.bell := by
  simp [State.kvRatio, State.bell_ite]

@[simp] theorem State.bell_reservedPost (k : Pd) (what : Nat) : (s.reservedPost k what).bell = s.bell := s.bell_postTo ..

@[simp] theorem State.bell_pdBell (k : Pd) (period : Time) : (s.pdBell k period).bell = s.bell := by
  simp [State.pdBell, State.bell_ite, forEach_bell (f := fun x s => s.kvRatio _ x) _ fun x u => u.bell_kvRatio _ x]

@[simp] theorem State.bell_witBell (period : Time) : (s.witBell period).bell = s.bell := by
  unfold State.witBell
  dsimp only
  exact forEach_bell _ (fun k u => u.bell_pdBell k period) s

@[simp] theorem State.bell_blankEnds : s.blankEnds.bell = s.bell := by
  refine forEach_bell _ (fun c u => ?_) s
  unfold State.blankEnd
  dsimp only
  split
  · simp [State.bell_ite, State.blankStart]
  · rfl

@[simp] theorem State.bell_bellReload : s.bellReload.bell = s.bell := by
  have hreload : ∀ (u : State) (o : OutId), (u.reload o).bell = u.bell := fun u o => by simp [State.reload]
  refine forEach_bell _ (fun o u => ?_) s
  simp [State.bell_ite, hreload]

@[simp] theorem State.bell_dutyApplied : s.dutyApplied.bell = s.bell :=
  forEach_bell _ (fun o u => by simp [State.bell_ite]) s

@[simp] theorem State.bell_loopBell : s.loopBell.bell = s.bell := by
  refine forEach_bell _ (fun i u => ?_) s
  exact (forEach_bell _ (fun c z => z.bell_satPost i c) _).trans rfl

@[simp] theorem State.bell_frameBell (c : Chap) : (s.frameBell c).bell = s.bell := by
  simp [State.frameBell, State.bell_ite]

@[simp] theorem State.bell_framesBell : s.framesBell.bell = s.bell :=
  forEach_bell _ (fun c u => u.bell_frameBell c) _

@[simp] theorem State.bell_galBell : s.galBell.bell = s.bell := by
  refine forEach_bell _ (fun _ _ => ?_) s
  rfl

end

end Sys2Proof.Machine

/-!
SUPPORT. The Bell generator's state stands, continued: the Nave, the thermal block, a start's first Bell, an update's pause
and the waiting rings; and the Bell itself, which counts (02_bell R69).
-/

namespace Sys2Proof.Machine

section
variable (s : State)

/-! ### The Nave and the thermal block -/

@[simp] theorem State.bell_vidPost (b : VidBind) (why w h : Nat) : (s.vidPost b why w h).bell = s.bell := s.bell_post ..
@[simp] theorem State.bell_modVid (b : VidBind) (f : VidBind → VidBind) : (s.modVid b f).bell = s.bell := rfl
@[simp] theorem State.bell_modFlat (n : Nat) (f : FlatEnt → FlatEnt) : (s.modFlat n f).bell = s.bell := rfl
@[simp] theorem State.bell_flatWrite (e : FlatEnt) (dw dh : Nat) (f : Nat → Nat → Px) :
    (s.flatWrite e dw dh f).bell = s.bell :=
  rfl

@[simp] theorem State.bell_vidBell : s.vidBell.bell = s.bell := by
  unfold State.vidBell
  dsimp only
  refine (forEach_bell _ (fun b u => ?_) _).trans ?_
  · split
    · simp [State.bell_ite]
    · simp [State.bell_ite]
  · rfl

@[simp] theorem State.bell_scopePost (sc : Fin 9) : (s.scopePost sc).bell = s.bell := by
  unfold State.scopePost
  dsimp only
  split
  · simp
  · simp

@[simp] theorem State.bell_thBell : s.thBell.bell = s.bell := by
  unfold State.thBell
  dsimp only
  refine (forEach_bell _ (fun sc u => ?_) _).trans ((forEach_bell _ (fun e u => ?_) _).trans rfl)
  · simp [State.bell_ite]
  · simp

@[simp] theorem State.bell_flatPost (e : FlatEnt) (p : FlatSpec) (why : Nat) : (s.flatPost e p why).bell = s.bell := by
  unfold State.flatPost
  split
  · rfl
  · simp

@[simp] theorem State.bell_reflatten (e : FlatEnt) (p : FlatSpec) : (s.reflatten e p).bell = s.bell := by
  unfold State.reflatten
  dsimp only
  split
  · rfl
  · split
    · simp [State.bell_ite]
    · rfl

@[simp] theorem State.bell_flatBell : s.flatBell.bell = s.bell := by
  refine forEach_bell _ (fun e u => ?_) s
  split
  · rfl
  · simp [State.bell_ite]

@[simp] theorem State.bell_flatNew (k : FlatKey) (f : Nat → Nat → Px) : (s.flatNew k f).bell = s.bell := by
  unfold State.flatNew
  dsimp only
  split
  · simp
  · simp

@[simp] theorem State.bell_storeRows (c : Chap) (p : ChapRec) (bell y0 y1 : Nat) (f : Nat → Nat → Nat × Nat × Nat) :
    (s.storeRows c p bell y0 y1 f).bell = s.bell := by
  unfold State.storeRows
  dsimp only
  split
  · exact forEach_bell _ (fun y u => u.bell_lpWrite ..) s
  · exact forEach_bell _ (fun col u => forEach_bell _ (fun i z => z.bell_lpWrite ..) u) s

@[simp] theorem State.bell_bandAgain (vs : List LayerView) (c : Chap) (p : ChapRec) (f : FrameSt) (k first lid : Nat) :
    (s.bandAgain vs c p f k first lid).bell = s.bell := by
  simp [State.bandAgain]

@[simp] theorem State.bell_shownInPlace (c : Chap) (first : Nat) : (s.shownInPlace c first).bell = s.bell := by
  refine forEach_bell _ (fun d u => ?_) s
  split
  · split
    · rfl
    · dsimp only
      refine (forEach_bell _ (fun k z => ?_) _).trans rfl
      split
      · simp [State.bell_ite]
      · rfl
  · rfl

@[simp] theorem State.bell_aheadLayer (t : Ten) (seq : Word) (lid : Nat) (v : LayerCfg) :
    (s.aheadLayer t seq lid v).bell = s.bell := by
  unfold State.aheadLayer
  dsimp only
  split
  · split
    · rfl
    · split
      · simp
      · split
        · rfl
        · simp [State.bell_ite]
  · rfl

@[simp] theorem State.bell_runAheadBell : s.runAheadBell.bell = s.bell := by
  have hahead : ∀ (u : State) (t : Ten) (seq : Word), (u.runAhead t seq).bell = u.bell := fun u t seq => by
    unfold State.runAhead
    split
    · rfl
    · refine forEach_bell _ (fun lid z => ?_) u
      dsimp only
      split
      · rfl
      · split
        · rfl
        · exact z.bell_aheadLayer ..
  refine forEach_bell _ (fun t u => ?_) s
  split
  · exact hahead ..
  · rfl

/-! ### Power, the chain and the first Bell of a start -/

@[simp] theorem State.bell_powerPost (a b : PowerState) (wake n : Nat) : (s.powerPost a b wake n).bell = s.bell :=
  s.bell_postAll ..

@[simp] theorem State.bell_firstLight : s.firstLight.bell = s.bell := by
  unfold State.firstLight
  dsimp only
  refine (forEach_bell _ (fun c u => ?_) _).trans ?_
  · simp [State.bell_ite]
  · simp [State.bell_ite]

theorem State.chFloorSend_bell : s.chFloorSend.bell = s.bell := by
  unfold State.chFloorSend State.chSend
  simp [State.bell_ite]

@[simp] theorem State.bell_chainBell : s.chainBell.bell = s.bell := by
  simp [State.chainBell, State.chFloorSend_bell, State.bell_ite]

@[simp] theorem State.bell_sweepBell : s.sweepBell.bell = s.bell := rfl

@[simp] theorem State.bell_idleBell : s.idleBell.bell = s.bell := by
  simp [State.idleBell, State.bell_ite]

@[simp] theorem State.bell_wdogStart : s.wdogStart.bell = s.bell := rfl

@[simp] theorem State.bell_exitBell : s.exitBell.bell = s.bell := by
  simp [State.exitBell, State.bell_ite]

@[simp] theorem State.bell_tenFault (t : Ten) (cause ring : Nat) : (s.tenFault t cause ring).bell = s.bell :=
  (congrArg State.bell (s.tenFault_tenants t cause ring) :)

@[simp] theorem State.bell_lecternPosts : s.lecternPosts.bell = s.bell := by
  unfold State.lecternPosts
  refine (forEach_bell _ (fun r u => ?_) _).trans rfl
  split
  · rfl
  · simp [State.bell_ite]

@[simp] theorem State.bell_startRecords : s.startRecords.bell = s.bell := by
  unfold State.startRecords
  dsimp only
  rw [State.bell_relAppend, State.bell_modRel]
  split
  · rw [State.bell_notice]
    split <;> simp [State.bell_ite]
  · split <;> simp [State.bell_ite]

@[simp] theorem State.bell_lifeBell : s.lifeBell.bell = s.bell := by
  have howner : ∀ u : State, u.ownerWord.2.bell = u.bell := fun u => by
    unfold State.ownerWord
    split <;> rfl
  unfold State.lifeBell
  split
  · simp [howner]
  · rfl

@[simp] theorem State.bell_updPost (code : Nat) (p : List Word) : (s.updPost code p).bell = s.bell := s.bell_postAll ..

@[simp] theorem State.bell_startBell : s.startBell.bell = s.bell := by
  have hprime : ∀ (xs : List (Nat × Word)) (u : State), (forEach xs (fun x s => s.primeState x.1 x.2 0 0) u).bell = u.bell :=
    fun xs u => forEach_bell xs (fun x z => z.bell_postTo ..) u
  unfold State.startBell
  dsimp only
  split
  · rfl
  · rw [State.bell_startRecords, State.bell_lecternPosts]
    split
    · simp [hprime]
    · simp [hprime]

/-! ### Updates, recorder, cells, rings -/

@[simp] theorem State.bell_actEnd (ok : Bool) : (s.actEnd ok).bell = s.bell := by
  unfold State.actEnd
  split
  · rfl
  · simp [State.bell_ite, State.udsFinal, State.udsResult, State.modUds]

@[simp] theorem State.bell_toTrial (n : Nat) : (s.toTrial n).bell = s.bell := by
  simp [State.toTrial, State.jWrite, State.moaPut, State.moaWrite]

@[simp] theorem State.bell_pauseBell : s.pauseBell.bell = s.bell := by
  unfold State.pauseBell
  split
  · rfl
  · simp [State.bell_ite]

@[simp] theorem State.bell_periodSample (had : Bool) : (s.periodSample had).bell = s.bell := by
  simp [State.periodSample, State.bell_ite]

@[simp] theorem State.bell_closeBell : s.closeBell.bell = s.bell := by
  simp [State.closeBell, State.bell_ite]

@[simp] theorem State.bell_cellsTurn (x : CellIn) : (s.cellsTurn x).bell = s.bell := by
  unfold State.cellsTurn
  refine (forEach_bell _ (fun m u => ?_) _).trans rfl
  simp

@[simp] theorem State.bell_floorBell : s.floorBell.bell = s.bell := rfl
@[simp] theorem State.bell_refill : s.refill.bell = s.bell := rfl
@[simp] theorem State.bell_traceSync : s.traceSync.bell = s.bell := s.bell_trace ..

end

end Sys2Proof.Machine

/-!
PROOFS. The Bell: announcements, the latch, the Bell itself, the Chimes and the change of aisles (01_architecture R53;
02_bell R60, R62, R63, R66, R69, R71; 04_quagal_model R138): O49.
-/

namespace Sys2Proof.Machine

variable {s t u : State}

/-! ### The rings that a point releases (R66, R79) -/

/-- The Bell generator's state and the overlay stage's content stand. -/
structure BellStands (s u : State) : Prop where
  bell : u.bell = s.bell
  ovl : u.ovl = s.ovl

namespace BellStands

theorem refl (s : State) : BellStands s s := ⟨rfl, rfl⟩
theorem trans (h : BellStands s t) (k : BellStands t u) : BellStands s u := ⟨k.bell.trans h.bell, k.ovl.trans h.ovl⟩
theorem of_posts (h : Posts s u) : BellStands s u := ⟨h.bell_eq, h.ovl_eq⟩
theorem of_drives (h : Drives s u) : BellStands s u := ⟨h.bell_eq, h.ovl_eq⟩
theorem of_tenants (h : Tenants s u) : BellStands s u := ⟨(congrArg State.bell h :), (congrArg State.ovl h :)⟩
theorem modRing (s : State) (r : RingId) (f : RingSt → RingSt) : BellStands s (s.modRing r f) := ⟨rfl, rfl⟩

end BellStands

theorem State.ringFault_stands (s : State) (r : RingId) (cause pos : Nat) (seq : Option Word) :
    BellStands s (s.ringFault r cause pos seq) := by
  cases h : (s.ring r).owner with
  | none =>
    rw [State.ringFault, h]
    exact .refl s
  | some t => exact (BellStands.modRing s r _).trans (.of_tenants (State.ringFault_tenants h cause pos seq))

theorem State.packetEnd_stands (s : State) (r : RingId) : BellStands s (s.packetEnd r) := by
  unfold State.packetEnd
  dsimp only
  split
  · split
    · exact (BellStands.modRing s r _).trans (.of_posts (State.tally_refl ..))
    · exact .refl s
  · exact .refl s

theorem State.charge_stands (s : State) (c : OpCtx) (cost : Nat) : BellStands s (s.charge c cost) := by
  have h : BellStands s (((s.modRing c.ring (fun q => { q with budget := q.budget - cost })).gfix (16 + c.ring.val) cost).tally
      1 c.ring.val 0 1) :=
    (BellStands.modRing s c.ring _).trans (.of_posts (State.tally_posts _ _ _ _ (State.gfix_posts _ _ (.refl _))))
  unfold State.charge
  dsimp only
  split
  · exact h.trans (.of_posts (State.trace_posts _ _ (.refl _)))
  · exact h

/-- An instruction that ends a wait writes its predicate at most. -/
theorem semEndWait_stands (w : Wait) (c : OpCtx) (s : State) : BellStands s ((semEndWait w).run c s) := by
  cases w with
  | bell pt b p =>
    change BellStands s (s.setPred c.ring p.val true)
    rw [State.setPred_of_lt s c.ring true p.isLt]
    exact .modRing s c.ring _
  | fence a b => exact .refl s

theorem State.retire_stands {o : OpSem} (ho : ∀ c s, BellStands s (o.run c s)) (s : State) (c : OpCtx) :
    BellStands s (s.retire o c) := by
  unfold State.retire
  dsimp only
  refine .trans ?_ (State.packetEnd_stands _ _)
  refine .trans ?_ (ho c _)
  exact (s.charge_stands c _).trans (.modRing _ _ _)

theorem State.endWait_stands (s : State) (r : RingId) : BellStands s (s.endWait r) := by
  have hrun : ∀ (z : State) (op : Nat) (w : Wait), BellStands z (z.runOp r op (semEndWait w)) := fun z op w => by
    unfold State.runOp
    split
    · exact .refl z
    · exact z.ringFault_stands ..
    · split
      · exact .refl z
      · split
        · exact z.ringFault_stands ..
        · split
          · exact z.ringFault_stands ..
          · exact (BellStands.modRing z r _).trans (State.retire_stands (semEndWait_stands w) _ _)
  unfold State.endWait
  split
  · exact .refl s
  · split
    · exact .refl s
    · dsimp only
      split
      · exact (BellStands.modRing s r _).trans (hrun _ _ _)
      · exact .modRing s r _

theorem State.releaseWaits_stands (s : State) : BellStands s s.releaseWaits :=
  forEach_holds (P := BellStands s) _ (.refl s) fun r _ u h => h.trans (u.endWait_stands r)

/-! ### Announcements (R60, R62, R63) -/

theorem State.floorEff_le_ceilEff (s : State) : s.floorEff ≤ s.ceilEff := Nat.le_max_left _ _

theorem cdiv_mul_le {n d : Nat} (h : n ≤ d) (hd : d % 16 = 0) : cdiv n 16 * 16 ≤ d := by
  unfold cdiv
  omega

/-- The period after which the coming Bell is announced: the floor, or where a commit is awaited the ceiling. -/
def State.period (s : State) : Nat := if s.uncommitted.isEmpty then s.floorEff else s.ceilEff

section
variable {b d : Time} (hfol : s.chain.following = false) (hlost : s.chain.lost = false) (hlast : s.bell.lastAt = some b)
  (hwin : s.bell.winAt = none)
include hfol hlost hlast hwin

theorem announceAt_due (hd : d = b + cyc s.period - us 1500) (hnow : s.now ≤ d) (h16 : d % 16 = 0) : s.announceAt = d := by
  have hgrid := cdiv_mul_le hnow h16
  have hat : s.announceAt = max (cdiv s.now 16 * 16) (b + cyc s.period - us 1500) := by
    unfold State.announceAt State.floorAt State.ceilAt
    simp only [hfol, hlost, hlast, hwin, Bool.false_and, Bool.false_eq_true, if_false, Option.elim_none, if_true]
    rfl
  rw [hat, ← hd, Nat.max_eq_right hgrid]

theorem announceDue_due (hl : s.live = true) (hen : s.bell.enabled = true) (hann : s.bell.ann = none)
    (h16 : s.now % 16 = 0) (hd : b + cyc s.period ≤ s.now + us 1500) : s.announceDue = some (!s.uncommitted.isEmpty) := by
  have hle : b + cyc s.floorEff ≤ b + cyc s.ceilEff :=
    Nat.add_le_add_left (Nat.mul_le_mul_left 16 s.floorEff_le_ceilEff) b
  unfold State.announceDue State.floorAt State.ceilAt
  simp only [hl, hen, hann, h16, hfol, hlost, hlast, hwin, Bool.false_and, Bool.false_eq_true, if_false, Option.elim_none,
    Option.isNone_none, decide_true, Bool.and_self, Bool.not_true]
  unfold State.period at hd
  cases hu : s.uncommitted.isEmpty
  · rw [hu, if_neg (by decide)] at hd
    rw [if_neg (Nat.not_lt.mpr (Nat.le_trans hle hd)), if_neg (by decide), if_pos hd]
    rfl
  · rw [hu, if_pos rfl] at hd
    rw [if_neg (Nat.not_lt.mpr hd), if_pos rfl]
    rfl

end

theorem State.modBell_bell (s : State) (f : BellGen → BellGen) : (s.modBell f).bell = f s.bell := rfl

theorem State.modBell_ovl (s : State) (f : BellGen → BellGen) : (s.modBell f).ovl = s.ovl := rfl

theorem announce_bell (late : Bool) (x : AnnIn) : (s.announce late x).bell.ann = some s.now ∧
    (s.announce late x).bell.latchDone = false := by
  unfold State.announce
  dsimp only
  rw [(State.releaseWaits_stands _).bell, State.bell_traceMark, State.bell_modChain, State.modBell_bell]
  exact ⟨rfl, rfl⟩

theorem bellAnnounce_due (x : AnnIn) {b d : Time} (hl : s.live = true) (hen : s.bell.enabled = true)
    (hann : s.bell.ann = none) (hfol : s.chain.following = false) (hlost : s.chain.lost = false)
    (hlast : s.bell.lastAt = some b) (hwin : s.bell.winAt = none) (hd : d = b + cyc s.period - us 1500) (hnow : s.now ≤ d)
    (h16 : d % 16 = 0) :
    exec (.bellAnnounce x) s = .next (({ s with now := d } : State).announce (!s.uncommitted.isEmpty) x) := by
  have hat := announceAt_due hfol hlost hlast hwin hd hnow h16
  have hpass : s.passTo s.announceAt = { s with now := d } := by rw [hat, State.passTo_eq, Nat.max_eq_right hnow]
  have hdue : ({ s with now := d } : State).announceDue = some (!s.uncommitted.isEmpty) := by
    refine announceDue_due (s := { s with now := d }) hfol hlost hlast hwin hl hen hann h16 ?_
    have hle : b + cyc s.period ≤ d + us 1500 := by
      rw [hd]
      exact Nat.sub_le_iff_le_add.mp (Nat.le_refl _)
    exact hle
  have hexec : exec (.bellAnnounce x) s = .next (match (s.passTo s.announceAt).announceDue with
      | some late => (s.passTo s.announceAt).announce late x
      | none => s) := rfl
  rw [hexec, hpass]
  simp only [hdue]

theorem bellAnnounce_announced (x : AnnIn) (hann : s.bell.ann ≠ none) : exec (.bellAnnounce x) s = .next s := by
  have hsome : s.bell.ann.isNone = false := Option.isNone_eq_false_iff.mpr (Option.isSome_iff_ne_none.mpr hann)
  have hdue : (s.passTo s.announceAt).announceDue = none := by
    unfold State.announceDue
    rw [State.bell_passTo, hsome, Bool.and_false]
    rfl
  have hexec : exec (.bellAnnounce x) s = .next (match (s.passTo s.announceAt).announceDue with
      | some late => (s.passTo s.announceAt).announce late x
      | none => s) := rfl
  rw [hexec, hdue]

/-- A tenant's commit is frozen, but not while it is faulted or being reset. -/
theorem freezeTen_freezes {t : Ten} {q : Word} (hc : (s.ten t).commit = some q) :
    ((s.ten t).faulted = false → s.clearing t = false → ((s.freezeTen t).ten t).frozen = some q ∧
      ((s.freezeTen t).ten t).frozenBell = s.bell.bellno.toNat + 1 ∧ ((s.freezeTen t).ten t).commit = none) ∧
    ((s.ten t).faulted = true ∨ s.clearing t = true → s.freezeTen t = s) := by
  unfold State.freezeTen
  simp only [hc]
  refine ⟨fun hf hcl => ?_, fun h => if_pos (by simpa using h)⟩
  rw [hf, hcl, if_neg (by decide), State.ten_modTen]
  exact ⟨rfl, rfl, rfl⟩

/-! ### The latch (R66, R138) -/

theorem State.kmPause_drives {z s : State} (h : Drives z s) : Drives z s.kmPause := by
  unfold State.kmPause
  exact State.kmJoin_drives _ _ _ h

theorem State.kmLatched_drives (s : State) : Drives s s.kmLatched := by
  have hjoin : Drives s (forEach (allFin 4) (fun c s => if (s.chap c).state == .run then s else
      s.kmJoin .chapel (some c) (fun g => s.ovl.carries c g && !at' s.light.matrix.chapel g)) s) :=
    forEach_drives _ (.refl s) fun c u h => by
      split
      · exact h
      · exact State.kmJoin_drives _ _ _ h
  unfold State.kmLatched
  dsimp only
  generalize forEach (allFin 4) (fun c s => if (s.chap c).state == .run then s else
      s.kmJoin .chapel (some c) (fun g => s.ovl.carries c g && !at' s.light.matrix.chapel g)) s = z at hjoin ⊢
  have hdark : Drives s (forEach (allFin 4) (fun c s => State.kmDark s c) z) :=
    forEach_drives _ hjoin fun c u h => State.kmDark_drives c h
  generalize forEach (allFin 4) (fun c s => State.kmDark s c) z = v at hdark ⊢
  refine State.kmLeave_drives _ _ (State.kmLeave_drives _ _ (State.kmLeave_drives _ _ ?_))
  split
  · exact State.kmPause_drives hdark
  · exact hdark

theorem State.verdictLatched_drives (s : State) : Drives s s.verdictLatched :=
  State.kmLeave_drives _ _ ((Drives.refl s).set _ _ _ _ _)

theorem latch_takes (s : State) : s.latch.ovl = (s.latchActs (s.bn + 1)).keyLoaded.key ∧ s.latch.bell.latchDone = true := by
  unfold State.latch
  dsimp only
  generalize (s.latchActs (s.bn + 1)).keyLoaded = z
  have hv : Drives (({ z with ovl := z.key } : State).injEnd.keyFree)
      ({ z with ovl := z.key } : State).injEnd.keyFree.kmLatched.verdictLatched :=
    (State.kmLatched_drives _).trans (State.verdictLatched_drives _)
  constructor
  · rw [(State.traceMark_posts _ _ _ (.refl _)).ovl_eq, State.modBell_ovl, hv.ovl_eq]
    rfl
  · rw [State.bell_traceMark, State.modBell_bell]

theorem keystoneLatch_latches {a : Time} (hann : s.bell.ann = some a) (hd : s.bell.latchDone = false) :
    exec .keystoneLatch s = .next (s.passTo (a + us 1250)).latch := by
  have hexec : exec .keystoneLatch s = .next (match s.bell.ann with
      | some a => if s.bell.latchDone then (s.passTo (a + us 1260)).releaseWaits else (s.passTo (a + us 1250)).latch
      | none => s) := rfl
  rw [hexec]
  simp only [hann, hd, Bool.false_eq_true, if_false]

theorem keystoneLatch_releases {a : Time} (hann : s.bell.ann = some a) (hd : s.bell.latchDone = true) :
    exec .keystoneLatch s = .next (s.passTo (a + us 1260)).releaseWaits := by
  have hexec : exec .keystoneLatch s = .next (match s.bell.ann with
      | some a => if s.bell.latchDone then (s.passTo (a + us 1260)).releaseWaits else (s.passTo (a + us 1250)).latch
      | none => s) := rfl
  rw [hexec]
  simp only [hann, hd, if_true]

/-! ### The Bell and the Chimes (R69, R71) -/

theorem bellFire_bell (s : State) (b : Time) : (s.bellFire b).bell = (s.blankEnds.choirServe.bellCount b).bell := by
  unfold State.bellFire
  dsimp only
  rw [(State.releaseWaits_stands _).bell]
  simp only [State.bell_closeBell, State.bell_periodSample, State.bell_pauseBell, State.bell_startBell, State.bell_exitBell,
    State.bell_idleBell, State.bell_sweepBell, State.bell_chainBell, State.bell_firstLight, State.bell_runAheadBell,
    State.bell_flatBell, State.bell_framesBell, State.bell_thBell, State.bell_vidBell, State.bell_loopBell,
    State.bell_witBell, State.bell_dutyApplied, State.bell_bellReload, State.bell_traceSync, State.bell_galBell,
    State.bell_gfix, State.bell_floorBell, State.bell_refill]

theorem bellFire_counts (s : State) (b : Time) : (s.bellFire b).bell.bellno = s.bell.bellno + 1 ∧
    (s.bellFire b).bell.ann = none ∧ (s.bellFire b).bell.lastAt = some b := by
  rw [bellFire_bell, State.bellCount, State.modBell_bell, State.bell_choirServe, State.bell_blankEnds]
  exact ⟨rfl, rfl, rfl⟩

theorem bellFire_fires (x : CellIn) {b : Time} (hb : s.fireDue = some b) : ∃ u, exec (.bellFire x) s = .next u ∧
    u.bell.bellno = s.bell.bellno + 1 ∧ u.bell.ann = none ∧ u.bell.lastAt = some b ∧ b ≤ u.now := by
  have hexec : exec (.bellFire x) s = .next (match s.fireDue with
      | some b => ((s.passTo b).cellsTurn x).bellFire b
      | none => s) := rfl
  have hcount := bellFire_counts ((s.passTo b).cellsTurn x) b
  rw [State.bell_cellsTurn, State.bell_passTo] at hcount
  obtain ⟨hno, hann, hlast⟩ := hcount
  have hkeeps : Keeps (s.passTo b) (((s.passTo b).cellsTurn x).bellFire b) :=
    State.bellFire_keeps _ _ (State.cellsTurn_keeps _ _ (.refl _))
  refine ⟨((s.passTo b).cellsTurn x).bellFire b, by rw [hexec, hb], hno, hann, hlast, ?_⟩
  exact Nat.le_trans (s.le_passTo b) hkeeps.time

theorem chimeTick_ticks {g : Fin 4} (x : ChimeIn) {d : Time} (hd : s.nextChime g = some d) (hl : s.live = true) :
    ∃ u, exec (.chimeTick g x) s = .next u ∧ at' u.bell.k g = at' s.bell.k g + 1 ∧ d ≤ u.now := by
  have hexec : exec (.chimeTick g x) s = .next (match s.nextChime g with
      | some t => if s.live then (s.passTo t).chime g x else s
      | none => s) := rfl
  have hkeeps : Keeps (s.passTo d) ((s.passTo d).chime g x) := State.chime_keeps _ _ _ (.refl _)
  refine ⟨(s.passTo d).chime g x, by rw [hexec, hd]; exact congrArg _ (if_pos hl), ?_, Nat.le_trans (s.le_passTo d) hkeeps.time⟩
  rw [State.bell_chime, State.bell_passTo]
  exact at_upd _ _ _

/-! ### The change of aisles (R53) -/

theorem aisleStop_takeover (ecc : Bool) (hl : s.live = true) (ht : s.power.takeover = none) :
    (s.aisleStop ecc).power.takeover = some s.now := by
  unfold State.aisleStop
  rw [hl, ht, if_neg (by decide)]
  dsimp only
  rw [(State.notice_posts _ _ _ _ _ (.refl _)).power_eq]
  rfl

theorem State.busyAll_power (s : State) : s.busyAll.power = s.power :=
  forEach_holds (P := fun z : State => z.power = s.power) _ rfl fun t _ u h => (u.answer_kept t ansBusy []).2.1.trans h

theorem aisleTake_takes {a : Time} (ht : s.power.takeover = some a) (hl : s.live = true) (hr : s.power.standbyReady = false) :
    s.aisleTake.power.takeover = none ∧ s.aisleTake.power.south = !s.power.south := by
  have hpower : s.aisleTake.power =
      { s.power with takeover := none, standbyReady := false, tookOver := true, south := !s.power.south } := by
    unfold State.aisleTake
    simp only [ht, hl, hr, Bool.not_false, Bool.true_or, Bool.and_true, if_true]
    rw [(State.postList_posts _ _ _ _ _ _ (.refl _)).power_eq, (State.fresh_posts _ (State.gfix_posts _ _ (.refl _))).power_eq,
      State.busyAll_power]
    exact forEach_holds (P := fun z : State => z.power = _) _ rfl fun r _ u h =>
      ((State.relAppend_posts r (.refl u)).power_eq).trans h
  rw [hpower]
  exact ⟨rfl, rfl⟩

/-- Settles O49: a lemma for each event above. -/
theorem bellCommands : Obligations.BellCommands := by
  intro s
  refine ⟨fun x b hl hen hann hfol hlost hlast hwin => ?_, fun x hann => bellAnnounce_announced x hann,
    fun t q hc => freezeTen_freezes hc, fun a hann hd => ?_, fun a hann hd => ?_, fun x a hann hfol => ?_,
    fun g x d hd hl => chimeTick_ticks x hd hl, fun ecc hl ht => ⟨_, rfl, aisleStop_takeover ecc hl ht⟩,
    fun a ht hl hr => ⟨_, rfl, aisleTake_takes ht hl hr⟩, fun hl ht ha hi => ?_⟩
  · intro d
    have hd : d = b + cyc s.period - us 1500 := rfl
    clear_value d
    intro hnow h16
    have hexec := bellAnnounce_due x hl hen hann hfol hlost hlast hwin hd hnow h16
    obtain ⟨h1, h2⟩ := announce_bell (s := { s with now := d }) (!s.uncommitted.isEmpty) x
    generalize ({ s with now := d } : State).announce (!s.uncommitted.isEmpty) x = u at hexec h1 h2 ⊢
    exact ⟨u, hexec, rfl, by rw [h1]; exact Option.some_ne_none _, h2⟩
  · obtain ⟨h1, h2⟩ := latch_takes (s.passTo (a + us 1250))
    refine ⟨_, _, keystoneLatch_latches hann hd, rfl, ?_, h2⟩
    rw [h1, State.bn, State.bell_passTo]
  · have hs := (s.passTo (a + us 1260)).releaseWaits_stands
    have hk : Keeps (s.passTo (a + us 1260)) (s.passTo (a + us 1260)).releaseWaits := State.releaseWaits_keeps _ (.refl _)
    refine ⟨_, keystoneLatch_releases hann hd, ?_, hs.bell.trans (s.bell_passTo _), Nat.le_trans (s.le_passTo _) hk.time⟩
    rw [hs.ovl, State.passTo_eq]
  · exact bellFire_fires x (by rw [State.fireDue, hann, hfol]; rfl)
  · have hready : (s.live && s.power.takeover.isNone && s.update.act.isNone && s.imgOk s.update.runOther) = true := by
      rw [hl, ht, ha, hi]
      rfl
    exact ⟨_, congrArg Host.Outcome.next (if_pos hready), Same.of_noGal rfl, rfl⟩

end Sys2Proof.Machine
